-- ==== Sys2Proof/Word.lean ====
section
/-! DEFINITION. The words of the machine: bytes, halfwords, 32-bit register words, 64-bit pairs, and the type
of a sparse table keyed by a natural number (memories, register files, granules). -/

namespace Sys2Proof

abbrev Byte := BitVec 8
abbrev Half := BitVec 16
/-- One 32-bit register word of one lane (R81). -/
abbrev Word := BitVec 32
/-- A 64-bit value: a register pair (R82), an address (R94), a 64-bit register. -/
abbrev Dword := BitVec 64

/-- A sparse table in one canonical form: keys strictly rising, no entry equal to what an unlisted key reads as
(`Sys2Proof.Machine.cellsWf`). Memories are tables of bytes, that is lists of `Host.Cell`. -/
abbrev Cells (α : Type) := List (Nat × α)

end Sys2Proof
end

