-- ==== Sys2Proof/Machine/Cells.lean ====
section
/-! DEFINITION. Sparse tables in canonical form, and the byte and bit helpers that every part of the machine uses. -/

namespace Sys2Proof.Machine

open Sys2Proof

/-! ## Sparse tables -/

/-- The value at key `k`; an unlisted key reads as `dflt`. -/
def cellsGet {α : Type} (dflt : α) (k : Nat) : Cells α → α
  | [] => dflt
  | (j, v) :: r => if j = k then v else cellsGet dflt k r

/-- The table without key `k`. -/
def cellsDrop {α : Type} (k : Nat) : Cells α → Cells α
  | [] => []
  | (j, v) :: r => if j = k then cellsDrop k r else (j, v) :: cellsDrop k r

/-- An entry added before the first one with a greater key. -/
def cellsInsert {α : Type} (k : Nat) (v : α) : Cells α → Cells α
  | [] => [(k, v)]
  | (j, w) :: r => if k < j then (k, v) :: (j, w) :: r else (j, w) :: cellsInsert k v r

/-- The table with `v` at key `k`, in canonical form: writing `dflt` removes the entry. -/
def cellsPut {α : Type} [DecidableEq α] (dflt : α) (k : Nat) (v : α) (c : Cells α) : Cells α :=
  if v = dflt then cellsDrop k c else cellsInsert k v (cellsDrop k c)

/-- Every key of the table is above `b` and no entry reads as `dflt`, keys strictly rising. -/
def cellsAbove {α : Type} [DecidableEq α] (dflt : α) (b : Nat) : Cells α → Bool
  | [] => true
  | (j, v) :: r => decide (b < j) && !decide (v = dflt) && cellsAbove dflt j r

/-- The canonical form. -/
def cellsWf {α : Type} [DecidableEq α] (dflt : α) : Cells α → Bool
  | [] => true
  | (j, v) :: r => !decide (v = dflt) && cellsAbove dflt j r

/-- The table with the entries that `keep` rejects removed. -/
def cellsFilter {α : Type} (keep : Nat → α → Bool) (c : Cells α) : Cells α :=
  c.filter fun e => keep e.1 e.2

/-! ## Bytes and bits -/

/-- `x` at its low `n` bits, as a two's-complement value (Table 12-8, sext). -/
def sext (x n : Nat) : Int :=
  let y := x % 2 ^ n
  if y < 2 ^ (n - 1) then (y : Int) else (y : Int) - (2 ^ n : Nat)

/-- An integer reduced modulo `2 ^ n`. -/
def wrap (n : Nat) (x : Int) : Nat := (x % (2 ^ n : Nat)).toNat

/-- Bits `lo` to `lo + n - 1` of `x`. -/
def bits (x lo n : Nat) : Nat := x / 2 ^ lo % 2 ^ n

/-- Bit `i` of `x`. -/
def bit (x i : Nat) : Bool := x / 2 ^ i % 2 == 1

/-- `b` as 0 or 1. -/
def ofFlag (b : Bool) : Nat := if b then 1 else 0

/-- The mask whose set bits are the listed indices. -/
def maskOf (is : List Nat) : Nat := is.foldl (fun m i => m ||| 2 ^ i) 0

/-- The indices below `n` of the set bits of `m`, ascending. -/
def bitsOf (m n : Nat) : List Nat := (List.range n).filter (bit m)

/-- Number of set bits of `x` among its low `n`. -/
def popcount : Nat → Nat → Nat
  | 0, _ => 0
  | n + 1, x => x % 2 + popcount n (x / 2)

/-- `n` bytes of `x`, the least significant first. -/
def leBytes : Nat → Nat → List Byte
  | 0, _ => []
  | n + 1, x => BitVec.ofNat 8 x :: leBytes n (x / 256)

/-- The value of bytes, the least significant first. -/
def leNat : List Byte → Nat
  | [] => 0
  | b :: bs => b.toNat + 256 * leNat bs

/-- Two 32-bit words as a 64-bit value (R82). -/
def pairOf (lo hi : Word) : Dword := hi ++ lo

def loWord (x : Dword) : Word := x.extractLsb' 0 32

def hiWord (x : Dword) : Word := x.extractLsb' 32 32

/-- The element of a list at `i`, or `x`. -/
def at? {α : Type} (xs : List α) (i : Nat) (x : α) : α := xs.getD i x

/-- A list with element `i` changed by `f`. -/
def setAt {α : Type} (xs : List α) (i : Nat) (f : α → α) : List α := xs.modify i f

/-- The list without repeats, in order of first appearance. -/
def dedupe {α : Type} [DecidableEq α] (xs : List α) : List α :=
  xs.foldl (fun acc x => if acc.contains x then acc else acc ++ [x]) []

/-- A list with its first element equal to `x` removed. -/
def eraseOne {α : Type} [DecidableEq α] (x : α) : List α → List α
  | [] => []
  | y :: r => if y = x then r else y :: eraseOne x r

/-- The least element, by `key`, of a list; the first of equals. -/
def leastBy {α : Type} (key : α → Nat) : List α → Option α
  | [] => none
  | x :: r =>
    match leastBy key r with
    | none => some x
    | some y => if key y < key x then some y else some x

/-- Insertion of `x` into a list sorted by `key`, after its equals. -/
def insertBy {α : Type} (key : α → Nat) (x : α) : List α → List α
  | [] => [x]
  | y :: r => if key x < key y then x :: y :: r else y :: insertBy key x r

/-- A list sorted by `key`, equals in their order. -/
def sortBy {α : Type} (key : α → Nat) (xs : List α) : List α := xs.foldl (fun acc x => insertBy key x acc) []

end Sys2Proof.Machine
end

