-- ==== Sys2Proof/Syntax.lean ====
section
/-! DEFINITION. The syntax of the machine: adverbs (R264 to R268), operand types, flits (R218), and `Instr`, one
constructor for each row of spec/opcode_table.json. The first 276 constructors are the instructions that threads
issue; the other 95 are the rows of the table that have no encoding, the steps of the module's other agents, and
their arguments are what the outside world or the agent chooses in that step. -/

namespace Sys2Proof

/-- The fields of a MOD adverb (Table 12-5); bit 31 and the kind are fixed. -/
structure Mod where
  rnd : BitVec 3
  sat : Bool
  ftz : Bool
  dh : Bool
  ah : Bool
  bh : Bool
  c : BitVec 7
  nega : Bool
  absa : Bool
  negb : Bool
  absb : Bool
  scope : BitVec 3
  tea : Bool
  teb : Bool
deriving DecidableEq, Repr

/-- What precedes a 32-bit word: nothing, a MOD adverb, or an IMM adverb with its bits [31:7] (R264, R268). -/
inductive Adverb where
  | none
  | mod (m : Mod)
  | imm (hi : BitVec 25)
deriving DecidableEq, Repr

/-- The CVT type codes (R270), in code order 0 to 15. -/
inductive NumType where
  | i8 | i16 | i32 | i64 | n8 | n16 | n32 | n64 | f16 | bf16 | f32 | f64 | f8e4 | f8e5 | f4 | e3m5
deriving DecidableEq, Repr

/-- The matrix control field (Table 14-6). -/
structure MatCtl where
  tile : BitVec 3
  ctx : Bool
  asp : Bool
  bsp : Bool
  zf : Bool
deriving DecidableEq, Repr

/-- The types of a flit (Table 10-3). -/
inductive FlitType where
  | readReq | readResp | write | writeAck | atomic | atomicResp | notReady | release | squall | keyMark | drain | idle
deriving DecidableEq, Repr

/-- What a received flit's forward error correction gave (R459): an input of the model. -/
inductive FlitVerdict where
  | ok | linkError
deriving DecidableEq, Repr

/-- The payloads of the flit types (R218, Table 23-1, R77, R226). -/
inductive Payload where
  | readReq (addr : Nat) (bytes : Nat)
  | readResp (data : List Byte)
  | write (addr : Nat) (mask : BitVec 128) (data : List Byte)
  | writeAck
  | atomic (addr : Nat) (fn : Nat) (y cmp : Word)
  | atomicResp (old : Word)
  | notReady
  | release (freed : List Word) (depth : List Byte) (ack : List Word) (nak : BitVec 4)
  | squall (highest : Word)
  | keyMark
  | drain (gen : Bool)
  | idle
deriving DecidableEq, Repr

/-- One fabric packet at a port of this module (Table 10-3), its payload in the clear. `counter` is the invocation counter
of its IV and `mac` the 16-byte authentication tag of its last bytes (R232). `view` names the fork of module `src`, and its
child, in whose view a request to a viewed page is made (R129); Table 10-3 gives it no place in the header. -/
structure Flit where
  port : Nat
  vc : Nat
  typ : FlitType
  dst : Nat
  src : Nat
  via : Nat
  gen : Bool
  kslot : Bool
  job : Nat
  seq : Word
  score : Nat
  tag : Nat
  counter : Dword
  verdict : FlitVerdict
  payload : Payload
  mac : BitVec 128 := 0
  view : Option (Nat × Nat) := Option.none
deriving DecidableEq, Repr

/-- What a read of protected storage found (R427, R436): an input of the model. -/
inductive EccFate where
  | corrected | uncorrectable
deriving DecidableEq, Repr

/-- The unit of storage that a patrol scrub reads (R436). -/
inductive EccUnit where
  | l2 (die addr : Nat)
  | scratch (blk offset : Nat)
  | dram (addr : Nat)
deriving DecidableEq, Repr

/-- How the matrix engine's checks of an instruction came out (R425, R426): an input of the model. `mismatch word` is a
rerun that failed too, for a checksum or for an uncorrectable word. -/
inductive MatFate where
  | sound | rerun | mismatch (word : Bool)
deriving DecidableEq, Repr

/-- One constructor for each row of spec/opcode_table.json. -/
inductive Instr where
  | nopHalfword
  | movShort (i : Bool) (s d : BitVec 5)
  | addShort (i : Bool) (s d : BitVec 5)
  | subShort (i : Bool) (s d : BitVec 5)
  | mulloShort (i : Bool) (s d : BitVec 5)
  | andShort (i : Bool) (s d : BitVec 5)
  | orShort (i : Bool) (s d : BitVec 5)
  | xorShort (i : Bool) (s d : BitVec 5)
  | shlShort (i : Bool) (s d : BitVec 5)
  | shrShort (i : Bool) (s d : BitVec 5)
  | shaShort (i : Bool) (s d : BitVec 5)
  | minShort (i : Bool) (s d : BitVec 5)
  | maxShort (i : Bool) (s d : BitVec 5)
  | faddShort (i : Bool) (s d : BitVec 5)
  | fsubShort (i : Bool) (s d : BitVec 5)
  | fmulShort (i : Bool) (s d : BitVec 5)
  | fmaxShort (i : Bool) (s d : BitVec 5)
  | add (d a b : BitVec 7) (adv : Adverb)
  | sub (d a b : BitVec 7) (adv : Adverb)
  | mullo (d a b : BitVec 7) (adv : Adverb)
  | mulhi (d a b : BitVec 7) (adv : Adverb)
  | mulhin (d a b : BitVec 7) (adv : Adverb)
  | min (d a b : BitVec 7) (adv : Adverb)
  | max (d a b : BitVec 7) (adv : Adverb)
  | minn (d a b : BitVec 7) (adv : Adverb)
  | maxn (d a b : BitVec 7) (adv : Adverb)
  | and (d a b : BitVec 7) (adv : Adverb)
  | or (d a b : BitVec 7) (adv : Adverb)
  | xor (d a b : BitVec 7) (adv : Adverb)
  | andn (d a b : BitVec 7) (adv : Adverb)
  | shl (d a b : BitVec 7) (adv : Adverb)
  | shr (d a b : BitVec 7) (adv : Adverb)
  | sha (d a b : BitVec 7) (adv : Adverb)
  | rotl (d a b : BitVec 7) (adv : Adverb)
  | rotr (d a b : BitVec 7) (adv : Adverb)
  | funl (d a b : BitVec 7) (adv : Adverb)
  | funr (d a b : BitVec 7) (adv : Adverb)
  | bfe (d a b : BitVec 7) (adv : Adverb)
  | bfen (d a b : BitVec 7) (adv : Adverb)
  | bfi (d a b : BitVec 7) (adv : Adverb)
  | popc (d a : BitVec 7) (adv : Adverb)
  | clz (d a : BitVec 7) (adv : Adverb)
  | ctz (d a : BitVec 7) (adv : Adverb)
  | brev (d a : BitVec 7) (adv : Adverb)
  | permb (d a b : BitVec 7) (adv : Adverb)
  | abs (d a : BitVec 7) (adv : Adverb)
  | sel (d a b : BitVec 7) (adv : Adverb)
  | addi (d a : BitVec 7) (imm : BitVec 8) (adv : Adverb)
  | andi (d a : BitVec 7) (imm : BitVec 8) (adv : Adverb)
  | ori (d a : BitVec 7) (imm : BitVec 8) (adv : Adverb)
  | xori (d a : BitVec 7) (imm : BitVec 8) (adv : Adverb)
  | shli (d a : BitVec 7) (imm : BitVec 8) (adv : Adverb)
  | shri (d a : BitVec 7) (imm : BitVec 8) (adv : Adverb)
  | shai (d a : BitVec 7) (imm : BitVec 8) (adv : Adverb)
  | muli (d a : BitVec 7) (imm : BitVec 8) (adv : Adverb)
  | cmpEq (d a b : BitVec 7) (adv : Adverb)
  | cmpNe (d a b : BitVec 7) (adv : Adverb)
  | cmpLt (d a b : BitVec 7) (adv : Adverb)
  | cmpLe (d a b : BitVec 7) (adv : Adverb)
  | cmpGt (d a b : BitVec 7) (adv : Adverb)
  | cmpGe (d a b : BitVec 7) (adv : Adverb)
  | cmpLtn (d a b : BitVec 7) (adv : Adverb)
  | cmpLen (d a b : BitVec 7) (adv : Adverb)
  | cmpGtn (d a b : BitVec 7) (adv : Adverb)
  | cmpGen (d a b : BitVec 7) (adv : Adverb)
  | cmpiEq (d a : BitVec 7) (imm : BitVec 8) (adv : Adverb)
  | cmpiNe (d a : BitVec 7) (imm : BitVec 8) (adv : Adverb)
  | cmpiLt (d a : BitVec 7) (imm : BitVec 8) (adv : Adverb)
  | cmpiLe (d a : BitVec 7) (imm : BitVec 8) (adv : Adverb)
  | cmpiGt (d a : BitVec 7) (imm : BitVec 8) (adv : Adverb)
  | cmpiGe (d a : BitVec 7) (imm : BitVec 8) (adv : Adverb)
  | cmpiLtn (d a : BitVec 7) (imm : BitVec 8) (adv : Adverb)
  | cmpiGen (d a : BitVec 7) (imm : BitVec 8) (adv : Adverb)
  | addx (d a b : BitVec 7) (adv : Adverb)
  | subx (d a b : BitVec 7) (adv : Adverb)
  | mulx (d a b : BitVec 7) (adv : Adverb)
  | mulxn (d a b : BitVec 7) (adv : Adverb)
  | shlx (d a b : BitVec 7) (adv : Adverb)
  | shrx (d a b : BitVec 7) (adv : Adverb)
  | shax (d a b : BitVec 7) (adv : Adverb)
  | cmpxEq (d a b : BitVec 7) (adv : Adverb)
  | cmpxLt (d a b : BitVec 7) (adv : Adverb)
  | cmpxLtn (d a b : BitVec 7) (adv : Adverb)
  | div (d a b : BitVec 7) (adv : Adverb)
  | divn (d a b : BitVec 7) (adv : Adverb)
  | rem (d a b : BitVec 7) (adv : Adverb)
  | remn (d a b : BitVec 7) (adv : Adverb)
  | movi (d : BitVec 7) (imm : BitVec 18) (adv : Adverb)
  | lui (d : BitVec 7) (imm : BitVec 18) (adv : Adverb)
  | adr (d : BitVec 7) (imm : BitVec 18) (adv : Adverb)
  | safept (imm : BitVec 18)
  | fadd (d a b : BitVec 7) (adv : Adverb)
  | fsub (d a b : BitVec 7) (adv : Adverb)
  | fmul (d a b : BitVec 7) (adv : Adverb)
  | ffma (d a b : BitVec 7) (adv : Adverb)
  | fmin (d a b : BitVec 7) (adv : Adverb)
  | fmax (d a b : BitVec 7) (adv : Adverb)
  | fminnum (d a b : BitVec 7) (adv : Adverb)
  | fmaxnum (d a b : BitVec 7) (adv : Adverb)
  | fdiv (d a b : BitVec 7) (adv : Adverb)
  | fcpys (d a b : BitVec 7) (adv : Adverb)
  | fldexp (d a b : BitVec 7) (adv : Adverb)
  | fsqrt (d a : BitVec 7) (adv : Adverb)
  | frcp (d a : BitVec 7) (adv : Adverb)
  | frsq (d a : BitVec 7) (adv : Adverb)
  | fexp2 (d a : BitVec 7) (adv : Adverb)
  | flog2 (d a : BitVec 7) (adv : Adverb)
  | fsinpi (d a : BitVec 7) (adv : Adverb)
  | fcospi (d a : BitVec 7) (adv : Adverb)
  | ftanh (d a : BitVec 7) (adv : Adverb)
  | ffract (d a : BitVec 7) (adv : Adverb)
  | frnd (d a : BitVec 7) (adv : Adverb)
  | fclass (d a : BitVec 7) (adv : Adverb)
  | fcmpEq (d a b : BitVec 7) (adv : Adverb)
  | fcmpNe (d a b : BitVec 7) (adv : Adverb)
  | fcmpLt (d a b : BitVec 7) (adv : Adverb)
  | fcmpLe (d a b : BitVec 7) (adv : Adverb)
  | fcmpGt (d a b : BitVec 7) (adv : Adverb)
  | fcmpGe (d a b : BitVec 7) (adv : Adverb)
  | fcmpUn (d a b : BitVec 7) (adv : Adverb)
  | fcmpOrd (d a b : BitVec 7) (adv : Adverb)
  | hadd2 (d a b : BitVec 7) (adv : Adverb)
  | hsub2 (d a b : BitVec 7) (adv : Adverb)
  | hmul2 (d a b : BitVec 7) (adv : Adverb)
  | hfma2 (d a b : BitVec 7) (adv : Adverb)
  | hmin2 (d a b : BitVec 7) (adv : Adverb)
  | hmax2 (d a b : BitVec 7) (adv : Adverb)
  | hdot2 (d a b : BitVec 7) (adv : Adverb)
  | badd2 (d a b : BitVec 7) (adv : Adverb)
  | bsub2 (d a b : BitVec 7) (adv : Adverb)
  | bmul2 (d a b : BitVec 7) (adv : Adverb)
  | bfma2 (d a b : BitVec 7) (adv : Adverb)
  | bmin2 (d a b : BitVec 7) (adv : Adverb)
  | bmax2 (d a b : BitVec 7) (adv : Adverb)
  | bdot2 (d a b : BitVec 7) (adv : Adverb)
  | dadd (d a b : BitVec 7) (adv : Adverb)
  | dsub (d a b : BitVec 7) (adv : Adverb)
  | dmul (d a b : BitVec 7) (adv : Adverb)
  | dfma (d a b : BitVec 7) (adv : Adverb)
  | ddiv (d a b : BitVec 7) (adv : Adverb)
  | dsqrt (d a : BitVec 7) (adv : Adverb)
  | dmin (d a b : BitVec 7) (adv : Adverb)
  | dmax (d a b : BitVec 7) (adv : Adverb)
  | dcmpEq (d a b : BitVec 7) (adv : Adverb)
  | dcmpLt (d a b : BitVec 7) (adv : Adverb)
  | dcmpLe (d a b : BitVec 7) (adv : Adverb)
  | dcmpUn (d a b : BitVec 7) (adv : Adverb)
  | cvt (y x : NumType) (d a : BitVec 7) (adv : Adverb)
  | qpack4 (d a b : BitVec 7) (adv : Adverb)
  | qpack8e4 (d a b : BitVec 7) (adv : Adverb)
  | qpack8e5 (d a b : BitVec 7) (adv : Adverb)
  | qunpk4 (d a b : BitVec 7) (adv : Adverb)
  | scacc (d a b : BitVec 7) (adv : Adverb)
  | scamax (d a b : BitVec 7) (adv : Adverb)
  | qalign (d a b : BitVec 7) (adv : Adverb)
  | shflIdx (d a b : BitVec 7) (adv : Adverb)
  | shflUp (d a b : BitVec 7) (adv : Adverb)
  | shflDn (d a b : BitVec 7) (adv : Adverb)
  | shflXor (d a b : BitVec 7) (adv : Adverb)
  | voteAny (d a : BitVec 7) (adv : Adverb)
  | voteAll (d a : BitVec 7) (adv : Adverb)
  | voteEq (d a : BitVec 7) (adv : Adverb)
  | ballot (d a : BitVec 7) (adv : Adverb)
  | reduxAdd (d a : BitVec 7) (adv : Adverb)
  | reduxMin (d a : BitVec 7) (adv : Adverb)
  | reduxMax (d a : BitVec 7) (adv : Adverb)
  | reduxMinn (d a : BitVec 7) (adv : Adverb)
  | reduxMaxn (d a : BitVec 7) (adv : Adverb)
  | reduxAnd (d a : BitVec 7) (adv : Adverb)
  | reduxOr (d a : BitVec 7) (adv : Adverb)
  | matchLanes (d a : BitVec 7) (adv : Adverb)
  | ldI8 (t a : BitVec 7) (off : BitVec 8) (adv : Adverb)
  | ldN8 (t a : BitVec 7) (off : BitVec 8) (adv : Adverb)
  | ldI16 (t a : BitVec 7) (off : BitVec 8) (adv : Adverb)
  | ldN16 (t a : BitVec 7) (off : BitVec 8) (adv : Adverb)
  | ldB32 (t a : BitVec 7) (off : BitVec 8) (adv : Adverb)
  | ldB64 (t a : BitVec 7) (off : BitVec 8) (adv : Adverb)
  | ldB128 (t a : BitVec 7) (off : BitVec 8) (adv : Adverb)
  | ldcon (t a : BitVec 7) (off : BitVec 8) (adv : Adverb)
  | stB8 (t a : BitVec 7) (off : BitVec 8) (adv : Adverb)
  | stB16 (t a : BitVec 7) (off : BitVec 8) (adv : Adverb)
  | stB32 (t a : BitVec 7) (off : BitVec 8) (adv : Adverb)
  | stB64 (t a : BitVec 7) (off : BitVec 8) (adv : Adverb)
  | stB128 (t a : BitVec 7) (off : BitVec 8) (adv : Adverb)
  | ldsI8 (t a : BitVec 7) (off : BitVec 8) (adv : Adverb)
  | ldsN8 (t a : BitVec 7) (off : BitVec 8) (adv : Adverb)
  | ldsI16 (t a : BitVec 7) (off : BitVec 8) (adv : Adverb)
  | ldsN16 (t a : BitVec 7) (off : BitVec 8) (adv : Adverb)
  | ldsB32 (t a : BitVec 7) (off : BitVec 8) (adv : Adverb)
  | ldsB64 (t a : BitVec 7) (off : BitVec 8) (adv : Adverb)
  | ldsB128 (t a : BitVec 7) (off : BitVec 8) (adv : Adverb)
  | stsB8 (t a : BitVec 7) (off : BitVec 8) (adv : Adverb)
  | stsB16 (t a : BitVec 7) (off : BitVec 8) (adv : Adverb)
  | stsB32 (t a : BitVec 7) (off : BitVec 8) (adv : Adverb)
  | stsB64 (t a : BitVec 7) (off : BitVec 8) (adv : Adverb)
  | stsB128 (t a : BitVec 7) (off : BitVec 8) (adv : Adverb)
  | atomAdd (d a b : BitVec 7) (adv : Adverb)
  | atomMin (d a b : BitVec 7) (adv : Adverb)
  | atomMax (d a b : BitVec 7) (adv : Adverb)
  | atomMinn (d a b : BitVec 7) (adv : Adverb)
  | atomMaxn (d a b : BitVec 7) (adv : Adverb)
  | atomAnd (d a b : BitVec 7) (adv : Adverb)
  | atomOr (d a b : BitVec 7) (adv : Adverb)
  | atomXor (d a b : BitVec 7) (adv : Adverb)
  | atomXchg (d a b : BitVec 7) (adv : Adverb)
  | atomCas (d a b : BitVec 7) (adv : Adverb)
  | atomFadd (d a b : BitVec 7) (adv : Adverb)
  | atomLdres (d a : BitVec 7) (adv : Adverb)
  | atomStcond (d a b : BitVec 7) (adv : Adverb)
  | atomAappend (d a b : BitVec 7) (adv : Adverb)
  | bar  (adv : Adverb)
  | tbar  (adv : Adverb)
  | fenceSc  (adv : Adverb)
  | fenceAr  (adv : Adverb)
  | acq (d a : BitVec 7) (adv : Adverb)
  | rel (a b : BitVec 7) (adv : Adverb)
  | ticketTake (a : BitVec 7) (adv : Adverb)
  | ticketWait (a b : BitVec 7) (adv : Adverb)
  | ticketDecl (a : BitVec 7) (adv : Adverb)
  | publish  (adv : Adverb)
  | seal (d : BitVec 7) (adv : Adverb)
  | rally
  | yield
  | mgang (a : BitVec 7) (adv : Adverb)
  | mmaF64 (ctl : MatCtl) (a b : BitVec 7) (adv : Adverb)
  | mmaF32 (ctl : MatCtl) (a b : BitVec 7) (adv : Adverb)
  | mmaBf16 (ctl : MatCtl) (a b : BitVec 7) (adv : Adverb)
  | mmaF16 (ctl : MatCtl) (a b : BitVec 7) (adv : Adverb)
  | mmaF8e4 (ctl : MatCtl) (a b : BitVec 7) (adv : Adverb)
  | mmaF8e5 (ctl : MatCtl) (a b : BitVec 7) (adv : Adverb)
  | mmaF4 (ctl : MatCtl) (a b : BitVec 7) (adv : Adverb)
  | mmaI8 (ctl : MatCtl) (a b : BitVec 7) (adv : Adverb)
  | mscale (ctl : MatCtl) (a b : BitVec 7) (adv : Adverb)
  | accz (ctl : MatCtl) (adv : Adverb)
  | accld (ctl : MatCtl) (a : BitVec 7) (adv : Adverb)
  | accst (ctl : MatCtl) (a : BitVec 7) (adv : Adverb)
  | accsp (ctl : MatCtl) (a : BitVec 7) (adv : Adverb)
  | cpy4 (d a b : BitVec 7) (adv : Adverb)
  | cpy8 (d a b : BitVec 7) (adv : Adverb)
  | cpy16 (d a b : BitVec 7) (adv : Adverb)
  | cpyt (d a : BitVec 7) (adv : Adverb)
  | cpyz (d a : BitVec 7) (adv : Adverb)
  | cpyx (d a : BitVec 7) (adv : Adverb)
  | coll (d a : BitVec 7) (adv : Adverb)
  | htest (d a : BitVec 7) (adv : Adverb)
  | hcancel (a : BitVec 7) (adv : Adverb)
  | stgarm (a b : BitVec 7) (adv : Adverb)
  | stgwait (a b : BitVec 7) (adv : Adverb)
  | stgflip (a b : BitVec 7) (adv : Adverb)
  | ckpt (d a : BitVec 7) (adv : Adverb)
  | fork (d a b : BitVec 7) (adv : Adverb)
  | join (a : BitVec 7) (adv : Adverb)
  | viewq (d a : BitVec 7) (adv : Adverb)
  | rng (d a : BitVec 7) (adv : Adverb)
  | rngsk (a b : BitVec 7) (adv : Adverb)
  | bnz (p : BitVec 7) (off : BitVec 15) (adv : Adverb)
  | bz (p : BitVec 7) (off : BitVec 15) (adv : Adverb)
  | bany (p : BitVec 7) (off : BitVec 15) (adv : Adverb)
  | ball (p : BitVec 7) (off : BitVec 15) (adv : Adverb)
  | bnone (p : BitVec 7) (off : BitVec 15) (adv : Adverb)
  | jmpl (off : BitVec 25)
  | calll (off : BitVec 25)
  | srd (d : BitVec 7) (sel : BitVec 10) (adv : Adverb)
  | swr (d : BitVec 7) (sel : BitVec 10) (adv : Adverb)
  | jmpr (d : BitVec 7) (adv : Adverb)
  | callr (d : BitVec 7) (adv : Adverb)
  | ret
  | brx (d : BitVec 7) (sel : BitVec 10) (adv : Adverb)
  | exit
  | trap (d : BitVec 7) (sel : BitVec 10) (adv : Adverb)
  | nop
  | flush (d : BitVec 7) (sel : BitVec 10) (adv : Adverb)
  | inval (d : BitVec 7) (sel : BitVec 10) (adv : Adverb)
  | range (d : BitVec 7) (sel : BitVec 10) (adv : Adverb)
  | evt (d : BitVec 7) (sel : BitVec 6) (adv : Adverb)
  | halt
  | moduleReset
  | port1Reset
  | hostLinkDown (port : Nat)
  | hostLinkUp (port : Nat)
  | lqdoor (port queue : Nat) (prod : Word)
  | launchRecordRead (port queue : Nat)
  | launchAdmit
  | blockDispatch (grid blk core : Nat)
  | registerCompaction (core : Nat)
  | preemptForPriority (grid : Nat)
  | blockSave (blk : Nat)
  | blockResume (blk core : Nat)
  | blockEnd (blk : Nat)
  | launchRetire (grid : Nat)
  | fairnessTimerExpiry (blk strand : Nat) (quad : Option Nat)
  | rallyTimeout (blk strand : Nat)
  | predicateResolve (blk strand : Nat)
  | candidatePromotion (blk strand : Nat)
  | budgetPeriod (die : Nat)
  | safePointOverdue
  | l1DirtyWriteback (core line : Nat)
  | tlbiPage (die job : Nat)
  | tlbiJob (die job : Nat)
  | tlbiAll (die : Nat)
  | tlbiDone (die : Nat)
  | migration (job va stack frame : Nat)
  | childFold (fork child : Nat)
  | copyComplete (blk slot : Nat)
  | multicastDelivery (blk slot lane target : Nat)
  | compressComplete (blk slot : Nat)
  | collChunkReceive (blk slot lane peer chunk : Nat) (data : List Byte)
  | ckptComplete (blk slot : Nat)
  | matrixExecute (blk : Nat) (fate : MatFate)
  | orderedRequestRelease (blk strand : Nat)
  | squallSwitchOut (job : Nat)
  | squallResume (job : Nat)
  | squallMarker (flit : Flit)
  | latePacket (flit : Flit)
  | readRequest (flit : Flit)
  | readResponse (flit : Flit)
  | remoteWrite (flit : Flit)
  | writeAcknowledgement (flit : Flit)
  | remoteAtomic (flit : Flit)
  | atomicResponse (flit : Flit)
  | receiverNotReady (flit : Flit)
  | rnrRetry (tag : Nat)
  | bufferRelease (flit : Flit)
  | keyMarker (flit : Flit)
  | drainMarker (flit : Flit)
  | idleFlit (flit : Flit)
  | relayForward (flit : Flit)
  | bufferReleaseTimer (port : Nat)
  | linkRetryTimeout (port vc : Nat)
  | linkTrained (port peer : Nat)
  | linkTrainingLost (port : Nat)
  | portDown (port : Nat)
  | routeWaitTimeout (tag : Nat)
  | rtgenSwitch (gen : Bool)
  | wcbLullExpiry (core line : Nat)
  | keySwitchRequest (port : Nat)
  | keySwitchCount (port : Nat)
  | keyCounterLimit (port : Nat)
  | keyLoad (port slot : Nat)
  | bar2Read (port offset bytes : Nat)
  | bar2Write (port offset : Nat) (data : List Byte)
  | hostReadCompletion (tag : Nat) (data : Option (List Byte))
  | hostReadTimeout (tag : Nat)
  | spareCorePair (die unit : Nat)
  | spareScratchpadBank (die unit : Nat)
  | spareL2Slice (die unit : Nat)
  | sparePseudoChannel (die unit : Nat)
  | spareFabricPort (die unit : Nat)
  | spareDone
  | autoSpare (kind die unit : Nat)
  | freeze
  | scanRead (port : Nat)
  | attestationRequest (nonce : List Byte)
  | attestationReady
  | powerThermalCheck (watts junction inlet : Nat)
  | thermalHold
  | thermalHoldRelease
  | thermalTrip
  | jobabort (job : Nat)
  | faultAnswerResume (seq : Word)
  | faultAnswerAbortBlock (seq : Word)
  | faultAnswerAbortGrid (seq : Word)
  | faultRingConsume (cons : Dword)
  | faultRingEnable (log2n : Nat)
  | faultRingBase (base : Nat)
  | registerScrub (blk strand : Nat) (word : Nat) (fate : EccFate)
  | patrolScrub (unit : EccUnit) (fate : EccFate)
  | registerWrite (port offset bytes : Nat) (value : BitVec 512)
  | illegalEncoding (cls sub : Nat) (addr : Dword)
  | perstDeassertion (port : Nat)
  | bootComplete (reason : Nat)
deriving DecidableEq, Repr

end Sys2Proof
end

