-- ==== Sys2Proof/Machine/State.lean ====
section
/-! DEFINITION. The state of one SRN-UM72 module as plain data: memory, cores, dies, ports, queues, grids, blocks,
strands, lanes, views, engines, fault records and management registers; the reasons a step can stop; reset. Fields
marked "the model's own" are not in the spec; INVENTORY.md lists every field with its rule. -/

namespace Sys2Proof.Machine

open Sys2Proof

/-- Raised by nothing in this model: every failure that the spec describes is an exception taken in a next state
(a fault record, R411). Safe. -/
inductive Fault where
  | machineCheck
deriving DecidableEq, Repr

/-- `notModelled` is answered by an arm of `exec` that has no meaning. Safe. -/
inductive Refusal where
  | notModelled (mnemonic : String)
deriving DecidableEq, Repr

/-! ## Memory -/

/-- Physical memory by 52-bit physical address: `Host.Cell`s in canonical form (`Memory.wf`). -/
abbrev Memory := Cells Byte

/-- A byte held in a core's L1 (R107, R108): its value and its dirty bit. -/
structure L1Byte where
  val : Byte
  dirty : Bool
deriving DecidableEq, Repr

/-- A line that a core's L1 holds: its number (the keys of its bytes / 128), the clock of the core's die at which its
lease ends (R107), and the clock since which it has been dirty (R108). -/
structure L1Line where
  line : Nat
  lease : Nat
  since : Option Nat
deriving DecidableEq, Repr

/-- A line that a die's L2 holds: its number (physical address / 128), whether the die has written it, and the retention
range whose reserved ways hold it (R110, R111). -/
structure L2Line where
  line : Nat
  dirty : Bool
  range : Option Nat
deriving DecidableEq, Repr

/-- The place that an access reaches, after translation (R94, R113, R126, R227, R235, R243). -/
inductive Loc where
  /-- a byte of this module's DRAM -/
  | phys (pa : Nat)
  /-- a byte of the scratchpad allocation of block `blk` -/
  | scratch (blk off : Nat)
  /-- a byte of a viewed page, seen in child view `child` of fork `fork` -/
  | view (fork child va : Nat)
  /-- a byte of another module -/
  | remote (dev addr : Nat)
  /-- a byte of host window `port` -/
  | host (port addr : Nat)
  /-- a byte of the register window of die `die` -/
  | reg (die off : Nat)
deriving DecidableEq, Repr

/-- A page-table leaf (Table 5-5) found by a walk, with the size of its page. -/
structure Leaf where
  base : Nat
  bytes : Nat
  perm : BitVec 3
  cache : BitVec 2
  view : Bool
  rop : BitVec 4
  rtype : BitVec 4
  key : BitVec 4
  job : Nat
  home : Nat
  pin : Bool
  addr : Nat
deriving DecidableEq, Repr

/-- A translation held in a TLB (R118). -/
structure TlbEntry where
  job : Nat
  leaf : Leaf
deriving DecidableEq, Repr

/-- The scope record of a line (R109, R155, R445): of the last synchronising write its scope and its origin, and the scope of
the last synchronising access of any kind. -/
structure ScopeRec where
  /-- a synchronising write has been made -/
  release : Bool
  scope : Nat
  latest : Nat
  dev : Nat
  core : Nat
  blk : Nat
  strand : Nat
deriving DecidableEq, Repr

/-- An entry of a write-combining buffer (R230): one line of another module, masked bytes only. -/
structure WcbEntry where
  dev : Nat
  line : Nat
  /-- the virtual address of the line, for its record (R467) -/
  va : Nat
  job : Nat
  /-- the view of the threads whose stores it holds, where that is not the root view: fork and child (R129) -/
  view : Option (Nat × Nat)
  bytes : Cells (Option Byte)
  /-- the clock of its allocation (R231) -/
  since : Nat
  /-- the tag of its write packet once it has drained -/
  sent : Option Nat
  /-- the lanes whose stores it holds: block, strand, lane (R467) -/
  writers : List (Nat × Nat × Nat)
deriving DecidableEq, Repr

/-! ## Registers, lanes, strands -/

/-- A register word with its three state bits (R84). -/
structure RegWord where
  val : Word
  full : Bool
  taint : Bool
  poison : Bool
deriving DecidableEq, Repr

/-- Every allocated register at block start (R83). -/
def RegWord.zero : RegWord := ⟨0, true, false, false⟩

/-- R30: never launched, live, exited. -/
inductive LaneStatus where
  | never | live | exited
deriving DecidableEq, Repr

/-- Why a lane is parked (R30, R85, R86, R106, R162, R194, R196, R207, R227, R235, R329, R354, R364). -/
inductive Park where
  | none
  /-- until the register words with these keys are full -/
  | words (keys : List Nat)
  /-- until these chunks of these blocks are present -/
  | chunks (cs : List (Nat × Nat))
  /-- at a block or team barrier, with the next unit's address -/
  | bar (next : Dword)
  | tbar (next : Dword)
  | ticket (stream : Nat) (goal : Nat)
  | append (stream : Nat)
  | stage (ring slot : Nat) (armed phase : Bool)
  /-- at a RALLY, since this clock (R38) -/
  | rally (since : Nat)
  | join (slot gen : Nat)
  | latch
  /-- until the copy engine's queue has this many entries open to the strand's role (R194) -/
  | queue (need : Nat)
  /-- until the core's handle table has this many free slots (R196) -/
  | slot (need : Nat)
  /-- until the block's context has executed this many instructions since block start (R339) -/
  | engine (goal : Nat)
  /-- at a barrier, until the context has executed that many -/
  | barEngine (goal : Nat)
  /-- a strand, at a matrix instruction, until the words with these keys are full (R330) -/
  | matWords (keys : List Nat)
  /-- a strand, at a matrix instruction, until the context has executed this many instructions: its queue is full (R338) -/
  | matQueue (goal : Nat)
  /-- until the twin pool has this many free slots: for a FORK's reserve (R138), for a write (R139) -/
  | reserve (need : Nat)
  | pool (need : Nat)
  /-- until class 0 of a die's budget has credit (R71) -/
  | credit (die : Nat)
  /-- refused by a full ordered-atomic buffer: a ticket operation's request or a claim, its stream, and the frontier that it
  waits for (R163) -/
  | refused (ticket : Bool) (stream goal : Nat)
  /-- until the requests with these tags are answered -/
  | reply (tags : List Nat)
  /-- at an AAPPEND whose turn has come, until its descriptor, which another module holds, has been read (R162) -/
  | claim (tags : List Nat)
deriving DecidableEq, Repr

/-- A lane's load reservation (R351). -/
structure Resv where
  va : Nat
  loc : Loc
deriving DecidableEq, Repr

/-- A load reservation of a lane of another module on a word homed here (R349, R351): module, core, the lane's name in its
requests, the word's place. -/
structure AwayResv where
  src : Nat
  core : Nat
  id : Nat
  loc : Loc
deriving DecidableEq, Repr

/-- A deferred failure that waits for its reporting point (R406, R426, R434, R440, R467). -/
structure Deferred where
  cls : Nat
  sub : Nat
  addr : Dword
  info : Word
  info2 : Word
  /-- the handle (slot, GEN) whose read reports it; none for a store or a matrix product -/
  handle : Option (Nat × Nat)
  /-- the keys of the lane's words that received the handle, or a batch that covers it -/
  words : List Nat
  /-- the access of the instruction in progress was refused: precise at its next issue (R467) -/
  now : Bool
deriving DecidableEq, Repr

/-- Who made a request to another module or to a host: a lane; an engine operation, by block, slot and GEN; the core
itself, for a drained write-combining entry or a flushing read; or the scheduler. -/
inductive Asker where
  | lane (blk strand lane : Nat)
  | engine (blk slot gen : Nat)
  | core
  /-- the scheduler, for the container of a launch -/
  | launch (grid : Nat)
  /-- a host's read through BAR2, and a host's write at port `port` (R470) -/
  | bar (id : Nat)
  | post (port : Nat)
  /-- another module, whose request reached a host window of this one (R228) -/
  | served (f : Flit)
deriving DecidableEq, Repr

/-- An answer of another module or of a host that a parked access takes when it issues again. -/
structure Reply where
  loc : Loc
  data : List Byte
  poison : Bool
  atomic : Bool
deriving DecidableEq, Repr

structure Lane where
  status : LaneStatus
  pc : Dword
  park : Park
  /-- stopped at a safe point: the LSTATE that its lane-table entry will hold (R52, Table 4-6) -/
  stopped : Option Nat
  fmode : BitVec 4
  fstat : BitVec 5
  resv : Option Resv
  /-- instructions executed since the last SAFEPT, block start or resume (R422) -/
  count : Nat
  /-- the safe-point entry of the SAFEPT that was the lane's last instruction (R52) -/
  safe : Option Nat
  /-- handles (slot, GEN) issued since the lane's last SEAL (R359) -/
  unsealed : List (Nat × Nat)
  due : List Deferred
  replies : List Reply
deriving DecidableEq, Repr

def Lane.never : Lane :=
  { status := .never, pc := 0, park := .none, stopped := none, fmode := 1, fstat := 0, resv := none, count := 0,
    safe := none, unsealed := [], due := [], replies := [] }

inductive Role where
  | general | copy | matrix
deriving DecidableEq, Repr

/-- A fairness timer (R35): the count, and the lanes of a choice that the timer or YIELD forced. -/
structure Fair where
  count : Nat
  forced : List Nat
  /-- the lanes of the current choice: those of the latest issue that the timer counted -/
  last : List Nat
deriving DecidableEq, Repr

/-- One register word held by the mood buffer (R45). -/
structure MoodEntry where
  key : Nat
  old : RegWord
deriving DecidableEq, Repr

/-- The issue in progress: which lanes of which strand run the instruction, its unit's address and the next one.
The model's own: `step` sets it before it runs an instruction. -/
structure Issue where
  blk : Nat
  strand : Nat
  lanes : List Nat
  pc : Dword
  next : Dword
  /-- the unit's 32-bit word and adverb word, for the latch (R329) and the record (R414) -/
  word : BitVec 32
  adverb : Option (BitVec 32)
deriving DecidableEq, Repr

/-- A subjunctive run of a strand (R43 to R46): the branch and its issue, the path issued, the lanes predicted on it,
what the mood buffer holds, and the number of instructions issued. -/
structure SubjRun where
  branch : Dword
  code : Instr
  unit : Issue
  taken : Bool
  lanes : List Nat
  start : Dword
  pc : Dword
  mood : List MoodEntry
  stats : List (Nat × BitVec 5)
  issued : Nat
deriving DecidableEq, Repr

structure Strand where
  width : Nat
  role : Role
  /-- partition and first register offset of the buddy allocation (R88) -/
  partition : Nat
  offset : Nat
  /-- keyed by lane * 256 + register -/
  regs : Cells RegWord
  lanes : List Lane
  /-- selector 19 (R328) -/
  gang : BitVec 16
  /-- arrivals at the latch since the last MGANG, and the pending arrival's unit (R329) -/
  arrivals : Nat
  arrived : Option (BitVec 32 × Option (BitVec 32))
  fair : Fair
  quads : List Fair
  promoted : Bool
  /-- selections of its partition that passed it over, ready, since it last issued (R67) -/
  waited : Nat
  history : BitVec 8
  run : Option SubjRun
  /-- after a run: lanes of its path that were not predicted, which issue its instructions again, and the address at which
  they end (R45) -/
  replay : Option (List Nat × Dword)
deriving DecidableEq, Repr

/-! ## Engines -/

/-- A matrix operand: captured register words (R332) or a scratchpad pair (R333). -/
inductive MatSrc where
  | none
  | regs (words : List Word)
  | pad (base pitch : Nat) (tilePitch : Nat)
deriving DecidableEq, Repr

inductive MatFn where
  | f64 | f32 | bf16 | f16 | f8e4 | f8e5 | f4 | i8 | scale | zero | load | store | storePart
deriving DecidableEq, Repr

/-- An instruction in the matrix engine's queue (R338). -/
structure MatOp where
  fn : MatFn
  ctl : MatCtl
  a : MatSrc
  b : MatSrc
  bands : Word
  members : List Nat
  pc : Dword
deriving DecidableEq, Repr

/-- A matrix context (R327): tiles keyed by tile * 4096 + 64 i + j, the partial bank by (64 i + j) * 8 + kb. -/
structure MatCtx where
  tiles : Cells Word
  bank : Cells (BitVec 16)
  queue : List MatOp
  /-- instructions executed since block start; the model's own, for R339 -/
  executed : Nat
deriving DecidableEq, Repr

/-- A tile descriptor as read at issue (Table 9-1). -/
structure TileDesc where
  src : Nat
  dst : Nat
  rowb : Nat
  nrow : Nat
  spitch : Nat
  dpitch : Nat
  mcast : Bool
  rowm : BitVec 6
  colm : BitVec 6
  ring : Nat
  slot : Nat
  phase : Bool
  /-- targets not yet delivered to -/
  targets : List Nat
  desc : Nat
deriving DecidableEq, Repr

/-- A compression descriptor as read at issue (Table 9-4). -/
structure PackDesc where
  src : Nat
  dst : Nat
  count : Nat
  f64 : Bool
  eb : Dword
  dcap : Nat
  res : Nat
  desc : Nat
deriving DecidableEq, Repr

/-- A rank of a collective (Table 9-6). -/
structure RankEntry where
  parent : Nat
  children : List Nat
  dev : Nat
  inbox : Nat
deriving DecidableEq, Repr

/-- A collective as read at issue (Table 9-5), with its progress. -/
structure CollOp where
  block : List Byte
  kind : Nat
  rop : Nat
  typ : NumType
  this : Nat
  chunk : Nat
  count : Nat
  src : Nat
  dst : Nat
  ranks : List RankEntry
  /-- next chunk folded and sent upward; next chunk received from above (Table 3-8) -/
  upNext : Nat
  dnNext : Nat
  /-- chunks received into the rank's INBOX: (rank, chunk) -/
  inbox : List (Nat × Nat)
  desc : Nat
  /-- the rank's own failure, after which it sends nothing further (R435) -/
  failed : Bool
deriving DecidableEq, Repr

/-- A checkpoint as read at issue (Table 9-8), with the stream bytes written. -/
structure CkptOp where
  block : List Byte
  base : Nat
  len : Nat
  win : Nat
  cap : Nat
  res : Nat
  ctx : Bool
  /-- bytes of the save area that its header has announced (R214) -/
  ctxLen : Nat
  /-- stream bytes done when the operation was suspended, and the digest's chaining value there (Table 3-8) -/
  done : Nat
  chain : List Dword
  /-- bytes of the stream since the last whole 128-byte block of the digest -/
  tail : List Byte
  /-- the stream and its digest are written, or its lane has failed -/
  ended : Bool
  desc : Nat
deriving DecidableEq, Repr

/-- A chunk of a collective that one rank has sent to another (R211), with the request block that names the collective. -/
structure CollMail where
  block : List Byte
  job : Nat
  sender : Nat
  receiver : Nat
  chunk : Nat
  data : List Byte
deriving DecidableEq, Repr

/-- What a handle names. The first number of each pair is the issuing lane. -/
inductive EngOp where
  | lanes (n : Nat) (moves : List (Nat × Nat × Nat))
  | tile (ds : List (Nat × TileDesc))
  | pack (ds : List (Nat × PackDesc))
  | expand (ds : List (Nat × PackDesc))
  | coll (cs : List (Nat × CollOp))
  | ckpt (cs : List (Nat × CkptOp))
  | batch (gathered : List (Nat × Nat))
  | fork (key : Nat)
  /-- cancelled: nothing further moves, and its destination ranges are what it may have written (R197) -/
  | stopped (dest : List (Nat × Nat))
  /-- completed: nothing is left to do -/
  | idle
deriving DecidableEq, Repr

/-- A slot of the handle table held by a block (R196). -/
structure Handle where
  slot : Nat
  kind : Nat
  gen : Nat
  done : Bool
  strand : Nat
  /-- words that received the handle and have not been read, overwritten or left behind: strand, register key -/
  words : List (Nat × Nat)
  op : EngOp
  /-- queue entries held, and how many of them are shared ones (R194) -/
  entries : Nat
  shared : Nat
  /-- chunks of this block and its partner whose presence bits the operation cleared: (block, chunk) -/
  cleared : List (Nat × Nat)
  /-- guard state of the block at issue (R433) -/
  guarded : Bool
  joined : Bool
  /-- answers that the operation holds, and its requests to other modules and hosts -/
  replies : List Reply
  tags : List Nat
  /-- bytes that the operation has read and not yet written: lane, address, bytes; and those that follow when all others are
  acknowledged (R209, R213) -/
  rest : List (Nat × Nat × List Byte)
  last : List (Nat × Nat × List Byte)
  /-- every segment has been performed; acknowledgements may be outstanding (R205) -/
  written : Bool
deriving DecidableEq, Repr

/-! ## Blocks, grids, views -/

/-- The innermost view of a thread (R126). -/
inductive View where
  | root
  | child (fork index : Nat)
deriving DecidableEq, Repr

/-- Why a block is being stopped, or was (R72, R97, R372, R408, R446, R474). -/
inductive StopWhy where
  | preempt | victim | halt | fault | partner | frontier | squall | hold | spare | joinWait | abort
deriving DecidableEq, Repr

inductive BlockState where
  /-- resident and issuing -/
  | running
  /-- resident, its threads stop at their next safe point, or instruction boundary (R408) -/
  | stopping (why : StopWhy)
  /-- stopped on its core because its frame does not fit (R477) -/
  | overflow (why : StopWhy)
  /-- saved: the frame's offset from SAVEBASE -/
  | saved (why : StopWhy) (frame : Nat)
  | ended
deriving DecidableEq, Repr

structure Block where
  key : Nat
  grid : Nat
  index : Nat
  core : Nat
  state : BlockState
  view : View
  regs : Nat
  strands : List Strand
  rows : Nat
  scratch : Cells Byte
  /-- chunks whose presence bit is 0, once for each outstanding copy that touches them (R105) -/
  absent : List Nat
  handles : List Handle
  hcount : Nat
  passed : List Nat
  guards : List Nat
  mat : Option MatCtx
  /-- an effect outside its view has been made (R139) -/
  outside : Bool
  /-- selector 20 (R412) -/
  faultinfo : Dword
  /-- records that stop the block and are not yet answered: record numbers -/
  stops : List Nat
  /-- the clock of the core's die at which a fault stopped the block, and the last strand that has issued in that cycle
  (R410) -/
  faultAt : Option (Nat × Nat)
  /-- strand and lane of the last live thread that has exited (R440) -/
  last : Option (Nat × Nat)
  age : Nat
deriving DecidableEq, Repr

/-- The fields that a launch record and a fork record share (Tables 3-1, 6-1). -/
structure LaunchRec where
  lid : Dword
  cont : Nat
  entry : Nat
  nblk : Nat
  cb : Dword
  wcode : Nat
  rcode : Nat
  det : Bool
  teamed : Bool
  nstream : Nat
  npre : Nat
  job : Nat
  threads : Nat
  nstrand : Nat
  rows : Nat
  ncopy : Nat
  nmat : Nat
  done : Nat
  pre : List Dword
deriving DecidableEq, Repr

inductive GridState where
  /-- read, not yet admitted (R56) -/
  | held
  | active
  /-- stopped before dispatch or after its own fold, waiting for the answer (R418, R441) -/
  | stopped
  | retired
deriving DecidableEq, Repr

/-- An ordered stream of a grid (R161, R352, R447). -/
structure Stream where
  /-- blocks that have passed -/
  passed : List Nat
  bound : Option Nat
  void : Option Nat
deriving DecidableEq, Repr

structure Grid where
  key : Nat
  /-- what selector 6 reads (Table 4-2) -/
  gid : Dword
  launch : LaunchRec
  port : Nat
  queue : Nat
  prio : Nat
  /-- physical address of its launch record -/
  recAddr : Nat
  age : Nat
  state : GridState
  pc0 : Dword
  nres : Nat
  spoff : Nat
  nsafe : Nat
  /-- the fork whose children its blocks are, if any (R123, R131) -/
  fork : Option Nat
  /-- the grid of the forking block -/
  parent : Option Nat
  streams : List Stream
  /-- passes whose release awaits acknowledgements (Table 7-3): stream, block, tags -/
  passing : List (Nat × Nat × List Nat)
  /-- blocks made resident at least once, and not rolled back since -/
  started : List Nat
  ended : List Nat
  /-- children rolled back and not dispatched again (R140) -/
  requeued : List Nat
  /-- ACT 3 has ended it (R413) -/
  aborted : Bool
  /-- answers that the scheduler's reads of the container hold, and their requests -/
  replies : List Reply
  tags : List Nat
deriving DecidableEq, Repr

/-- What a fold found in conflict (R440). -/
structure Conflict where
  count : Nat
  addr : Nat
  first : Nat
  second : Nat
  info2 : Word
deriving DecidableEq, Repr

/-- A fork and the slots of the twin pool that it holds (R123 to R133). Granules are keyed by virtual address. -/
structure Fork where
  key : Nat
  job : Nat
  parent : View
  depth : Nat
  grid : Nat
  nres : Nat
  children : Nat
  /-- the module on which the fork was made, and the fork's key there (R129) -/
  dev : Nat
  name : Nat
  /-- children that have made an effect outside their views, in blocks that have ended (R139) -/
  outside : List Nat
  /-- twins and copies that other modules hold of granules of their pages: child (none = the twin), module, domain address
  (R129) -/
  away : List (Option Nat × Nat × Nat)
  /-- the forking block, strand and lane; none for the fork of a launched DET grid (R131) -/
  owner : Option (Nat × Nat × Nat)
  folded : Nat
  joined : Bool
  twins : List (Nat × List Byte)
  copies : List (Nat × Nat × List Byte)
  /-- twins and copies that are poisoned: child (none = the twin), granule (R437) -/
  poisoned : List (Option Nat × Nat)
  conflict : Option Conflict
  reported : Bool
  /-- forks of lower lanes of the same FORK (R363) -/
  after : List Nat
  /-- made at: order of FORKs, for R139 -/
  age : Nat
deriving DecidableEq, Repr

/-! ## Faults -/

/-- A fault record (Table 19-4); SEQ is added when it is written. -/
structure FaultRec where
  id : Nat
  cls : Nat
  sub : Nat
  kind : Nat
  job : Nat
  dev : Nat
  die : Nat
  addr : Dword
  pc : Dword
  grid : Dword
  blk : Word
  strand : Nat
  core : Nat
  lanes : Dword
  child : Word
  info : Word
  info2 : Word
  /-- the block whose faultinfo it sets (R412) -/
  block : Option Nat
deriving DecidableEq, Repr

/-- What a record stopped, until it is answered (R413). -/
inductive StopReach where
  | block (key : Nat)
  /-- `whole`: its ending takes every grid of the job (R372, R472) -/
  | job (job : Nat) (whole : Bool)
  | grid (key : Nat)
  | overflow (key : Nat)
deriving DecidableEq, Repr

structure Stop where
  make ::
  id : Nat
  seq : Option Dword
  reach : StopReach
  /-- an answer that waits until what it answers has been saved: its ACT -/
  answer : Option Nat
deriving DecidableEq, Repr

/-- A stop without an answer. -/
def Stop.mk (id : Nat) (seq : Option Dword) (reach : StopReach) : Stop := ⟨id, seq, reach, none⟩

/-! ## Dies, cores, ports, management -/

/-- A retention range (Table 5-3). -/
structure Retention where
  base : Dword
  limit : Dword
  ctl : Dword
deriving DecidableEq, Repr

structure Core where
  /-- keyed by physical address, or for another module's lines by (dev + 1) * 2^52 + domain address -/
  l1 : Cells (Option L1Byte)
  /-- the lines that hold these bytes, the latest used first -/
  lines : List L1Line
  wcb : List WcbEntry
  tlb : List TlbEntry
  /-- retention counters (R112) -/
  retain : List Nat
  /-- logical bank to physical bank, 127 entries (R102) -/
  banks : List Nat
  /-- predictor table and mask cache of its 16 partitions (R43) -/
  predictor : Cells (BitVec 4)
  maskCache : Cells Dword
deriving DecidableEq, Repr

/-- What the management controller has counted of one unit in the current window of 2^34 cycles (R449, Table 21-10): kind and
number as SPARECMD gives them (for a core pair, each core by its own number), corrected errors, uncorrectable ones, and
matrix reruns that passed. -/
structure Wear where
  kind : Nat
  unit : Nat
  window : Nat
  corrected : Nat
  fatal : Nat
  reruns : Nat
deriving DecidableEq, Repr

structure Die where
  clock : Dword
  budget : List (BitVec 24 × Bool)
  /-- values written to BUDGETc that take effect at the next period -/
  budgetNext : List (BitVec 24 × Bool)
  credit : List Nat
  held : BitVec 7
  spent : BitVec 7
  /-- the period that the credits are of: the die's clock / 2,048 (R70) -/
  period : Nat
  /-- budgets that the power check has lowered, the latest first (R252) -/
  lowered : List (List (BitVec 24 × Bool))
  evcnt : List Dword
  regce : Dword
  regue : Dword
  mxrerun : Dword
  mxfail : Dword
  memce : Dword
  memue : Dword
  viewrb : Dword
  tlbiva : Dword
  tlbiCmd : BitVec 32
  tlbiBusy : Bool
  /-- tags of requests that used an entry that the invalidation in progress removes (R119) -/
  tlbiWait : List Nat
  retention : List Retention
  l2tlb : List TlbEntry
  /-- the lines of its 32 slices, the latest used first (R110) -/
  l2 : List L2Line
  /-- physical pair of each team (R12), physical slice of each logical slice (R13) -/
  pairs : List Nat
  slices : List Nat
  /-- physical pseudo-channel of the logical ones that are not their own, for two stacks (R16) -/
  channels : Cells Nat
  /-- spares in use by kind (Table 11-10) -/
  spares : List Nat
  /-- what its units have shown in the current window (R449) -/
  wear : List Wear
deriving DecidableEq, Repr

/-- Launch-queue registers (Table 11-5) and the arrival stamps of its pending records (R56). -/
structure Queue where
  base : Nat
  log2n : Nat
  prio : Nat
  prod : Word
  cons : Word
  stamps : List Nat
deriving DecidableEq, Repr

structure HostPort where
  up : Bool
  lost : Bool
  /-- the port's link is down or its PERST# is asserted (R471) -/
  gone : Bool
  perst : Bool
  queues : List Queue
  apbase : Nat
  apjob : Nat
  apen : Bool
  pubadr : Nat
  pubval : Dword
  pubirq : Bool
  pubvec : Nat
  hwbase : Nat
  hwdrop : Dword
  /-- device writes carried since the last flushing read (R237) -/
  dirty : Bool
deriving DecidableEq, Repr

/-- What the module sends to a host (R60, R235, R237, R411, R470). -/
inductive HostMsg where
  | write (port : Nat) (addr : Nat) (data : List Byte) (relaxed : Bool)
  | read (port : Nat) (addr bytes tag : Nat)
  | flushRead (port : Nat)
  | msix (port vec : Nat)
  | completion (port : Nat) (data : List Byte)
  | unsupported (port : Nat)
deriving DecidableEq, Repr

/-- A read of a host window that waits for its completion (R235, R469). -/
structure HostRead where
  tag : Nat
  port : Nat
  addr : Nat
  bytes : Nat
  who : Asker
  /-- die 0's clock when it was sent (R469) -/
  since : Nat
deriving DecidableEq, Repr

/-- A key slot (R232, R233). -/
structure KeySlot where
  key : BitVec 256
  salt : Word
  ctr : Dword
deriving DecidableEq, Repr

/-- One virtual channel of a fabric port (R219, R459, R460). -/
structure Channel where
  txSeq : Word
  /-- sent and not acknowledged, with the number of sendings -/
  retry : List (Flit × Nat)
  rxNext : Word
  freed : Word
  nak : Bool
  /-- markers received from the peer: jobs of squalls, each with the number that it reports, and the drain marker's
  generation -/
  squalls : List (Nat × Word)
  drained : Option Bool
  /-- the clock of its port's die when a flit of the retry buffer was last sent, or an acknowledgement last came (R460) -/
  quiet : Nat
deriving DecidableEq, Repr

structure FabPort where
  trained : Bool
  peer : Nat
  insvc : Bool
  /-- taken up for a spared port by the management controller (R256) -/
  marked : Bool
  txcur : Bool
  txval : BitVec 2
  rxval : BitVec 2
  kswitch : BitVec 48
  tx : List KeySlot
  rx : List KeySlot
  /-- KEY, SALT and CTR last written to KEYDATAp,s (R249) -/
  staged : List KeySlot
  linkerr : BitVec 16
  authfail : BitVec 16
  /-- link errors and authentication failures of the current window (R461) -/
  linkWindow : Nat
  authWindow : Nat
  /-- the number of that window, in 2^34 cycles of its die's clock -/
  authEpoch : Nat
  retrain : BitVec 8
  /-- it has lost its training in service, and retrains (R464) -/
  retraining : Bool
  down : Bool
  /-- the controller has acted on its last trigger of R466 -/
  replaced : Bool
  /-- its die's clock when it last sent a buffer release (R224) -/
  stated : Nat
  klimit : Bool
  noSlotSeen : Bool
  vcs : List Channel
  /-- depth towards each module that the peer last reported, and the stamp of that report (R222, R224) -/
  depth : List Nat
  heard : Nat
deriving DecidableEq, Repr

/-- A routing entry (Table 10-4). -/
structure Route where
  direct : BitVec 24
  viaok : BitVec 16
  valid : Bool
deriving DecidableEq, Repr

/-- Where a remote request stands: on its way; refused and waiting to be sent again (R229); waiting behind an earlier
request of its flow (R225); without a usable route (R465); refused for good (R467). -/
inductive ReqPhase where
  /-- on its way -/
  | flying
  /-- turned away at this clock, to be sent again (R229) -/
  | backoff (since : Nat)
  /-- behind another request of its flow -/
  | behind
  | noRoute
  | refused
deriving DecidableEq, Repr

/-- The clock at which a request was turned away, while it waits to be sent again. -/
def ReqPhase.turned : ReqPhase → Option Nat
  | .backoff t => some t
  | .flying | .behind | .noRoute | .refused => none

/-- A remote request in progress (R225 to R229, R467). -/
structure RemoteReq where
  tag : Nat
  flit : Flit
  core : Nat
  who : Asker
  va : Nat
  loc : Loc
  /-- size of the access in bytes, and the write mask -/
  bytes : Nat
  tries : Nat
  phase : ReqPhase
  /-- its core's clock when it began to wait for a route, and whether a record says so (R465) -/
  since : Nat
  reported : Bool
  /-- its answer may fill the L1: no acquire and no store to the line has followed it (R151) -/
  fills : Bool
deriving DecidableEq, Repr

structure Fabric where
  ports : List FabPort
  routes : List (List Route)
  cur : Bool
  inuse : BitVec 2
  detour : Nat
  rnrlim : Nat
  lull : Nat
  reqs : List RemoteReq
  /-- packets waiting for a relay's second hop (R223) -/
  relay : List Flit
  /-- requests of other modules that wait at their home: for the release of a frozen view (R130), for slots (R139), for
  credit (R71) -/
  waiting : List Flit
  /-- responses that wait for a port (R465) -/
  stuck : List Flit
  /-- the flits that this module has sent, oldest first; the model's own record of its output -/
  sent : List Flit
  /-- a drain for the old generation is in progress (R226) -/
  draining : Bool
deriving DecidableEq, Repr

/-- The firmware image in flash (R239): its body, Sarreorn's public key (512 bytes of modulus and the exponent, the most
significant byte first) and the signature. -/
structure FlashImage where
  body : List Byte
  key : List Byte
  signature : List Byte
deriving DecidableEq, Repr

structure Mgmt where
  flash : FlashImage
  /-- the SHA-512 digest of the accepted key, fused in the die -/
  fused : List Byte
  boot : Nat
  bootReason : Nat
  attErr : Bool
  perst0 : Bool
  primary : Nat
  dev : Nat
  dsize : Nat
  frac : Nat
  /-- a launch has been admitted since reset (R241) -/
  admitted : Bool
  jobbase : Nat
  spareBusy : Bool
  spareNone : Bool
  /-- the cores whose blocks the sparing action in progress moves away (R256) -/
  sparing : List Nat
  frozen : Bool
  scanaddr : Word
  tj : Nat
  tin : Nat
  watts : Nat
  /-- steps of 75 MHz below the nominal clock, and whether budgets are lowered (R252) -/
  clockSteps : Nat
  throttled : Bool
  /-- milliseconds for which both limits have held with their margins, and for which TJ has been at 105 °C or above -/
  calm : Nat
  hot : Nat
  /-- milliseconds for which the draw has been above its limit at the lowest clock (R474) -/
  strained : Nat
  hold : Bool
  holdSeen : Bool
  trip : Bool
  thIrq : Bool
  thVec : Nat
  nonce : List Byte
  attBusy : Bool
  attReady : Bool
  report : List Byte
  frbase : Nat
  frlog2n : Nat
  frlost : BitVec 16
  frprod : Dword
  frcons : Dword
  irq0 : Bool
  vec0 : Nat
  irq1 : Bool
  vec1 : Nat
  sqsel : Nat
deriving DecidableEq, Repr

/-- Squall state and save area of a job (R75 to R80, R476). -/
structure JobState where
  job : Nat
  /-- dispatch of the job is stopped (HALT, JOBABORT, squall, a system-software request) -/
  stopped : Bool
  /-- a HALT or JOBABORT whose record waits for every block to be saved: grid, block, strand, pc, lanes, core -/
  halting : Option (Dword × Nat × Nat × Dword × Dword × Nat)
  switching : Bool
  /-- the switch-out has sent its markers (R77) -/
  marked : Bool
  out : Bool
  resuming : Bool
  loss : Bool
  nframe : Nat
  npkt : Nat
  pktoff : Nat
  used : Nat
  /-- packets still to be re-injected, in saved order -/
  packets : List Flit
  late : List Flit
  /-- offsets and sizes of frames that are not DEAD -/
  frames : List (Nat × Nat)
deriving DecidableEq, Repr

/-- A host write held on a frozen view (R130). -/
structure HeldWrite where
  job : Nat
  va : Nat
  data : List Byte
deriving DecidableEq, Repr

/-- A host's write that follows, in its port's order, a write which another module has not acknowledged (R236). -/
structure Posted where
  port : Nat
  write : HeldWrite
deriving DecidableEq, Repr

/-- A migration in progress (R121): the page, its old frame and its new one, and the lines of the page written since they
were copied. -/
structure Migration where
  job : Nat
  va : Nat
  old : Nat
  new : Nat
  bytes : Nat
  written : List Nat
deriving DecidableEq, Repr

/-- A host's read through BAR2 that waits for another module (R246). -/
structure BarRead where
  id : Nat
  port : Nat
  job : Nat
  va : Nat
  bytes : Nat
  replies : List Reply
  tags : List Nat
deriving DecidableEq, Repr

/-- Which agent acts in a step. The model's own. -/
inductive Turn where
  /-- strand `strand` of block `blk` issues its selected gang -/
  | issue (blk strand : Nat)
  /-- a strand that is packed or fused with the one that has just issued issues in the same slot (R40, R41) -/
  | packed (blk strand : Nat)
  /-- a strand starts a subjunctive run at its branch (R43) -/
  | predict (blk strand : Nat)
  /-- the next instruction of a strand's subjunctive run -/
  | subjunctive (blk strand : Nat)
  /-- another agent's step, or the outside world's -/
  | event (i : Instr)
  /-- a line's lease ends, or the line is evicted, in a core's L1 (R107, R108) -/
  | dropLine (core line : Nat)
  /-- a TLB entry is replaced (R118) -/
  | dropTlb (core : Nat)
  | dropL2Tlb (die : Nat)
  /-- a die's clock runs ahead of the others (R25) -/
  | drift (die cycles : Nat)
  /-- an L2 gives up a line (R110) -/
  | dropL2 (die line : Nat)
  /-- what other modules tell of their forks whose children write pages homed here (R129, R132, R138): a fork made, from
  the root view or from a child of another fork; a child folded, or rolled back; the fork joined -/
  | forkAway (dev key job children nres : Nat) (parent : Option (Nat × Nat))
  | foldAway (dev key child : Nat)
  | undoAway (dev key child : Nat)
  | joinAway (dev key : Nat)
  /-- another module has merged the granules that it homes of a fork of this one: what it wrote to the parent's view, and
  what it found in conflict (R129, R132, R440) -/
  | mergedAway (fork dev : Nat) (granules : List Nat) (conflict : Option Conflict)
  /-- the pool of another module rolls back a child of this module (R139) -/
  | rollbackFrom (fork child : Nat)
  /-- requests of other modules that wait here are tried again (R71, R130, R139) -/
  | retryHeld
  /-- a HALT that another module has issued reaches this one (R372) -/
  | haltAway (job : Nat)
  /-- system software's pre-emption of a job and its end (R72, R74) -/
  | preemptJob (job : Nat)
  | resumeJob (job : Nat)
deriving DecidableEq, Repr

structure State where
  mem : Memory
  /-- 32-byte DRAM units marked poisoned (R436), and poisoned 8-byte scratchpad units (block, unit) -/
  poison : List Nat
  padPoison : List (Nat × Nat)
  /-- by the place of a line (R109, R155) -/
  scopes : List (Loc × ScopeRec)
  cores : List Core
  dies : List Die
  hosts : List HostPort
  fabric : Fabric
  mgmt : Mgmt
  jobs : List JobState
  grids : List Grid
  blocks : List Block
  forks : List Fork
  heldWrites : List HeldWrite
  posted : List Posted
  migrations : List Migration
  /-- records detected and not yet written, in detection order (R411) -/
  held : List FaultRec
  stops : List Stop
  hostReads : List HostRead
  barReads : List BarRead
  awayResv : List AwayResv
  /-- chunks of collectives sent and not yet received here -/
  mail : List CollMail
  /-- what the module has sent to its hosts, oldest first; the model's own record of its output -/
  hostOut : List HostMsg
  /-- the model's own: source of keys, stamps, tags and record numbers -/
  stamp : Nat
  /-- the model's own: the counter that free values are drawn with -/
  free : Nat
  /-- the model's own: the partition that selected last, as core * 16 + partition -/
  selected : Nat
  /-- the model's own: the issue in progress -/
  cur : Issue
  /-- the model's own: the next steps, each with the core cycles that pass before it -/
  agenda : List (Nat × Turn)
deriving DecidableEq, Repr

/-! ## Reset (R238): the values the spec gives; the rest are named in the assumption log. -/

def Fair.zero : Fair := ⟨0, [], []⟩

def Issue.none : Issue := ⟨0, 0, [], 0, 0, 0, Option.none⟩

/-- Empty stores and no history: the spec gives no reset value for them (DESIGN CHOICE, log 4). -/
def Core.reset : Core :=
  { l1 := [], lines := [], wcb := [], tlb := [], retain := List.replicate 8 0, banks := List.range 127, predictor := [],
    maskCache := [] }

/-- Registers as Tables 3-3, 3-4, 5-3, 11-3 and 20-3 give them. The clock's reset value, which no table gives, is 0 on every
die; the L2 holds nothing, and every unit has its own number (DESIGN CHOICE, log 4). -/
def Die.reset : Die :=
  { clock := 0, budget := List.replicate 7 (0, true), budgetNext := List.replicate 7 (0, true),
    credit := List.replicate 7 0, held := 0, spent := 0, period := 0, lowered := [], evcnt := List.replicate 64 0, regce := 0, regue := 0,
    mxrerun := 0, mxfail := 0, memce := 0, memue := 0, viewrb := 0, tlbiva := 0, tlbiCmd := 0, tlbiBusy := false, tlbiWait := [],
    retention := List.replicate 8 ⟨0, 0, 0⟩, l2tlb := [], l2 := [], pairs := List.range 16,
    slices := List.range 32, channels := [], spares := List.replicate 5 0, wear := [] }

def Queue.reset : Queue := ⟨0, 4, 0, 0, 0, []⟩

def HostPort.reset : HostPort :=
  { up := false, lost := false, gone := false, perst := false, queues := List.replicate 64 Queue.reset, apbase := 0,
    apjob := 0, apen := false, pubadr := 0, pubval := 0, pubirq := false, pubvec := 0, hwbase := 0, hwdrop := 0,
    dirty := false }

def KeySlot.zero : KeySlot := ⟨0, 0, 0⟩

def Channel.reset : Channel := ⟨0, [], 0, 0, false, [], none, 0⟩

def FabPort.reset : FabPort :=
  { trained := false, peer := 0, insvc := false, marked := false, txcur := false, txval := 0, rxval := 0,
    kswitch := BitVec.ofNat 48 (2 ^ 40), tx := List.replicate 2 KeySlot.zero, rx := List.replicate 2 KeySlot.zero,
    staged := List.replicate 4 KeySlot.zero, linkerr := 0, authfail := 0, linkWindow := 0, authWindow := 0, authEpoch := 0, retrain := 0,
    retraining := false, down := false, replaced := false, stated := 0, klimit := false, noSlotSeen := false, vcs := List.replicate 4 Channel.reset,
    depth := List.replicate 16 0, heard := 0 }

def Fabric.reset : Fabric :=
  { ports := List.replicate 24 FabPort.reset, routes := List.replicate 2 (List.replicate 16 ⟨0, 0, false⟩),
    cur := false, inuse := 1, detour := 32, rnrlim := 8, lull := 512, reqs := [], relay := [], waiting := [], stuck := [], sent := [],
    draining := false }

def Mgmt.reset : Mgmt :=
  { flash := ⟨[], [], []⟩, fused := [], boot := 0, bootReason := 0, attErr := false, perst0 := false, primary := 0, dev := 0, dsize := 0, frac := 3,
    admitted := false, jobbase := 0, spareBusy := false, spareNone := false, sparing := [], frozen := false, scanaddr := 0, tj := 0,
    tin := 0, watts := 0, clockSteps := 0, throttled := false, calm := 0, hot := 0, strained := 0, hold := false, holdSeen := false, trip := false,
    thIrq := false, thVec := 0, nonce := List.replicate 32 0, attBusy := false, attReady := false, report := [],
    frbase := 0, frlog2n := 0, frlost := 0, frprod := 0, frcons := 0, irq0 := false, vec0 := 0, irq1 := false,
    vec1 := 0, sqsel := 0 }

/-- The module right after reset (R238, Tables 3-3 to 23-6): nothing launched, no memory listed, BOOTST.STATE 0. -/
def State.reset : State :=
  { mem := [], poison := [], padPoison := [], scopes := [], cores := List.replicate 128 Core.reset,
    dies := List.replicate 4 Die.reset, hosts := List.replicate 2 HostPort.reset, fabric := Fabric.reset,
    mgmt := Mgmt.reset, jobs := [], grids := [], blocks := [], forks := [], heldWrites := [], posted := [], migrations := [], held := [], stops := [],
    hostReads := [], barReads := [], awayResv := [], mail := [], hostOut := [], stamp := 0, free := 0, selected := 2047, cur := Issue.none, agenda := [] }

end Sys2Proof.Machine
end

