-- ==== Sys2Proof/Machine/Access.lean ====
section
/-! DEFINITION. Finding and changing the parts of the state: blocks, strands, lanes, registers, grids, forks, cores,
dies, ports, jobs; identity values; fresh keys and free values. -/

namespace Sys2Proof.Machine

open Sys2Proof

abbrev Result := Host.Outcome State Fault Refusal

/-! ## Records found by key -/

def State.block? (s : State) (key : Nat) : Option Block := s.blocks.find? fun b => b.key == key

def State.updBlock (s : State) (key : Nat) (f : Block → Block) : State :=
  { s with blocks := s.blocks.map fun b => if b.key == key then f b else b }

def State.grid? (s : State) (key : Nat) : Option Grid := s.grids.find? fun g => g.key == key

def State.updGrid (s : State) (key : Nat) (f : Grid → Grid) : State :=
  { s with grids := s.grids.map fun g => if g.key == key then f g else g }

def State.fork? (s : State) (key : Nat) : Option Fork := s.forks.find? fun f => f.key == key

def State.updFork (s : State) (key : Nat) (f : Fork → Fork) : State :=
  { s with forks := s.forks.map fun k => if k.key == key then f k else k }

def JobState.fresh (job : Nat) : JobState :=
  { job := job, stopped := false, halting := none, switching := false, marked := false, out := false, resuming := false,
    loss := false, nframe := 0, npkt := 0, pktoff := 0, used := 64, packets := [], late := [], frames := [] }

/-- The squall state of a job; a job that has none yet has the fresh one. -/
def State.job (s : State) (job : Nat) : JobState :=
  (s.jobs.find? fun j => j.job == job).getD (JobState.fresh job)

def State.updJob (s : State) (job : Nat) (f : JobState → JobState) : State :=
  if s.jobs.any fun j => j.job == job then
    { s with jobs := s.jobs.map fun j => if j.job == job then f j else j }
  else { s with jobs := s.jobs ++ [f (JobState.fresh job)] }

/-! ## Parts found by index -/

def State.core (s : State) (i : Nat) : Core := s.cores.getD i Core.reset

def State.updCore (s : State) (i : Nat) (f : Core → Core) : State := { s with cores := s.cores.modify i f }

def State.die (s : State) (i : Nat) : Die := s.dies.getD i Die.reset

def State.updDie (s : State) (i : Nat) (f : Die → Die) : State := { s with dies := s.dies.modify i f }

def State.host (s : State) (p : Nat) : HostPort := s.hosts.getD p HostPort.reset

def State.updHost (s : State) (p : Nat) (f : HostPort → HostPort) : State := { s with hosts := s.hosts.modify p f }

def State.port (s : State) (p : Nat) : FabPort := s.fabric.ports.getD p FabPort.reset

def State.updPort (s : State) (p : Nat) (f : FabPort → FabPort) : State :=
  { s with fabric := { s.fabric with ports := s.fabric.ports.modify p f } }

def Strand.absent : Strand :=
  { width := 8, role := .general, partition := 0, offset := 0, regs := [], lanes := [], gang := 0, arrivals := 0,
    arrived := none, fair := Fair.zero, quads := [], promoted := false, waited := 0, history := 0, run := none,
    replay := none }

def Block.strand (b : Block) (i : Nat) : Strand := b.strands.getD i Strand.absent

def Strand.lane (st : Strand) (l : Nat) : Lane := st.lanes.getD l Lane.never

def Strand.updLane (st : Strand) (l : Nat) (f : Lane → Lane) : Strand := { st with lanes := st.lanes.modify l f }

def State.updStrand (s : State) (blk i : Nat) (f : Strand → Strand) : State :=
  s.updBlock blk fun b => { b with strands := b.strands.modify i f }

def State.updLane (s : State) (blk i l : Nat) (f : Lane → Lane) : State :=
  s.updStrand blk i fun st => st.updLane l f

/-- Every lane of the list changed by `f`, which is given its number. -/
def Strand.updLanes (st : Strand) (ls : List Nat) (f : Nat → Lane → Lane) : Strand :=
  ls.foldl (fun st l => st.updLane l (f l)) st

/-! ## Registers (R81 to R86) -/

/-- The key of register `r` of lane `l` in its strand's table. -/
def regKey (l r : Nat) : Nat := l * 256 + r

def Strand.reg (st : Strand) (l r : Nat) : RegWord := cellsGet RegWord.zero (regKey l r) st.regs

def Strand.setReg (st : Strand) (l r : Nat) (w : RegWord) : Strand :=
  { st with regs := cellsPut RegWord.zero (regKey l r) w st.regs }

/-! ## Numbers of agents (R10 to R16, R54) -/

/-- The die of a logical core (R11). -/
def dieOf (core : Nat) : Nat := core / 32

/-- The core number of agents that are on no core: an access of theirs finds no TLB entry. -/
def noCore : Nat := 128

/-- The team of a logical core (R11). -/
def teamOf (core : Nat) : Nat := core / 2

def State.jobOf (s : State) (b : Block) : Nat := ((s.grid? b.grid).map fun g => g.launch.job).getD 0

/-- The block's grid is DET (R63, R131). -/
def State.isDet (s : State) (b : Block) : Bool := ((s.grid? b.grid).map fun g => g.launch.det).getD false

def State.isTeamed (s : State) (b : Block) : Bool := ((s.grid? b.grid).map fun g => g.launch.teamed).getD false

/-- The other block of a team (R96), resident or not. -/
def State.partner? (s : State) (b : Block) : Option Block :=
  if s.isTeamed b then s.blocks.find? fun p => p.grid == b.grid && p.index == b.index ^^^ 1 else none

def Role.code : Role → Nat
  | .general => 0
  | .copy => 1
  | .matrix => 2

def View.depth (s : State) : View → Nat
  | .root => 0
  | .child f _ => ((s.fork? f).map fun k => k.depth + 1).getD 1

/-! ## Fresh keys and free values -/

/-- A key, stamp or tag that nothing else has, and the state that has used it. -/
def State.fresh (s : State) : Nat × State := (s.stamp, { s with stamp := s.stamp + 1 })

/-- An index of a free value, and the state that has drawn it. -/
def State.draw (s : State) : Nat × State := (s.free, { s with free := s.free + 1 })

end Sys2Proof.Machine
end

