-- ==== Sys2Proof/Machine/Record.lean ====
section
/-! DEFINITION. Physical memory by byte, posted writes and messages to the hosts, fault records and the fault ring
(R113, R235, R411, R412, Table 19-4). -/

namespace Sys2Proof.Machine

open Sys2Proof

/-! ## Physical memory -/

/-- What a byte of DRAM that nothing has written reads as (DESIGN CHOICE, log 3). -/
def Config.unwritten : Byte := 0

def memGet (m : Memory) (pa : Nat) : Byte := cellsGet Config.unwritten pa m

def memPut (m : Memory) (pa : Nat) (b : Byte) : Memory := cellsPut Config.unwritten pa b m

/-- `n` bytes from `pa` on. -/
def memBytes (m : Memory) (pa : Nat) : Nat → List Byte
  | 0 => []
  | n + 1 => memGet m pa :: memBytes m (pa + 1) n

/-- Little-endian value of `n` bytes from `pa` on. -/
def memNat (m : Memory) (pa n : Nat) : Nat := leNat (memBytes m pa n)

def memPuts (m : Memory) (pa : Nat) : List Byte → Memory
  | [] => m
  | b :: bs => memPuts (memPut m pa b) (pa + 1) bs

/-- The memory is in canonical form. -/
def Memory.wf (m : Memory) : Bool := cellsWf Config.unwritten m

/-- A physical address in the DRAM of some stack (R113). -/
def isDram (pa : Nat) : Bool := pa / 2 ^ 40 == 0 && pa % 2 ^ 37 < 96 * 2 ^ 30

/-- The host window that a physical address lies in (R235). -/
def hostWindow? (pa : Nat) : Option Nat :=
  if pa / 2 ^ 40 == 1 then some 0 else if pa / 2 ^ 40 == 2 then some 1 else none

/-- The die whose register window a physical address lies in (R243). -/
def regWindow? (pa : Nat) : Option Nat :=
  if 0xF00 ≤ pa / 2 ^ 40 && pa / 2 ^ 40 < 0xF04 then some (pa / 2 ^ 40 - 0xF00) else none

/-- Two byte ranges of one place overlap. -/
def Loc.overlaps (a : Loc) (an : Nat) (b : Loc) (bn : Nat) : Bool :=
  let meet (x y : Nat) : Bool := x < y + bn && y < x + an
  match a, b with
  | .phys x, .phys y => meet x y
  | .scratch k x, .scratch j y => k == j && meet x y
  | .view f c x, .view g d y => f == g && c == d && meet x y
  | .remote d x, .remote e y => d == e && meet x y
  | .host p x, .host q y => p == q && meet x y
  | .reg d x, .reg e y => d == e && meet x y
  | _, _ => false

/-- Every reservation that a write of `n` bytes at `loc` conflicts with is cleared, but for those that `keep` names
by block, strand and lane (R351). -/
def State.clearResv (s : State) (loc : Loc) (n : Nat) (keep : Nat → Nat → Nat → Bool) : State :=
  let s :=
    if s.awayResv.isEmpty then s
    else { s with awayResv := s.awayResv.filter fun r => !r.loc.overlaps 4 loc n }
  if s.blocks.any fun b => b.strands.any fun st => st.lanes.any fun l => l.resv.isSome then
    { s with blocks := s.blocks.map fun b =>
        { b with strands := b.strands.mapIdx fun i st =>
            { st with lanes := st.lanes.mapIdx fun l ln =>
                match ln.resv with
                | some r => if r.loc.overlaps 4 loc n && !keep b.key i l then { ln with resv := none } else ln
                | none => ln } } }
  else s

/-- The marks of the 32-byte units that a write of `n` bytes at `pa` covers whole are cleared (R436). -/
def State.cleanUnits (s : State) (pa n : Nat) : State :=
  if s.poison.isEmpty then s
  else { s with poison := s.poison.filter fun u => !(decide (pa ≤ u * 32) && decide (u * 32 + 32 ≤ pa + n)) }

/-- The home slices record the lines of a migrating page that a write of `n` bytes touches (R121). -/
def State.noteWritten (s : State) (pa n : Nat) : State :=
  if s.migrations.isEmpty then s
  else
    let lines := (List.range ((pa + n - 1) / 128 - pa / 128 + 1)).map fun j => pa / 128 + j
    { s with migrations := s.migrations.map fun m =>
        { m with written := m.written ++ lines.filter fun l =>
            decide (m.old / 128 ≤ l) && decide (l * 128 < m.old + m.bytes) && !m.written.contains l } }

/-- Bytes written to DRAM by an agent that is no lane: reservations of every lane are cleared. -/
def State.pokePhys (s : State) (pa : Nat) (bs : List Byte) : State :=
  let s := ({ s with mem := memPuts s.mem pa bs }).noteWritten pa bs.length
  (s.cleanUnits pa bs.length).clearResv (.phys pa) bs.length fun _ _ _ => false

/-- A poisoned 32-byte unit lies in the `n` bytes from `pa` on. -/
def State.poisonAt (s : State) (pa n : Nat) : Option Nat :=
  if s.poison.isEmpty then none
  else leastBy id ((s.poison.filter fun u => decide (u * 32 < pa + n) && decide (pa < u * 32 + 32)).map
    fun u => max pa (u * 32))

/-! ## What the module sends to a host (R235, R237, R471) -/

def State.send (s : State) (m : HostMsg) : State := { s with hostOut := s.hostOut ++ [m] }

/-- Port `p` carries nothing: its link is down, or its reset is asserted. -/
def State.portGone (s : State) (p : Nat) : Bool := (s.host p).gone || (s.host p).perst

/-- The port accepts requests (R238, R471, R473). -/
def State.portAnswers (s : State) (p : Nat) : Bool :=
  decide (p < 2) && !s.portGone p && !s.mgmt.perst0 && s.mgmt.boot != 4

/-- The port answers reads of the management block, even after a failed boot (R473). -/
def State.portReads (s : State) (p : Nat) : Bool := decide (p < 2) && !s.portGone p && !s.mgmt.perst0

/-- The primary host's writes to the management block arrive (R234, R238). -/
def State.hostSpeaks (s : State) : Bool := s.portAnswers s.mgmt.primary

/-- A posted write to offset `off` of host window `p`; dropped and counted on a lost port (R469, R471). -/
def State.windowWrite (s : State) (p off : Nat) (bs : List Byte) : State :=
  if s.portGone p then s.updHost p fun h => { h with hwdrop := h.hwdrop + 1 }
  else (s.updHost p fun h => { h with dirty := true }).send (.write p ((s.host p).hwbase + off) bs true)

/-- An MSI-X message (dropped on a lost port). -/
def State.msix (s : State) (p vec : Nat) : State := if s.portGone p then s else s.send (.msix p vec)

/-! ## Fault records -/

/-- The 64 bytes of a record (Table 19-4). -/
def FaultRec.bytes (r : FaultRec) (seq : Nat) : List Byte :=
  leBytes 4 (r.cls % 256 + r.sub % 256 * 2 ^ 8 + r.kind % 4 * 2 ^ 16) ++
  leBytes 4 (r.job % 2 ^ 12 + r.dev % 16 * 2 ^ 12 + r.die % 4 * 2 ^ 16) ++
  leBytes 8 r.addr.toNat ++ leBytes 8 r.pc.toNat ++ leBytes 8 r.grid.toNat ++ leBytes 4 r.blk.toNat ++
  leBytes 4 (r.strand % 2 ^ 16 + r.core % 2 ^ 7 * 2 ^ 16) ++
  leBytes 8 r.lanes.toNat ++ leBytes 4 r.child.toNat ++ leBytes 4 r.info.toNat ++ leBytes 4 r.info2.toNat ++
  leBytes 4 seq

/-- Where the ring's entries lie, when the ring is on: in DRAM, or in a host window of a port that is not lost. -/
def State.ringOn (s : State) : Bool :=
  let m := s.mgmt
  let last := m.frbase + 64 * 2 ^ m.frlog2n - 1
  m.frlog2n != 0 &&
  ((isDram m.frbase && isDram last && m.frbase / 2 ^ 37 == last / 2 ^ 37) ||
   match hostWindow? m.frbase, hostWindow? last with
   | some p, some q => !s.portGone p && !s.portGone q
   | _, _ => false)

/-- One record written to the ring: FRPROD, faultinfo of its block, the SEQ of what it stopped, and the vectors. -/
def State.writeRecord (s : State) (r : FaultRec) : State :=
  let m := s.mgmt
  let prod := m.frprod
  let pa := m.frbase + 64 * (prod.toNat % 2 ^ m.frlog2n)
  let bs := r.bytes (prod.toNat % 2 ^ 32)
  let s := match hostWindow? pa with
    | some p => s.windowWrite p (pa % 2 ^ 40) bs
    | none => s.pokePhys pa bs
  let s := { s with
    mgmt := { s.mgmt with frprod := prod + 1 }
    stops := s.stops.map fun st => if st.id == r.id then { st with seq := some prod } else st }
  let s := match r.block with
    | some k => s.updBlock k fun b => { b with faultinfo := prod }
    | none => s
  let s := if m.irq0 then s.msix 0 m.vec0 else s
  if m.irq1 then s.msix 1 m.vec1 else s

/-- Held records written in order while the ring is on and has room (R411). -/
def State.drainHeld (s : State) : Nat → State
  | 0 => s
  | n + 1 =>
    match s.held with
    | [] => s
    | r :: rs =>
      if s.ringOn && decide ((s.mgmt.frprod - s.mgmt.frcons).toNat < 2 ^ s.mgmt.frlog2n) then
        ({ s with held := rs }.writeRecord r).drainHeld n
      else s

def State.drainRecords (s : State) : State := s.drainHeld s.held.length

/-- A record detected: it joins the held records, or is dropped and counted when it is an asynchronous record without
a job beyond 256 held ones (R411). -/
def State.note (s : State) (r : FaultRec) : State :=
  let orphan (q : FaultRec) : Bool := q.kind == 2 && q.job == 0xFFF
  let s := { s with held := s.held ++ [r] }.drainRecords
  if orphan r && decide (256 < (s.held.filter orphan).length) then
    { s with held := s.held.filter fun q => q.id != r.id, mgmt := { s.mgmt with frlost := s.mgmt.frlost + 1 } }
  else s

/-- An asynchronous record with its class-specific fields; the rest is "none" (R406, Table 19-4). -/
def FaultRec.async (id cls sub job dev : Nat) : FaultRec :=
  { id := id, cls := cls, sub := sub, kind := 2, job := job, dev := dev, die := 0, addr := 0, pc := 0, grid := 0,
    blk := 0, strand := 0xFFFF, core := 0, lanes := 0, child := 0xFFFFFFFF, info := 0, info2 := 0, block := none }

/-- An asynchronous record without a job, its fields filled by `f`: it informs, and stops nothing (Table 19-2). -/
def State.inform (s : State) (cls sub : Nat) (f : FaultRec → FaultRec) : State :=
  let (id, s) := s.fresh
  s.note (f (FaultRec.async id cls sub 0xFFF s.mgmt.dev))

end Sys2Proof.Machine
end

