-- ==== Sys2Proof/Machine/Cache.lean ====
section
/-! DEFINITION. The dies' budget regulators, and the tags of their L2 slices with the home directory (R13 to R15, R70, R71,
R110, R111). The bytes of every L2 are those of `State.mem`, since the directory keeps the L2s coherent. -/

namespace Sys2Proof.Machine

open Sys2Proof

/-- The clock of the die of a core, by which the core's timers run (R25). -/
def State.coreClock (s : State) (core : Nat) : Nat := (s.die (dieOf core)).clock.toNat

/-! ## Budgets (R70, R71) -/

/-- Credit, in bytes, of a budget: 0 is unlimited, and less than 8 units acts as 8. -/
def creditOf (units : Nat) : Nat := if units == 0 then 0 else 64 * max 8 units

/-- The class has a budget. -/
def Die.limited (d : Die) (c : Nat) : Bool := (d.budget.getD c (0, true)).1 != 0

/-- The classes that still hold credit, lowest first. -/
def Die.unspent (d : Die) : List Nat := (List.range 7).filter fun c => d.limited c && d.credit.getD c 0 != 0

/-- A request of class `c` may proceed: the class is unlimited or holds credit, or may use what others have left. -/
def Die.credited (d : Die) (c : Nat) : Bool :=
  !d.limited c || d.credit.getD c 0 != 0 || ((d.budget.getD c (0, true)).2 && !d.unspent.isEmpty)

/-- The class that a request of class `c` draws on: its own, or the lowest one that still holds credit. -/
def Die.payer (d : Die) (c : Nat) : Option Nat := if d.credit.getD c 0 != 0 then some c else d.unspent.head?

/-- `n` bytes that a request of class `c` moves, deducted. -/
def Die.deduct (d : Die) (c n : Nat) : Die :=
  if !d.limited c then d
  else
    match d.payer c with
    | none => d
    | some k =>
      let left := d.credit.getD k 0 - n
      { d with credit := d.credit.set k left
               spent := if left == 0 then d.spent ||| BitVec.ofNat 7 (2 ^ k) else d.spent }

def State.charge (s : State) (d c n : Nat) : State :=
  if (s.die d).limited c then s.updDie d fun x => x.deduct c n else s

/-- A request of a class is held at a die until the next period: HELD says so. -/
def State.holdClass (s : State) (d c : Nat) : State := s.updDie d fun x => { x with held := x.held ||| BitVec.ofNat 7 (2 ^ c) }

/-- The first of the dies at which a class has no credit. -/
def State.shortOf (s : State) (c : Nat) (ds : List Nat) : Option Nat := ds.find? fun d => !(s.die d).credited c

/-- An agent's requests of class `c` at some dies: held together, or made. -/
def State.underCredit (s : State) (c : Nat) (ds : List Nat) (go : State → State) : State :=
  match s.shortOf c ds with
  | some d => s.holdClass d c
  | none => go s

/-! ## The wear of units (R449, Table 21-10) -/

/-- The counts of a unit in the current window. -/
def Die.wearOf (d : Die) (kind unit : Nat) : Wear :=
  let w := d.clock.toNat / 2 ^ 34
  (d.wear.find? fun x => x.kind == kind && x.unit == unit && x.window == w).getD ⟨kind, unit, w, 0, 0, 0⟩

/-- One more event of a unit, as `f` counts it; what is left of an earlier window goes. -/
def Die.wearOut (d : Die) (kind unit : Nat) (f : Wear → Wear) : Die :=
  let w := d.clock.toNat / 2 ^ 34
  { d with wear := f (d.wearOf kind unit) ::
      d.wear.filter fun x => x.window == w && !(x.kind == kind && x.unit == unit) }

def Wear.correct (x : Wear) : Wear := { x with corrected := x.corrected + 1 }
def Wear.fail (x : Wear) : Wear := { x with fatal := x.fatal + 1 }
def Wear.rerun (x : Wear) : Wear := { x with reruns := x.reruns + 1 }

/-- The unit meets a trigger of Table 21-10. -/
def Wear.due (x : Wear) : Bool :=
  match x.kind with
  | 0 => decide (256 ≤ x.corrected) || decide (2 ≤ x.fatal) || decide (64 ≤ x.reruns)
  | 1 => decide (32 ≤ x.corrected) || x.fatal != 0
  | 2 => decide (128 ≤ x.corrected) || x.fatal != 0
  | _ => decide (1024 ≤ x.corrected) || x.fatal != 0

/-- The unit that SPARECMD numbers: of a core, its team. -/
def Wear.place (x : Wear) : Nat := if x.kind == 0 then x.unit / 2 else x.unit

/-- An event of a core, of its registers or its matrix engine. -/
def State.wearCore (s : State) (core : Nat) (f : Wear → Wear) : State :=
  s.updDie (dieOf core) fun d => d.wearOut 0 (core % 32) f

/-! ## L2 slices (R13, R14, R110) -/

/-- The die that a physical address lies on (R16, R113). -/
def dieOfAddr (pa : Nat) : Nat := pa / 2 ^ 38 % 4

/-- The logical slice that caches the line of a physical address (R14). -/
def sliceOf (pa : Nat) : Nat := ((List.range 9).map fun i => bits pa (7 + 5 * i) 5).foldl (· ^^^ ·) 0

/-- The bank of a scratchpad offset: its 16-byte word modulo 127 (R99, R100). -/
def bankOf (off : Nat) : Nat := off / 16 % 127

/-- The logical pseudo-channel of a physical address, numbered over its die's two stacks (R16, R114). -/
def channelOf (pa : Nat) : Nat := pa / 2 ^ 37 % 2 * 512 + (bits pa 8 9 ^^^ bits pa 17 9)

/-- The set of its slice that a line lies in. 2 MiB in 16 ways are 1,024 sets; that bits [21:12] choose among them is the
model's choice, which no value depends on (DESIGN CHOICE, log 100). -/
def setOf (pa : Nat) : Nat := pa / 2 ^ 12 % 2 ^ 10

/-- The home slice of a line, which keeps its directory entry, merges its granules and performs its atomics: die and
physical slice (R13, R15). -/
def State.homeSlice (s : State) (pa : Nat) : Nat × Nat :=
  (dieOfAddr pa, (s.die (dieOfAddr pa)).slices.getD (sliceOf pa) (sliceOf pa))

/-- The dies whose L2s hold a line, as its home directory records them (R15, R110). -/
def State.holders (s : State) (line : Nat) : List Nat :=
  (List.range s.dies.length).filter fun d => (s.die d).l2.any fun x => x.line == line

/-- The die that owns a line: it has written it since the line was last written back (R110). -/
def State.owner? (s : State) (line : Nat) : Option Nat :=
  (List.range s.dies.length).find? fun d => (s.die d).l2.any fun x => x.line == line && x.dirty

/-- The ways that an enabled retention range reserves in every slice. -/
def Retention.ways (r : Retention) : Nat := if bit r.ctl.toNat 0 then bits r.ctl.toNat 1 4 else 0

/-- The ways of a slice that lines of a retention range fill, or lines of none (R111). -/
def Die.waysFor (d : Die) : Option Nat → Nat
  | some n => (d.retention.getD n ⟨0, 0, 0⟩).ways
  | none => 16 - (d.retention.map Retention.ways).foldl (· + ·) 0

/-- Two lines of one die compete for the same ways. -/
def L2Line.rivals (x y : L2Line) : Bool :=
  x.range == y.range && sliceOf (x.line * 128) == sliceOf (y.line * 128) && setOf (x.line * 128) == setOf (y.line * 128)

/-- A line used in the die's L2: it moves to the front, or is filled, and the least recently used of its rivals leaves when
their ways are full. A range without ways of its own fills the general ones. -/
def Die.useL2 (d : Die) (line : Nat) (write : Bool) (range : Option Nat) : Die :=
  match d.l2.find? fun x => x.line == line with
  | some x => { d with l2 := { x with dirty := x.dirty || write } :: d.l2.filter fun y => y.line != line }
  | none =>
    let new : L2Line := ⟨line, write, if d.waysFor range == 0 then none else range⟩
    let gone := (d.l2.filter new.rivals).drop (d.waysFor new.range - 1)
    { d with l2 := new :: d.l2.filter fun y => !gone.contains y }

/-- What a use by die `d` does to the other dies' copies: a write invalidates them, and a read leaves them clean, with the
owner's bytes written back. -/
def Die.yieldL2 (x : Die) (line : Nat) (write : Bool) : Die :=
  if x.l2.any fun y => y.line == line then
    { x with l2 := if write then x.l2.filter fun y => y.line != line
                   else x.l2.map fun y => if y.line == line then { y with dirty := false } else y }
  else x

/-- A request of class `c` from die `d` that moves `n` bytes of the line at `pa`: it goes through the die's L2, and a miss
fetches the line from its home (R15, R70, R110). -/
def State.traffic (s : State) (d c pa n : Nat) (write : Bool) (range : Option Nat) : State :=
  let line := pa / 128
  let held := (s.die d).l2.any fun x => x.line == line
  let s := s.charge d c n
  let s := if held then s else s.charge (dieOfAddr pa) c 128
  { s with dies := s.dies.mapIdx fun e x => if e == d then x.useL2 line write range else x.yieldL2 line write }

/-- An L2 gives up a line, whose bytes its home stack then holds. -/
def State.dropL2 (s : State) (d line : Nat) : State :=
  s.updDie d fun x => { x with l2 := x.l2.filter fun y => y.line != line }

end Sys2Proof.Machine
end

