-- ==== Sys2Proof/Machine/Sha.lean ====
section
/-! DEFINITION. SHA-512 (FIPS 180-4), which R212 and R213 name: constants from the roots of the first primes, padding,
the compression function. -/

namespace Sys2Proof.Machine

open Sys2Proof

/-! ## Constants -/

/-- The greatest number with `n` bits or fewer, above `r`, whose `k`-th power is at most `x`. -/
def rootFrom (k : Nat) : Nat → Nat → Nat → Nat
  | 0, r, _ => r
  | n + 1, r, x => if (r + 2 ^ n) ^ k ≤ x then rootFrom k n (r + 2 ^ n) x else rootFrom k n r x

/-- `n` is divided by no number from 2 to `d + 1`. -/
def noDivisor (n : Nat) : Nat → Bool
  | 0 => true
  | d + 1 => n % (d + 2) != 0 && noDivisor n d

/-- The primes below 410: 80 of them. -/
def primes : List Nat := (List.range 410).filter fun n => decide (2 ≤ n) && noDivisor n (n - 2)

/-- The first 64 bits of the fractional parts of the square roots of the first eight primes. -/
def shaStart : List Dword := (primes.take 8).map fun p => BitVec.ofNat 64 (rootFrom 2 70 0 (p * 2 ^ 128))

/-- The first 64 bits of the fractional parts of the cube roots of the first eighty primes. -/
def shaKeys : List Dword := primes.map fun p => BitVec.ofNat 64 (rootFrom 3 70 0 (p * 2 ^ 192))

/-! ## Functions -/

def shaRot (x : Dword) (n : Nat) : Dword := x.rotateRight n

def shaBig0 (x : Dword) : Dword := shaRot x 28 ^^^ shaRot x 34 ^^^ shaRot x 39

def shaBig1 (x : Dword) : Dword := shaRot x 14 ^^^ shaRot x 18 ^^^ shaRot x 41

def shaSmall0 (x : Dword) : Dword := shaRot x 1 ^^^ shaRot x 8 ^^^ x >>> 7

def shaSmall1 (x : Dword) : Dword := shaRot x 19 ^^^ shaRot x 61 ^^^ x >>> 6

def shaCh (x y z : Dword) : Dword := (x &&& y) ^^^ (~~~x &&& z)

def shaMaj (x y z : Dword) : Dword := (x &&& y) ^^^ (x &&& z) ^^^ (y &&& z)

/-! ## Blocks -/

/-- The value of bytes, the most significant first. -/
def beNat (bs : List Byte) : Nat := bs.foldl (fun n b => n * 256 + b.toNat) 0

/-- `n` bytes of `x`, the most significant first. -/
def beBytes (n x : Nat) : List Byte := (leBytes n x).reverse

/-- `n` more words of the message schedule; the list holds the last sixteen, the newest first. -/
def shaExpand : Nat → List Dword → List Dword
  | 0, _ => []
  | n + 1, w =>
    let x := shaSmall1 (w.getD 1 0) + w.getD 6 0 + shaSmall0 (w.getD 14 0) + w.getD 15 0
    x :: shaExpand n (x :: w.take 15)

def shaSchedule (block : List Dword) : List Dword := block ++ shaExpand 64 block.reverse

/-- One round. -/
def shaRound (v : List Dword) (kw : Dword × Dword) : List Dword :=
  let g (i : Nat) := v.getD i 0
  let t1 := g 7 + shaBig1 (g 4) + shaCh (g 4) (g 5) (g 6) + kw.1 + kw.2
  let t2 := shaBig0 (g 0) + shaMaj (g 0) (g 1) (g 2)
  [t1 + t2, g 0, g 1, g 2, g 3 + t1, g 4, g 5, g 6]

def shaBlock (h block : List Dword) : List Dword :=
  let v := (shaKeys.zip (shaSchedule block)).foldl shaRound h
  (h.zip v).map fun p => p.1 + p.2

/-- What follows a message of `n` bytes: padding and length. -/
def shaPad (n : Nat) : List Byte := [0x80] ++ List.replicate ((239 - n % 128) % 128) 0 ++ beBytes 16 (8 * n)

/-- A list cut into parts of `k`; the first number bounds the parts. -/
def cut {α : Type} (k : Nat) : Nat → List α → List (List α)
  | 0, _ => []
  | n + 1, xs => if xs.isEmpty then [] else xs.take k :: cut k n (xs.drop k)

/-- The chaining value after whole 128-byte blocks. -/
def shaChain (h : List Dword) (bs : List Byte) : List Dword :=
  let words := (cut 8 (bs.length + 32) bs).map fun w => BitVec.ofNat 64 (beNat w)
  (cut 16 (bs.length + 4) words).foldl shaBlock h

/-- The bytes of a chaining value. -/
def chainBytes (h : List Dword) : List Byte := h.flatMap fun w => beBytes 8 w.toNat

/-- The 64-byte digest of a message of `n` bytes, from the chaining value of its whole blocks and the bytes after them. -/
def shaFinish (h : List Dword) (tail : List Byte) (n : Nat) : List Byte := chainBytes (shaChain h (tail ++ shaPad n))

/-- The 64-byte digest. -/
def sha512 (bs : List Byte) : List Byte := shaFinish shaStart bs bs.length

end Sys2Proof.Machine
end

