-- ==== Sys2Proof/Machine/Gcm.lean ====
section
/-! DEFINITION. The bytes of a flit, and AES-256-GCM over them (R18, R218, R232; FIPS 197 and NIST SP 800-38D, which the name
of the cipher stands for). -/

namespace Sys2Proof.Machine

open Sys2Proof

/-! ## The bytes of a flit (R79, Table 10-3) -/

/-- The TYPE code of Table 10-3. -/
def flitCode : FlitType → Nat
  | .readReq => 0
  | .readResp => 1
  | .write => 2
  | .writeAck => 3
  | .atomic => 4
  | .atomicResp => 5
  | .notReady => 6
  | .release => 7
  | .squall => 8
  | .keyMark => 9
  | .drain => 10
  | .idle => 11

/-- The 16-byte header (Table 10-3). -/
def flitHeader (f : Flit) : List Byte :=
  leBytes 16 (f.dst % 16 + f.src % 16 * 2 ^ 4 + f.via % 16 * 2 ^ 8 + f.vc % 4 * 2 ^ 12 + ofFlag f.gen * 2 ^ 14 +
    ofFlag f.kslot * 2 ^ 15 + f.job % 2 ^ 12 * 2 ^ 16 + flitCode f.typ * 2 ^ 28 + f.seq.toNat * 2 ^ 32 +
    f.score % 2 ^ 7 * 2 ^ 64 + f.tag % 2 ^ 12 * 2 ^ 71)

/-- The payload's bytes before padding: R218 gives what a request carries, and the model lays it out in that order (DESIGN CHOICE,
log 77). -/
def payloadBytes : Payload → List Byte
  | .readReq a n => leBytes 8 a ++ leBytes 8 n
  | .readResp d => d
  | .write a m d => leBytes 8 a ++ leBytes 16 m.toNat ++ d
  | .atomic a fn y c => leBytes 8 a ++ leBytes 4 fn ++ leBytes 4 y.toNat ++ leBytes 4 c.toNat
  | .atomicResp w => leBytes 4 w.toNat
  | .release fr d a n =>
    fr.flatMap (fun w => leBytes 4 w.toNat) ++ d ++ a.flatMap (fun w => leBytes 4 w.toNat) ++ leBytes 1 n.toNat
  | .squall h => leBytes 4 h.toNat
  | .drain g => leBytes 1 (ofFlag g)
  | .writeAck | .notReady | .keyMark | .idle => []

/-- What follows the operands of a request that is made in a child's view: the fork and child that the home needs (DESIGN
CHOICE, log 52). -/
def viewBytesOf : Option (Nat × Nat) → List Byte
  | none => []
  | some (k, c) => leBytes 8 k ++ leBytes 4 (c + 1)

/-- The 224-byte payload. -/
def flitPayload (f : Flit) : List Byte :=
  (payloadBytes f.payload ++ viewBytesOf f.view ++ List.replicate 224 0).take 224

/-! ## AES-256 (FIPS 197) -/

/-- The S-box, entry `b` in bits [8b+7:8b]. -/
def aesBox : Nat :=
  0x16bb54b00f2d99416842e6bf0d89a18cdf2855cee9871e9b948ed9691198f8e1 * 2 ^ 1792 +
  0x9e1dc186b95735610ef6034866b53e708a8bbd4b1f74dde8c6b4a61c2e2578ba * 2 ^ 1536 +
  0x08ae7a65eaf4566ca94ed58d6d37c8e779e4959162acd3c25c2406490a3a32e0 * 2 ^ 1280 +
  0xdb0b5ede14b8ee4688902a22dc4f816073195d643d7ea7c41744975fec130ccd * 2 ^ 1024 +
  0xd2f3ff1021dab6bcf5389d928f40a351a89f3c507f02f94585334d43fbaaefd0 * 2 ^ 768 +
  0xcf584c4a39becb6a5bb1fc20ed00d153842fe329b3d63b52a05a6e1b1a2c8309 * 2 ^ 512 +
  0x75b227ebe28012079a059618c323c7041531d871f1e5a534ccf73f362693fdb7 * 2 ^ 256 +
  0xc072a49cafa2d4adf04759fa7dc982ca76abd7fe2b670130c56f6bf27b777c63

def aesSub (b : Nat) : Nat := aesBox / 256 ^ b % 256

/-- A byte times x, modulo x^8 + x^4 + x^3 + x + 1. -/
def xtime (b : Nat) : Nat := if b < 128 then 2 * b else (2 * b) ^^^ 0x11B

def xorList (xs ys : List Nat) : List Nat := List.zipWith (· ^^^ ·) xs ys

/-- `n` more words of the key schedule; the list holds the words so far, the newest first. -/
def aesExpand : Nat → List (List Nat) → List (List Nat)
  | 0, ws => ws
  | n + 1, ws =>
    let i := ws.length
    let last := ws.headD []
    let rcon := (List.range (i / 8 - 1)).foldl (fun c _ => xtime c) 1
    let t :=
      if i % 8 == 0 then xorList ((last.drop 1 ++ last.take 1).map aesSub) [rcon, 0, 0, 0]
      else if i % 8 == 4 then last.map aesSub
      else last
    aesExpand n (xorList (ws.getD 7 []) t :: ws)

/-- The fifteen round keys, 16 bytes each, of a key of 32 bytes. -/
def aesKeys (key : List Nat) : List (List Nat) :=
  cut 16 15 ((aesExpand 52 ((cut 4 8 key).reverse)).reverse.flatMap id)

/-- SubBytes and ShiftRows: byte r of column c comes from column c + r. -/
def aesShift (st : List Nat) : List Nat := (List.range 16).map fun i => aesSub (st.getD ((i + 4 * (i % 4)) % 16) 0)

def aesMixColumn : List Nat → List Nat
  | [a, b, c, d] =>
    [xtime a ^^^ (xtime b ^^^ b) ^^^ c ^^^ d, a ^^^ xtime b ^^^ (xtime c ^^^ c) ^^^ d,
     a ^^^ b ^^^ xtime c ^^^ (xtime d ^^^ d), (xtime a ^^^ a) ^^^ b ^^^ c ^^^ xtime d]
  | x => x

def aesMix (st : List Nat) : List Nat := (cut 4 4 st).flatMap aesMixColumn

/-- The rounds after the first key: the last one mixes no columns. -/
def aesRounds : List (List Nat) → List Nat → List Nat
  | [], st => st
  | [k], st => xorList (aesShift st) k
  | k :: ks, st => aesRounds ks (xorList (aesMix (aesShift st)) k)

/-- One block of 16 bytes enciphered under round keys. -/
def aesBlock (keys : List (List Nat)) (x : List Nat) : List Nat :=
  match keys with
  | [] => x
  | k :: ks => aesRounds ks (xorList x k)

/-! ## GCM (NIST SP 800-38D) -/

/-- Product in GF(2^128), with the leftmost bit of a block as the coefficient of x^0. -/
def ghashMul (x y : Nat) : Nat :=
  ((List.range 128).foldl (fun zv i =>
    (if bit x (127 - i) then zv.1 ^^^ zv.2 else zv.1,
     if zv.2 % 2 == 1 then (zv.2 / 2) ^^^ (0xE1 * 2 ^ 120) else zv.2 / 2)) (0, y)).1

/-- GHASH of 16-byte blocks, as numbers with the first byte the most significant. -/
def ghash (h : Nat) (blocks : List Nat) : Nat := blocks.foldl (fun y x => ghashMul (y ^^^ x) h) 0

def bytesNat (bs : List Byte) : List Nat := bs.map fun b => b.toNat

/-- The blocks of a byte string, each as a number; the last one is filled with zeros. -/
def gcmBlocks (bs : List Byte) : List Nat :=
  (cut 16 (bs.length + 1) bs).map fun b => beNat ((b ++ List.replicate 16 0).take 16)

/-- The counter block of a 96-bit IV. -/
def gcmCounter (iv n : Nat) : List Nat := bytesNat (beBytes 16 (iv * 2 ^ 32 + n % 2 ^ 32))

/-- The text enciphered, or deciphered, by the key stream of an IV. -/
def gcmCrypt (keys : List (List Nat)) (iv : Nat) (text : List Byte) : List Byte :=
  ((cut 16 (text.length + 1) text).mapIdx fun i b =>
    b.zipWith (fun x k => x ^^^ BitVec.ofNat 8 k) (aesBlock keys (gcmCounter iv (i + 2)))).flatMap id

/-- The authentication tag of additional data and ciphertext. -/
def gcmTag (keys : List (List Nat)) (iv : Nat) (aad cipher : List Byte) : Nat :=
  let num (x : List Nat) : Nat := x.foldl (fun n b => n * 256 + b) 0
  let h := num (aesBlock keys (List.replicate 16 0))
  ghash h (gcmBlocks aad ++ gcmBlocks cipher ++ [8 * aad.length * 2 ^ 64 + 8 * cipher.length]) ^^^
    num (aesBlock keys (gcmCounter iv 1))

/-! ## A flit under a key slot (R232) -/

/-- The IV: the slot's salt in [95:64] and the invocation counter in [63:0]. -/
def KeySlot.iv (k : KeySlot) (ctr : Dword) : Nat := k.salt.toNat * 2 ^ 64 + ctr.toNat

/-- The round keys: KEY byte 0 is the first byte of FIPS 197 (R249). -/
def KeySlot.rounds (k : KeySlot) : List (List Nat) := aesKeys (bytesNat (leBytes 32 k.key.toNat))

/-- The encrypted payload that the wire carries. -/
def KeySlot.cipher (k : KeySlot) (f : Flit) : List Byte := gcmCrypt k.rounds (k.iv f.counter) (flitPayload f)

/-- The tag that a flit must carry under a slot: its header is the additional data. -/
def KeySlot.mac (k : KeySlot) (f : Flit) : BitVec 128 :=
  BitVec.ofNat 128 (gcmTag k.rounds (k.iv f.counter) (flitHeader f) (k.cipher f))

/-- The 256 bytes that a port sends: header, encrypted payload, tag (R18, R232). -/
def KeySlot.wire (k : KeySlot) (f : Flit) : List Byte := flitHeader f ++ k.cipher f ++ beBytes 16 f.mac.toNat

end Sys2Proof.Machine
end

