-- ==== Sys2Proof/Machine/Fabric.lean ====
section
/-! DEFINITION. Sending on the fabric: routes, sequence numbers, keys, remote requests and the flows that they belong
to (R215 to R233, R459 to R465). -/

namespace Sys2Proof.Machine

open Sys2Proof

/-- The number of a key slot as an index. -/
def slotIx (b : Bool) : Nat := if b then 1 else 0

/-- The port sends flits, once its link is up: it is in service with its current transmit slot loaded (R217, R464). -/
def FabPort.inService (p : FabPort) : Bool := p.insvc && p.txval.getLsbD (slotIx p.txcur) && !p.down

/-- The port's link carries its flits now. -/
def FabPort.sending (p : FabPort) : Bool := p.trained && p.inService

/-- The current transmit slot has an invocation counter value left (R463). -/
def FabPort.counts (p : FabPort) : Bool := decide ((p.tx.getD (slotIx p.txcur) KeySlot.zero).ctr.toNat < 2 ^ 48)

/-- The port may send new flits (R217, R463, R464). -/
def FabPort.canSend (p : FabPort) : Bool := p.sending && p.counts

/-- Flits queued at a port. Flits leave the port in the step that queues them, so that the queue is what the peer has
not acknowledged (DESIGN CHOICE, log 77). -/
def FabPort.queued (p : FabPort) : Nat := (p.vcs.map fun c => c.retry.length).foldl (· + ·) 0

/-- A flit with the tag that a key slot gives it (R232). -/
def KeySlot.sealed (k : KeySlot) (f : Flit) : Flit := { f with mac := k.mac f }

/-- The types that stand outside the link sequence (R220). -/
def unsequenced : FlitType → Bool
  | .release | .idle => true
  | _ => false

/-- The link-local types (R218). -/
def linkLocal : FlitType → Bool
  | .release | .squall | .keyMark | .drain | .idle => true
  | _ => false

/-- A new flit sent on port `p` and channel `vc` under the current slot: it takes the channel's next sequence number and
the slot's next counter value, and the retry buffer keeps it (R219, R220, R232, R460). While the link retrains it waits in
the retry buffer (R464). -/
def State.sendUnder (s : State) (p vc : Nat) (f : Flit) : State :=
  let q := s.port p
  let k := slotIx q.txcur
  let un := unsequenced f.typ
  let vc := if un then 0 else vc
  let ch := q.vcs.getD vc Channel.reset
  let ctr := (q.tx.getD k KeySlot.zero).ctr
  let f := (q.tx.getD k KeySlot.zero).sealed
    { f with port := p, vc := vc, kslot := q.txcur, seq := if un then 0 else ch.txSeq, counter := ctr }
  let now := (s.die (p / 6)).clock.toNat
  let s := s.updPort p fun q =>
    { q with
      tx := q.tx.modify k fun t => { t with ctr := t.ctr + 1 }
      klimit := decide (2 ^ 48 ≤ ctr.toNat + 1)
      vcs := if un then q.vcs else q.vcs.modify vc fun c =>
        { c with txSeq := c.txSeq + 1, retry := c.retry ++ [(f, ofFlag q.trained)]
                 quiet := if c.retry.isEmpty then now else c.quiet } }
  if q.trained then { s with fabric := { s.fabric with sent := s.fabric.sent ++ [f] } } else s

/-- The switch of R233: a key marker under the current slot, then the other slot, if it is loaded. A port at its limit
is back in service (R463). A port that may send no flit (R217) cannot send the marker, and does not switch (DESIGN CHOICE,
log 83). -/
def State.switchKey (s : State) (p : Nat) : State :=
  let q := s.port p
  if q.inService && q.txval.getLsbD (slotIx (!q.txcur)) then
    let s := s.sendUnder p 0
      { port := p, vc := 0, typ := .keyMark, dst := q.peer, src := s.mgmt.dev, via := q.peer, gen := s.fabric.cur,
        kslot := false, job := 0, seq := 0, score := 0, tag := 0, counter := 0, verdict := .ok, payload := .keyMark }
    s.updPort p fun q => { q with txcur := !q.txcur, noSlotSeen := false, klimit := false }
  else s

/-- The current transmit slot's counter has reached KSWITCH. -/
def FabPort.switchDue (q : FabPort) : Bool :=
  decide (q.kswitch.toNat ≤ (q.tx.getD (slotIx q.txcur) KeySlot.zero).ctr.toNat)

/-- A slot whose counter has reached KSWITCH is left, if the other one is loaded; if not, one record says so (R233,
R463). -/
def State.countKey (s : State) (p : Nat) : State :=
  let q := s.port p
  if !q.switchDue then s
  else if q.inService && q.txval.getLsbD (slotIx (!q.txcur)) then s.switchKey p
  else if q.noSlotSeen then s
  else
    (s.updPort p fun q => { q with noSlotSeen := true }).inform 0x22 1 fun r => { r with info := BitVec.ofNat 32 p }

/-- A new flit sent on port `p`, after the switch that its slot's counter asks for. -/
def State.sendFlit (s : State) (p vc : Nat) (f : Flit) : State := (s.countKey p).sendUnder p vc f

/-- The routing entry for module `m` in generation `g` (R221). -/
def Fabric.route (f : Fabric) (g : Bool) (m : Nat) : Route :=
  (f.routes.getD (slotIx g) []).getD m ⟨0, 0, false⟩

/-- Ports that reach `m` directly and can send. -/
def State.directPorts (s : State) (g : Bool) (m : Nat) : List Nat :=
  let r := s.fabric.route g m
  if r.valid then (List.range 24).filter fun p => r.direct.getLsbD p && (s.port p).canSend else []

/-- The least-deep port of a list, the lowest on a tie. -/
def State.shallowest (s : State) (ps : List Nat) : Option Nat := leastBy (fun p => (s.port p).queued) ps

/-- The latest depth that module `v` has stated for destination `m`, on whichever of its ports (R222, R224). -/
def State.reported (s : State) (v m : Nat) : Nat :=
  let ps := s.fabric.ports.filter fun p => p.trained && p.peer == v
  match leastBy (fun p : FabPort => s.stamp - p.heard) ps with
  | some p => p.depth.getD m 0
  | none => 0

/-- The first hop of a packet for `m`: port and relay (R222). -/
def State.chooseRoute (s : State) (m : Nat) : Option (Nat × Nat) :=
  let g := s.fabric.cur
  let direct := s.shallowest (s.directPorts g m)
  let dmin := direct.map fun p => (s.port p).queued
  let near := match dmin with
    | some d => decide (d ≤ s.fabric.detour)
    | none => false
  if near then direct.map fun p => (p, m)
  else
    let r := s.fabric.route g m
    let via := (List.range 16).filterMap fun v =>
      if r.valid && r.viaok.getLsbD v && v != m then
        (s.shallowest (s.directPorts g v)).map fun p => (((s.port p).queued + s.reported v m + s.fabric.detour, p), v)
      else none
    let best := leastBy (fun e => e.1.1) via
    match direct, dmin, best with
    | some p, some d, some ((c, q), v) => if d ≤ c then some (p, m) else some (q, v)
    | some p, _, none => some (p, m)
    | _, _, some ((_, q), v) => some (q, v)
    | _, _, none => none

/-- The least number from `k` on that the list lacks. -/
def leastFree (used : List Nat) : Nat → Nat → Nat
  | 0, k => k
  | n + 1, k => if used.contains k then leastFree used n (k + 1) else k

/-- A number that no outstanding request or host read has. -/
def State.freshTag (s : State) : Nat :=
  let used := (s.fabric.reqs.map fun r => r.tag) ++ s.hostReads.map fun r => r.tag
  leastFree used used.length 0

/-- The TAG of a header for a new request of a core (Table 10-3): 12 bits, one that none of its requests carries; 4,096,
which no header holds, when all are in use. -/
def State.headerTag (s : State) (core : Nat) : Nat :=
  leastFree ((s.fabric.reqs.filter fun r => r.core == core).map fun r => r.flit.tag) 4096 0

/-- Two requests belong to one flow (R225): source core, destination, line. -/
def RemoteReq.sameFlow (a b : RemoteReq) : Bool :=
  a.core == b.core && a.flit.dst == b.flit.dst &&
  (match a.loc, b.loc with
   | .remote _ x, .remote _ y => x / 128 == y / 128
   | _, _ => false)

/-- The request has been sent and is not acknowledged: it is on its way, or was turned away (R225, R229). -/
def RemoteReq.unacked (r : RemoteReq) : Bool := r.phase == .flying || r.phase.turned.isSome

/-- The budget class of a request: copies, checkpoints, hosts and compute (R70, R198). -/
def State.classOf (s : State) : Asker → Nat
  | .engine k slot gen =>
    if (s.block? k).any fun b => b.handles.any fun h => h.slot == slot && h.gen == gen && h.kind == 4 then 4 else 1
  | .bar _ | .post _ => 6
  | .lane _ _ _ | .core | .launch _ | .served _ => 0

def State.updReq (s : State) (tag : Nat) (f : RemoteReq → RemoteReq) : State :=
  { s with fabric := { s.fabric with reqs := s.fabric.reqs.map fun r => if r.tag == tag then f r else r } }

/-- The route of a request: the one that its flow keeps while any of its requests, this one among them, is unacknowledged,
and else a new one (R225). A kept route whose port is lost is kept no longer (R464). -/
def State.routeFor (s : State) (r : RemoteReq) : Option (Nat × Nat) :=
  match s.fabric.reqs.find? fun q => q.unacked && (q.tag == r.tag || q.sameFlow r) && !(s.port q.flit.port).down with
  | some q => if (s.port q.flit.port).canSend then some (q.flit.port, q.flit.via) else none
  | none => s.chooseRoute r.flit.dst

/-- The request is sent over its route, or waits for a route (R465), or for a TAG. -/
def State.launchReq (s : State) (tag : Nat) : State :=
  match s.fabric.reqs.find? fun r => r.tag == tag with
  | none => s
  | some r =>
    match if (s.job r.flit.job).out || decide (4096 ≤ r.flit.tag) then none else s.routeFor r with
    | none =>
      let now := s.coreClock r.core
      s.updReq tag fun r => { r with phase := .noRoute, since := if r.phase == .noRoute then r.since else now }
    | some (p, v) =>
      let f := { r.flit with via := v, gen := s.fabric.cur }
      let s := (s.charge (dieOf r.core) (s.classOf r.who) 256).sendFlit p 0 f
      s.updReq tag fun r => { r with phase := .flying, flit := { f with port := p }, reported := false }

/-- A new remote request (R227, R231): it waits behind an earlier request of its flow that is not on its way. -/
def State.request (s : State) (core job dst : Nat) (who : Asker) (va bytes : Nat) (loc : Loc)
    (typ : FlitType) (payload : Payload)
    (view : Option (Nat × Nat) := none) (fills : Bool := false) : Nat × State :=
  let tag := s.freshTag
  let f : Flit :=
    { port := 0, vc := 0, typ := typ, dst := dst, src := s.mgmt.dev, via := dst, gen := s.fabric.cur, kslot := false,
      job := job, seq := 0, score := core, tag := s.headerTag core, counter := 0, verdict := .ok, payload := payload,
      view := view }
  let r : RemoteReq :=
    { tag := tag, flit := f, core := core, who := who, va := va, loc := loc, bytes := bytes, tries := 0,
      phase := .flying, since := s.coreClock core, reported := false, fills := fills }
  let blocked := s.fabric.reqs.any fun q => q.phase != .flying && q.sameFlow r
  let r := if blocked then { r with phase := .behind } else { r with phase := .noRoute }
  let s := { s with fabric := { s.fabric with reqs := s.fabric.reqs ++ [r] } }
  (tag, if blocked then s else s.launchReq tag)

/-- The requests of a flow that waited behind a completed one are sent, in order. -/
def State.wakeFlow (s : State) (r : RemoteReq) : State :=
  let next := s.fabric.reqs.filter fun q => q.phase == .behind && q.sameFlow r
  if s.fabric.reqs.any fun q => (q.phase.turned.isSome || q.phase == .noRoute || q.phase == .refused) && q.sameFlow r
  then s
  else next.foldl (fun s q => s.launchReq q.tag) s

/-- An answered request or host read no longer keeps a TLB invalidation busy (R119). -/
def State.endWait (s : State) (tag : Nat) : State :=
  if s.dies.any fun d => d.tlbiWait.contains tag then
    { s with dies := s.dies.map fun d => { d with tlbiWait := d.tlbiWait.filter fun t => t != tag } }
  else s

/-- The TAG of a completed request of a core passes to the first of its requests that has none. -/
def State.passTag (s : State) (r : RemoteReq) : State :=
  match s.fabric.reqs.find? fun q => q.core == r.core && decide (4096 ≤ q.flit.tag) with
  | none => s
  | some q =>
    let s := s.updReq q.tag fun q => { q with flit := { q.flit with tag := r.flit.tag } }
    if q.phase == .behind then s else s.launchReq q.tag

/-- A completed request leaves; what waited behind it goes on. -/
def State.finishReq (s : State) (tag : Nat) : State :=
  match s.fabric.reqs.find? fun r => r.tag == tag with
  | none => s
  | some r =>
    let s := { s with fabric := { s.fabric with reqs := s.fabric.reqs.filter fun q => q.tag != tag } }
    ((s.endWait tag).wakeFlow r).passTag r

/-- Requests that waited for a route are tried again, those turned away by their retry alone (R229, R465). -/
def State.retryRoutes (s : State) : State :=
  (s.fabric.reqs.filter fun r => r.phase == .noRoute).foldl (fun s r => s.launchReq r.tag) s

/-- The types of a request (R219). -/
def isRequest : FlitType → Bool
  | .readReq | .write | .atomic => true
  | _ => false

/-- A packet that this module injects on its first hop, requests on VC0 and responses on VC2 (R219). A packet that finds no
port is kept until one takes it, and so is a packet of a job whose squall has sent this module's markers (DESIGN CHOICE,
log 77). -/
def State.respond (s : State) (f : Flit) : State :=
  let kept : State := { s with fabric := { s.fabric with stuck := s.fabric.stuck ++ [f] } }
  if (s.job f.job).marked || (s.job f.job).out then kept
  else
    match s.chooseRoute f.dst with
    | some (p, v) =>
      let g := { f with via := v, gen := s.fabric.cur }
      let s := s.sendFlit p (if isRequest f.typ then 0 else 2) g
      if isRequest f.typ && f.src == s.mgmt.dev then
        match s.fabric.reqs.find? fun r => r.flit.tag == f.tag && r.core == f.score && r.flit.dst == f.dst with
        | some r => s.updReq r.tag fun r => { r with flit := { r.flit with port := p, via := v } }
        | none => s
      else s
    | none => kept

/-- A packet relayed on its second hop (R223, R219). -/
def State.relayOut (s : State) (f : Flit) : Option State :=
  match s.shallowest (s.directPorts f.gen f.dst) with
  | some p => some (s.sendFlit p (if f.vc = 0 then 1 else 3) f)
  | none => none

/-- A link-local flit of port `p` to its peer (R218, R220). -/
def State.sendLocal (s : State) (p vc : Nat) (typ : FlitType) (job : Nat) (payload : Payload) : State :=
  s.sendFlit p vc
    { port := p, vc := vc, typ := typ, dst := (s.port p).peer, src := s.mgmt.dev, via := (s.port p).peer,
      gen := s.fabric.cur, kslot := false, job := job, seq := 0, score := 0, tag := 0, counter := 0, verdict := .ok,
      payload := payload }

/-- A squall marker or drain marker goes on every channel of every port in service, behind what is queued there: on a
port whose link retrains it waits with the rest (R220, R226, R77, R464). -/
def State.markAll (s : State) (typ : FlitType) (job : Nat) (payload : Nat → Nat → Payload) : State :=
  (List.range 24).foldl (fun s p =>
    if (s.port p).inService && (s.port p).counts then
      (List.range 4).foldl (fun s vc => s.sendLocal p vc typ job (payload p vc)) s
    else s) s

/-- A transmit slot is idle: it is not loaded or not current, and the retry buffer holds no flit under it (R233,
Table 10-7). -/
def FabPort.slotIdle (p : FabPort) (k : Nat) : Bool :=
  (k != slotIx p.txcur || !p.txval.getLsbD k) && !p.vcs.any fun c => c.retry.any fun e => slotIx e.1.kslot == k

/-- The buffer release of port `p` (R224, Table 23-1). -/
def State.releasePayload (s : State) (p : Nat) : Payload :=
  let q := s.port p
  .release (q.vcs.map fun c => c.freed)
    ((List.range 16).map fun m => BitVec.ofNat 8 (Nat.min 255
      (((s.shallowest (s.directPorts s.fabric.cur m)).map fun d => (s.port d).queued).getD 0)))
    (q.vcs.map fun c => c.rxNext - 1)
    (BitVec.ofNat 4 (maskOf ((List.range 4).filter fun v => (q.vcs.getD v Channel.reset).nak)))

/-! ## Draining the write-combining buffers (R230, R231) -/

/-- An entry sent as one write packet with its masked bytes; it stays until its acknowledgement. -/
def State.drainEntry (s : State) (core : Nat) (i : Nat) : State :=
  match (s.core core).wcb[i]? with
  | none => s
  | some e =>
    if e.sent.isSome then s
    else
      let mask := maskOf (e.bytes.map fun b => b.1)
      let data := (List.range 128).map fun j => (cellsGet none j e.bytes).getD 0
      let first := ((e.bytes.map fun b => b.1).head?).getD 0
      let (tag, s) := s.request core e.job e.dev .core (e.va + first) 128 (.remote e.dev e.line) .write
        (.write e.line (BitVec.ofNat 128 mask) data) e.view
      s.updCore core fun c => { c with wcb := c.wcb.modify i fun e => { e with sent := some tag } }

/-- Every unsent entry that `p` selects drains, oldest first. -/
def State.drainWhere (s : State) (core : Nat) (p : WcbEntry → Bool) : State :=
  (List.range (s.core core).wcb.length).foldl (fun s i =>
    match (s.core core).wcb[i]? with
    | some e => if p e && e.sent.isNone then s.drainEntry core i else s
    | none => s) s

def WcbEntry.key (e : WcbEntry) : Nat := (e.dev + 1) * 2 ^ 52 + e.line

/-- Tags of the sent entries that `p` selects: what a release still waits for. -/
def State.unacked (s : State) (core : Nat) (p : WcbEntry → Bool) : List Nat :=
  (s.core core).wcb.filterMap fun e => if p e then e.sent else none

end Sys2Proof.Machine
end

