-- ==== Sys2Proof/Machine/Regs.lean ====
section
/-! DEFINITION. The register windows of the dies (R243, Tables 3-3, 3-4, 5-3, 10-2, 10-4 to 10-7, 11-3, 11-8, 11-9,
15-10, 20-3, 21-9, 23-2), read and written in 8-byte units with a byte mask. -/

namespace Sys2Proof.Machine

open Sys2Proof

/-- `cur` with the bytes that `mask` names taken from `v` (8 bytes). -/
def overlay (cur v mask : Nat) : Nat :=
  leNat ((List.range 8).map fun i => BitVec.ofNat 8 (if bit mask i then v / 256 ^ i else cur / 256 ^ i))

/-! ## Behaviour of single registers -/

/-- The core on whose behalf an agent waits, if it is a core's. -/
def State.askerCore (s : State) : Asker → Option Nat
  | .lane k _ _ | .engine k _ _ => (s.block? k).map fun b => b.core
  | .core | .launch _ | .bar _ | .post _ | .served _ => none

/-- Requests and host reads of a die's cores, for a job or for any, that are not yet answered. -/
def State.unanswered (s : State) (d : Nat) (job : Option Nat) : List Nat :=
  let mine (j : Nat) : Bool := (job.map fun x => x == j).getD true
  let asks (h : HostRead) : Bool := ((s.askerCore h.who).map fun c => dieOf c == d).getD false
  ((s.fabric.reqs.filter fun r => dieOf r.core == d && mine r.flit.job).map fun r => r.tag) ++
    (s.hostReads.filter asks).map fun h => h.tag

/-- A write to TLBICMD (R119, R248): the invalidation is made and BUSY set, until every access that may have used an old
entry has completed; buffered stores drain for it. The write is ignored while BUSY reads 1 and starts nothing with EXT 0. -/
def State.tlbi (s : State) (d job ext : Nat) : State :=
  if (s.die d).tlbiBusy || ext % 4 == 0 then s
  else
    let va := (s.die d).tlbiva.toNat
    let keep (e : TlbEntry) : Bool :=
      match ext % 4 with
      | 1 => !(e.job == job && decide (e.leaf.base ≤ va) && decide (va < e.leaf.base + e.leaf.bytes))
      | 2 => !(e.job == job)
      | _ => false
    let only := if ext % 4 == 3 then none else some job
    let s := (List.range s.cores.length).foldl (fun s c =>
      if dieOf c == d then
        (s.updCore c fun k => { k with tlb := k.tlb.filter keep }).drainWhere c fun e =>
          (only.map fun j => j == e.job).getD true
      else s) s
    s.updDie d fun x =>
      { x with l2tlb := x.l2tlb.filter keep, tlbiBusy := true, tlbiWait := s.unanswered d only,
               tlbiCmd := BitVec.ofNat 32 (job % 4096 + ext % 4 * 4096) }

/-- The old generation's INUSE clears once its last flit cannot arrive any more (R226). -/
def State.retireGeneration (s : State) : State :=
  let f := s.fabric
  let old := !f.cur
  let clean := f.ports.all fun p => !(p.inService && p.counts) || p.vcs.all fun c => c.drained == some old
  if f.draining && clean && !f.relay.any fun x => x.gen == old then
    { s with fabric := { f with
        draining := false
        inuse := if old then f.inuse &&& 1 else f.inuse &&& 2
        ports := f.ports.map fun p => { p with vcs := p.vcs.map fun c => { c with drained := none } } } }
  else s

/-- A write of RTGEN.CUR (R226): a change switches injection, marks the new generation in use and sends drain markers
that name the old one. -/
def State.switchGeneration (s : State) (g : Bool) : State :=
  if g == s.fabric.cur then s
  else
    let old := s.fabric.cur
    let s := { s with fabric := { s.fabric with
      cur := g, draining := true, inuse := s.fabric.inuse ||| (if g then 2 else 1) } }
    (s.markAll .drain 0 fun _ _ => .drain old).retireGeneration

/-- A write of 1 to LOAD of KEYDATAp,k (R249): slots 0 and 1 transmit, 2 and 3 receive; a transmit slot that is not
idle is left alone. A port at its counter limit switches to a slot loaded in this way (R463). -/
def State.loadKey (s : State) (p k : Nat) : State :=
  let q := s.port p
  let v := q.staged.getD k KeySlot.zero
  if k < 2 then
    if q.slotIdle k then
      let s := s.updPort p fun q =>
        { q with tx := q.tx.set k v, txval := q.txval ||| BitVec.ofNat 2 (2 ^ k) }
      if q.klimit && k != slotIx q.txcur then s.switchKey p else s
    else s
  else s.updPort p fun q =>
    { q with rx := q.rx.set (k - 2) v, rxval := q.rxval ||| BitVec.ofNat 2 (2 ^ (k - 2)) }

/-! ## Reading -/

def Route.nat (r : Route) : Nat := r.direct.toNat + r.viaok.toNat * 2 ^ 24 + ofFlag r.valid * 2 ^ 40

def budgetNat (b : BitVec 24 × Bool) : Nat := b.1.toNat + ofFlag b.2 * 2 ^ 24

/-- The fabric block (die 0), at an 8-byte offset. -/
def State.readFabric (s : State) (o : Nat) : Nat :=
  let f := s.fabric
  if 0x1000 ≤ o && o < 0x1000 + 16 * 24 then
    let p := s.port ((o - 0x1000) / 16)
    if o % 16 == 0 then ofFlag p.trained + p.peer % 16 * 2 + ofFlag p.insvc * 32
    else
      ofFlag p.txcur + p.txval.toNat * 2 + p.rxval.toNat * 8 +
      (ofFlag (p.slotIdle 0) + 2 * ofFlag (p.slotIdle 1)) * 64 + p.kswitch.toNat * 2 ^ 16
  else if 0x1400 ≤ o && o < 0x1400 + 16 * 24 && o % 16 == 0 then
    let p := s.port ((o - 0x1400) / 16)
    p.linkerr.toNat + p.authfail.toNat * 2 ^ 16 + p.retrain.toNat * 2 ^ 32 + ofFlag p.down * 2 ^ 40 +
      ofFlag p.klimit * 2 ^ 41
  else if 0x2000 ≤ o && o < 0x2080 then (f.route false ((o - 0x2000) / 8)).nat
  else if 0x2100 ≤ o && o < 0x2180 then (f.route true ((o - 0x2100) / 8)).nat
  else if o == 0x2200 then ofFlag f.cur + f.inuse.toNat * 2
  else if o == 0x2208 then f.detour
  else if o == 0x2210 then f.rnrlim
  else if o == 0x2300 then f.lull
  else 0

/-- HELD of BUDGETST (Table 3-4): the classes with requests held now; the lanes that wait are class 0. -/
def State.heldNow (s : State) (d : Nat) : BitVec 7 :=
  (s.die d).held ||| (if s.blocks.any fun b => b.strands.any fun st => st.lanes.any fun l => l.park == .credit d then 1 else 0)

/-- The value of the 8-byte unit at offset `o` of die `d`'s window; unassigned offsets read as 0 (R243). -/
def State.readReg (s : State) (d o : Nat) : Nat :=
  let x := s.die d
  if o < 0x10000 then
    if 0x400 ≤ o && o < 0x438 then budgetNat (x.budgetNext.getD ((o - 0x400) / 8) (0, true))
    else if o == 0x440 then (s.heldNow d).toNat + x.spent.toNat * 256
    else if 0x800 ≤ o && o < 0xA00 then (x.evcnt.getD ((o - 0x800) / 8) 0).toNat
    else if o == 0xA00 then x.regce.toNat
    else if o == 0xA08 then x.regue.toNat
    else if o == 0xA10 then x.mxrerun.toNat
    else if o == 0xA18 then x.mxfail.toNat
    else if o == 0xA20 then x.memce.toNat
    else if o == 0xA28 then x.memue.toNat
    else if o == 0xA30 then x.viewrb.toNat
    else 0
  else if o < 0x20000 then
    let o := o - 0x10000
    if o == 0x100 then x.tlbiva.toNat
    else if o == 0x108 then ofFlag x.tlbiBusy * 2 ^ 31
    else if 0x600 ≤ o && o < 0x700 then
      let r := x.retention.getD ((o - 0x600) / 32) ⟨0, 0, 0⟩
      if o % 32 == 0 then r.base.toNat else if o % 32 == 8 then r.limit.toNat
      else if o % 32 == 16 then r.ctl.toNat else 0
    else 0
  else if o < 0x30000 && d == 0 then s.readFabric (o - 0x20000)
  else 0

/-! ## Writing -/

/-- Bits [56:16] of a value, as the 64 KiB unit fields keep them. -/
def unitField (v : Nat) : Dword := BitVec.ofNat 64 (bits v 16 41 * 2 ^ 16)

/-- RETCTLn (Table 5-3): EN, WAYS at most 12, RATIO at most 256, JOB. -/
def retctlField (v : Nat) : Dword :=
  BitVec.ofNat 64 (bits v 0 1 + bits v 1 4 * 2 + bits v 8 9 * 2 ^ 8 + bits v 20 12 * 2 ^ 20)

/-- A write to KEYDATAp,k (Table 11-9): the bytes written become the staged key, salt and counter. -/
def State.stageKey (s : State) (p k o v mask : Nat) : State :=
  s.updPort p fun q =>
    { q with staged := q.staged.modify k fun z =>
        let old := z.key.toNat + z.salt.toNat * 2 ^ 256 + z.ctr.toNat * 2 ^ 288
        let w := overlay (bits old (8 * o) 64) v mask
        let new := old - bits old (8 * o) 64 * 2 ^ (8 * o) + w * 2 ^ (8 * o)
        { key := BitVec.ofNat 256 new, salt := BitVec.ofNat 32 (new / 2 ^ 256),
          ctr := BitVec.ofNat 64 (new / 2 ^ 288) } }

/-- Fabric block: the bytes of `v` that `mask` names written at offset `o`. -/
def State.writeFabric (s : State) (o v mask : Nat) : State :=
  let w := overlay (s.readFabric o) v mask
  if 0x1000 ≤ o && o < 0x1000 + 16 * 24 then
    let p := (o - 0x1000) / 16
    if o % 16 == 0 then s.updPort p fun q => { q with insvc := bit w 5 }
    else
      let s := s.updPort p fun q =>
        { q with txval := BitVec.ofNat 2 (bits w 1 2), rxval := BitVec.ofNat 2 (bits w 3 2),
                 kswitch := BitVec.ofNat 48 (bits w 16 48) }
      if bit mask 0 && bit v 5 then s.switchKey p else s
  else if 0x1400 ≤ o && o < 0x1400 + 16 * 24 && o % 16 == 0 then
    s.updPort ((o - 0x1400) / 16) fun q =>
      { q with linkerr := BitVec.ofNat 16 (bits w 0 16), authfail := BitVec.ofNat 16 (bits w 16 16),
               retrain := BitVec.ofNat 8 (bits w 32 8) }
  else if (0x2000 ≤ o && o < 0x2080) || (0x2100 ≤ o && o < 0x2180) then
    let r : Route := ⟨BitVec.ofNat 24 (bits w 0 24), BitVec.ofNat 16 (bits w 24 16), bit w 40⟩
    let g := (o - 0x2000) / 0x100
    ({ s with fabric := { s.fabric with
      routes := s.fabric.routes.modify g fun t => t.set (o % 0x100 / 8) r } }).retryRoutes
  else if o == 0x2200 then s.switchGeneration (bit w 0)
  else if o == 0x2208 then { s with fabric := { s.fabric with detour := bits w 0 8 } }
  else if o == 0x2210 then { s with fabric := { s.fabric with rnrlim := max 1 (bits w 0 4) } }
  else if o == 0x2300 then
    { s with fabric := { s.fabric with lull := if bits w 0 11 == 0 then 1 else Nat.min 1024 (bits w 0 11) } }
  else if 0x4000 ≤ o && o < 0x4000 + 256 * 24 then
    let p := (o - 0x4000) / 256
    let k := o % 256 / 64
    let s := if o % 64 < 48 then s.stageKey p k (o % 64) v mask else s
    if o % 64 == 40 && bit mask 4 && bit v 32 then s.loadKey p k else s
  else s

/-- Die window `d`: the bytes of `v` that `mask` names written at 8-byte offset `o`; RO fields keep their values,
W1C fields clear where 1 is written, unassigned offsets ignore the write (R6, R243). -/
def State.writeReg (s : State) (d o v mask : Nat) : State :=
  let w := overlay (s.readReg d o) v mask
  let q := BitVec.ofNat 64 w
  if o < 0x10000 then
    if 0x400 ≤ o && o < 0x438 then
      s.updDie d fun x =>
        { x with budgetNext := x.budgetNext.set ((o - 0x400) / 8) (BitVec.ofNat 24 w, bit w 24) }
    else if o == 0x440 then
      s.updDie d fun x =>
        if bit mask 1 then { x with spent := x.spent &&& ~~~(BitVec.ofNat 7 (v / 256)) } else x
    else if 0x800 ≤ o && o < 0xA00 then
      s.updDie d fun x => { x with evcnt := x.evcnt.set ((o - 0x800) / 8) q }
    else if o == 0xA00 then s.updDie d fun x => { x with regce := q }
    else if o == 0xA08 then s.updDie d fun x => { x with regue := q }
    else if o == 0xA10 then s.updDie d fun x => { x with mxrerun := q }
    else if o == 0xA18 then s.updDie d fun x => { x with mxfail := q }
    else if o == 0xA20 then s.updDie d fun x => { x with memce := q }
    else if o == 0xA28 then s.updDie d fun x => { x with memue := q }
    else if o == 0xA30 then s.updDie d fun x => { x with viewrb := q }
    else s
  else if o < 0x20000 then
    let r := o - 0x10000
    if r == 0x100 then s.updDie d fun x => { x with tlbiva := unitField w }
    else if r == 0x108 then
      let c := overlay 0 v mask
      s.tlbi d (bits c 0 12) (bits c 12 2)
    else if 0x600 ≤ r && r < 0x700 then
      s.updDie d fun x =>
        { x with retention := x.retention.modify ((r - 0x600) / 32) fun z =>
            if r % 32 == 0 then { z with base := unitField w }
            else if r % 32 == 8 then { z with limit := unitField w }
            else if r % 32 == 16 then { z with ctl := retctlField w } else z }
    else s
  else if o < 0x30000 && d == 0 then s.writeFabric (o - 0x20000) v mask
  else s

/-- `n` bytes from offset `off` of die `d`'s window. -/
def State.readWindow (s : State) (d off : Nat) : Nat → List Byte
  | 0 => []
  | n + 1 => BitVec.ofNat 8 (s.readReg d (off / 8 * 8) / 256 ^ (off % 8)) :: s.readWindow d (off + 1) n

/-- Bytes written from offset `off` on, one write for each 8-byte unit that they touch. -/
def State.writeWindow (s : State) (d off : Nat) (bs : List Byte) : State :=
  let n := bs.length
  (List.range ((off % 8 + n + 7) / 8)).foldl (fun s u =>
    let o := off / 8 * 8 + 8 * u
    let lanes := (List.range 8).filter fun i => decide (off ≤ o + i) && decide (o + i < off + n)
    let v := leNat ((List.range 8).map fun i => if lanes.contains i then bs.getD (o + i - off) 0 else 0)
    s.writeReg d o v (maskOf lanes)) s

end Sys2Proof.Machine
end

