-- ==== Sys2Proof/Machine/Translate.lean ====
section
/-! DEFINITION. The job table, page tables, TLBs, and the place that an address reaches with the fault of Table 21-1
when it reaches none (R94 to R97, R113 to R119, R242, R432). -/

namespace Sys2Proof.Machine

open Sys2Proof

/-! ## Job table and page walk -/

/-- An entry of the job table (Table 11-2), if it is valid. -/
def State.jobEntry (s : State) (job off n : Nat) : Option Nat :=
  let e := s.mgmt.jobbase + 64 * job
  if bit (memNat s.mem e 1) 0 then some (memNat s.mem (e + off) n) else none

/-- Bytes that a leaf at a level maps (Table 5-4); none where no leaf stands. -/
def pageBytes : Nat → Option Nat
  | 0 => some (2 ^ 16)
  | 1 => some (2 ^ 21)
  | 2 => some (2 ^ 30)
  | _ => none

/-- Index of `va` in the table of a level (Table 5-4). -/
def tableIndex (level va : Nat) : Nat :=
  match level with
  | 0 => bits va 16 5
  | n + 1 => bits va (21 + 9 * n) 9

def entryLeaf (e va size : Nat) : Leaf :=
  { base := va / size * size, bytes := size, perm := BitVec.ofNat 3 (bits e 2 3), cache := BitVec.ofNat 2 (bits e 5 2),
    view := bit e 7, rop := BitVec.ofNat 4 (bits e 8 4), rtype := BitVec.ofNat 4 (bits e 12 4),
    key := BitVec.ofNat 4 (bits e 16 4), job := bits e 20 12, home := bits e 32 4, pin := bit e 36,
    addr := bits e 64 64 / size * size }

/-- The walk from the table at `table` of level `level` (R115, R116). -/
def walk (m : Memory) (va : Nat) : Nat → Nat → Option Leaf
  | 0, table =>
    let e := memNat m (table + 16 * tableIndex 0 va) 16
    if bit e 0 then some (entryLeaf e va (2 ^ 16)) else none
  | level + 1, table =>
    let e := memNat m (table + 16 * tableIndex (level + 1) va) 16
    if !bit e 0 then none
    else if bit e 1 then (pageBytes (level + 1)).map (entryLeaf e va)
    else walk m va level (bits e 64 64)

/-- The physical address of the entry whose leaf the walk finds. -/
def walkEntry (m : Memory) (va : Nat) : Nat → Nat → Option Nat
  | 0, table =>
    let a := table + 16 * tableIndex 0 va
    if bit (memNat m a 16) 0 then some a else none
  | level + 1, table =>
    let a := table + 16 * tableIndex (level + 1) va
    let e := memNat m a 16
    if !bit e 0 then none
    else if bit e 1 then (if level + 1 ≤ 2 then some a else none)
    else walkEntry m va level (bits e 64 64)

/-- The leaf of `va` in the job's page table, from memory. -/
def State.walkJob (s : State) (job va : Nat) : Option Leaf :=
  match s.jobEntry job 8 8 with
  | some root => walk s.mem va 4 root
  | none => none

def TlbEntry.hits (e : TlbEntry) (job va : Nat) : Bool :=
  e.job == job && decide (e.leaf.base ≤ va) && decide (va < e.leaf.base + e.leaf.bytes)

/-- The leaf that a core's access to `va` uses: from its TLB, its die's, or a walk (R118). -/
def State.leaf? (s : State) (core job va : Nat) : Option Leaf :=
  match (s.core core).tlb.find? fun e => e.hits job va with
  | some e => some e.leaf
  | none =>
    match (s.die (dieOf core)).l2tlb.find? fun e => e.hits job va with
    | some e => some e.leaf
    | none => s.walkJob job va

/-- The retention range of die `d` that an access of a job falls in: the lowest-numbered enabled one (R111). -/
def Die.retentionOf (d : Die) (job va : Nat) : Option Nat :=
  d.retention.findIdx? fun r =>
    bit r.ctl.toNat 0 && bits r.ctl.toNat 20 12 == job && decide (r.base.toNat / 2 ^ 16 ≤ va / 2 ^ 16) &&
    decide (va / 2 ^ 16 ≤ r.limit.toNat / 2 ^ 16)

/-- The retention range that an access falls in and the core's counter for it after the access (R111, R112). -/
def State.retainCount (s : State) (core job va : Nat) : Option (Nat × Nat) :=
  let d := s.die (dieOf core)
  (d.retentionOf job va).map fun n =>
    (n, (s.core core).retain.getD n 0 + bits ((d.retention.getD n ⟨0, 0, 0⟩).ctl.toNat) 8 9)

/-- The range whose reserved ways the access fills: the core's counter crosses a multiple of 256 with it (R111, R112). -/
def State.retainedIn (s : State) (core job va : Nat) : Option Nat :=
  match s.retainCount core job va with
  | some (n, c) => if 256 ≤ c then some n else none
  | none => none

/-- An access counts in its retention range (R112). -/
def State.retainAccess (s : State) (core job va : Nat) : State :=
  match s.retainCount core job va with
  | some (n, c) => s.updCore core fun k => { k with retain := k.retain.set n (c % 256) }
  | none => s

/-- The TLBs of a core and its die hold the leaf that its access used (R118), and the access counts in its retention range. -/
def State.fillTlb (s : State) (core job va : Nat) : State :=
  match s.leaf? core job va with
  | none => s
  | some lf =>
    let e : TlbEntry := ⟨job, lf⟩
    let put (n : Nat) (t : List TlbEntry) : List TlbEntry := if t.any fun x => x.hits job va then t else (e :: t).take n
    ((s.updCore core fun c => { c with tlb := put 256 c.tlb }).updDie (dieOf core) fun d =>
      { d with l2tlb := put 8192 d.l2tlb }).retainAccess core job va

/-! ## Places -/

inductive Perm where
  | read | write | exec
deriving DecidableEq, Repr

def Perm.ix : Perm → Nat
  | .read => 0
  | .write => 1
  | .exec => 2

/-- First byte of the scratchpad windows (Table 5-1). -/
def windowBase : Nat := 0x01FF000000000000

/-- What a translated access reaches, and the leaf that it used. -/
structure Place where
  loc : Loc
  leaf : Option Leaf
deriving DecidableEq, Repr

/-- A class, SUB and faulting address. -/
structure Flaw where
  cls : Nat
  sub : Nat
  addr : Nat
deriving DecidableEq, Repr

/-- Bytes of a block's allocation (R96). -/
def Block.padBytes (b : Block) : Nat := b.rows * 2032

/-- The scratchpad access at offset `x` of block `b` (R95, R97, Table 21-1). -/
def State.padPlace (s : State) (b : Block) (x n : Nat) : Except Flaw Place :=
  let y := x % 2 ^ 22
  if 2 ^ 23 ≤ x then .error ⟨0x13, 2, x⟩
  else if bit x 22 then
    match s.partner? b with
    | none => .error ⟨0x13, 1, x⟩
    | some p => if y + n ≤ p.padBytes then .ok ⟨.scratch p.key y, none⟩ else .error ⟨0x13, 0, max x (2 ^ 22 + p.padBytes)⟩
  else if y + n ≤ b.padBytes then .ok ⟨.scratch b.key y, none⟩
  else .error ⟨0x13, 0, max x b.padBytes⟩

/-- The place of a physical address (R113, R235, R243). -/
def physPlace (pa va : Nat) : Except Flaw Loc :=
  if isDram pa then .ok (.phys pa)
  else
    match hostWindow? pa, regWindow? pa with
    | some p, _ => .ok (.host p (pa % 2 ^ 40))
    | _, some d => .ok (.reg d (pa % 2 ^ 40))
    | _, _ => .error ⟨0x10, 2, va⟩

/-- The paged access at `va` through leaf `lf` by a thread of job `job` in view `view` (R116, R117, R126, Table 21-1). -/
def State.pagedPlace (s : State) (lf : Leaf) (job : Nat) (view : View) (va : Nat) (p : Perm) : Except Flaw Place :=
  let a := lf.addr + (va - lf.base)
  let local_ := lf.home == s.mgmt.dev
  let at' : Except Flaw Loc := if local_ then physPlace a va else .ok (.remote lf.home a)
  if lf.cache == 3 then .error ⟨0x10, 2, va⟩
  else
    match at' with
    | .error e => .error e
    | .ok loc =>
      if !lf.perm.getLsbD p.ix then .error ⟨0x11, p.ix, va⟩
      else if lf.job != job then .error ⟨0x11, 3, va⟩
      else
        match view with
        | .child f c => if lf.view && local_ then .ok ⟨.view f c va, some lf⟩ else .ok ⟨loc, some lf⟩
        | .root => .ok ⟨loc, some lf⟩

/-- The place of a generic address for a thread of block `b` (Table 5-1). -/
def State.place (s : State) (b : Block) (job va n : Nat) (p : Perm) : Except Flaw Place :=
  if 2 ^ 57 ≤ va then .error ⟨0x10, 1, va⟩
  else if va < windowBase then
    match s.leaf? b.core job va with
    | none => .error ⟨0x10, 0, va⟩
    | some lf => s.pagedPlace lf job b.view va p
  else if va < windowBase + 2 ^ 23 then
    match s.padPlace b (va - windowBase) n with
    | .ok p => .ok p
    | .error f => .error { f with addr := f.addr + windowBase }
  else .error ⟨0x10, 2, va⟩

/-- The place of an address for an agent that is no thread, as an access of the job in its root view. -/
def State.placeJob (s : State) (core job va : Nat) (p : Perm) : Except Flaw Place :=
  if 2 ^ 57 ≤ va then .error ⟨0x10, 1, va⟩
  else if va < windowBase then
    match s.leaf? core job va with
    | none => .error ⟨0x10, 0, va⟩
    | some lf => s.pagedPlace lf job .root va p
  else .error ⟨0x10, 2, va⟩

/-- A generic address in a scratchpad window, as its offset (R95). -/
def padOffset? (va : Nat) : Option Nat :=
  if windowBase ≤ va && va < windowBase + 2 ^ 23 then some (va - windowBase) else none

end Sys2Proof.Machine
end

