-- ==== Sys2Proof/Machine/Save.lean ====
section
/-! DEFINITION. A job's save area: its header, where frames and packets lie, and when it is empty (R75, R476,
Table 3-5). -/

namespace Sys2Proof.Machine

open Sys2Proof

/-- SAVEBASE and SAVESIZE of a job (Table 11-2). -/
def State.saveArea (s : State) (job : Nat) : Option (Nat × Nat) :=
  match s.jobEntry job 24 8, s.jobEntry job 32 8 with
  | some b, some n => some (b, n)
  | _, _ => none

/-- Bytes written at a virtual address of a job by the scheduler, in the job's root view, byte by byte (at most 64 KiB
pages apart); a byte that does not translate to DRAM is dropped. -/
def State.pokeJob (s : State) (job va : Nat) : List Byte → State
  | [] => s
  | b :: bs =>
    let s := match s.walkJob job va with
      | some lf => { s with mem := if isDram (lf.addr + (va - lf.base)) then memPut s.mem (lf.addr + (va - lf.base)) b
                                   else s.mem }
      | none => s
    s.pokeJob job (va + 1) bs

/-- Granules that a child of another module touches are known here by their domain addresses, which the model keeps above
every virtual address (R129). -/
def awayBase : Nat := 2 ^ 60

/-- The leaf of a virtual address of a job, or, from `awayBase` on, of a domain address (R117, R228). -/
def State.walkKey (s : State) (job key : Nat) : Option Leaf :=
  if key < awayBase then s.walkJob job key
  else
    ((s.jobEntry job 16 8).bind fun root => walk s.mem (key - awayBase) 4 root).map fun lf =>
      { lf with base := lf.base + awayBase }

/-- One byte of a job's memory in its root view; 0 where nothing is mapped. -/
def jobByte (s : State) (job va : Nat) : Byte :=
  match s.walkKey job va with
  | some lf => memGet s.mem (lf.addr + (va - lf.base))
  | none => 0

/-- Bytes at a virtual address of a job, as the scheduler reads them. -/
def State.peekJob (s : State) (job va : Nat) : Nat → List Byte
  | 0 => []
  | n + 1 => jobByte s job va :: s.peekJob job (va + 1) n

/-- The STATE field of the header (R476): 2 while something is held, 3 while a resume reads or re-injects, 1 while a
switch-out saves. -/
def JobState.areaState (j : JobState) : Nat :=
  if j.switching then 1
  else if j.resuming then 3
  else if j.frames.isEmpty && j.packets.isEmpty && j.late.isEmpty then 0
  else 2

/-- The 64 bytes of the header (Table 3-5). -/
def JobState.header (j : JobState) : List Byte :=
  leBytes 4 (1 + j.job % 4096 * 2 ^ 16 + j.areaState * 2 ^ 28) ++ leBytes 4 j.nframe ++ leBytes 8 j.npkt ++
  leBytes 8 j.pktoff ++ leBytes 8 j.used ++ leBytes 32 0

/-- The header brought up to date. -/
def State.putHeader (s : State) (job : Nat) : State :=
  match s.saveArea job with
  | some (base, _) => s.pokeJob job base (s.job job).header
  | none => s

/-- The area holds no frame that is not DEAD, and no packet still to be re-injected (R476). -/
def JobState.areaEmpty (j : JobState) : Bool := j.frames.isEmpty && j.packets.isEmpty && j.late.isEmpty

/-- The header after something has left the area, which becomes empty when nothing live is left (R476). -/
def State.saveHeader (s : State) (job : Nat) : State :=
  (s.updJob job fun j =>
    if j.areaEmpty then { j with nframe := 0, npkt := 0, pktoff := 0, used := 64 } else j).putHeader job

/-- A frame is marked DEAD and no longer counts as held (R476): bit 210 of its header. -/
def State.killFrame (s : State) (job off : Nat) : State :=
  if (s.job job).frames.any fun f => f.1 == off then
    let s := match s.saveArea job with
      | some (base, _) =>
        let b := (s.peekJob job (base + off + 26) 1).getD 0 0
        s.pokeJob job (base + off + 26) [b ||| 4]
      | none => s
    (s.updJob job fun j => { j with frames := j.frames.filter fun f => f.1 != off }).saveHeader job
  else s

end Sys2Proof.Machine
end

