-- ==== Sys2Proof/Config.lean ====
section
/-! DEFINITION. What the spec leaves open: free values, as constants without a body, applied to a counter of the state
or to the data that they depend on; and what one implementation fixes (the assumption log names each). -/

namespace Sys2Proof.Machine

/-- A word that the spec leaves undefined (R53, R414, R254, R252). -/
opaque Config.freeWord : Nat → Word

/-- The handle-table slot of a new handle: R196 leaves the choice among free slots open. -/
opaque Config.freeSlot : Nat → Nat

/-- The identifier of a child grid (Table 4-2). -/
opaque Config.freeGrid : Nat → Dword

/-- What PSS padding, RSA and the identity key of the module make of a digest (R250). -/
opaque Config.signature : List Byte → List Byte

/-- Serial number and certificate of the module, fused (R250). -/
opaque Config.serial : List Byte

/-- SHA-512 digest of the boot ROM (R250). -/
opaque Config.romDigest : List Byte

/-- Whether the fused identity key of the module can be read (R473). -/
opaque Config.keyReadable : Bool

/-- Steps of 75 MHz from the nominal main arithmetic clock down to the lowest one, which the spec does not give (R252, R474). -/
opaque Config.lowestStep : Nat

end Sys2Proof.Machine
end

