-- ==== Sys2Proof/WellFormed.lean ====
section
/-! DEFINITION. Which instructions are encodings that the front end accepts (Table 20-1, R264 to R268, R279, R310,
R327, R335, R342): the adverb fields that each instruction admits, the reserved field values, and the lowest SUB of
class 0x01 that an instruction raises. -/

namespace Sys2Proof

/-- The MOD fields, and the IMM adverb, that an instruction admits (Tables 13-1, 14-1, 15-1). -/
structure Admit where
  rnd : Bool := false
  sat : Bool := false
  ftz : Bool := false
  dh : Bool := false
  ah : Bool := false
  bh : Bool := false
  c : Bool := false
  nega : Bool := false
  absa : Bool := false
  negb : Bool := false
  absb : Bool := false
  scope : Bool := false
  tea : Bool := false
  teb : Bool := false
  imm : Bool := false
deriving DecidableEq, Repr

/-- The MOD adverb with every field 0. -/
def Mod.zero : Mod := ⟨0, false, false, false, false, false, 0, false, false, false, false, 0, false, false⟩

/-- The fields of `m` that `g` leaves out are 0 (R265). -/
def Mod.within (m : Mod) (g : Admit) : Bool :=
  (g.rnd || m.rnd == 0) && (g.sat || !m.sat) && (g.ftz || !m.ftz) && (g.dh || !m.dh) && (g.ah || !m.ah) &&
  (g.bh || !m.bh) && (g.c || m.c == 0) && (g.nega || !m.nega) && (g.absa || !m.absa) && (g.negb || !m.negb) &&
  (g.absb || !m.absb) && (g.scope || m.scope == 0) && (g.tea || !m.tea) && (g.teb || !m.teb)

/-- RND 6 and 7 and SCOPE 7 are reserved (Table 12-5). -/
def Mod.reserved (m : Mod) : Bool := m.rnd == 6 || m.rnd == 7 || m.scope == 7

/-- The lowest SUB of class 0x01 that an adverb raises on an instruction that admits `g` and whose immediate field
has the bits `hi` above its low seven (Table 20-1, R268). -/
def Adverb.flaw (v : Adverb) (g : Admit) (hi : Nat) : Option Nat :=
  match v with
  | .none => Option.none
  | .imm _ => if g.imm then (if hi == 0 then Option.none else some 1) else some 3
  | .mod m => if !m.within g then some 3 else if m.reserved then some 4 else Option.none

/-- The lesser of two SUBs. -/
def subMin : Option Nat → Option Nat → Option Nat
  | none, y => y
  | x, none => x
  | some x, some y => some (Nat.min x y)

/-- Integer type codes of CVT (R270). -/
def NumType.isInt : NumType → Bool
  | .i8 | .i16 | .i32 | .i64 | .n8 | .n16 | .n32 | .n64 => true
  | .f16 | .bf16 | .f32 | .f64 | .f8e4 | .f8e5 | .f4 | .e3m5 => false


def Admit.satDhAhBhTeaTeb : Admit := { sat := true, dh := true, ah := true, bh := true, tea := true, teb := true }

def Admit.dhAhBhTeaTeb : Admit := { dh := true, ah := true, bh := true, tea := true, teb := true }

def Admit.dhAhBhCTeaTeb : Admit := { dh := true, ah := true, bh := true, c := true, tea := true, teb := true }

def Admit.dhAhTea : Admit := { dh := true, ah := true, tea := true }

def Admit.satDhAhTea : Admit := { sat := true, dh := true, ah := true, tea := true }

def Admit.satDhAhTeaImm : Admit := { sat := true, dh := true, ah := true, tea := true, imm := true }

def Admit.dhAhTeaImm : Admit := { dh := true, ah := true, tea := true, imm := true }

def Admit.dhImm : Admit := { dh := true, imm := true }

def Admit.dhOnly : Admit := { dh := true }

def Admit.rndFtzDhAhBhNegaAbsaNegbAbsbTeaTeb : Admit := { rnd := true, ftz := true, dh := true, ah := true, bh := true, nega := true, absa := true, negb := true, absb := true, tea := true, teb := true }

def Admit.rndFtzDhAhBhCNegaAbsaNegbAbsbTeaTeb : Admit := { rnd := true, ftz := true, dh := true, ah := true, bh := true, c := true, nega := true, absa := true, negb := true, absb := true, tea := true, teb := true }

def Admit.rndFtzDhAhNegaAbsaTea : Admit := { rnd := true, ftz := true, dh := true, ah := true, nega := true, absa := true, tea := true }

def Admit.ftzDhAhBhNegaAbsaNegbAbsbTeaTeb : Admit := { ftz := true, dh := true, ah := true, bh := true, nega := true, absa := true, negb := true, absb := true, tea := true, teb := true }

def Admit.rndSatFtzDhAhTea : Admit := { rnd := true, sat := true, ftz := true, dh := true, ah := true, tea := true }

def Admit.rndFtzDhAhBhTeaTeb : Admit := { rnd := true, ftz := true, dh := true, ah := true, bh := true, tea := true, teb := true }

def Admit.rndSatFtzDhAhBhTeaTeb : Admit := { rnd := true, sat := true, ftz := true, dh := true, ah := true, bh := true, tea := true, teb := true }

def Admit.ftzDhAhBhCTeaTeb : Admit := { ftz := true, dh := true, ah := true, bh := true, c := true, tea := true, teb := true }

def Admit.satFtzDhAhBhTeaTeb : Admit := { sat := true, ftz := true, dh := true, ah := true, bh := true, tea := true, teb := true }

def Admit.ftzDhAhBhTeaTeb : Admit := { ftz := true, dh := true, ah := true, bh := true, tea := true, teb := true }

def Admit.dhAhScopeTeaImm : Admit := { dh := true, ah := true, scope := true, tea := true, imm := true }

def Admit.dhAhScopeTeaTebImm : Admit := { dh := true, ah := true, scope := true, tea := true, teb := true, imm := true }

def Admit.dhAhBhScopeTeaTeb : Admit := { dh := true, ah := true, bh := true, scope := true, tea := true, teb := true }

def Admit.dhAhBhCScopeTeaTeb : Admit := { dh := true, ah := true, bh := true, c := true, scope := true, tea := true, teb := true }

def Admit.dhAhScopeTea : Admit := { dh := true, ah := true, scope := true, tea := true }

def Admit.scopeOnly : Admit := { scope := true }

def Admit.ahBhScopeTeaTeb : Admit := { ah := true, bh := true, scope := true, tea := true, teb := true }

def Admit.ahScopeTea : Admit := { ah := true, scope := true, tea := true }

def Admit.dhScope : Admit := { dh := true, scope := true }

def Admit.ahTea : Admit := { ah := true, tea := true }

def Admit.ahBhTeaTeb : Admit := { ah := true, bh := true, tea := true, teb := true }

def Admit.ahBhCTeaTeb : Admit := { ah := true, bh := true, c := true, tea := true, teb := true }

def Admit.nothing : Admit := {  }

def Admit.dhTea : Admit := { dh := true, tea := true }

/-- CVT admits NEGA and ABSA for a floating-point source type only (R310). -/
def Admit.cvt (x : NumType) : Admit :=
  { rnd := true, sat := true, ftz := true, dh := true, ah := true, tea := true, nega := !x.isInt, absa := !x.isInt }

/-- The matrix control field (R327, R335, Table 14-6): ASP and BSP are 0 where `sp` is false, ZF where `zf` is false,
TILE is 0 for MMA.F4, CTX 1 is reserved, and an odd TILE is reserved for MMA.F64. -/
def MatCtl.flaw (ctl : MatCtl) (sp zf f4 f64 : Bool) : Option Nat :=
  if (!sp && (ctl.asp || ctl.bsp)) || (!zf && ctl.zf) || (f4 && ctl.tile != 0) then some 1
  else if ctl.ctx || (f64 && ctl.tile.getLsbD 0) then some 4
  else none

/-- The lowest SUB of class 0x01 that an instruction's fields raise (Table 20-1), but for SUB 5, which depends on the
kernel; `none` for an encoding that the front end accepts. -/
def Instr.flaw : Instr → Option Nat
  | .nopHalfword => none
  | .movShort _ _ _ => none
  | .addShort _ _ _ => none
  | .subShort _ _ _ => none
  | .mulloShort _ _ _ => none
  | .andShort _ _ _ => none
  | .orShort _ _ _ => none
  | .xorShort _ _ _ => none
  | .shlShort _ _ _ => none
  | .shrShort _ _ _ => none
  | .shaShort _ _ _ => none
  | .minShort _ _ _ => none
  | .maxShort _ _ _ => none
  | .faddShort _ _ _ => none
  | .fsubShort _ _ _ => none
  | .fmulShort _ _ _ => none
  | .fmaxShort _ _ _ => none
  | .add _ _ _ adv => adv.flaw Admit.satDhAhBhTeaTeb 0
  | .sub _ _ _ adv => adv.flaw Admit.satDhAhBhTeaTeb 0
  | .mullo _ _ _ adv => adv.flaw Admit.dhAhBhTeaTeb 0
  | .mulhi _ _ _ adv => adv.flaw Admit.dhAhBhTeaTeb 0
  | .mulhin _ _ _ adv => adv.flaw Admit.dhAhBhTeaTeb 0
  | .min _ _ _ adv => adv.flaw Admit.dhAhBhTeaTeb 0
  | .max _ _ _ adv => adv.flaw Admit.dhAhBhTeaTeb 0
  | .minn _ _ _ adv => adv.flaw Admit.dhAhBhTeaTeb 0
  | .maxn _ _ _ adv => adv.flaw Admit.dhAhBhTeaTeb 0
  | .and _ _ _ adv => adv.flaw Admit.dhAhBhTeaTeb 0
  | .or _ _ _ adv => adv.flaw Admit.dhAhBhTeaTeb 0
  | .xor _ _ _ adv => adv.flaw Admit.dhAhBhTeaTeb 0
  | .andn _ _ _ adv => adv.flaw Admit.dhAhBhTeaTeb 0
  | .shl _ _ _ adv => adv.flaw Admit.dhAhBhTeaTeb 0
  | .shr _ _ _ adv => adv.flaw Admit.dhAhBhTeaTeb 0
  | .sha _ _ _ adv => adv.flaw Admit.dhAhBhTeaTeb 0
  | .rotl _ _ _ adv => adv.flaw Admit.dhAhBhTeaTeb 0
  | .rotr _ _ _ adv => adv.flaw Admit.dhAhBhTeaTeb 0
  | .funl _ _ _ adv => adv.flaw Admit.dhAhBhCTeaTeb 0
  | .funr _ _ _ adv => adv.flaw Admit.dhAhBhCTeaTeb 0
  | .bfe _ _ _ adv => adv.flaw Admit.dhAhBhTeaTeb 0
  | .bfen _ _ _ adv => adv.flaw Admit.dhAhBhTeaTeb 0
  | .bfi _ _ _ adv => adv.flaw Admit.dhAhBhCTeaTeb 0
  | .popc _ _ adv => adv.flaw Admit.dhAhTea 0
  | .clz _ _ adv => adv.flaw Admit.dhAhTea 0
  | .ctz _ _ adv => adv.flaw Admit.dhAhTea 0
  | .brev _ _ adv => adv.flaw Admit.dhAhTea 0
  | .permb _ _ _ adv => adv.flaw Admit.dhAhBhCTeaTeb 0
  | .abs _ _ adv => adv.flaw Admit.satDhAhTea 0
  | .sel _ _ _ adv => adv.flaw Admit.dhAhBhCTeaTeb 0
  | .addi _ _ imm adv => adv.flaw Admit.satDhAhTeaImm (imm >>> 7).toNat
  | .andi _ _ imm adv => adv.flaw Admit.dhAhTeaImm (imm >>> 7).toNat
  | .ori _ _ imm adv => adv.flaw Admit.dhAhTeaImm (imm >>> 7).toNat
  | .xori _ _ imm adv => adv.flaw Admit.dhAhTeaImm (imm >>> 7).toNat
  | .shli _ _ imm adv => adv.flaw Admit.dhAhTeaImm (imm >>> 7).toNat
  | .shri _ _ imm adv => adv.flaw Admit.dhAhTeaImm (imm >>> 7).toNat
  | .shai _ _ imm adv => adv.flaw Admit.dhAhTeaImm (imm >>> 7).toNat
  | .muli _ _ imm adv => adv.flaw Admit.dhAhTeaImm (imm >>> 7).toNat
  | .cmpEq _ _ _ adv => adv.flaw Admit.dhAhBhTeaTeb 0
  | .cmpNe _ _ _ adv => adv.flaw Admit.dhAhBhTeaTeb 0
  | .cmpLt _ _ _ adv => adv.flaw Admit.dhAhBhTeaTeb 0
  | .cmpLe _ _ _ adv => adv.flaw Admit.dhAhBhTeaTeb 0
  | .cmpGt _ _ _ adv => adv.flaw Admit.dhAhBhTeaTeb 0
  | .cmpGe _ _ _ adv => adv.flaw Admit.dhAhBhTeaTeb 0
  | .cmpLtn _ _ _ adv => adv.flaw Admit.dhAhBhTeaTeb 0
  | .cmpLen _ _ _ adv => adv.flaw Admit.dhAhBhTeaTeb 0
  | .cmpGtn _ _ _ adv => adv.flaw Admit.dhAhBhTeaTeb 0
  | .cmpGen _ _ _ adv => adv.flaw Admit.dhAhBhTeaTeb 0
  | .cmpiEq _ _ imm adv => adv.flaw Admit.dhAhTeaImm (imm >>> 7).toNat
  | .cmpiNe _ _ imm adv => adv.flaw Admit.dhAhTeaImm (imm >>> 7).toNat
  | .cmpiLt _ _ imm adv => adv.flaw Admit.dhAhTeaImm (imm >>> 7).toNat
  | .cmpiLe _ _ imm adv => adv.flaw Admit.dhAhTeaImm (imm >>> 7).toNat
  | .cmpiGt _ _ imm adv => adv.flaw Admit.dhAhTeaImm (imm >>> 7).toNat
  | .cmpiGe _ _ imm adv => adv.flaw Admit.dhAhTeaImm (imm >>> 7).toNat
  | .cmpiLtn _ _ imm adv => adv.flaw Admit.dhAhTeaImm (imm >>> 7).toNat
  | .cmpiGen _ _ imm adv => adv.flaw Admit.dhAhTeaImm (imm >>> 7).toNat
  | .addx _ _ _ adv => adv.flaw Admit.dhAhBhTeaTeb 0
  | .subx _ _ _ adv => adv.flaw Admit.dhAhBhTeaTeb 0
  | .mulx _ _ _ adv => adv.flaw Admit.dhAhBhTeaTeb 0
  | .mulxn _ _ _ adv => adv.flaw Admit.dhAhBhTeaTeb 0
  | .shlx _ _ _ adv => adv.flaw Admit.dhAhBhTeaTeb 0
  | .shrx _ _ _ adv => adv.flaw Admit.dhAhBhTeaTeb 0
  | .shax _ _ _ adv => adv.flaw Admit.dhAhBhTeaTeb 0
  | .cmpxEq _ _ _ adv => adv.flaw Admit.dhAhBhTeaTeb 0
  | .cmpxLt _ _ _ adv => adv.flaw Admit.dhAhBhTeaTeb 0
  | .cmpxLtn _ _ _ adv => adv.flaw Admit.dhAhBhTeaTeb 0
  | .div _ _ _ adv => adv.flaw Admit.dhAhBhTeaTeb 0
  | .divn _ _ _ adv => adv.flaw Admit.dhAhBhTeaTeb 0
  | .rem _ _ _ adv => adv.flaw Admit.dhAhBhTeaTeb 0
  | .remn _ _ _ adv => adv.flaw Admit.dhAhBhTeaTeb 0
  | .movi _ imm adv => adv.flaw Admit.dhImm (imm >>> 7).toNat
  | .lui _ _ adv => adv.flaw Admit.dhOnly 0
  | .adr _ imm adv => adv.flaw Admit.dhImm (imm >>> 7).toNat
  | .safept _ => none
  | .fadd _ _ _ adv => adv.flaw Admit.rndFtzDhAhBhNegaAbsaNegbAbsbTeaTeb 0
  | .fsub _ _ _ adv => adv.flaw Admit.rndFtzDhAhBhNegaAbsaNegbAbsbTeaTeb 0
  | .fmul _ _ _ adv => adv.flaw Admit.rndFtzDhAhBhNegaAbsaNegbAbsbTeaTeb 0
  | .ffma _ _ _ adv => adv.flaw Admit.rndFtzDhAhBhCNegaAbsaNegbAbsbTeaTeb 0
  | .fmin _ _ _ adv => adv.flaw Admit.rndFtzDhAhBhNegaAbsaNegbAbsbTeaTeb 0
  | .fmax _ _ _ adv => adv.flaw Admit.rndFtzDhAhBhNegaAbsaNegbAbsbTeaTeb 0
  | .fminnum _ _ _ adv => adv.flaw Admit.rndFtzDhAhBhNegaAbsaNegbAbsbTeaTeb 0
  | .fmaxnum _ _ _ adv => adv.flaw Admit.rndFtzDhAhBhNegaAbsaNegbAbsbTeaTeb 0
  | .fdiv _ _ _ adv => adv.flaw Admit.rndFtzDhAhBhNegaAbsaNegbAbsbTeaTeb 0
  | .fcpys _ _ _ adv => adv.flaw Admit.rndFtzDhAhBhNegaAbsaNegbAbsbTeaTeb 0
  | .fldexp _ _ _ adv => adv.flaw Admit.rndFtzDhAhBhNegaAbsaNegbAbsbTeaTeb 0
  | .fsqrt _ _ adv => adv.flaw Admit.rndFtzDhAhNegaAbsaTea 0
  | .frcp _ _ adv => adv.flaw Admit.rndFtzDhAhNegaAbsaTea 0
  | .frsq _ _ adv => adv.flaw Admit.rndFtzDhAhNegaAbsaTea 0
  | .fexp2 _ _ adv => adv.flaw Admit.rndFtzDhAhNegaAbsaTea 0
  | .flog2 _ _ adv => adv.flaw Admit.rndFtzDhAhNegaAbsaTea 0
  | .fsinpi _ _ adv => adv.flaw Admit.rndFtzDhAhNegaAbsaTea 0
  | .fcospi _ _ adv => adv.flaw Admit.rndFtzDhAhNegaAbsaTea 0
  | .ftanh _ _ adv => adv.flaw Admit.rndFtzDhAhNegaAbsaTea 0
  | .ffract _ _ adv => adv.flaw Admit.rndFtzDhAhNegaAbsaTea 0
  | .frnd _ _ adv => adv.flaw Admit.rndFtzDhAhNegaAbsaTea 0
  | .fclass _ _ adv => adv.flaw Admit.rndFtzDhAhNegaAbsaTea 0
  | .fcmpEq _ _ _ adv => adv.flaw Admit.ftzDhAhBhNegaAbsaNegbAbsbTeaTeb 0
  | .fcmpNe _ _ _ adv => adv.flaw Admit.ftzDhAhBhNegaAbsaNegbAbsbTeaTeb 0
  | .fcmpLt _ _ _ adv => adv.flaw Admit.ftzDhAhBhNegaAbsaNegbAbsbTeaTeb 0
  | .fcmpLe _ _ _ adv => adv.flaw Admit.ftzDhAhBhNegaAbsaNegbAbsbTeaTeb 0
  | .fcmpGt _ _ _ adv => adv.flaw Admit.ftzDhAhBhNegaAbsaNegbAbsbTeaTeb 0
  | .fcmpGe _ _ _ adv => adv.flaw Admit.ftzDhAhBhNegaAbsaNegbAbsbTeaTeb 0
  | .fcmpUn _ _ _ adv => adv.flaw Admit.ftzDhAhBhNegaAbsaNegbAbsbTeaTeb 0
  | .fcmpOrd _ _ _ adv => adv.flaw Admit.ftzDhAhBhNegaAbsaNegbAbsbTeaTeb 0
  | .hadd2 _ _ _ adv => adv.flaw Admit.rndFtzDhAhBhNegaAbsaNegbAbsbTeaTeb 0
  | .hsub2 _ _ _ adv => adv.flaw Admit.rndFtzDhAhBhNegaAbsaNegbAbsbTeaTeb 0
  | .hmul2 _ _ _ adv => adv.flaw Admit.rndFtzDhAhBhNegaAbsaNegbAbsbTeaTeb 0
  | .hfma2 _ _ _ adv => adv.flaw Admit.rndFtzDhAhBhCNegaAbsaNegbAbsbTeaTeb 0
  | .hmin2 _ _ _ adv => adv.flaw Admit.rndFtzDhAhBhNegaAbsaNegbAbsbTeaTeb 0
  | .hmax2 _ _ _ adv => adv.flaw Admit.rndFtzDhAhBhNegaAbsaNegbAbsbTeaTeb 0
  | .hdot2 _ _ _ adv => adv.flaw Admit.rndFtzDhAhBhCNegaAbsaNegbAbsbTeaTeb 0
  | .badd2 _ _ _ adv => adv.flaw Admit.rndFtzDhAhBhNegaAbsaNegbAbsbTeaTeb 0
  | .bsub2 _ _ _ adv => adv.flaw Admit.rndFtzDhAhBhNegaAbsaNegbAbsbTeaTeb 0
  | .bmul2 _ _ _ adv => adv.flaw Admit.rndFtzDhAhBhNegaAbsaNegbAbsbTeaTeb 0
  | .bfma2 _ _ _ adv => adv.flaw Admit.rndFtzDhAhBhCNegaAbsaNegbAbsbTeaTeb 0
  | .bmin2 _ _ _ adv => adv.flaw Admit.rndFtzDhAhBhNegaAbsaNegbAbsbTeaTeb 0
  | .bmax2 _ _ _ adv => adv.flaw Admit.rndFtzDhAhBhNegaAbsaNegbAbsbTeaTeb 0
  | .bdot2 _ _ _ adv => adv.flaw Admit.rndFtzDhAhBhCNegaAbsaNegbAbsbTeaTeb 0
  | .dadd _ _ _ adv => adv.flaw Admit.rndFtzDhAhBhNegaAbsaNegbAbsbTeaTeb 0
  | .dsub _ _ _ adv => adv.flaw Admit.rndFtzDhAhBhNegaAbsaNegbAbsbTeaTeb 0
  | .dmul _ _ _ adv => adv.flaw Admit.rndFtzDhAhBhNegaAbsaNegbAbsbTeaTeb 0
  | .dfma _ _ _ adv => adv.flaw Admit.rndFtzDhAhBhCNegaAbsaNegbAbsbTeaTeb 0
  | .ddiv _ _ _ adv => adv.flaw Admit.rndFtzDhAhBhNegaAbsaNegbAbsbTeaTeb 0
  | .dsqrt _ _ adv => adv.flaw Admit.rndFtzDhAhNegaAbsaTea 0
  | .dmin _ _ _ adv => adv.flaw Admit.rndFtzDhAhBhNegaAbsaNegbAbsbTeaTeb 0
  | .dmax _ _ _ adv => adv.flaw Admit.rndFtzDhAhBhNegaAbsaNegbAbsbTeaTeb 0
  | .dcmpEq _ _ _ adv => adv.flaw Admit.rndFtzDhAhBhNegaAbsaNegbAbsbTeaTeb 0
  | .dcmpLt _ _ _ adv => adv.flaw Admit.rndFtzDhAhBhNegaAbsaNegbAbsbTeaTeb 0
  | .dcmpLe _ _ _ adv => adv.flaw Admit.rndFtzDhAhBhNegaAbsaNegbAbsbTeaTeb 0
  | .dcmpUn _ _ _ adv => adv.flaw Admit.rndFtzDhAhBhNegaAbsaNegbAbsbTeaTeb 0
  | .cvt _ x _ _ adv => adv.flaw (Admit.cvt x) 0
  | .qpack4 _ _ _ adv => adv.flaw Admit.rndFtzDhAhBhTeaTeb 0
  | .qpack8e4 _ _ _ adv => adv.flaw Admit.rndSatFtzDhAhBhTeaTeb 0
  | .qpack8e5 _ _ _ adv => adv.flaw Admit.rndSatFtzDhAhBhTeaTeb 0
  | .qunpk4 _ _ _ adv => adv.flaw Admit.rndFtzDhAhBhTeaTeb 0
  | .scacc _ _ _ adv => adv.flaw Admit.ftzDhAhBhCTeaTeb 0
  | .scamax _ _ _ adv => adv.flaw Admit.satFtzDhAhBhTeaTeb 0
  | .qalign _ _ _ adv => adv.flaw Admit.ftzDhAhBhTeaTeb 0
  | .shflIdx _ _ _ adv => adv.flaw Admit.dhAhBhTeaTeb 0
  | .shflUp _ _ _ adv => adv.flaw Admit.dhAhBhTeaTeb 0
  | .shflDn _ _ _ adv => adv.flaw Admit.dhAhBhTeaTeb 0
  | .shflXor _ _ _ adv => adv.flaw Admit.dhAhBhTeaTeb 0
  | .voteAny _ _ adv => adv.flaw Admit.dhAhTea 0
  | .voteAll _ _ adv => adv.flaw Admit.dhAhTea 0
  | .voteEq _ _ adv => adv.flaw Admit.dhAhTea 0
  | .ballot _ _ adv => adv.flaw Admit.dhAhTea 0
  | .reduxAdd _ _ adv => adv.flaw Admit.dhAhTea 0
  | .reduxMin _ _ adv => adv.flaw Admit.dhAhTea 0
  | .reduxMax _ _ adv => adv.flaw Admit.dhAhTea 0
  | .reduxMinn _ _ adv => adv.flaw Admit.dhAhTea 0
  | .reduxMaxn _ _ adv => adv.flaw Admit.dhAhTea 0
  | .reduxAnd _ _ adv => adv.flaw Admit.dhAhTea 0
  | .reduxOr _ _ adv => adv.flaw Admit.dhAhTea 0
  | .matchLanes _ _ adv => adv.flaw Admit.dhAhTea 0
  | .ldI8 _ _ off adv => adv.flaw Admit.dhAhScopeTeaImm (off >>> 7).toNat
  | .ldN8 _ _ off adv => adv.flaw Admit.dhAhScopeTeaImm (off >>> 7).toNat
  | .ldI16 _ _ off adv => adv.flaw Admit.dhAhScopeTeaImm (off >>> 7).toNat
  | .ldN16 _ _ off adv => adv.flaw Admit.dhAhScopeTeaImm (off >>> 7).toNat
  | .ldB32 _ _ off adv => adv.flaw Admit.dhAhScopeTeaImm (off >>> 7).toNat
  | .ldB64 _ _ off adv => adv.flaw Admit.dhAhScopeTeaImm (off >>> 7).toNat
  | .ldB128 _ _ off adv => adv.flaw Admit.dhAhScopeTeaImm (off >>> 7).toNat
  | .ldcon _ _ off adv => adv.flaw Admit.dhAhScopeTeaImm (off >>> 7).toNat
  | .stB8 _ _ off adv => adv.flaw Admit.dhAhScopeTeaTebImm (off >>> 7).toNat
  | .stB16 _ _ off adv => adv.flaw Admit.dhAhScopeTeaTebImm (off >>> 7).toNat
  | .stB32 _ _ off adv => adv.flaw Admit.dhAhScopeTeaTebImm (off >>> 7).toNat
  | .stB64 _ _ off adv => adv.flaw Admit.dhAhScopeTeaTebImm (off >>> 7).toNat
  | .stB128 _ _ off adv => adv.flaw Admit.dhAhScopeTeaTebImm (off >>> 7).toNat
  | .ldsI8 _ _ off adv => adv.flaw Admit.dhAhScopeTeaImm (off >>> 7).toNat
  | .ldsN8 _ _ off adv => adv.flaw Admit.dhAhScopeTeaImm (off >>> 7).toNat
  | .ldsI16 _ _ off adv => adv.flaw Admit.dhAhScopeTeaImm (off >>> 7).toNat
  | .ldsN16 _ _ off adv => adv.flaw Admit.dhAhScopeTeaImm (off >>> 7).toNat
  | .ldsB32 _ _ off adv => adv.flaw Admit.dhAhScopeTeaImm (off >>> 7).toNat
  | .ldsB64 _ _ off adv => adv.flaw Admit.dhAhScopeTeaImm (off >>> 7).toNat
  | .ldsB128 _ _ off adv => adv.flaw Admit.dhAhScopeTeaImm (off >>> 7).toNat
  | .stsB8 _ _ off adv => adv.flaw Admit.dhAhScopeTeaTebImm (off >>> 7).toNat
  | .stsB16 _ _ off adv => adv.flaw Admit.dhAhScopeTeaTebImm (off >>> 7).toNat
  | .stsB32 _ _ off adv => adv.flaw Admit.dhAhScopeTeaTebImm (off >>> 7).toNat
  | .stsB64 _ _ off adv => adv.flaw Admit.dhAhScopeTeaTebImm (off >>> 7).toNat
  | .stsB128 _ _ off adv => adv.flaw Admit.dhAhScopeTeaTebImm (off >>> 7).toNat
  | .atomAdd _ _ _ adv => adv.flaw Admit.dhAhBhScopeTeaTeb 0
  | .atomMin _ _ _ adv => adv.flaw Admit.dhAhBhScopeTeaTeb 0
  | .atomMax _ _ _ adv => adv.flaw Admit.dhAhBhScopeTeaTeb 0
  | .atomMinn _ _ _ adv => adv.flaw Admit.dhAhBhScopeTeaTeb 0
  | .atomMaxn _ _ _ adv => adv.flaw Admit.dhAhBhScopeTeaTeb 0
  | .atomAnd _ _ _ adv => adv.flaw Admit.dhAhBhScopeTeaTeb 0
  | .atomOr _ _ _ adv => adv.flaw Admit.dhAhBhScopeTeaTeb 0
  | .atomXor _ _ _ adv => adv.flaw Admit.dhAhBhScopeTeaTeb 0
  | .atomXchg _ _ _ adv => adv.flaw Admit.dhAhBhScopeTeaTeb 0
  | .atomCas _ _ _ adv => adv.flaw Admit.dhAhBhCScopeTeaTeb 0
  | .atomFadd _ _ _ adv => adv.flaw Admit.dhAhBhScopeTeaTeb 0
  | .atomLdres _ _ adv => adv.flaw Admit.dhAhScopeTea 0
  | .atomStcond _ _ _ adv => adv.flaw Admit.dhAhBhScopeTeaTeb 0
  | .atomAappend _ _ _ adv => adv.flaw Admit.dhAhBhCScopeTeaTeb 0
  | .bar adv => adv.flaw Admit.scopeOnly 0
  | .tbar adv => adv.flaw Admit.scopeOnly 0
  | .fenceSc adv => adv.flaw Admit.scopeOnly 0
  | .fenceAr adv => adv.flaw Admit.scopeOnly 0
  | .acq _ _ adv => adv.flaw Admit.dhAhScopeTea 0
  | .rel _ _ adv => adv.flaw Admit.ahBhScopeTeaTeb 0
  | .ticketTake _ adv => adv.flaw Admit.ahScopeTea 0
  | .ticketWait _ _ adv => adv.flaw Admit.ahBhScopeTeaTeb 0
  | .ticketDecl _ adv => adv.flaw Admit.ahScopeTea 0
  | .publish adv => adv.flaw Admit.scopeOnly 0
  | .seal _ adv => adv.flaw Admit.dhScope 0
  | .rally => none
  | .yield => none
  | .mgang _ adv => adv.flaw Admit.ahTea 0
  | .mmaF64 ctl _ _ adv => subMin (ctl.flaw true true false true) (adv.flaw Admit.ahBhTeaTeb 0)
  | .mmaF32 ctl _ _ adv => subMin (ctl.flaw true true false false) (adv.flaw Admit.ahBhTeaTeb 0)
  | .mmaBf16 ctl _ _ adv => subMin (ctl.flaw true true false false) (adv.flaw Admit.ahBhTeaTeb 0)
  | .mmaF16 ctl _ _ adv => subMin (ctl.flaw true true false false) (adv.flaw Admit.ahBhTeaTeb 0)
  | .mmaF8e4 ctl _ _ adv => subMin (ctl.flaw true true false false) (adv.flaw Admit.ahBhTeaTeb 0)
  | .mmaF8e5 ctl _ _ adv => subMin (ctl.flaw true true false false) (adv.flaw Admit.ahBhTeaTeb 0)
  | .mmaF4 ctl _ _ adv => subMin (ctl.flaw true false true false) (adv.flaw Admit.ahBhTeaTeb 0)
  | .mmaI8 ctl _ _ adv => subMin (ctl.flaw true true false false) (adv.flaw Admit.ahBhTeaTeb 0)
  | .mscale ctl _ _ adv => subMin (ctl.flaw false true false false) (adv.flaw Admit.ahBhCTeaTeb 0)
  | .accz ctl adv => subMin (ctl.flaw false false false false) (adv.flaw Admit.nothing 0)
  | .accld ctl _ adv => subMin (ctl.flaw false false false false) (adv.flaw Admit.ahTea 0)
  | .accst ctl _ adv => subMin (ctl.flaw false false false false) (adv.flaw Admit.ahTea 0)
  | .accsp ctl _ adv => subMin (ctl.flaw false false false false) (adv.flaw Admit.ahTea 0)
  | .cpy4 _ _ _ adv => adv.flaw Admit.dhAhBhTeaTeb 0
  | .cpy8 _ _ _ adv => adv.flaw Admit.dhAhBhTeaTeb 0
  | .cpy16 _ _ _ adv => adv.flaw Admit.dhAhBhTeaTeb 0
  | .cpyt _ _ adv => adv.flaw Admit.dhAhTea 0
  | .cpyz _ _ adv => adv.flaw Admit.dhAhTea 0
  | .cpyx _ _ adv => adv.flaw Admit.dhAhTea 0
  | .coll _ _ adv => adv.flaw Admit.dhAhTea 0
  | .htest _ _ adv => adv.flaw Admit.dhAhTea 0
  | .hcancel _ adv => adv.flaw Admit.ahTea 0
  | .stgarm _ _ adv => adv.flaw Admit.ahBhTeaTeb 0
  | .stgwait _ _ adv => adv.flaw Admit.ahBhTeaTeb 0
  | .stgflip _ _ adv => adv.flaw Admit.ahBhTeaTeb 0
  | .ckpt _ _ adv => adv.flaw Admit.dhAhTea 0
  | .fork _ _ _ adv => adv.flaw Admit.dhAhBhTeaTeb 0
  | .join _ adv => adv.flaw Admit.ahTea 0
  | .viewq _ _ adv => adv.flaw Admit.dhAhTea 0
  | .rng _ _ adv => adv.flaw Admit.dhAhTea 0
  | .rngsk _ _ adv => adv.flaw Admit.ahBhTeaTeb 0
  | .bnz _ _ adv => adv.flaw Admit.dhOnly 0
  | .bz _ _ adv => adv.flaw Admit.dhOnly 0
  | .bany _ _ adv => adv.flaw Admit.dhOnly 0
  | .ball _ _ adv => adv.flaw Admit.dhOnly 0
  | .bnone _ _ adv => adv.flaw Admit.dhOnly 0
  | .jmpl _ => none
  | .calll _ => none
  | .srd _ sl adv => subMin (if 21 ≤ sl.toNat then some 4 else none) (adv.flaw Admit.dhOnly 0)
  | .swr _ sl adv => subMin (if 21 ≤ sl.toNat then some 4 else none) (adv.flaw Admit.dhTea 0)
  | .jmpr _ adv => adv.flaw Admit.dhTea 0
  | .callr _ adv => adv.flaw Admit.dhTea 0
  | .ret => none
  | .brx _ _ adv => adv.flaw Admit.dhTea 0
  | .exit => none
  | .trap _ _ adv => adv.flaw Admit.dhTea 0
  | .nop => none
  | .flush _ _ adv => adv.flaw Admit.dhTea 0
  | .inval _ _ adv => adv.flaw Admit.dhTea 0
  | .range _ _ adv => adv.flaw Admit.dhTea 0
  | .evt _ _ adv => adv.flaw Admit.dhTea 0
  | .halt => none
  | .moduleReset => none
  | .port1Reset => none
  | .hostLinkDown _ => none
  | .hostLinkUp _ => none
  | .lqdoor _ _ _ => none
  | .launchRecordRead _ _ => none
  | .launchAdmit => none
  | .blockDispatch _ _ _ => none
  | .registerCompaction _ => none
  | .preemptForPriority _ => none
  | .blockSave _ => none
  | .blockResume _ _ => none
  | .blockEnd _ => none
  | .launchRetire _ => none
  | .fairnessTimerExpiry _ _ _ => none
  | .rallyTimeout _ _ => none
  | .predicateResolve _ _ => none
  | .candidatePromotion _ _ => none
  | .budgetPeriod _ => none
  | .safePointOverdue => none
  | .l1DirtyWriteback _ _ => none
  | .tlbiPage _ _ => none
  | .tlbiJob _ _ => none
  | .tlbiAll _ => none
  | .tlbiDone _ => none
  | .migration _ _ _ _ => none
  | .childFold _ _ => none
  | .copyComplete _ _ => none
  | .multicastDelivery _ _ _ _ => none
  | .compressComplete _ _ => none
  | .collChunkReceive _ _ _ _ _ _ => none
  | .ckptComplete _ _ => none
  | .matrixExecute _ _ => none
  | .orderedRequestRelease _ _ => none
  | .squallSwitchOut _ => none
  | .squallResume _ => none
  | .squallMarker _ => none
  | .latePacket _ => none
  | .readRequest _ => none
  | .readResponse _ => none
  | .remoteWrite _ => none
  | .writeAcknowledgement _ => none
  | .remoteAtomic _ => none
  | .atomicResponse _ => none
  | .receiverNotReady _ => none
  | .rnrRetry _ => none
  | .bufferRelease _ => none
  | .keyMarker _ => none
  | .drainMarker _ => none
  | .idleFlit _ => none
  | .relayForward _ => none
  | .bufferReleaseTimer _ => none
  | .linkRetryTimeout _ _ => none
  | .linkTrained _ _ => none
  | .linkTrainingLost _ => none
  | .portDown _ => none
  | .routeWaitTimeout _ => none
  | .rtgenSwitch _ => none
  | .wcbLullExpiry _ _ => none
  | .keySwitchRequest _ => none
  | .keySwitchCount _ => none
  | .keyCounterLimit _ => none
  | .keyLoad _ _ => none
  | .bar2Read _ _ _ => none
  | .bar2Write _ _ _ => none
  | .hostReadCompletion _ _ => none
  | .hostReadTimeout _ => none
  | .spareCorePair _ _ => none
  | .spareScratchpadBank _ _ => none
  | .spareL2Slice _ _ => none
  | .sparePseudoChannel _ _ => none
  | .spareFabricPort _ _ => none
  | .spareDone => none
  | .autoSpare _ _ _ => none
  | .freeze => none
  | .scanRead _ => none
  | .attestationRequest _ => none
  | .attestationReady => none
  | .powerThermalCheck _ _ _ => none
  | .thermalHold => none
  | .thermalHoldRelease => none
  | .thermalTrip => none
  | .jobabort _ => none
  | .faultAnswerResume _ => none
  | .faultAnswerAbortBlock _ => none
  | .faultAnswerAbortGrid _ => none
  | .faultRingConsume _ => none
  | .faultRingEnable _ => none
  | .faultRingBase _ => none
  | .registerScrub _ _ _ _ => none
  | .patrolScrub _ _ => none
  | .registerWrite _ _ _ _ => none
  | .illegalEncoding _ _ _ => none
  | .perstDeassertion _ => none
  | .bootComplete _ => none

/-- An instruction that the front end accepts. -/
def Instr.WellFormed (i : Instr) : Prop := i.flaw = none

/-- `WellFormed` as a test. -/
def Instr.ok (i : Instr) : Bool := i.flaw == none

theorem Instr.ok_iff (i : Instr) : i.ok = true ↔ i.WellFormed := by
  simp [Instr.ok, Instr.WellFormed]

end Sys2Proof
end

