-- ==== Sys2Proof/Decode.lean ====
section
/-! DEFINITION. The decoder, total on any bytes (R257 to R270, Tables 12-1 to 12-6), which refuses by the class and
SUB of Table 20-1, and the encoder from the same tables. -/

namespace Sys2Proof

/-! ## Words and their fields (Table 12-4) -/

/-- R format. -/
def wordR (M f : Nat) (d a b : BitVec 7) : BitVec 32 :=
  BitVec.ofNat 4 f ++ b ++ a ++ d ++ BitVec.ofNat 5 M ++ 1#2

/-- I and M formats. -/
def wordI (M f : Nat) (d a : BitVec 7) (imm : BitVec 8) : BitVec 32 :=
  imm ++ BitVec.ofNat 3 f ++ a ++ d ++ BitVec.ofNat 5 M ++ 1#2

/-- L format. -/
def wordL (M : Nat) (d : BitVec 7) (imm : BitVec 18) : BitVec 32 := imm ++ d ++ BitVec.ofNat 5 M ++ 1#2

/-- B format. -/
def wordB (M f : Nat) (p : BitVec 7) (off : BitVec 15) : BitVec 32 :=
  off ++ BitVec.ofNat 3 f ++ p ++ BitVec.ofNat 5 M ++ 1#2

/-- J format. -/
def wordJ (M : Nat) (off : BitVec 25) : BitVec 32 := off ++ BitVec.ofNat 5 M ++ 1#2

/-- S format. -/
def wordS (M f : Nat) (d : BitVec 7) (sel : BitVec 10) : BitVec 32 :=
  BitVec.ofNat 8 f ++ sel ++ d ++ BitVec.ofNat 5 M ++ 1#2

/-- A short form (Table 12-1). -/
def wordShort (op4 : Nat) (i : Bool) (s d : BitVec 5) : BitVec 16 :=
  BitVec.ofBool i ++ s ++ d ++ BitVec.ofNat 4 op4 ++ 0#1

/-- The control field d of a MAT word (Table 14-6): TILE [2:0], CTX [3], ASP [4], BSP [5], ZF [6]. -/
def MatCtl.bits (c : MatCtl) : BitVec 7 :=
  BitVec.ofBool c.zf ++ BitVec.ofBool c.bsp ++ BitVec.ofBool c.asp ++ BitVec.ofBool c.ctx ++ c.tile

def MatCtl.ofBits (d : BitVec 7) : MatCtl :=
  { tile := d.extractLsb' 0 3, ctx := d.getLsbD 3, asp := d.getLsbD 4, bsp := d.getLsbD 5, zf := d.getLsbD 6 }

/-- CVT type codes (R270). -/
def NumType.code : NumType → Nat
  | .i8 => 0
  | .i16 => 1
  | .i32 => 2
  | .i64 => 3
  | .n8 => 4
  | .n16 => 5
  | .n32 => 6
  | .n64 => 7
  | .f16 => 8
  | .bf16 => 9
  | .f32 => 10
  | .f64 => 11
  | .f8e4 => 12
  | .f8e5 => 13
  | .f4 => 14
  | .e3m5 => 15

def NumType.ofCode : Nat → NumType
  | 0 => .i8
  | 1 => .i16
  | 2 => .i32
  | 3 => .i64
  | 4 => .n8
  | 5 => .n16
  | 6 => .n32
  | 7 => .n64
  | 8 => .f16
  | 9 => .bf16
  | 10 => .f32
  | 11 => .f64
  | 12 => .f8e4
  | 13 => .f8e5
  | 14 => .f4
  | _ => .e3m5

/-! ## Adverbs (Table 12-5, R268) -/

def Mod.bits (m : Mod) : BitVec 32 :=
  0#1 ++ BitVec.ofBool m.teb ++ BitVec.ofBool m.tea ++ m.scope ++ BitVec.ofBool m.absb ++ BitVec.ofBool m.negb ++
  BitVec.ofBool m.absa ++ BitVec.ofBool m.nega ++ m.c ++ BitVec.ofBool m.bh ++ BitVec.ofBool m.ah ++
  BitVec.ofBool m.dh ++ BitVec.ofBool m.ftz ++ BitVec.ofBool m.sat ++ m.rnd ++ 0#5 ++ 3#2

def Mod.ofBits (w : BitVec 32) : Mod :=
  { rnd := w.extractLsb' 7 3, sat := w.getLsbD 10, ftz := w.getLsbD 11, dh := w.getLsbD 12, ah := w.getLsbD 13,
    bh := w.getLsbD 14, c := w.extractLsb' 15 7, nega := w.getLsbD 22, absa := w.getLsbD 23, negb := w.getLsbD 24,
    absb := w.getLsbD 25, scope := w.extractLsb' 26 3, tea := w.getLsbD 29, teb := w.getLsbD 30 }

/-- The adverb word of an adverb, if there is one. -/
def Adverb.bits : Adverb → Option (BitVec 32)
  | .none => Option.none
  | .mod m => some m.bits
  | .imm hi => some (hi ++ 1#5 ++ 3#2)

/-- What an adverb word says: the adverb, or the SUB of class 0x01 that it raises by itself (Table 20-1). -/
def Adverb.ofBits (w : BitVec 32) : Except Nat Adverb :=
  match (w.extractLsb' 2 5).toNat with
  | 0 => if w.getLsbD 31 then .error 1 else .ok (.mod (Mod.ofBits w))
  | 1 => .ok (.imm (w.extractLsb' 7 25))
  | _ => .error 2

/-! ## The opcode map (Table 12-6, Table 12-3) -/

/-- The instruction of a short form (R257, R260, R261, Table 12-3). -/
def decodeShort (h : BitVec 16) : Instr :=
  if h = 0 then .nopHalfword else
  let d := h.extractLsb' 5 5
  let s := h.extractLsb' 10 5
  let i := h.getLsbD 15
  match (h.extractLsb' 1 4).toNat with
  | 0 => .movShort i s d
  | 1 => .addShort i s d
  | 2 => .subShort i s d
  | 3 => .mulloShort i s d
  | 4 => .andShort i s d
  | 5 => .orShort i s d
  | 6 => .xorShort i s d
  | 7 => .shlShort i s d
  | 8 => .shrShort i s d
  | 9 => .shaShort i s d
  | 10 => .minShort i s d
  | 11 => .maxShort i s d
  | 12 => .faddShort i s d
  | 13 => .fsubShort i s d
  | 14 => .fmulShort i s d
  | _ => .fmaxShort i s d

/-- Major 0, INT (Table 12-6); 0 for a reserved function, 1 for a nonzero unused field. -/
def decodeInt (f : Nat) (d a b : BitVec 7) (adv : Adverb) : Except Nat Instr :=
  match f with
  | 0 => .ok (.add d a b adv)
  | 1 => .ok (.sub d a b adv)
  | 2 => .ok (.mullo d a b adv)
  | 3 => .ok (.mulhi d a b adv)
  | 4 => .ok (.mulhin d a b adv)
  | 5 => .ok (.min d a b adv)
  | 6 => .ok (.max d a b adv)
  | 7 => .ok (.minn d a b adv)
  | 8 => .ok (.maxn d a b adv)
  | 9 => .ok (.and d a b adv)
  | 10 => .ok (.or d a b adv)
  | 11 => .ok (.xor d a b adv)
  | 12 => .ok (.andn d a b adv)
  | 13 => .ok (.shl d a b adv)
  | 14 => .ok (.shr d a b adv)
  | _ => .ok (.sha d a b adv)

/-- Major 1, BIT (Table 12-6); 0 for a reserved function, 1 for a nonzero unused field. -/
def decodeBit (f : Nat) (d a b : BitVec 7) (adv : Adverb) : Except Nat Instr :=
  match f with
  | 0 => .ok (.rotl d a b adv)
  | 1 => .ok (.rotr d a b adv)
  | 2 => .ok (.funl d a b adv)
  | 3 => .ok (.funr d a b adv)
  | 4 => .ok (.bfe d a b adv)
  | 5 => .ok (.bfen d a b adv)
  | 6 => .ok (.bfi d a b adv)
  | 7 => if b == 0 then .ok (.popc d a adv) else .error 1
  | 8 => if b == 0 then .ok (.clz d a adv) else .error 1
  | 9 => if b == 0 then .ok (.ctz d a adv) else .error 1
  | 10 => if b == 0 then .ok (.brev d a adv) else .error 1
  | 11 => .ok (.permb d a b adv)
  | 12 => if b == 0 then .ok (.abs d a adv) else .error 1
  | 13 => .ok (.sel d a b adv)
  | _ => .error 0

/-- Major 2, INTI (Table 12-6); 0 for a reserved function, 1 for a nonzero unused field. -/
def decodeInti (f : Nat) (d a : BitVec 7) (imm : BitVec 8) (adv : Adverb) : Except Nat Instr :=
  match f with
  | 0 => .ok (.addi d a imm adv)
  | 1 => .ok (.andi d a imm adv)
  | 2 => .ok (.ori d a imm adv)
  | 3 => .ok (.xori d a imm adv)
  | 4 => .ok (.shli d a imm adv)
  | 5 => .ok (.shri d a imm adv)
  | 6 => .ok (.shai d a imm adv)
  | _ => .ok (.muli d a imm adv)

/-- Major 3, CMP (Table 12-6); 0 for a reserved function, 1 for a nonzero unused field. -/
def decodeCmp (f : Nat) (d a b : BitVec 7) (adv : Adverb) : Except Nat Instr :=
  match f with
  | 0 => .ok (.cmpEq d a b adv)
  | 1 => .ok (.cmpNe d a b adv)
  | 2 => .ok (.cmpLt d a b adv)
  | 3 => .ok (.cmpLe d a b adv)
  | 4 => .ok (.cmpGt d a b adv)
  | 5 => .ok (.cmpGe d a b adv)
  | 6 => .ok (.cmpLtn d a b adv)
  | 7 => .ok (.cmpLen d a b adv)
  | 8 => .ok (.cmpGtn d a b adv)
  | 9 => .ok (.cmpGen d a b adv)
  | _ => .error 0

/-- Major 4, CMPI (Table 12-6); 0 for a reserved function, 1 for a nonzero unused field. -/
def decodeCmpi (f : Nat) (d a : BitVec 7) (imm : BitVec 8) (adv : Adverb) : Except Nat Instr :=
  match f with
  | 0 => .ok (.cmpiEq d a imm adv)
  | 1 => .ok (.cmpiNe d a imm adv)
  | 2 => .ok (.cmpiLt d a imm adv)
  | 3 => .ok (.cmpiLe d a imm adv)
  | 4 => .ok (.cmpiGt d a imm adv)
  | 5 => .ok (.cmpiGe d a imm adv)
  | 6 => .ok (.cmpiLtn d a imm adv)
  | _ => .ok (.cmpiGen d a imm adv)

/-- Major 5, WIDE (Table 12-6); 0 for a reserved function, 1 for a nonzero unused field. -/
def decodeWide (f : Nat) (d a b : BitVec 7) (adv : Adverb) : Except Nat Instr :=
  match f with
  | 0 => .ok (.addx d a b adv)
  | 1 => .ok (.subx d a b adv)
  | 2 => .ok (.mulx d a b adv)
  | 3 => .ok (.mulxn d a b adv)
  | 4 => .ok (.shlx d a b adv)
  | 5 => .ok (.shrx d a b adv)
  | 6 => .ok (.shax d a b adv)
  | 7 => .ok (.cmpxEq d a b adv)
  | 8 => .ok (.cmpxLt d a b adv)
  | 9 => .ok (.cmpxLtn d a b adv)
  | 10 => .ok (.div d a b adv)
  | 11 => .ok (.divn d a b adv)
  | 12 => .ok (.rem d a b adv)
  | 13 => .ok (.remn d a b adv)
  | _ => .error 0

/-- Major 10, FP (Table 12-6); 0 for a reserved function, 1 for a nonzero unused field. -/
def decodeFp (f : Nat) (d a b : BitVec 7) (adv : Adverb) : Except Nat Instr :=
  match f with
  | 0 => .ok (.fadd d a b adv)
  | 1 => .ok (.fsub d a b adv)
  | 2 => .ok (.fmul d a b adv)
  | 3 => .ok (.ffma d a b adv)
  | 4 => .ok (.fmin d a b adv)
  | 5 => .ok (.fmax d a b adv)
  | 6 => .ok (.fminnum d a b adv)
  | 7 => .ok (.fmaxnum d a b adv)
  | 8 => .ok (.fdiv d a b adv)
  | 9 => .ok (.fcpys d a b adv)
  | 10 => .ok (.fldexp d a b adv)
  | _ => .error 0

/-- Major 11, FPX (Table 12-6); 0 for a reserved function, 1 for a nonzero unused field. -/
def decodeFpx (f : Nat) (d a b : BitVec 7) (adv : Adverb) : Except Nat Instr :=
  match f with
  | 0 => if b == 0 then .ok (.fsqrt d a adv) else .error 1
  | 1 => if b == 0 then .ok (.frcp d a adv) else .error 1
  | 2 => if b == 0 then .ok (.frsq d a adv) else .error 1
  | 3 => if b == 0 then .ok (.fexp2 d a adv) else .error 1
  | 4 => if b == 0 then .ok (.flog2 d a adv) else .error 1
  | 5 => if b == 0 then .ok (.fsinpi d a adv) else .error 1
  | 6 => if b == 0 then .ok (.fcospi d a adv) else .error 1
  | 7 => if b == 0 then .ok (.ftanh d a adv) else .error 1
  | 8 => if b == 0 then .ok (.ffract d a adv) else .error 1
  | 9 => if b == 0 then .ok (.frnd d a adv) else .error 1
  | 10 => if b == 0 then .ok (.fclass d a adv) else .error 1
  | _ => .error 0

/-- Major 12, FCMP (Table 12-6); 0 for a reserved function, 1 for a nonzero unused field. -/
def decodeFcmp (f : Nat) (d a b : BitVec 7) (adv : Adverb) : Except Nat Instr :=
  match f with
  | 0 => .ok (.fcmpEq d a b adv)
  | 1 => .ok (.fcmpNe d a b adv)
  | 2 => .ok (.fcmpLt d a b adv)
  | 3 => .ok (.fcmpLe d a b adv)
  | 4 => .ok (.fcmpGt d a b adv)
  | 5 => .ok (.fcmpGe d a b adv)
  | 6 => .ok (.fcmpUn d a b adv)
  | 7 => .ok (.fcmpOrd d a b adv)
  | _ => .error 0

/-- Major 13, PACK (Table 12-6); 0 for a reserved function, 1 for a nonzero unused field. -/
def decodePack (f : Nat) (d a b : BitVec 7) (adv : Adverb) : Except Nat Instr :=
  match f with
  | 0 => .ok (.hadd2 d a b adv)
  | 1 => .ok (.hsub2 d a b adv)
  | 2 => .ok (.hmul2 d a b adv)
  | 3 => .ok (.hfma2 d a b adv)
  | 4 => .ok (.hmin2 d a b adv)
  | 5 => .ok (.hmax2 d a b adv)
  | 6 => .ok (.hdot2 d a b adv)
  | 7 => .ok (.badd2 d a b adv)
  | 8 => .ok (.bsub2 d a b adv)
  | 9 => .ok (.bmul2 d a b adv)
  | 10 => .ok (.bfma2 d a b adv)
  | 11 => .ok (.bmin2 d a b adv)
  | 12 => .ok (.bmax2 d a b adv)
  | 13 => .ok (.bdot2 d a b adv)
  | _ => .error 0

/-- Major 14, DBL (Table 12-6); 0 for a reserved function, 1 for a nonzero unused field. -/
def decodeDbl (f : Nat) (d a b : BitVec 7) (adv : Adverb) : Except Nat Instr :=
  match f with
  | 0 => .ok (.dadd d a b adv)
  | 1 => .ok (.dsub d a b adv)
  | 2 => .ok (.dmul d a b adv)
  | 3 => .ok (.dfma d a b adv)
  | 4 => .ok (.ddiv d a b adv)
  | 5 => if b == 0 then .ok (.dsqrt d a adv) else .error 1
  | 6 => .ok (.dmin d a b adv)
  | 7 => .ok (.dmax d a b adv)
  | 8 => .ok (.dcmpEq d a b adv)
  | 9 => .ok (.dcmpLt d a b adv)
  | 10 => .ok (.dcmpLe d a b adv)
  | 11 => .ok (.dcmpUn d a b adv)
  | _ => .error 0

/-- CVT: f is the destination type, b [24:21] the source type, and b [27:25] is 0 (Table 12-6). -/
def decodeCvt (f : Nat) (d a b : BitVec 7) (adv : Adverb) : Except Nat Instr :=
  if b.toNat < 16 then .ok (.cvt (NumType.ofCode f) (NumType.ofCode b.toNat) d a adv) else .error 1

/-- Major 16, QNT (Table 12-6); 0 for a reserved function, 1 for a nonzero unused field. -/
def decodeQnt (f : Nat) (d a b : BitVec 7) (adv : Adverb) : Except Nat Instr :=
  match f with
  | 0 => .ok (.qpack4 d a b adv)
  | 1 => .ok (.qpack8e4 d a b adv)
  | 2 => .ok (.qpack8e5 d a b adv)
  | 3 => .ok (.qunpk4 d a b adv)
  | 4 => .ok (.scacc d a b adv)
  | 5 => .ok (.scamax d a b adv)
  | 6 => .ok (.qalign d a b adv)
  | _ => .error 0

/-- Major 17, XLANE (Table 12-6); 0 for a reserved function, 1 for a nonzero unused field. -/
def decodeXlane (f : Nat) (d a b : BitVec 7) (adv : Adverb) : Except Nat Instr :=
  match f with
  | 0 => .ok (.shflIdx d a b adv)
  | 1 => .ok (.shflUp d a b adv)
  | 2 => .ok (.shflDn d a b adv)
  | 3 => .ok (.shflXor d a b adv)
  | 4 => if b == 0 then .ok (.voteAny d a adv) else .error 1
  | 5 => if b == 0 then .ok (.voteAll d a adv) else .error 1
  | 6 => if b == 0 then .ok (.voteEq d a adv) else .error 1
  | 7 => if b == 0 then .ok (.ballot d a adv) else .error 1
  | 8 => if b == 0 then .ok (.reduxAdd d a adv) else .error 1
  | 9 => if b == 0 then .ok (.reduxMin d a adv) else .error 1
  | 10 => if b == 0 then .ok (.reduxMax d a adv) else .error 1
  | 11 => if b == 0 then .ok (.reduxMinn d a adv) else .error 1
  | 12 => if b == 0 then .ok (.reduxMaxn d a adv) else .error 1
  | 13 => if b == 0 then .ok (.reduxAnd d a adv) else .error 1
  | 14 => if b == 0 then .ok (.reduxOr d a adv) else .error 1
  | _ => if b == 0 then .ok (.matchLanes d a adv) else .error 1

/-- Major 18, LD (Table 12-6); 0 for a reserved function, 1 for a nonzero unused field. -/
def decodeLd (f : Nat) (d a : BitVec 7) (imm : BitVec 8) (adv : Adverb) : Except Nat Instr :=
  match f with
  | 0 => .ok (.ldI8 d a imm adv)
  | 1 => .ok (.ldN8 d a imm adv)
  | 2 => .ok (.ldI16 d a imm adv)
  | 3 => .ok (.ldN16 d a imm adv)
  | 4 => .ok (.ldB32 d a imm adv)
  | 5 => .ok (.ldB64 d a imm adv)
  | 6 => .ok (.ldB128 d a imm adv)
  | _ => .ok (.ldcon d a imm adv)

/-- Major 19, ST (Table 12-6); 0 for a reserved function, 1 for a nonzero unused field. -/
def decodeSt (f : Nat) (d a : BitVec 7) (imm : BitVec 8) (adv : Adverb) : Except Nat Instr :=
  match f with
  | 0 => .ok (.stB8 d a imm adv)
  | 1 => .ok (.stB16 d a imm adv)
  | 2 => .ok (.stB32 d a imm adv)
  | 3 => .ok (.stB64 d a imm adv)
  | 4 => .ok (.stB128 d a imm adv)
  | _ => .error 0

/-- Major 20, LDS (Table 12-6); 0 for a reserved function, 1 for a nonzero unused field. -/
def decodeLds (f : Nat) (d a : BitVec 7) (imm : BitVec 8) (adv : Adverb) : Except Nat Instr :=
  match f with
  | 0 => .ok (.ldsI8 d a imm adv)
  | 1 => .ok (.ldsN8 d a imm adv)
  | 2 => .ok (.ldsI16 d a imm adv)
  | 3 => .ok (.ldsN16 d a imm adv)
  | 4 => .ok (.ldsB32 d a imm adv)
  | 5 => .ok (.ldsB64 d a imm adv)
  | 6 => .ok (.ldsB128 d a imm adv)
  | _ => .error 0

/-- Major 21, STS (Table 12-6); 0 for a reserved function, 1 for a nonzero unused field. -/
def decodeSts (f : Nat) (d a : BitVec 7) (imm : BitVec 8) (adv : Adverb) : Except Nat Instr :=
  match f with
  | 0 => .ok (.stsB8 d a imm adv)
  | 1 => .ok (.stsB16 d a imm adv)
  | 2 => .ok (.stsB32 d a imm adv)
  | 3 => .ok (.stsB64 d a imm adv)
  | 4 => .ok (.stsB128 d a imm adv)
  | _ => .error 0

/-- Major 22, ATOM (Table 12-6); 0 for a reserved function, 1 for a nonzero unused field. -/
def decodeAtom (f : Nat) (d a b : BitVec 7) (adv : Adverb) : Except Nat Instr :=
  match f with
  | 0 => .ok (.atomAdd d a b adv)
  | 1 => .ok (.atomMin d a b adv)
  | 2 => .ok (.atomMax d a b adv)
  | 3 => .ok (.atomMinn d a b adv)
  | 4 => .ok (.atomMaxn d a b adv)
  | 5 => .ok (.atomAnd d a b adv)
  | 6 => .ok (.atomOr d a b adv)
  | 7 => .ok (.atomXor d a b adv)
  | 8 => .ok (.atomXchg d a b adv)
  | 9 => .ok (.atomCas d a b adv)
  | 10 => .ok (.atomFadd d a b adv)
  | 11 => if b == 0 then .ok (.atomLdres d a adv) else .error 1
  | 12 => .ok (.atomStcond d a b adv)
  | 13 => .ok (.atomAappend d a b adv)
  | _ => .error 0

/-- Major 23, SYNC (Table 12-6); 0 for a reserved function, 1 for a nonzero unused field. -/
def decodeSync (f : Nat) (d a b : BitVec 7) (adv : Adverb) : Except Nat Instr :=
  match f with
  | 0 => if d == 0 && a == 0 && b == 0 then .ok (.bar adv) else .error 1
  | 1 => if d == 0 && a == 0 && b == 0 then .ok (.tbar adv) else .error 1
  | 2 => if d == 0 && a == 0 && b == 0 then .ok (.fenceSc adv) else .error 1
  | 3 => if d == 0 && a == 0 && b == 0 then .ok (.fenceAr adv) else .error 1
  | 4 => if b == 0 then .ok (.acq d a adv) else .error 1
  | 5 => if d == 0 then .ok (.rel a b adv) else .error 1
  | 6 => if d == 0 && b == 0 then .ok (.ticketTake a adv) else .error 1
  | 7 => if d == 0 then .ok (.ticketWait a b adv) else .error 1
  | 8 => if d == 0 && b == 0 then .ok (.ticketDecl a adv) else .error 1
  | 9 => if d == 0 && a == 0 && b == 0 then .ok (.publish adv) else .error 1
  | 10 => if a == 0 && b == 0 then .ok (.seal d adv) else .error 1
  | 11 => if d == 0 && a == 0 && b == 0 then .ok (.rally) else .error 1
  | 12 => if d == 0 && a == 0 && b == 0 then .ok (.yield) else .error 1
  | _ => .error 0

/-- Major 24, MAT (Table 12-6); 0 for a reserved function, 1 for a nonzero unused field. -/
def decodeMat (f : Nat) (d a b : BitVec 7) (adv : Adverb) : Except Nat Instr :=
  match f with
  | 0 => if d == 0 && b == 0 then .ok (.mgang a adv) else .error 1
  | 1 => .ok (.mmaF64 (MatCtl.ofBits d) a b adv)
  | 2 => .ok (.mmaF32 (MatCtl.ofBits d) a b adv)
  | 3 => .ok (.mmaBf16 (MatCtl.ofBits d) a b adv)
  | 4 => .ok (.mmaF16 (MatCtl.ofBits d) a b adv)
  | 5 => .ok (.mmaF8e4 (MatCtl.ofBits d) a b adv)
  | 6 => .ok (.mmaF8e5 (MatCtl.ofBits d) a b adv)
  | 7 => .ok (.mmaF4 (MatCtl.ofBits d) a b adv)
  | 8 => .ok (.mmaI8 (MatCtl.ofBits d) a b adv)
  | 9 => .ok (.mscale (MatCtl.ofBits d) a b adv)
  | 10 => if a == 0 && b == 0 then .ok (.accz (MatCtl.ofBits d) adv) else .error 1
  | 11 => if b == 0 then .ok (.accld (MatCtl.ofBits d) a adv) else .error 1
  | 12 => if b == 0 then .ok (.accst (MatCtl.ofBits d) a adv) else .error 1
  | 13 => if b == 0 then .ok (.accsp (MatCtl.ofBits d) a adv) else .error 1
  | _ => .error 0

/-- Major 25, ENG (Table 12-6); 0 for a reserved function, 1 for a nonzero unused field. -/
noncomputable def decodeEng (f : Nat) (d a b : BitVec 7) (adv : Adverb) : Except Nat Instr :=
  match f with
  | 0 => .ok (.cpy4 d a b adv)
  | 1 => .ok (.cpy8 d a b adv)
  | 2 => .ok (.cpy16 d a b adv)
  | 3 => if b == 0 then .ok (.cpyt d a adv) else .error 1
  | 4 => if b == 0 then .ok (.cpyz d a adv) else .error 1
  | 5 => if b == 0 then .ok (.cpyx d a adv) else .error 1
  | 6 => if b == 0 then .ok (.coll d a adv) else .error 1
  | 7 => if b == 0 then .ok (.htest d a adv) else .error 1
  | 8 => if d == 0 && b == 0 then .ok (.hcancel a adv) else .error 1
  | 9 => if d == 0 then .ok (.stgarm a b adv) else .error 1
  | 10 => if d == 0 then .ok (.stgwait a b adv) else .error 1
  | 11 => if d == 0 then .ok (.stgflip a b adv) else .error 1
  | 12 => if b == 0 then .ok (.ckpt d a adv) else .error 1
  | _ => .error 0

/-- Major 26, VIEW (Table 12-6); 0 for a reserved function, 1 for a nonzero unused field. -/
noncomputable def decodeView (f : Nat) (d a b : BitVec 7) (adv : Adverb) : Except Nat Instr :=
  match f with
  | 0 => .ok (.fork d a b adv)
  | 1 => if d == 0 && b == 0 then .ok (.join a adv) else .error 1
  | 2 => if b == 0 then .ok (.viewq d a adv) else .error 1
  | _ => .error 0

/-- Major 27, RNGX (Table 12-6); 0 for a reserved function, 1 for a nonzero unused field. -/
noncomputable def decodeRngx (f : Nat) (d a b : BitVec 7) (adv : Adverb) : Except Nat Instr :=
  match f with
  | 0 => if b == 0 then .ok (.rng d a adv) else .error 1
  | 1 => if d == 0 then .ok (.rngsk a b adv) else .error 1
  | _ => .error 0

/-- Major 28, BRC (Table 12-6); 0 for a reserved function, 1 for a nonzero unused field. -/
noncomputable def decodeBrc (f : Nat) (d : BitVec 7) (imm : BitVec 15) (adv : Adverb) : Except Nat Instr :=
  match f with
  | 0 => .ok (.bnz d imm adv)
  | 1 => .ok (.bz d imm adv)
  | 2 => .ok (.bany d imm adv)
  | 3 => .ok (.ball d imm adv)
  | 4 => .ok (.bnone d imm adv)
  | _ => .error 0

/-- Major 31, SYS (Table 12-6); 0 for a reserved function, 1 for a nonzero unused field. -/
noncomputable def decodeSys (f : Nat) (d : BitVec 7) (sel : BitVec 10) (adv : Adverb) : Except Nat Instr :=
  match f with
  | 0 => .ok (.srd d sel adv)
  | 1 => .ok (.swr d sel adv)
  | 2 => if sel == 0 then .ok (.jmpr d adv) else .error 1
  | 3 => if sel == 0 then .ok (.callr d adv) else .error 1
  | 4 => if d == 0 && sel == 0 then .ok (.ret) else .error 1
  | 5 => .ok (.brx d sel adv)
  | 6 => if d == 0 && sel == 0 then .ok (.exit) else .error 1
  | 7 => .ok (.trap d sel adv)
  | 8 => if d == 0 && sel == 0 then .ok (.nop) else .error 1
  | 9 => .ok (.flush d sel adv)
  | 10 => .ok (.inval d sel adv)
  | 11 => .ok (.range d sel adv)
  | 12 => if sel.toNat < 64 then .ok (.evt d (sel.extractLsb' 0 6) adv) else .error 4
  | 13 => if d == 0 && sel == 0 then .ok (.halt) else .error 1
  | _ => .error 0

/-- The instruction of a 32-bit word with its adverb, or the SUB of class 0x01 that the word raises by itself. -/
noncomputable def decodeWord (w : BitVec 32) (adv : Adverb) : Except Nat Instr :=
  let d := w.extractLsb' 7 7
  let a := w.extractLsb' 14 7
  let b := w.extractLsb' 21 7
  let f := (w.extractLsb' 28 4).toNat
  let fi := (w.extractLsb' 21 3).toNat
  let imm8 := w.extractLsb' 24 8
  let imm18 := w.extractLsb' 14 18
  let off25 := w.extractLsb' 7 25
  let sel := w.extractLsb' 14 10
  match (w.extractLsb' 2 5).toNat with
  | 0 => decodeInt f d a b adv
  | 1 => decodeBit f d a b adv
  | 2 => decodeInti fi d a imm8 adv
  | 3 => decodeCmp f d a b adv
  | 4 => decodeCmpi fi d a imm8 adv
  | 5 => decodeWide f d a b adv
  | 6 => .ok (.movi d imm18 adv)
  | 7 => .ok (.lui d imm18 adv)
  | 8 => .ok (.adr d imm18 adv)
  | 9 => if d == 0 then .ok (.safept imm18) else .error 1
  | 10 => decodeFp f d a b adv
  | 11 => decodeFpx f d a b adv
  | 12 => decodeFcmp f d a b adv
  | 13 => decodePack f d a b adv
  | 14 => decodeDbl f d a b adv
  | 15 => decodeCvt f d a b adv
  | 16 => decodeQnt f d a b adv
  | 17 => decodeXlane f d a b adv
  | 18 => decodeLd fi d a imm8 adv
  | 19 => decodeSt fi d a imm8 adv
  | 20 => decodeLds fi d a imm8 adv
  | 21 => decodeSts fi d a imm8 adv
  | 22 => decodeAtom f d a b adv
  | 23 => decodeSync f d a b adv
  | 24 => decodeMat f d a b adv
  | 25 => decodeEng f d a b adv
  | 26 => decodeView f d a b adv
  | 27 => decodeRngx f d a b adv
  | 28 => decodeBrc (w.extractLsb' 14 3).toNat d (w.extractLsb' 17 15) adv
  | 29 => .ok (.jmpl off25)
  | 30 => .ok (.calll off25)
  | _ => decodeSys (w.extractLsb' 24 8).toNat d sel adv

/-! ## Units (R257, R258, R414) -/

/-- What the front end reads at an address: an instruction and its length in bytes, or the class and SUB that the
bytes raise. -/
inductive Decoded where
  | instr (i : Instr) (len : Nat)
  | bad (cls sub : Nat)
deriving DecidableEq, Repr

/-- The SUB that an adverb word raises without its instruction: bit 31 of a MOD adverb, a reserved kind, a reserved
RND or SCOPE. -/
def adverbSub (v : BitVec 32) : Option Nat :=
  match Adverb.ofBits v with
  | .error e => some e
  | .ok (.mod m) => if m.reserved then some 4 else none
  | .ok _ => none

/-- Instructions that are never paired with an adverb (Tables 13-1, 15-1). -/
def Instr.unpaired : Instr → Bool
  | .nopHalfword => false
  | .movShort _ _ _ => false
  | .addShort _ _ _ => false
  | .subShort _ _ _ => false
  | .mulloShort _ _ _ => false
  | .andShort _ _ _ => false
  | .orShort _ _ _ => false
  | .xorShort _ _ _ => false
  | .shlShort _ _ _ => false
  | .shrShort _ _ _ => false
  | .shaShort _ _ _ => false
  | .minShort _ _ _ => false
  | .maxShort _ _ _ => false
  | .faddShort _ _ _ => false
  | .fsubShort _ _ _ => false
  | .fmulShort _ _ _ => false
  | .fmaxShort _ _ _ => false
  | .add _ _ _ _ => false
  | .sub _ _ _ _ => false
  | .mullo _ _ _ _ => false
  | .mulhi _ _ _ _ => false
  | .mulhin _ _ _ _ => false
  | .min _ _ _ _ => false
  | .max _ _ _ _ => false
  | .minn _ _ _ _ => false
  | .maxn _ _ _ _ => false
  | .and _ _ _ _ => false
  | .or _ _ _ _ => false
  | .xor _ _ _ _ => false
  | .andn _ _ _ _ => false
  | .shl _ _ _ _ => false
  | .shr _ _ _ _ => false
  | .sha _ _ _ _ => false
  | .rotl _ _ _ _ => false
  | .rotr _ _ _ _ => false
  | .funl _ _ _ _ => false
  | .funr _ _ _ _ => false
  | .bfe _ _ _ _ => false
  | .bfen _ _ _ _ => false
  | .bfi _ _ _ _ => false
  | .popc _ _ _ => false
  | .clz _ _ _ => false
  | .ctz _ _ _ => false
  | .brev _ _ _ => false
  | .permb _ _ _ _ => false
  | .abs _ _ _ => false
  | .sel _ _ _ _ => false
  | .addi _ _ _ _ => false
  | .andi _ _ _ _ => false
  | .ori _ _ _ _ => false
  | .xori _ _ _ _ => false
  | .shli _ _ _ _ => false
  | .shri _ _ _ _ => false
  | .shai _ _ _ _ => false
  | .muli _ _ _ _ => false
  | .cmpEq _ _ _ _ => false
  | .cmpNe _ _ _ _ => false
  | .cmpLt _ _ _ _ => false
  | .cmpLe _ _ _ _ => false
  | .cmpGt _ _ _ _ => false
  | .cmpGe _ _ _ _ => false
  | .cmpLtn _ _ _ _ => false
  | .cmpLen _ _ _ _ => false
  | .cmpGtn _ _ _ _ => false
  | .cmpGen _ _ _ _ => false
  | .cmpiEq _ _ _ _ => false
  | .cmpiNe _ _ _ _ => false
  | .cmpiLt _ _ _ _ => false
  | .cmpiLe _ _ _ _ => false
  | .cmpiGt _ _ _ _ => false
  | .cmpiGe _ _ _ _ => false
  | .cmpiLtn _ _ _ _ => false
  | .cmpiGen _ _ _ _ => false
  | .addx _ _ _ _ => false
  | .subx _ _ _ _ => false
  | .mulx _ _ _ _ => false
  | .mulxn _ _ _ _ => false
  | .shlx _ _ _ _ => false
  | .shrx _ _ _ _ => false
  | .shax _ _ _ _ => false
  | .cmpxEq _ _ _ _ => false
  | .cmpxLt _ _ _ _ => false
  | .cmpxLtn _ _ _ _ => false
  | .div _ _ _ _ => false
  | .divn _ _ _ _ => false
  | .rem _ _ _ _ => false
  | .remn _ _ _ _ => false
  | .movi _ _ _ => false
  | .lui _ _ _ => false
  | .adr _ _ _ => false
  | .safept _ => true
  | .fadd _ _ _ _ => false
  | .fsub _ _ _ _ => false
  | .fmul _ _ _ _ => false
  | .ffma _ _ _ _ => false
  | .fmin _ _ _ _ => false
  | .fmax _ _ _ _ => false
  | .fminnum _ _ _ _ => false
  | .fmaxnum _ _ _ _ => false
  | .fdiv _ _ _ _ => false
  | .fcpys _ _ _ _ => false
  | .fldexp _ _ _ _ => false
  | .fsqrt _ _ _ => false
  | .frcp _ _ _ => false
  | .frsq _ _ _ => false
  | .fexp2 _ _ _ => false
  | .flog2 _ _ _ => false
  | .fsinpi _ _ _ => false
  | .fcospi _ _ _ => false
  | .ftanh _ _ _ => false
  | .ffract _ _ _ => false
  | .frnd _ _ _ => false
  | .fclass _ _ _ => false
  | .fcmpEq _ _ _ _ => false
  | .fcmpNe _ _ _ _ => false
  | .fcmpLt _ _ _ _ => false
  | .fcmpLe _ _ _ _ => false
  | .fcmpGt _ _ _ _ => false
  | .fcmpGe _ _ _ _ => false
  | .fcmpUn _ _ _ _ => false
  | .fcmpOrd _ _ _ _ => false
  | .hadd2 _ _ _ _ => false
  | .hsub2 _ _ _ _ => false
  | .hmul2 _ _ _ _ => false
  | .hfma2 _ _ _ _ => false
  | .hmin2 _ _ _ _ => false
  | .hmax2 _ _ _ _ => false
  | .hdot2 _ _ _ _ => false
  | .badd2 _ _ _ _ => false
  | .bsub2 _ _ _ _ => false
  | .bmul2 _ _ _ _ => false
  | .bfma2 _ _ _ _ => false
  | .bmin2 _ _ _ _ => false
  | .bmax2 _ _ _ _ => false
  | .bdot2 _ _ _ _ => false
  | .dadd _ _ _ _ => false
  | .dsub _ _ _ _ => false
  | .dmul _ _ _ _ => false
  | .dfma _ _ _ _ => false
  | .ddiv _ _ _ _ => false
  | .dsqrt _ _ _ => false
  | .dmin _ _ _ _ => false
  | .dmax _ _ _ _ => false
  | .dcmpEq _ _ _ _ => false
  | .dcmpLt _ _ _ _ => false
  | .dcmpLe _ _ _ _ => false
  | .dcmpUn _ _ _ _ => false
  | .cvt _ _ _ _ _ => false
  | .qpack4 _ _ _ _ => false
  | .qpack8e4 _ _ _ _ => false
  | .qpack8e5 _ _ _ _ => false
  | .qunpk4 _ _ _ _ => false
  | .scacc _ _ _ _ => false
  | .scamax _ _ _ _ => false
  | .qalign _ _ _ _ => false
  | .shflIdx _ _ _ _ => false
  | .shflUp _ _ _ _ => false
  | .shflDn _ _ _ _ => false
  | .shflXor _ _ _ _ => false
  | .voteAny _ _ _ => false
  | .voteAll _ _ _ => false
  | .voteEq _ _ _ => false
  | .ballot _ _ _ => false
  | .reduxAdd _ _ _ => false
  | .reduxMin _ _ _ => false
  | .reduxMax _ _ _ => false
  | .reduxMinn _ _ _ => false
  | .reduxMaxn _ _ _ => false
  | .reduxAnd _ _ _ => false
  | .reduxOr _ _ _ => false
  | .matchLanes _ _ _ => false
  | .ldI8 _ _ _ _ => false
  | .ldN8 _ _ _ _ => false
  | .ldI16 _ _ _ _ => false
  | .ldN16 _ _ _ _ => false
  | .ldB32 _ _ _ _ => false
  | .ldB64 _ _ _ _ => false
  | .ldB128 _ _ _ _ => false
  | .ldcon _ _ _ _ => false
  | .stB8 _ _ _ _ => false
  | .stB16 _ _ _ _ => false
  | .stB32 _ _ _ _ => false
  | .stB64 _ _ _ _ => false
  | .stB128 _ _ _ _ => false
  | .ldsI8 _ _ _ _ => false
  | .ldsN8 _ _ _ _ => false
  | .ldsI16 _ _ _ _ => false
  | .ldsN16 _ _ _ _ => false
  | .ldsB32 _ _ _ _ => false
  | .ldsB64 _ _ _ _ => false
  | .ldsB128 _ _ _ _ => false
  | .stsB8 _ _ _ _ => false
  | .stsB16 _ _ _ _ => false
  | .stsB32 _ _ _ _ => false
  | .stsB64 _ _ _ _ => false
  | .stsB128 _ _ _ _ => false
  | .atomAdd _ _ _ _ => false
  | .atomMin _ _ _ _ => false
  | .atomMax _ _ _ _ => false
  | .atomMinn _ _ _ _ => false
  | .atomMaxn _ _ _ _ => false
  | .atomAnd _ _ _ _ => false
  | .atomOr _ _ _ _ => false
  | .atomXor _ _ _ _ => false
  | .atomXchg _ _ _ _ => false
  | .atomCas _ _ _ _ => false
  | .atomFadd _ _ _ _ => false
  | .atomLdres _ _ _ => false
  | .atomStcond _ _ _ _ => false
  | .atomAappend _ _ _ _ => false
  | .bar _ => false
  | .tbar _ => false
  | .fenceSc _ => false
  | .fenceAr _ => false
  | .acq _ _ _ => false
  | .rel _ _ _ => false
  | .ticketTake _ _ => false
  | .ticketWait _ _ _ => false
  | .ticketDecl _ _ => false
  | .publish _ => false
  | .seal _ _ => false
  | .rally => true
  | .yield => true
  | .mgang _ _ => false
  | .mmaF64 _ _ _ _ => false
  | .mmaF32 _ _ _ _ => false
  | .mmaBf16 _ _ _ _ => false
  | .mmaF16 _ _ _ _ => false
  | .mmaF8e4 _ _ _ _ => false
  | .mmaF8e5 _ _ _ _ => false
  | .mmaF4 _ _ _ _ => false
  | .mmaI8 _ _ _ _ => false
  | .mscale _ _ _ _ => false
  | .accz _ _ => false
  | .accld _ _ _ => false
  | .accst _ _ _ => false
  | .accsp _ _ _ => false
  | .cpy4 _ _ _ _ => false
  | .cpy8 _ _ _ _ => false
  | .cpy16 _ _ _ _ => false
  | .cpyt _ _ _ => false
  | .cpyz _ _ _ => false
  | .cpyx _ _ _ => false
  | .coll _ _ _ => false
  | .htest _ _ _ => false
  | .hcancel _ _ => false
  | .stgarm _ _ _ => false
  | .stgwait _ _ _ => false
  | .stgflip _ _ _ => false
  | .ckpt _ _ _ => false
  | .fork _ _ _ _ => false
  | .join _ _ => false
  | .viewq _ _ _ => false
  | .rng _ _ _ => false
  | .rngsk _ _ _ => false
  | .bnz _ _ _ => false
  | .bz _ _ _ => false
  | .bany _ _ _ => false
  | .ball _ _ _ => false
  | .bnone _ _ _ => false
  | .jmpl _ => true
  | .calll _ => true
  | .srd _ _ _ => false
  | .swr _ _ _ => false
  | .jmpr _ _ => false
  | .callr _ _ => false
  | .ret => true
  | .brx _ _ _ => false
  | .exit => true
  | .trap _ _ _ => false
  | .nop => true
  | .flush _ _ _ => false
  | .inval _ _ _ => false
  | .range _ _ _ => false
  | .evt _ _ _ => false
  | .halt => true
  | .moduleReset => false
  | .port1Reset => false
  | .hostLinkDown _ => false
  | .hostLinkUp _ => false
  | .lqdoor _ _ _ => false
  | .launchRecordRead _ _ => false
  | .launchAdmit => false
  | .blockDispatch _ _ _ => false
  | .registerCompaction _ => false
  | .preemptForPriority _ => false
  | .blockSave _ => false
  | .blockResume _ _ => false
  | .blockEnd _ => false
  | .launchRetire _ => false
  | .fairnessTimerExpiry _ _ _ => false
  | .rallyTimeout _ _ => false
  | .predicateResolve _ _ => false
  | .candidatePromotion _ _ => false
  | .budgetPeriod _ => false
  | .safePointOverdue => false
  | .l1DirtyWriteback _ _ => false
  | .tlbiPage _ _ => false
  | .tlbiJob _ _ => false
  | .tlbiAll _ => false
  | .tlbiDone _ => false
  | .migration _ _ _ _ => false
  | .childFold _ _ => false
  | .copyComplete _ _ => false
  | .multicastDelivery _ _ _ _ => false
  | .compressComplete _ _ => false
  | .collChunkReceive _ _ _ _ _ _ => false
  | .ckptComplete _ _ => false
  | .matrixExecute _ _ => false
  | .orderedRequestRelease _ _ => false
  | .squallSwitchOut _ => false
  | .squallResume _ => false
  | .squallMarker _ => false
  | .latePacket _ => false
  | .readRequest _ => false
  | .readResponse _ => false
  | .remoteWrite _ => false
  | .writeAcknowledgement _ => false
  | .remoteAtomic _ => false
  | .atomicResponse _ => false
  | .receiverNotReady _ => false
  | .rnrRetry _ => false
  | .bufferRelease _ => false
  | .keyMarker _ => false
  | .drainMarker _ => false
  | .idleFlit _ => false
  | .relayForward _ => false
  | .bufferReleaseTimer _ => false
  | .linkRetryTimeout _ _ => false
  | .linkTrained _ _ => false
  | .linkTrainingLost _ => false
  | .portDown _ => false
  | .routeWaitTimeout _ => false
  | .rtgenSwitch _ => false
  | .wcbLullExpiry _ _ => false
  | .keySwitchRequest _ => false
  | .keySwitchCount _ => false
  | .keyCounterLimit _ => false
  | .keyLoad _ _ => false
  | .bar2Read _ _ _ => false
  | .bar2Write _ _ _ => false
  | .hostReadCompletion _ _ => false
  | .hostReadTimeout _ => false
  | .spareCorePair _ _ => false
  | .spareScratchpadBank _ _ => false
  | .spareL2Slice _ _ => false
  | .sparePseudoChannel _ _ => false
  | .spareFabricPort _ _ => false
  | .spareDone => false
  | .autoSpare _ _ _ => false
  | .freeze => false
  | .scanRead _ => false
  | .attestationRequest _ => false
  | .attestationReady => false
  | .powerThermalCheck _ _ _ => false
  | .thermalHold => false
  | .thermalHoldRelease => false
  | .thermalTrip => false
  | .jobabort _ => false
  | .faultAnswerResume _ => false
  | .faultAnswerAbortBlock _ => false
  | .faultAnswerAbortGrid _ => false
  | .faultRingConsume _ => false
  | .faultRingEnable _ => false
  | .faultRingBase _ => false
  | .registerScrub _ _ _ _ => false
  | .patrolScrub _ _ => false
  | .registerWrite _ _ _ _ => false
  | .illegalEncoding _ _ _ => false
  | .perstDeassertion _ => false
  | .bootComplete _ => false

/-- The lowest SUB of an instruction's fields and of the adverb word `v` that stands before its word. -/
noncomputable def fieldSub (i : Instr) (w : BitVec 32) (v : Option (BitVec 32)) : Option Nat :=
  match v with
  | none => i.flaw
  | some v =>
    match Adverb.ofBits v with
    | .error e => subMin i.flaw (some e)
    | .ok adv =>
      match decodeWord w adv with
      | .error e => subMin i.flaw (some e)
      | .ok j => subMin (subMin i.flaw j.flaw) (if j.unpaired then some 3 else none)

/-- The word with sel[9:6] zero, which EVT asks for (Table 20-1). -/
def evtWord (w : BitVec 32) : BitVec 32 := w &&& 0xFF0FFFFF

/-- The lowest SUB of class 0x01 of a word alone and of a word after the adverb word `v` (R414). -/
noncomputable def wordSub (w : BitVec 32) (v : Option (BitVec 32)) : Option Nat :=
  match decodeWord w .none with
  | .ok i => fieldSub i w v
  | .error e =>
    if e != 4 then some e
    else
      match decodeWord (evtWord w) .none with
      | .ok i => subMin (fieldSub i (evtWord w) v) (some e)
      | .error e => some e

/-- The unit that the 64 bits `x` begin with, at an address that is a multiple of 8 or not. Every unit whose
encoding has fields in place is given its instruction; `checkUnit` says whether the front end accepts it. -/
noncomputable def decodeUnit (x : BitVec 64) (aligned : Bool) : Decoded :=
  let h := x.extractLsb' 0 16
  let w := x.extractLsb' 0 32
  let w2 := x.extractLsb' 32 32
  if !h.getLsbD 0 then .instr (decodeShort h) 2
  else if !h.getLsbD 1 then
    match decodeWord w .none with
    | .ok i => .instr i 4
    | .error e => .bad 1 e
  else if !aligned then .bad 2 0
  else if !w2.getLsbD 0 then .bad 2 1
  else if w2.getLsbD 1 then .bad 2 2
  else
    match Adverb.ofBits w with
    | .error e => .bad 1 e
    | .ok adv =>
      match decodeWord w2 adv with
      | .ok i => if i.unpaired then .bad 1 3 else .instr i 8
      | .error e => .bad 1 e

/-- The front end's verdict on the unit that the 64 bits `x` begin with (R414): the class and SUB of Table 20-1, of
which class 0x01 comes first and the lowest SUB of it, or nothing. -/
noncomputable def checkUnit (x : BitVec 64) (aligned : Bool) : Option (Nat × Nat) :=
  let w := x.extractLsb' 0 32
  let w2 := x.extractLsb' 32 32
  let first (s : Option Nat) (c : Option (Nat × Nat)) : Option (Nat × Nat) :=
    match s with
    | some n => some (1, n)
    | none => c
  if !w.getLsbD 0 then none
  else if !w.getLsbD 1 then first (wordSub w none) none
  else if !aligned then first (adverbSub w) (some (2, 0))
  else if !w2.getLsbD 0 then first (adverbSub w) (some (2, 1))
  else if w2.getLsbD 1 then first (adverbSub w) (some (2, 2))
  else first (wordSub w2 (some w)) none

/-! ## The encoder -/

/-- The code of an instruction: a short form, or a word with its adverb; events have none. -/
inductive Code where
  | event
  | half (h : BitVec 16)
  | word (w : BitVec 32) (adv : Adverb)
deriving DecidableEq, Repr

/-- The encoding of each instruction (Tables 12-1, 12-3, 12-4, 12-6, R270, Table 14-6). -/
def Instr.code : Instr → Code
  | .nopHalfword => .half 0
  | .movShort i s d => .half (wordShort 0 i s d)
  | .addShort i s d => .half (wordShort 1 i s d)
  | .subShort i s d => .half (wordShort 2 i s d)
  | .mulloShort i s d => .half (wordShort 3 i s d)
  | .andShort i s d => .half (wordShort 4 i s d)
  | .orShort i s d => .half (wordShort 5 i s d)
  | .xorShort i s d => .half (wordShort 6 i s d)
  | .shlShort i s d => .half (wordShort 7 i s d)
  | .shrShort i s d => .half (wordShort 8 i s d)
  | .shaShort i s d => .half (wordShort 9 i s d)
  | .minShort i s d => .half (wordShort 10 i s d)
  | .maxShort i s d => .half (wordShort 11 i s d)
  | .faddShort i s d => .half (wordShort 12 i s d)
  | .fsubShort i s d => .half (wordShort 13 i s d)
  | .fmulShort i s d => .half (wordShort 14 i s d)
  | .fmaxShort i s d => .half (wordShort 15 i s d)
  | .add d a b adv => .word (wordR 0 0 d a b) adv
  | .sub d a b adv => .word (wordR 0 1 d a b) adv
  | .mullo d a b adv => .word (wordR 0 2 d a b) adv
  | .mulhi d a b adv => .word (wordR 0 3 d a b) adv
  | .mulhin d a b adv => .word (wordR 0 4 d a b) adv
  | .min d a b adv => .word (wordR 0 5 d a b) adv
  | .max d a b adv => .word (wordR 0 6 d a b) adv
  | .minn d a b adv => .word (wordR 0 7 d a b) adv
  | .maxn d a b adv => .word (wordR 0 8 d a b) adv
  | .and d a b adv => .word (wordR 0 9 d a b) adv
  | .or d a b adv => .word (wordR 0 10 d a b) adv
  | .xor d a b adv => .word (wordR 0 11 d a b) adv
  | .andn d a b adv => .word (wordR 0 12 d a b) adv
  | .shl d a b adv => .word (wordR 0 13 d a b) adv
  | .shr d a b adv => .word (wordR 0 14 d a b) adv
  | .sha d a b adv => .word (wordR 0 15 d a b) adv
  | .rotl d a b adv => .word (wordR 1 0 d a b) adv
  | .rotr d a b adv => .word (wordR 1 1 d a b) adv
  | .funl d a b adv => .word (wordR 1 2 d a b) adv
  | .funr d a b adv => .word (wordR 1 3 d a b) adv
  | .bfe d a b adv => .word (wordR 1 4 d a b) adv
  | .bfen d a b adv => .word (wordR 1 5 d a b) adv
  | .bfi d a b adv => .word (wordR 1 6 d a b) adv
  | .popc d a adv => .word (wordR 1 7 d a 0) adv
  | .clz d a adv => .word (wordR 1 8 d a 0) adv
  | .ctz d a adv => .word (wordR 1 9 d a 0) adv
  | .brev d a adv => .word (wordR 1 10 d a 0) adv
  | .permb d a b adv => .word (wordR 1 11 d a b) adv
  | .abs d a adv => .word (wordR 1 12 d a 0) adv
  | .sel d a b adv => .word (wordR 1 13 d a b) adv
  | .addi d a imm adv => .word (wordI 2 0 d a imm) adv
  | .andi d a imm adv => .word (wordI 2 1 d a imm) adv
  | .ori d a imm adv => .word (wordI 2 2 d a imm) adv
  | .xori d a imm adv => .word (wordI 2 3 d a imm) adv
  | .shli d a imm adv => .word (wordI 2 4 d a imm) adv
  | .shri d a imm adv => .word (wordI 2 5 d a imm) adv
  | .shai d a imm adv => .word (wordI 2 6 d a imm) adv
  | .muli d a imm adv => .word (wordI 2 7 d a imm) adv
  | .cmpEq d a b adv => .word (wordR 3 0 d a b) adv
  | .cmpNe d a b adv => .word (wordR 3 1 d a b) adv
  | .cmpLt d a b adv => .word (wordR 3 2 d a b) adv
  | .cmpLe d a b adv => .word (wordR 3 3 d a b) adv
  | .cmpGt d a b adv => .word (wordR 3 4 d a b) adv
  | .cmpGe d a b adv => .word (wordR 3 5 d a b) adv
  | .cmpLtn d a b adv => .word (wordR 3 6 d a b) adv
  | .cmpLen d a b adv => .word (wordR 3 7 d a b) adv
  | .cmpGtn d a b adv => .word (wordR 3 8 d a b) adv
  | .cmpGen d a b adv => .word (wordR 3 9 d a b) adv
  | .cmpiEq d a imm adv => .word (wordI 4 0 d a imm) adv
  | .cmpiNe d a imm adv => .word (wordI 4 1 d a imm) adv
  | .cmpiLt d a imm adv => .word (wordI 4 2 d a imm) adv
  | .cmpiLe d a imm adv => .word (wordI 4 3 d a imm) adv
  | .cmpiGt d a imm adv => .word (wordI 4 4 d a imm) adv
  | .cmpiGe d a imm adv => .word (wordI 4 5 d a imm) adv
  | .cmpiLtn d a imm adv => .word (wordI 4 6 d a imm) adv
  | .cmpiGen d a imm adv => .word (wordI 4 7 d a imm) adv
  | .addx d a b adv => .word (wordR 5 0 d a b) adv
  | .subx d a b adv => .word (wordR 5 1 d a b) adv
  | .mulx d a b adv => .word (wordR 5 2 d a b) adv
  | .mulxn d a b adv => .word (wordR 5 3 d a b) adv
  | .shlx d a b adv => .word (wordR 5 4 d a b) adv
  | .shrx d a b adv => .word (wordR 5 5 d a b) adv
  | .shax d a b adv => .word (wordR 5 6 d a b) adv
  | .cmpxEq d a b adv => .word (wordR 5 7 d a b) adv
  | .cmpxLt d a b adv => .word (wordR 5 8 d a b) adv
  | .cmpxLtn d a b adv => .word (wordR 5 9 d a b) adv
  | .div d a b adv => .word (wordR 5 10 d a b) adv
  | .divn d a b adv => .word (wordR 5 11 d a b) adv
  | .rem d a b adv => .word (wordR 5 12 d a b) adv
  | .remn d a b adv => .word (wordR 5 13 d a b) adv
  | .movi d imm adv => .word (wordL 6 d imm) adv
  | .lui d imm adv => .word (wordL 7 d imm) adv
  | .adr d imm adv => .word (wordL 8 d imm) adv
  | .safept imm => .word (wordL 9 0 imm) .none
  | .fadd d a b adv => .word (wordR 10 0 d a b) adv
  | .fsub d a b adv => .word (wordR 10 1 d a b) adv
  | .fmul d a b adv => .word (wordR 10 2 d a b) adv
  | .ffma d a b adv => .word (wordR 10 3 d a b) adv
  | .fmin d a b adv => .word (wordR 10 4 d a b) adv
  | .fmax d a b adv => .word (wordR 10 5 d a b) adv
  | .fminnum d a b adv => .word (wordR 10 6 d a b) adv
  | .fmaxnum d a b adv => .word (wordR 10 7 d a b) adv
  | .fdiv d a b adv => .word (wordR 10 8 d a b) adv
  | .fcpys d a b adv => .word (wordR 10 9 d a b) adv
  | .fldexp d a b adv => .word (wordR 10 10 d a b) adv
  | .fsqrt d a adv => .word (wordR 11 0 d a 0) adv
  | .frcp d a adv => .word (wordR 11 1 d a 0) adv
  | .frsq d a adv => .word (wordR 11 2 d a 0) adv
  | .fexp2 d a adv => .word (wordR 11 3 d a 0) adv
  | .flog2 d a adv => .word (wordR 11 4 d a 0) adv
  | .fsinpi d a adv => .word (wordR 11 5 d a 0) adv
  | .fcospi d a adv => .word (wordR 11 6 d a 0) adv
  | .ftanh d a adv => .word (wordR 11 7 d a 0) adv
  | .ffract d a adv => .word (wordR 11 8 d a 0) adv
  | .frnd d a adv => .word (wordR 11 9 d a 0) adv
  | .fclass d a adv => .word (wordR 11 10 d a 0) adv
  | .fcmpEq d a b adv => .word (wordR 12 0 d a b) adv
  | .fcmpNe d a b adv => .word (wordR 12 1 d a b) adv
  | .fcmpLt d a b adv => .word (wordR 12 2 d a b) adv
  | .fcmpLe d a b adv => .word (wordR 12 3 d a b) adv
  | .fcmpGt d a b adv => .word (wordR 12 4 d a b) adv
  | .fcmpGe d a b adv => .word (wordR 12 5 d a b) adv
  | .fcmpUn d a b adv => .word (wordR 12 6 d a b) adv
  | .fcmpOrd d a b adv => .word (wordR 12 7 d a b) adv
  | .hadd2 d a b adv => .word (wordR 13 0 d a b) adv
  | .hsub2 d a b adv => .word (wordR 13 1 d a b) adv
  | .hmul2 d a b adv => .word (wordR 13 2 d a b) adv
  | .hfma2 d a b adv => .word (wordR 13 3 d a b) adv
  | .hmin2 d a b adv => .word (wordR 13 4 d a b) adv
  | .hmax2 d a b adv => .word (wordR 13 5 d a b) adv
  | .hdot2 d a b adv => .word (wordR 13 6 d a b) adv
  | .badd2 d a b adv => .word (wordR 13 7 d a b) adv
  | .bsub2 d a b adv => .word (wordR 13 8 d a b) adv
  | .bmul2 d a b adv => .word (wordR 13 9 d a b) adv
  | .bfma2 d a b adv => .word (wordR 13 10 d a b) adv
  | .bmin2 d a b adv => .word (wordR 13 11 d a b) adv
  | .bmax2 d a b adv => .word (wordR 13 12 d a b) adv
  | .bdot2 d a b adv => .word (wordR 13 13 d a b) adv
  | .dadd d a b adv => .word (wordR 14 0 d a b) adv
  | .dsub d a b adv => .word (wordR 14 1 d a b) adv
  | .dmul d a b adv => .word (wordR 14 2 d a b) adv
  | .dfma d a b adv => .word (wordR 14 3 d a b) adv
  | .ddiv d a b adv => .word (wordR 14 4 d a b) adv
  | .dsqrt d a adv => .word (wordR 14 5 d a 0) adv
  | .dmin d a b adv => .word (wordR 14 6 d a b) adv
  | .dmax d a b adv => .word (wordR 14 7 d a b) adv
  | .dcmpEq d a b adv => .word (wordR 14 8 d a b) adv
  | .dcmpLt d a b adv => .word (wordR 14 9 d a b) adv
  | .dcmpLe d a b adv => .word (wordR 14 10 d a b) adv
  | .dcmpUn d a b adv => .word (wordR 14 11 d a b) adv
  | .cvt y x d a adv => .word (wordR 15 y.code d a (BitVec.ofNat 7 x.code)) adv
  | .qpack4 d a b adv => .word (wordR 16 0 d a b) adv
  | .qpack8e4 d a b adv => .word (wordR 16 1 d a b) adv
  | .qpack8e5 d a b adv => .word (wordR 16 2 d a b) adv
  | .qunpk4 d a b adv => .word (wordR 16 3 d a b) adv
  | .scacc d a b adv => .word (wordR 16 4 d a b) adv
  | .scamax d a b adv => .word (wordR 16 5 d a b) adv
  | .qalign d a b adv => .word (wordR 16 6 d a b) adv
  | .shflIdx d a b adv => .word (wordR 17 0 d a b) adv
  | .shflUp d a b adv => .word (wordR 17 1 d a b) adv
  | .shflDn d a b adv => .word (wordR 17 2 d a b) adv
  | .shflXor d a b adv => .word (wordR 17 3 d a b) adv
  | .voteAny d a adv => .word (wordR 17 4 d a 0) adv
  | .voteAll d a adv => .word (wordR 17 5 d a 0) adv
  | .voteEq d a adv => .word (wordR 17 6 d a 0) adv
  | .ballot d a adv => .word (wordR 17 7 d a 0) adv
  | .reduxAdd d a adv => .word (wordR 17 8 d a 0) adv
  | .reduxMin d a adv => .word (wordR 17 9 d a 0) adv
  | .reduxMax d a adv => .word (wordR 17 10 d a 0) adv
  | .reduxMinn d a adv => .word (wordR 17 11 d a 0) adv
  | .reduxMaxn d a adv => .word (wordR 17 12 d a 0) adv
  | .reduxAnd d a adv => .word (wordR 17 13 d a 0) adv
  | .reduxOr d a adv => .word (wordR 17 14 d a 0) adv
  | .matchLanes d a adv => .word (wordR 17 15 d a 0) adv
  | .ldI8 t a off adv => .word (wordI 18 0 t a off) adv
  | .ldN8 t a off adv => .word (wordI 18 1 t a off) adv
  | .ldI16 t a off adv => .word (wordI 18 2 t a off) adv
  | .ldN16 t a off adv => .word (wordI 18 3 t a off) adv
  | .ldB32 t a off adv => .word (wordI 18 4 t a off) adv
  | .ldB64 t a off adv => .word (wordI 18 5 t a off) adv
  | .ldB128 t a off adv => .word (wordI 18 6 t a off) adv
  | .ldcon t a off adv => .word (wordI 18 7 t a off) adv
  | .stB8 t a off adv => .word (wordI 19 0 t a off) adv
  | .stB16 t a off adv => .word (wordI 19 1 t a off) adv
  | .stB32 t a off adv => .word (wordI 19 2 t a off) adv
  | .stB64 t a off adv => .word (wordI 19 3 t a off) adv
  | .stB128 t a off adv => .word (wordI 19 4 t a off) adv
  | .ldsI8 t a off adv => .word (wordI 20 0 t a off) adv
  | .ldsN8 t a off adv => .word (wordI 20 1 t a off) adv
  | .ldsI16 t a off adv => .word (wordI 20 2 t a off) adv
  | .ldsN16 t a off adv => .word (wordI 20 3 t a off) adv
  | .ldsB32 t a off adv => .word (wordI 20 4 t a off) adv
  | .ldsB64 t a off adv => .word (wordI 20 5 t a off) adv
  | .ldsB128 t a off adv => .word (wordI 20 6 t a off) adv
  | .stsB8 t a off adv => .word (wordI 21 0 t a off) adv
  | .stsB16 t a off adv => .word (wordI 21 1 t a off) adv
  | .stsB32 t a off adv => .word (wordI 21 2 t a off) adv
  | .stsB64 t a off adv => .word (wordI 21 3 t a off) adv
  | .stsB128 t a off adv => .word (wordI 21 4 t a off) adv
  | .atomAdd d a b adv => .word (wordR 22 0 d a b) adv
  | .atomMin d a b adv => .word (wordR 22 1 d a b) adv
  | .atomMax d a b adv => .word (wordR 22 2 d a b) adv
  | .atomMinn d a b adv => .word (wordR 22 3 d a b) adv
  | .atomMaxn d a b adv => .word (wordR 22 4 d a b) adv
  | .atomAnd d a b adv => .word (wordR 22 5 d a b) adv
  | .atomOr d a b adv => .word (wordR 22 6 d a b) adv
  | .atomXor d a b adv => .word (wordR 22 7 d a b) adv
  | .atomXchg d a b adv => .word (wordR 22 8 d a b) adv
  | .atomCas d a b adv => .word (wordR 22 9 d a b) adv
  | .atomFadd d a b adv => .word (wordR 22 10 d a b) adv
  | .atomLdres d a adv => .word (wordR 22 11 d a 0) adv
  | .atomStcond d a b adv => .word (wordR 22 12 d a b) adv
  | .atomAappend d a b adv => .word (wordR 22 13 d a b) adv
  | .bar adv => .word (wordR 23 0 0 0 0) adv
  | .tbar adv => .word (wordR 23 1 0 0 0) adv
  | .fenceSc adv => .word (wordR 23 2 0 0 0) adv
  | .fenceAr adv => .word (wordR 23 3 0 0 0) adv
  | .acq d a adv => .word (wordR 23 4 d a 0) adv
  | .rel a b adv => .word (wordR 23 5 0 a b) adv
  | .ticketTake a adv => .word (wordR 23 6 0 a 0) adv
  | .ticketWait a b adv => .word (wordR 23 7 0 a b) adv
  | .ticketDecl a adv => .word (wordR 23 8 0 a 0) adv
  | .publish adv => .word (wordR 23 9 0 0 0) adv
  | .seal d adv => .word (wordR 23 10 d 0 0) adv
  | .rally => .word (wordR 23 11 0 0 0) .none
  | .yield => .word (wordR 23 12 0 0 0) .none
  | .mgang a adv => .word (wordR 24 0 0 a 0) adv
  | .mmaF64 ctl a b adv => .word (wordR 24 1 ctl.bits a b) adv
  | .mmaF32 ctl a b adv => .word (wordR 24 2 ctl.bits a b) adv
  | .mmaBf16 ctl a b adv => .word (wordR 24 3 ctl.bits a b) adv
  | .mmaF16 ctl a b adv => .word (wordR 24 4 ctl.bits a b) adv
  | .mmaF8e4 ctl a b adv => .word (wordR 24 5 ctl.bits a b) adv
  | .mmaF8e5 ctl a b adv => .word (wordR 24 6 ctl.bits a b) adv
  | .mmaF4 ctl a b adv => .word (wordR 24 7 ctl.bits a b) adv
  | .mmaI8 ctl a b adv => .word (wordR 24 8 ctl.bits a b) adv
  | .mscale ctl a b adv => .word (wordR 24 9 ctl.bits a b) adv
  | .accz ctl adv => .word (wordR 24 10 ctl.bits 0 0) adv
  | .accld ctl a adv => .word (wordR 24 11 ctl.bits a 0) adv
  | .accst ctl a adv => .word (wordR 24 12 ctl.bits a 0) adv
  | .accsp ctl a adv => .word (wordR 24 13 ctl.bits a 0) adv
  | .cpy4 d a b adv => .word (wordR 25 0 d a b) adv
  | .cpy8 d a b adv => .word (wordR 25 1 d a b) adv
  | .cpy16 d a b adv => .word (wordR 25 2 d a b) adv
  | .cpyt d a adv => .word (wordR 25 3 d a 0) adv
  | .cpyz d a adv => .word (wordR 25 4 d a 0) adv
  | .cpyx d a adv => .word (wordR 25 5 d a 0) adv
  | .coll d a adv => .word (wordR 25 6 d a 0) adv
  | .htest d a adv => .word (wordR 25 7 d a 0) adv
  | .hcancel a adv => .word (wordR 25 8 0 a 0) adv
  | .stgarm a b adv => .word (wordR 25 9 0 a b) adv
  | .stgwait a b adv => .word (wordR 25 10 0 a b) adv
  | .stgflip a b adv => .word (wordR 25 11 0 a b) adv
  | .ckpt d a adv => .word (wordR 25 12 d a 0) adv
  | .fork d a b adv => .word (wordR 26 0 d a b) adv
  | .join a adv => .word (wordR 26 1 0 a 0) adv
  | .viewq d a adv => .word (wordR 26 2 d a 0) adv
  | .rng d a adv => .word (wordR 27 0 d a 0) adv
  | .rngsk a b adv => .word (wordR 27 1 0 a b) adv
  | .bnz p off adv => .word (wordB 28 0 p off) adv
  | .bz p off adv => .word (wordB 28 1 p off) adv
  | .bany p off adv => .word (wordB 28 2 p off) adv
  | .ball p off adv => .word (wordB 28 3 p off) adv
  | .bnone p off adv => .word (wordB 28 4 p off) adv
  | .jmpl off => .word (wordJ 29 off) .none
  | .calll off => .word (wordJ 30 off) .none
  | .srd d sl adv => .word (wordS 31 0 d sl) adv
  | .swr d sl adv => .word (wordS 31 1 d sl) adv
  | .jmpr d adv => .word (wordS 31 2 d 0) adv
  | .callr d adv => .word (wordS 31 3 d 0) adv
  | .ret => .word (wordS 31 4 0 0) .none
  | .brx d sl adv => .word (wordS 31 5 d sl) adv
  | .exit => .word (wordS 31 6 0 0) .none
  | .trap d sl adv => .word (wordS 31 7 d sl) adv
  | .nop => .word (wordS 31 8 0 0) .none
  | .flush d sl adv => .word (wordS 31 9 d sl) adv
  | .inval d sl adv => .word (wordS 31 10 d sl) adv
  | .range d sl adv => .word (wordS 31 11 d sl) adv
  | .evt d sl adv => .word (wordS 31 12 d (0#4 ++ sl)) adv
  | .halt => .word (wordS 31 13 0 0) .none
  | .moduleReset => .event
  | .port1Reset => .event
  | .hostLinkDown _ => .event
  | .hostLinkUp _ => .event
  | .lqdoor _ _ _ => .event
  | .launchRecordRead _ _ => .event
  | .launchAdmit => .event
  | .blockDispatch _ _ _ => .event
  | .registerCompaction _ => .event
  | .preemptForPriority _ => .event
  | .blockSave _ => .event
  | .blockResume _ _ => .event
  | .blockEnd _ => .event
  | .launchRetire _ => .event
  | .fairnessTimerExpiry _ _ _ => .event
  | .rallyTimeout _ _ => .event
  | .predicateResolve _ _ => .event
  | .candidatePromotion _ _ => .event
  | .budgetPeriod _ => .event
  | .safePointOverdue => .event
  | .l1DirtyWriteback _ _ => .event
  | .tlbiPage _ _ => .event
  | .tlbiJob _ _ => .event
  | .tlbiAll _ => .event
  | .tlbiDone _ => .event
  | .migration _ _ _ _ => .event
  | .childFold _ _ => .event
  | .copyComplete _ _ => .event
  | .multicastDelivery _ _ _ _ => .event
  | .compressComplete _ _ => .event
  | .collChunkReceive _ _ _ _ _ _ => .event
  | .ckptComplete _ _ => .event
  | .matrixExecute _ _ => .event
  | .orderedRequestRelease _ _ => .event
  | .squallSwitchOut _ => .event
  | .squallResume _ => .event
  | .squallMarker _ => .event
  | .latePacket _ => .event
  | .readRequest _ => .event
  | .readResponse _ => .event
  | .remoteWrite _ => .event
  | .writeAcknowledgement _ => .event
  | .remoteAtomic _ => .event
  | .atomicResponse _ => .event
  | .receiverNotReady _ => .event
  | .rnrRetry _ => .event
  | .bufferRelease _ => .event
  | .keyMarker _ => .event
  | .drainMarker _ => .event
  | .idleFlit _ => .event
  | .relayForward _ => .event
  | .bufferReleaseTimer _ => .event
  | .linkRetryTimeout _ _ => .event
  | .linkTrained _ _ => .event
  | .linkTrainingLost _ => .event
  | .portDown _ => .event
  | .routeWaitTimeout _ => .event
  | .rtgenSwitch _ => .event
  | .wcbLullExpiry _ _ => .event
  | .keySwitchRequest _ => .event
  | .keySwitchCount _ => .event
  | .keyCounterLimit _ => .event
  | .keyLoad _ _ => .event
  | .bar2Read _ _ _ => .event
  | .bar2Write _ _ _ => .event
  | .hostReadCompletion _ _ => .event
  | .hostReadTimeout _ => .event
  | .spareCorePair _ _ => .event
  | .spareScratchpadBank _ _ => .event
  | .spareL2Slice _ _ => .event
  | .sparePseudoChannel _ _ => .event
  | .spareFabricPort _ _ => .event
  | .spareDone => .event
  | .autoSpare _ _ _ => .event
  | .freeze => .event
  | .scanRead _ => .event
  | .attestationRequest _ => .event
  | .attestationReady => .event
  | .powerThermalCheck _ _ _ => .event
  | .thermalHold => .event
  | .thermalHoldRelease => .event
  | .thermalTrip => .event
  | .jobabort _ => .event
  | .faultAnswerResume _ => .event
  | .faultAnswerAbortBlock _ => .event
  | .faultAnswerAbortGrid _ => .event
  | .faultRingConsume _ => .event
  | .faultRingEnable _ => .event
  | .faultRingBase _ => .event
  | .registerScrub _ _ _ _ => .event
  | .patrolScrub _ _ => .event
  | .registerWrite _ _ _ _ => .event
  | .illegalEncoding _ _ _ => .event
  | .perstDeassertion _ => .event
  | .bootComplete _ => .event

/-- The 64 bits that begin with an instruction's unit, zeros above it (R257: the adverb stands first). -/
def Code.bits : Code → BitVec 64
  | .event => 0
  | .half h => 0#48 ++ h
  | .word w adv =>
    match adv.bits with
    | none => 0#32 ++ w
    | some v => w ++ v

/-- The length of a unit in bytes. -/
def Code.len : Code → Nat
  | .event => 0
  | .half _ => 2
  | .word _ .none => 4
  | .word _ (.mod _) => 8
  | .word _ (.imm _) => 8

/-- The words of an instruction: its unit as 64 bits. -/
def encode (i : Instr) : BitVec 64 := i.code.bits

/-- The instruction that the decoder reads from bytes at an address that is a multiple of 8. -/
noncomputable def decodeBytes (bs : List Byte) : Option Instr :=
  match decodeUnit (BitVec.ofNat 64 (Machine.leNat (bs.take 8))) true with
  | .instr i _ => some i
  | .bad _ _ => none

/-- The instruction that the decoder reads from the bits `w`, numbered as spec/opcode_table.json numbers them: the
first halfword lies lowest and every halfword is little-endian (R257). -/
noncomputable def decodeTableWord (nbits w : Nat) : Option Instr := decodeBytes (Machine.leBytes 8 (w % 2 ^ nbits))

end Sys2Proof
end

