-- ==== Sys2Proof/Machine/Views.lean ====
section
/-! DEFINITION. Views: what a thread in a view reads and writes on viewed pages, twins and private copies, frozen
views, and the slots of the twin pool (R123 to R141, R443). -/

namespace Sys2Proof.Machine

open Sys2Proof

/-- First byte of the 128-byte granule of an address. -/
def granule (va : Nat) : Nat := va / 128 * 128

def twinOf (f : Fork) (g : Nat) : Option (List Byte) := (f.twins.find? fun t => t.1 == g).map fun t => t.2

def copyOf (f : Fork) (c g : Nat) : Option (List Byte) :=
  (f.copies.find? fun t => t.1 == c && t.2.1 == g).map fun t => t.2.2

/-- The unjoined forks made from a view of a job (R130). -/
def State.forksFrom (s : State) (job : Nat) (v : View) : List Fork :=
  s.forks.filter fun f => f.job == job && f.parent == v && !f.joined

/-- The view is frozen (R130, R131). -/
def State.frozen (s : State) (job : Nat) (v : View) : Bool := !(s.forksFrom job v).isEmpty

/-- The physical address of a granule key in the job's root view. -/
def State.keyPa (s : State) (job key : Nat) : Option Nat := (s.walkKey job key).map fun lf => lf.addr + (key - lf.base)

/-- The twin that a frozen root view's reads of the granule at a physical address take, whichever module's fork holds it
(R129, R130). -/
def State.rootTwin (s : State) (job pa : Nat) : Option (List Byte) :=
  (s.forksFrom job .root).findSome? fun f => f.twins.findSome? fun t =>
    if s.keyPa job t.1 == some (granule pa) then some t.2 else none

/-- The byte at a physical address as the job's root view reads it. -/
def State.rootByte (s : State) (job pa : Nat) : Byte :=
  match s.rootTwin job pa with
  | some t => t.getD (pa % 128) 0
  | none => memGet s.mem pa

/-- Bytes of memory as the root view reads them. -/
def State.rootBytes (s : State) (job pa n : Nat) : List Byte := (List.range n).map fun j => s.rootByte job (pa + j)

/-- The byte at `va` seen through a view (R127, R130): the twin of a fork made from the view, the view's private
copy, the twin of its own fork, the parent's view. The first argument bounds the nesting (R137). -/
def State.viewByte (s : State) : Nat → Nat → View → Nat → Byte
  | 0, job, _, va => jobByte s job va
  | n + 1, job, v, va =>
    let g := granule va
    match v with
    | .root => ((s.keyPa job va).map (s.rootByte job)).getD 0
    | .child k c =>
      match (s.forksFrom job v).findSome? fun f => twinOf f g with
      | some t => t.getD (va - g) 0
      | none =>
        match s.fork? k with
        | none => jobByte s job va
        | some f =>
          match copyOf f c g with
          | some t => t.getD (va - g) 0
          | none =>
            match twinOf f g with
            | some t => t.getD (va - g) 0
            | none => s.viewByte n job f.parent va

/-- Views nest to depth 8 (R137); launched DET grids add none beyond it. -/
def viewFuel : Nat := 10

def State.viewBytes (s : State) (job : Nat) (v : View) (va : Nat) : Nat → List Byte
  | 0 => []
  | n + 1 => s.viewByte viewFuel job v va :: s.viewBytes job v (va + 1) n

/-- The granule holds poisoned data for a reader in the view: what the reader reaches there is marked (R437). -/
def State.viewPoisoned (s : State) : Nat → Nat → View → Nat → Bool
  | 0, _, _, _ => false
  | n + 1, job, v, va =>
    let g := granule va
    match v with
    | .root =>
      match s.keyPa job g with
      | some pa => (s.poisonAt pa 128).isSome
      | none => false
    | .child k c =>
      match s.fork? k with
      | none => false
      | some f =>
        if (copyOf f c g).isSome then f.poisoned.contains (some c, g)
        else if (twinOf f g).isSome then f.poisoned.contains (none, g)
        else s.viewPoisoned n job f.parent va

/-! ## The twin pool (R17, R138, R139) -/

/-- Slots of the pool: memory / 2^(FRAC + 3) in 128-byte slots (Table 11-1). -/
def State.poolSlots (s : State) : Nat := 8 * 96 * 2 ^ 30 / 2 ^ (s.mgmt.frac + 3) / 128

/-- The forks that hold slots or reserves. -/
def State.poolForks (s : State) : List Fork := s.forks.filter fun f => !f.joined

/-- Twins, and the copies of children that are not folded (R138, R139). -/
def Fork.slots (f : Fork) : Nat := f.twins.length + (f.copies.filter fun t => decide (f.folded ≤ t.1)).length

/-- The module homes viewed pages of the job (R138, Table 11-2). -/
def State.viewedHome (s : State) (job : Nat) : Bool :=
  match s.jobEntry job 40 2 with
  | some v => bit v s.mgmt.dev
  | none => false

/-- Slots reserved by a fork in this module's pool. -/
def State.reserveOf (s : State) (f : Fork) : Nat := if s.viewedHome f.job then 2 * f.nres else 0

/-- A child is live: dispatched, and not folded (R138). The children of another module's fork are dispatched elsewhere, and
the model takes each that is not folded to be live (DESIGN CHOICE, log 52). -/
def State.liveChild (s : State) (f : Fork) (c : Nat) : Bool :=
  decide (f.folded ≤ c) && decide (c < f.children) &&
    (f.dev != s.mgmt.dev || ((s.grid? f.grid).map fun g => g.started.contains c).getD false)

/-- The lowest-index live child of a fork (R138). -/
def State.lowestLive (s : State) (f : Fork) : Option Nat :=
  (List.range f.children).find? fun c => s.liveChild f c

/-- Forks nested beneath child `c` of fork `k` (R137). The first argument bounds the nesting. -/
def State.nestedIn (s : State) : Nat → Nat → Nat → List Fork
  | 0, _, _ => []
  | n + 1, k, c =>
    let kids := s.poolForks.filter fun f => f.parent == .child k c
    kids ++ (kids.map fun f => (List.range f.children).flatMap fun d => s.nestedIn n f.key d).flatten

/-- Slots that a child holds, counting a twin with each of its copies, and the slots of its nested forks. -/
def State.childSlots (s : State) (f : Fork) (c : Nat) : Nat :=
  2 * (f.copies.filter fun t => t.1 == c).length +
  if s.poolForks.any fun k => k.parent == .child f.key c then
    ((s.nestedIn 8 f.key c).map Fork.slots).foldl (· + ·) 0
  else 0

/-- Slots of a fork's reserve that its lowest live child has not taken. -/
def State.keptOf (s : State) (f : Fork) : Nat :=
  s.reserveOf f - ((s.lowestLive f).map fun c => s.childSlots f c).getD 0

/-- Slots that no reserve holds and nobody uses. -/
def State.freeSlots (s : State) : Nat :=
  let used := (s.poolForks.map Fork.slots).foldl (· + ·) 0
  let kept := (s.poolForks.map s.keptOf).foldl (· + ·) 0
  s.poolSlots - (used + kept)

/-- The slots that a first write of child `c` of fork `k` to a granule needs (R128). -/
def slotsNeeded (f : Fork) (c g : Nat) : Nat :=
  ofFlag (copyOf f c g).isNone + ofFlag (twinOf f g).isNone

/-- The request for slots is within a reserve that serves the child: its fork's, if it is the lowest live child, or an outer
fork's whose lowest live child it is nested beneath (R138). The first argument bounds the nesting. -/
def State.inReserve (s : State) : Nat → Fork → Nat → Nat → Bool
  | 0, _, _, _ => false
  | n + 1, f, c, need =>
    (s.lowestLive f == some c && decide (s.childSlots f c + need ≤ s.reserveOf f)) ||
    match f.parent with
    | .root => false
    | .child k d => ((s.fork? k).map fun g => s.inReserve n g d need).getD false

/-- The write can have its slots now. -/
def State.slotsOpen (s : State) (f : Fork) (c need : Nat) : Bool :=
  need == 0 || s.inReserve viewFuel f c need || decide (need ≤ s.freeSlots)

/-! ## Writing in a child's view (R128) -/

/-- The twin and the private copy that the first write of child `c` to granule `g` creates. -/
def State.touchGranule (s : State) (k c g : Nat) : State :=
  match s.fork? k with
  | none => s
  | some f =>
    let now := s.viewBytes f.job f.parent g 128
    let mark := s.viewPoisoned viewFuel f.job f.parent g
    let t := (twinOf f g).getD now
    s.updFork k fun f =>
      { f with
        twins := if (twinOf f g).isSome then f.twins else f.twins ++ [(g, t)]
        copies := if (copyOf f c g).isSome then f.copies else f.copies ++ [(c, g, t)]
        poisoned :=
          if (copyOf f c g).isSome then f.poisoned
          else if f.poisoned.contains (none, g) then f.poisoned ++ [(some c, g)]
          else if (twinOf f g).isNone && mark then f.poisoned ++ [(none, g), (some c, g)]
          else f.poisoned }

/-- Bytes of a granule with those from `off` on replaced. -/
def spliceBytes (old : List Byte) (off : Nat) (bs : List Byte) : List Byte :=
  old.take off ++ bs ++ old.drop (off + bs.length)

/-- Bytes written to child `c` of fork `k` at `va`, within one granule. -/
def State.viewWrite (s : State) (k c va : Nat) (bs : List Byte) : State :=
  let g := granule va
  (s.touchGranule k c g).updFork k fun f =>
    { f with
      copies := f.copies.map fun t =>
        if t.1 == c && t.2.1 == g then (c, g, spliceBytes t.2.2 (va - g) bs) else t
      poisoned := if bs.length == 128 then f.poisoned.filter fun p => p != (some c, g) else f.poisoned }

/-- Bytes that an agent other than the child's own threads writes to its view, a merge or an engine: reservations of the
words are cleared (R351). -/
def State.viewPoke (s : State) (k c va : Nat) (bs : List Byte) : State :=
  (s.viewWrite k c va bs).clearResv (.view k c va) bs.length fun _ _ _ => false

/-- A byte range of a view written in the pieces that its granules cut it into; the number bounds the pieces. -/
def State.viewWrites (s : State) : Nat → View → Nat → Nat → List Byte → State
  | 0, _, _, _, _ => s
  | n + 1, v, job, va, bs =>
    if bs.isEmpty then s
    else
      let k := 128 - va % 128
      let s := match v with
        | .child f c => s.viewPoke f c va (bs.take k)
        | .root =>
          match s.keyPa job va with
          | some pa => s.pokePhys pa (bs.take k)
          | none => s
      s.viewWrites n v job (va + k) (bs.drop k)

/-! ## Rollback (R139, R140) -/

/-- Blocks of the child grids beneath child `c` of fork `f`, and its own. -/
def State.childBlocks (s : State) (f : Fork) (c : Nat) : List Block :=
  let inner := s.nestedIn 8 f.key c
  s.blocks.filter fun b => (b.grid == f.grid && b.index == c) || inner.any fun k => k.grid == b.grid

/-- A child is eligible for rollback (R139, R443): live, not the lowest, no effect outside its view by it or by a block nested
beneath it, ended ones among them, not stopped by a fault; both blocks of a team in a TEAMED grid. -/
def State.eligible (s : State) (f : Fork) (c : Nat) : Bool :=
  let teamed := ((s.grid? f.grid).map fun g => g.launch.teamed).getD false
  let pair := if teamed then [c, c ^^^ 1] else [c]
  let g := s.grid? f.grid
  f.dev == s.mgmt.dev && g.isSome &&
  pair.all fun d =>
    s.lowestLive f != some d && s.liveChild f d && !f.outside.contains d &&
    (s.childBlocks f d).all (fun b => !b.outside && b.stops.isEmpty) &&
    (s.nestedIn 8 f.key d).all fun k => k.outside.isEmpty

/-- Stores of threads of these views that have not left the write-combining buffers are discarded (R140). -/
def State.dropViews (s : State) (vs : List (Nat × Nat)) : State :=
  let keep (e : WcbEntry) : Bool := !(e.sent.isNone && (e.view.map vs.contains).getD false)
  { s with cores := s.cores.map fun c => if c.wcb.isEmpty then c else { c with wcb := c.wcb.filter keep } }

/-- The child is rolled back: its threads, blocks and copies go, and it waits to be dispatched again (R140). Other modules
free the copies that they hold for it; no packet of R218 says so, and the model sends none (DESIGN CHOICE,
log 52). -/
def State.rollback (s : State) (die : Nat) (f : Fork) (c : Nat) : State :=
  let teamed := ((s.grid? f.grid).map fun g => g.launch.teamed).getD false
  let pair := if teamed then [c, c ^^^ 1] else [c]
  pair.foldl (fun s d =>
    let inner := s.nestedIn 8 f.key d
    let gone := (s.childBlocks f d).map fun b => b.key
    let s := (s.childBlocks f d).foldl (fun s b =>
      match b.state with
      | .saved _ off => s.killFrame f.job off
      | _ => s) s
    let innerForks := inner.map fun k => k.key
    let innerGrids := inner.map fun k => k.grid
    let s := { s with
      blocks := s.blocks.filter fun b => !gone.contains b.key
      forks := s.forks.filter fun k => !innerForks.contains k.key
      grids := s.grids.filter fun g => !innerGrids.contains g.key
      padPoison := s.padPoison.filter fun p => !gone.contains p.1 }
    let s := s.dropViews ((f.key, d) :: inner.flatMap fun k => (List.range k.children).map fun e => (k.key, e))
    let s := s.updFork f.key fun k =>
      { k with copies := k.copies.filter fun t => t.1 != d, poisoned := k.poisoned.filter fun p => p.1 != some d,
               away := k.away.filter fun t => t.1 != some d }
    let s := s.updGrid f.grid fun g =>
      { g with started := g.started.filter fun i => i != d, ended := g.ended.filter fun i => i != d,
               requeued := if g.requeued.contains d then g.requeued else g.requeued ++ [d] }
    s.updDie die fun x => { x with viewrb := x.viewrb + 1 }) s

/-- The child that the pool rolls back: the highest-index eligible child of the deepest fork that holds slots, and of
equally deep forks the one made last (R139). -/
def State.rollbackChoice (s : State) : Option (Fork × Nat) :=
  let order := sortBy (fun f : Fork => (8 - f.depth) * 2 ^ 32 + (2 ^ 32 - f.age)) (s.poolForks.filter fun f => f.slots != 0)
  order.findSome? fun f =>
    (((List.range f.children).reverse).find? fun c => s.eligible f c).map fun c => (f, c)

/-- The pool of another module that holds slots of a child rolls it back (R139); that pool's die counts it. -/
def State.rollbackFrom (s : State) (fork child : Nat) : State :=
  match s.fork? fork with
  | none => s
  | some f => if s.eligible f child then s.rollback s.dies.length f child else s

/-! ## Forks of other modules whose children write pages homed here (R129, R132, R138) -/

/-- The record of a fork that another module has made. -/
def State.awayFork (s : State) (dev name : Nat) : Option Fork :=
  s.forks.find? fun f => f.dev == dev && f.name == name && f.dev != s.mgmt.dev

/-- The view in which a request of another module is served: the root view, or a child's of a fork known here. -/
def State.viewOf (s : State) (f : Flit) : Option View :=
  match f.view with
  | none => some .root
  | some (k, c) => (s.awayFork f.src k).map fun g => .child g.key c

/-- Another module has made a fork of a job whose viewed pages it lists here: it holds its parent's view and its reserve
from now on. -/
def State.forkAway (s : State) (dev name job children nres : Nat) (parent : Option (Nat × Nat)) : State :=
  let v : Option View := match parent with
    | none => some View.root
    | some (k, c) => (s.awayFork dev k).map fun g : Fork => View.child g.key c
  match v with
  | none => s
  | some v =>
    if dev == s.mgmt.dev || (s.awayFork dev name).isSome then s
    else
      let (key, s) := s.fresh
      let (grid, s) := s.fresh
      let depth := v.depth s
      { s with forks := s.forks ++
          [{ key := key, job := job, parent := v, depth := depth, grid := grid, nres := nres, children := children,
             dev := dev, name := name, outside := [], away := [], owner := none, folded := 0, joined := false,
             twins := [], copies := [], poisoned := [], conflict := none, reported := false, after := [], age := key }] }

/-- A child of another module's fork is rolled back: its copies here are freed (R140). -/
def State.undoAway (s : State) (dev name c : Nat) : State :=
  match s.awayFork dev name with
  | none => s
  | some f =>
    let inner := (s.nestedIn 8 f.key c).map fun k => k.key
    ({ s with forks := s.forks.filter fun k => !inner.contains k.key }).updFork f.key fun k =>
      { k with copies := k.copies.filter fun t => t.1 != c, poisoned := k.poisoned.filter fun p => p.1 != some c }

end Sys2Proof.Machine
end

