-- ==== Sys2Proof/Machine/Mem.lean ====
section
/-! DEFINITION. The path of loads and stores: the leased L1, the write-combining buffer, remote and host accesses, cache
actions, scope records (R98, R107 to R110, R145, R152, R155, R158, R227 to R231, R346, R347, R445). -/

namespace Sys2Proof.Machine

open Sys2Proof

/-! ## L1 (R107, R108) -/

/-- The key of a place's byte in L1: physical addresses, and above them the lines of other modules. -/
def l1Key : Loc → Option Nat
  | .phys pa => some pa
  | .remote d a => some ((d + 1) * 2 ^ 52 + a)
  | _ => none

def Core.l1At (c : Core) (k : Nat) : Option L1Byte := cellsGet none k c.l1

def Core.setL1 (c : Core) (k : Nat) (b : Option L1Byte) : Core := { c with l1 := cellsPut none k b c.l1 }

/-- Bytes of L1 held for which `p` holds; a line without bytes is given up. -/
def Core.keepL1 (c : Core) (p : Nat → L1Byte → Bool) : Core :=
  let l1 := c.l1.filter fun e => (e.2.map (p e.1)).getD false
  { c with l1 := l1, lines := c.lines.filter fun x => l1.any fun e => e.1 / 128 == x.line }

/-- A line used: it moves to the front, changed by `f`; a line that the L1 did not list is listed, its lease over. -/
def Core.useLine (c : Core) (line : Nat) (f : L1Line → L1Line) : Core :=
  let x := (c.lines.find? fun x => x.line == line).getD ⟨line, 0, none⟩
  { c with lines := f x :: c.lines.filter fun x => x.line != line }

/-- The bytes of the line from key `k` on, where the L1 lacks them, held clean (R107). -/
def Core.fillL1 (c : Core) (k : Nat) : List Byte → Core
  | [] => c
  | b :: bs => ((if (c.l1At k).isSome then c else c.setL1 k (some ⟨b, false⟩))).fillL1 (k + 1) bs

/-- Clean bytes from `k` on discarded; dirty ones stay (R152, R369). -/
def Core.dropClean (c : Core) (k n : Nat) : Core :=
  c.keepL1 fun x b => b.dirty || !(decide (k ≤ x) && decide (x < k + n))

/-- A load of `n` bytes from key `k` may use the L1: it holds every byte, the dirty ones as the core's own writes and the
clean ones under a lease that has not ended (R107). -/
def Core.serves (c : Core) (k n clock : Nat) : Bool :=
  let leased := c.lines.any fun x => x.line == k / 128 && decide (clock < x.lease)
  (List.range n).all fun j => ((c.l1At (k + j)).map fun b => b.dirty || leased).getD false

/-- A line filled: its older clean bytes are replaced, and its lease begins (R107). -/
def Core.fillLine (c : Core) (line clock : Nat) (bs : List Byte) : Core :=
  ((c.dropClean (line * 128) 128).fillL1 (line * 128) bs).useLine line fun x => { x with lease := clock + 2048 }

/-- A set of bytes that a cache action covers: all memory, or ranges of L1 keys (R152). -/
abbrev ByteSet := Option (List (Nat × Nat))

def ByteSet.has (r : ByteSet) (k : Nat) : Bool :=
  match r with
  | none => true
  | some rs => rs.any fun p => decide (p.1 ≤ k) && decide (k < p.1 + p.2)

def ByteSet.meets (r : ByteSet) (k n : Nat) : Bool :=
  match r with
  | none => true
  | some rs => rs.any fun p => decide (p.1 < k + n) && decide (k < p.1 + p.2)

/-- The line still holds a dirty byte. -/
def Core.dirtyLine (c : Core) (line : Nat) : Bool :=
  c.l1.any fun e => e.1 / 128 == line && (e.2.map fun b => b.dirty).getD false

/-- The bytes of a set marked clean; a line without dirty bytes has been dirty since no clock. -/
def Core.markClean (c : Core) (r : ByteSet) : Core :=
  let clean (e : Nat × Option L1Byte) : Nat × Option L1Byte :=
    if r.has e.1 then (e.1, e.2.map fun b => { b with dirty := false }) else e
  let c1 : Core := { c with l1 := c.l1.map clean }
  { c1 with lines := c1.lines.map fun x => if c1.dirtyLine x.line then x else { x with since := none } }

/-- The dirty bytes of the set written back to L2: written to memory and clean from then on (R108). Reservations of
lanes of other cores are cleared (R146, R351). -/
def State.writeBack (s : State) (core : Nat) (r : ByteSet) : State :=
  let dirty := (s.core core).l1.filter fun e =>
    r.has e.1 && match e.2 with | some b => b.dirty | none => false
  if dirty.isEmpty then s
  else
    let s := dirty.foldl (fun s e =>
      match e.2 with
      | some b =>
        ({ s with mem := memPut s.mem e.1 b.val }).clearResv (.phys e.1) 1 fun k _ _ =>
          ((s.block? k).map fun b : Block => b.core == core).getD false
      | none => s) s
    let lines := dedupe (dirty.map fun e => e.1 / 128)
    let s := lines.foldl (fun s l => (s.traffic (dieOf core) 0 (l * 128) 128 true none).noteWritten (l * 128) 128) s
    s.updCore core fun c => c.markClean r

/-- The set that is one line. -/
def l1Line (line : Nat) : ByteSet := some [(line * 128, 128)]

/-- A line leaves a core's L1: its dirty bytes are written back first. -/
def State.dropLine (s : State) (core line : Nat) : State :=
  (s.writeBack core (l1Line line)).updCore core fun c => c.dropClean (line * 128) 128

/-- The L1 holds 2,048 lines, 256 KiB (R107): beyond them the least recently used one leaves. R107 gives neither the
replacement nor the ways, and the model takes one set (DESIGN CHOICE, log 48). -/
def State.trimL1 (s : State) (core : Nat) : State :=
  match (s.core core).lines[2048]? with
  | some x => s.dropLine core x.line
  | none => s

/-- The lines of a core's L1 that have been dirty for 2,048 cycles (R108). -/
def State.agedLines (s : State) (core : Nat) : List Nat :=
  (s.core core).lines.filterMap fun x =>
    match x.since with
    | some t => if t + 2048 ≤ s.coreClock core then some x.line else none
    | none => none

/-- The L1 keys of `n` bytes from a virtual address of a job, page by page; bytes that do not translate to a line that
an L1 holds are left out. The number bounds the pages. -/
def State.keyRanges (s : State) (core job : Nat) : Nat → Nat → Nat → List (Nat × Nat)
  | 0, _, _ => []
  | m + 1, va, n =>
    if n == 0 then []
    else
      match s.leaf? core job va with
      | none =>
        let k := Nat.min n (2 ^ 16 - va % 2 ^ 16)
        s.keyRanges core job m (va + k) (n - k)
      | some lf =>
        let k := Nat.min n (lf.base + lf.bytes - va)
        let a := lf.addr + (va - lf.base)
        let here :=
          if lf.home == s.mgmt.dev then (if isDram a then [(a, k)] else []) else [((lf.home + 1) * 2 ^ 52 + a, k)]
        here ++ s.keyRanges core job m (va + k) (n - k)

/-! ## The write-combining buffer (R230, R231) -/

/-- The entry holds stores to the line of `addr` by threads of one job in one view. R230 speaks of a (module, line) alone;
an entry's packet carries one job (R77, R218) and one view's bytes (R151), so that another job's or view's stores take an
entry of their own (DEDUCED, log 77). -/
def WcbEntry.takes (e : WcbEntry) (job dev addr : Nat) (view : Option (Nat × Nat)) : Bool :=
  e.dev == dev && e.line == addr / 128 * 128 && e.job == job && e.view == view

/-- The oldest entry that has not been sent drains (R231). -/
def State.drainOldest (s : State) (core : Nat) : State :=
  match (s.core core).wcb.findIdx? fun e => e.sent.isNone with
  | some i => s.drainEntry core i
  | none => s

/-- A remote store merged into the entry of its line, or into a new one (R230); or the tag that it waits for when the
buffer has no room. -/
def State.wcbStore (s : State) (core job dev addr va : Nat) (bs : List Byte) (who : Nat × Nat × Nat)
    (view : Option (Nat × Nat)) : State × Option Nat :=
  let line := addr / 128 * 128
  let put (e : WcbEntry) : WcbEntry :=
    let step (c : Cells (Option Byte)) (j : Nat) := cellsPut none (addr - line + j) (some (bs.getD j 0)) c
    { e with bytes := (List.range bs.length).foldl step e.bytes
             writers := if e.writers.contains who then e.writers else e.writers ++ [who] }
  let w := (s.core core).wcb
  match w.findIdx? fun e => e.takes job dev addr view && e.sent.isNone with
  | some i =>
    let s := s.updCore core fun c => { c with wcb := c.wcb.modify i put }
    let full := ((s.core core).wcb[i]?.map fun e => e.bytes.length == 128).getD false
    (if full then s.drainEntry core i else s, none)
  | none =>
    if w.length < 64 then
      let e : WcbEntry :=
        { dev := dev, line := line, va := va - (addr - line), job := job, view := view, bytes := [],
          since := s.coreClock core, sent := none, writers := [] }
      let s := s.updCore core fun c => { c with wcb := c.wcb ++ [put e] }
      (if bs.length == 128 then s.drainEntry core w.length else s, none)
    else
      let s := s.drainOldest core
      (s, (s.core core).wcb.findSome? fun e => e.sent)

/-- The bytes of a remote line that the core's buffer holds for threads of a job and view, newest first, over what `below`
gives (R230). -/
def State.overWcb (s : State) (core job dev addr : Nat) (view : Option (Nat × Nat)) (below : List Byte) : List Byte :=
  let mine := (s.core core).wcb.filter fun e => e.takes job dev addr view
  below.mapIdx fun j b =>
    mine.foldl (fun v e => (cellsGet none (addr % 128 + j) e.bytes).getD v) b

/-! ## Cache actions (Table 7-4) -/

/-- The release action of a scope on a set: what it wrote back and drained, and the tags that it awaits. -/
def State.releaseSet (s : State) (core scope : Nat) (r : ByteSet) : State × List Nat :=
  if scope ≤ 2 then (s, [])
  else
    let s := s.writeBack core r
    let p (e : WcbEntry) : Bool := r.meets e.key 128
    let s := s.drainWhere core p
    (s, s.unacked core p)

/-- Answers on their way to a core's L1 fill it no longer with lines that meet the set (R151). -/
def State.stopFills (s : State) (core : Nat) (r : ByteSet) : State :=
  if s.fabric.reqs.any fun q => q.core == core && q.fills then
    { s with fabric := { s.fabric with reqs := s.fabric.reqs.map fun q =>
        match q.loc with
        | .remote d a => if q.core == core && r.meets ((d + 1) * 2 ^ 52 + a) 128 then { q with fills := false } else q
        | _ => q } }
  else s

/-- Clean bytes of the set discarded from a core's L1, those of lines of other modules too, with what is on its way. -/
def State.discard (s : State) (core : Nat) (r : ByteSet) : State :=
  (s.updCore core fun c => c.keepL1 fun k b => b.dirty || !r.has k).stopFills core r

/-- The acquire action of a scope on a set. From team scope on it discards bytes of lines of other modules too: Table 7-4
names those at domain scope, and R151 excludes the old byte that an edge of team or device scope would leave there
(DEDUCED, log 97). -/
def State.acquireSet (s : State) (core scope : Nat) (r : ByteSet) : State :=
  if scope ≤ 2 then s else s.discard core r

/-! ## Scope records (R109, R155, R445) -/

/-- The line of a place that an L1 or L2 holds: of this module's DRAM, of another module, or of a private copy. -/
def Loc.line : Loc → Option Loc
  | .phys pa => some (.phys (pa / 128 * 128))
  | .remote d a => some (.remote d (a / 128 * 128))
  | .view f c va => some (.view f c (granule va))
  | _ => none

def State.scopeOf (s : State) (loc : Loc) : Option ScopeRec :=
  match loc.line with
  | some k => (s.scopes.find? fun e => e.1 == k).map fun e => e.2
  | none => none

/-- The record that a synchronising write of block `b`'s strand `i` leaves on its line: the last synchronising write's scope
and origin (R445), in whichever L1 or L2 the line lies. -/
def State.setScope (s : State) (b : Block) (i scope : Nat) (loc : Loc) : State :=
  match loc.line with
  | some k =>
    { s with scopes := (s.scopes.filter fun e => e.1 != k) ++ [(k, ⟨true, scope, scope, s.mgmt.dev, b.core, b.key, i⟩)] }
  | none => s

/-- An acquiring read of lines at a scope: their records show it as the last synchronising access (R109), and keep the last
synchronising write (R445). -/
def State.meetScope (s : State) (b : Block) (i scope : Nat) (locs : List Loc) : State :=
  if scope == 0 then s
  else
    (dedupe (locs.filterMap Loc.line)).foldl (fun s k =>
      let old := (s.scopeOf k).getD ⟨false, scope, scope, s.mgmt.dev, b.core, b.key, i⟩
      { s with scopes := (s.scopes.filter fun e => e.1 != k) ++ [(k, { old with latest := scope })] }) s

/-- The agents of `b`'s strand `i` and of a record's origin lie in one instance of a scope (Table 7-1). -/
def State.sameInstance (s : State) (scope : Nat) (b : Block) (i : Nat) (r : ScopeRec) : Bool :=
  match scope with
  | 1 => r.dev == s.mgmt.dev && r.blk == b.key && r.strand == i
  | 2 => r.dev == s.mgmt.dev && r.blk == b.key
  | 3 => r.dev == s.mgmt.dev && (r.blk == b.key || ((s.partner? b).map fun p => p.key == r.blk).getD false)
  | 4 => r.dev == s.mgmt.dev
  | _ => true

/-- INFO and INFO2 of the scope mismatch that an acquire at `loc` raises, if it raises one (R445). -/
def State.scopeFlaw (s : State) (b : Block) (i scope : Nat) (loc : Loc) : Option (Nat × Nat) :=
  if scope == 0 then none
  else
    match s.scopeOf loc with
    | none => none
    | some r =>
      if r.release && !(s.sameInstance r.scope b i r && s.sameInstance scope b i r) then
        some (scope + r.scope * 8, r.core + r.dev * 256)
      else none

/-! ## Loads -/

/-- The thread that makes an access. -/
structure Ask where
  core : Nat
  job : Nat
  blk : Nat
  strand : Nat
  lane : Nat
  va : Nat
deriving DecidableEq, Repr

/-- What an access gives: its bytes at once, or the request that it waits for. -/
inductive LoadOut where
  | got (bs : List Byte) (poison : Bool) (s : State)
  | wait (tag : Nat) (s : State)

/-- The answer among those held for `n` bytes at `loc`. -/
def answerIn (rs : List Reply) (loc : Loc) (n : Nat) (atomic : Bool) : Option (List Byte × Bool) :=
  rs.findSome? fun r =>
    if r.atomic != atomic then none
    else
      match r.loc, loc with
      | .remote d a, .remote e x =>
        if d == e && decide (a ≤ x) && decide (x + n ≤ a + r.data.length) then
          some ((r.data.drop (x - a)).take n, r.poison)
        else none
      | .host d a, .host e x =>
        if d == e && decide (a ≤ x) && decide (x + n ≤ a + r.data.length) then
          some ((r.data.drop (x - a)).take n, r.poison)
        else none
      | _, _ => none

/-- The answer that the lane holds. -/
def Lane.answer (l : Lane) (loc : Loc) (n : Nat) (atomic : Bool) : Option (List Byte × Bool) :=
  answerIn l.replies loc n atomic

def State.askLane (s : State) (a : Ask) : Lane :=
  ((s.block? a.blk).map fun b => (b.strand a.strand).lane a.lane).getD Lane.never

/-- `n` bytes of DRAM through the core's L1 where the page lets it hold them. `fresh` loads read L2 and the core's own
dirty bytes, and leave no older clean copy behind (R158). `kept` is the retention range that the access is marked for. -/
def State.loadPhys (s : State) (core pa n : Nat) (cached fresh : Bool) (kept : Option Nat) : List Byte × State :=
  let line := pa / 128
  let clock := s.coreClock core
  let see (s : State) : List Byte := (List.range n).map fun j =>
    match (s.core core).l1At (pa + j) with
    | some b => b.val
    | none => memGet s.mem (pa + j)
  if cached && !fresh then
    if (s.core core).serves pa n clock then (see s, s.updCore core fun c => c.useLine line id)
    else
      let s := s.traffic (dieOf core) 0 pa 128 false kept
      let s := s.updCore core fun c => c.fillLine line clock (memBytes s.mem (line * 128) 128)
      (see s, s.trimL1 core)
  else
    let s := s.traffic (dieOf core) 0 pa n false kept
    if cached then
      let s := s.updCore core fun c => c.dropClean (line * 128) 128
      (see s, s)
    else (memBytes s.mem pa n, s)

/-- The view whose private copies an access to another module's page reaches (R129). -/
def Place.viewTag (p : Place) (v : View) : Option (Nat × Nat) :=
  match p.loc, v with
  | .remote _ _, .child f c => if (p.leaf.map fun l => l.view).getD false then some (f, c) else none
  | _, _ => none

/-- The view of the thread that makes an access. -/
def State.askView (s : State) (a : Ask) : View := ((s.block? a.blk).map fun b => b.view).getD .root

/-- A read of another module's bytes (R227): what the core's buffer and L1 hold, or a request, for the whole line where the
answer may fill the L1. -/
def State.loadRemote (s : State) (a : Ask) (p : Place) (dev x n : Nat) (fresh tainted : Bool) : LoadOut :=
  let cache := (p.leaf.map fun l => l.cache.toNat).getD 2
  let tag := p.viewTag (s.askView a)
  let fills := cache == 0 && !tainted && tag.isNone
  let seen (bs : List Byte) : List Byte := s.overWcb a.core a.job dev x tag bs
  match (s.askLane a).answer p.loc n false with
  | some (bs, bad) => .got (seen bs) bad s
  | none =>
    let key := (dev + 1) * 2 ^ 52 + x
    let mine := (s.core a.core).wcb.filter fun e => e.takes a.job dev x tag
    let allOwn := (List.range n).all fun j => mine.any fun e => (cellsGet none (x % 128 + j) e.bytes).isSome
    if allOwn then .got (seen (List.replicate n 0)) false s
    else if fills && !fresh && (s.core a.core).serves key n (s.coreClock a.core) then
      let held := (List.range n).map fun j => (((s.core a.core).l1At (key + j)).map fun b => b.val).getD 0
      .got (seen held) false (s.updCore a.core fun c => c.useLine (key / 128) id)
    else
      let s := s.fillTlb a.core a.job a.va
      let (at', m) := if fills then (x / 128 * 128, 128) else (x, n)
      let (t, s) := s.request a.core a.job dev (.lane a.blk a.strand a.lane) a.va m (.remote dev at') .readReq
        (.readReq at' m) tag fills
      .wait t s

/-- A load of `n` bytes at a place (R346). A `fresh` load uses no L1 lease data, as a `tainted` one does not, whose address
holds a tainted word (R158). -/
def State.load (s : State) (a : Ask) (p : Place) (n : Nat) (fresh tainted : Bool) : LoadOut :=
  let cache := (p.leaf.map fun l => l.cache.toNat).getD 2
  match p.loc with
  | .phys pa =>
    let kept := s.retainedIn a.core a.job a.va
    let s := s.fillTlb a.core a.job a.va
    let viewed := (p.leaf.map fun l => l.view).getD false
    let twinned := viewed && (s.rootTwin a.job pa).isSome
    if twinned then
      let own (j : Nat) : Option Byte :=
        match (s.core a.core).l1At (pa + j) with
        | some b => if b.dirty then some b.val else none
        | none => none
      .got ((s.rootBytes a.job pa n).mapIdx fun j b => (own j).getD b) false s
    else
      let (bs, s) := s.loadPhys a.core pa n (cache == 0) (fresh || tainted) kept
      .got bs false s
  | .view f c va =>
    let s := s.fillTlb a.core a.job a.va
    .got (s.viewBytes a.job (.child f c) va n) false s
  | .scratch k off =>
    match s.block? k with
    | some b => .got ((List.range n).map fun j => cellsGet 0 (off + j) b.scratch) false s
    | none => .got (List.replicate n 0) false s
  | .reg d off => .got (s.readWindow d off n) false (s.fillTlb a.core a.job a.va)
  | .host w off =>
    match (s.askLane a).answer p.loc n false with
    | some (bs, bad) => .got bs bad s
    | none =>
      let s := s.fillTlb a.core a.job a.va
      let tag := s.freshTag
      let s := { s with hostReads := s.hostReads ++ [HostRead.mk tag w off n (.lane a.blk a.strand a.lane) (s.coreClock 0)] }
      .wait tag (s.send (.read w ((s.host w).hwbase + off) n tag))
  | .remote dev x => s.loadRemote a p dev x n (fresh || tainted) tainted

/-! ## Stores -/

/-- The block's scratchpad with bytes written from `off` on. -/
def padPuts (c : Cells Byte) (off : Nat) : List Byte → Cells Byte
  | [] => c
  | b :: bs => padPuts (cellsPut 0 off b c) (off + 1) bs

/-- Scratchpad bytes written; marks of 8-byte units written whole are cleared (R436). -/
def State.padWrite (s : State) (k off : Nat) (bs : List Byte) : State :=
  let s := s.updBlock k fun b => { b with scratch := padPuts b.scratch off bs }
  if s.padPoison.isEmpty then s
  else { s with padPoison := s.padPoison.filter fun u =>
      !(u.1 == k && decide (off ≤ u.2 * 8) && decide (u.2 * 8 + 8 ≤ off + bs.length)) }

/-- The writer's own reservation stays (a plain store, R351), or goes too. -/
def Ask.spares (a : Ask) (own : Bool) (k i l : Nat) : Bool := !own && k == a.blk && i == a.strand && l == a.lane

/-- Bytes of a store held dirty by the core's L1 (R108). -/
def State.dirtyL1 (s : State) (core pa : Nat) (bs : List Byte) : State :=
  let clock := s.coreClock core
  s.updCore core fun c =>
    ((List.range bs.length).foldl (fun c j => c.setL1 (pa + j) (some ⟨bs.getD j 0, true⟩)) c).useLine (pa / 128) fun x =>
      { x with since := some (x.since.getD clock) }

/-- A granule of another module's page that a child has written: its twin and copy stand there from now on (R128, R129). -/
def State.noteAway (s : State) (view : Option (Nat × Nat)) (dev x : Nat) : State :=
  match view with
  | none => s
  | some (f, c) =>
    let put (l : List (Option Nat × Nat × Nat)) (e : Option Nat × Nat × Nat) := if l.contains e then l else l ++ [e]
    s.updFork f fun k => { k with away := put (put k.away (none, dev, granule x)) (some c, dev, granule x) }

/-- A store of bytes at a place (R347): done, or waiting for room in the write-combining buffer. `own` says whether the
writer's own reservation is cleared too. -/
def State.store (s : State) (a : Ask) (p : Place) (bs : List Byte) (own : Bool) : State × Option Nat :=
  let n := bs.length
  let cache := (p.leaf.map fun l => l.cache.toNat).getD 2
  match p.loc with
  | .phys pa =>
    let kept := s.retainedIn a.core a.job a.va
    let s := s.fillTlb a.core a.job a.va
    let s := s.clearResv p.loc n (a.spares own)
    if cache == 0 then (((s.dirtyL1 a.core pa bs).trimL1 a.core).cleanUnits pa n, none)
    else
      let s := (s.traffic (dieOf a.core) 0 pa n true kept).noteWritten pa n
      (({ s with mem := memPuts s.mem pa bs }).cleanUnits pa n, none)
  | .view f c va =>
    let s := s.fillTlb a.core a.job a.va
    ((s.viewWrite f c va bs).clearResv p.loc n (a.spares own), none)
  | .scratch k off => ((s.padWrite k off bs).clearResv p.loc n (a.spares own), none)
  | .reg d off => ((s.fillTlb a.core a.job a.va).writeWindow d off bs, none)
  | .host w off => ((s.fillTlb a.core a.job a.va).windowWrite w off bs, none)
  | .remote dev x =>
    let s := s.fillTlb a.core a.job a.va
    let tag := p.viewTag (s.askView a)
    let (s, t) := s.wcbStore a.core a.job dev x a.va bs (a.blk, a.strand, a.lane) tag
    (if t.isNone then (s.noteAway tag dev x).clearResv p.loc n (a.spares own) else s, t)

/-! ## The indivisible step of an atomic (R349) -/

/-- Step 2 of R349: dirty L1 bytes of the word written back, clean ones discarded. -/
def State.settleWord (s : State) (core key n : Nat) : State :=
  ((s.writeBack core (some [(key, n)])).updCore core fun c => c.dropClean key n).stopFills core (some [(key, n)])

/-- The bytes of a word at its home, for a word that this module holds. -/
def State.homeBytes (s : State) (job : Nat) (p : Place) (n : Nat) : List Byte :=
  match p.loc with
  | .phys pa => memBytes s.mem pa n
  | .view f c va => s.viewBytes job (.child f c) va n
  | .scratch k off =>
    ((s.block? k).map fun b => (List.range n).map fun j => cellsGet 0 (off + j) b.scratch).getD (List.replicate n 0)
  | .reg d off => s.readWindow d off n
  | _ => List.replicate n 0

/-- Bytes written to a word at its home by an atomic: every reservation of the word is cleared (R351). -/
def State.homeWrite (s : State) (p : Place) (bs : List Byte) : State :=
  match p.loc with
  | .phys pa => s.pokePhys pa bs
  | .view f c va => s.viewPoke f c va bs
  | .scratch k off => (s.padWrite k off bs).clearResv p.loc bs.length fun _ _ _ => false
  | .reg d off => s.writeWindow d off bs
  | _ => s

end Sys2Proof.Machine
end

