-- ==== Sys2Proof/Machine/Ops.lean ====
section
/-! DEFINITION. The named operations that every instruction uses: taking an exception (R405 to R412), stopping a block
and what stops with it (R97, R408, R446), advancing lanes, writing registers, handles, and the end of a subjunctive run.
The return from an exception stands in Frame.lean, beside the frame that it reads. -/

namespace Sys2Proof.Machine

open Sys2Proof

/-! ## Faults of lanes -/

/-- A fault that one lane meets: its class and SUB, its faulting address, and what the record holds besides. -/
structure LaneFault where
  lane : Nat
  cls : Nat
  sub : Nat
  addr : Nat
  info : Nat
  info2 : Nat
  kind : Nat := 0
  child : Option Nat := none
  /-- the detecting die, where it is not the core's -/
  die : Option Nat := none
deriving DecidableEq, Repr

/-- Place of a class in the check order of R407: 0x01 to 0x0B, 0x12, 0x13, 0x10, 0x11, the rest ascending. -/
def classRank (c : Nat) : Nat :=
  if c ≤ 0x0B then c
  else if c == 0x12 then 0x0C
  else if c == 0x13 then 0x0D
  else if c == 0x10 then 0x0E
  else if c == 0x11 then 0x0F
  else c + 0x10

/-! ## Ending a subjunctive run (R45) -/

/-- The run's effects taken back in the lanes `ls`: registers, state bits and fstat as before it. -/
def Strand.restoreRun (st : Strand) (r : SubjRun) (ls : List Nat) : Strand :=
  let st := r.mood.foldr (fun e st =>
    if ls.contains (e.key / 256) then { st with regs := cellsPut RegWord.zero e.key e.old st.regs } else st) st
  r.stats.foldl (fun st e =>
    if ls.contains e.1 then st.updLane e.1 fun l => { l with fstat := e.2 } else st) st

/-- The run dropped whole, as if its branch had not been predicted (R46). -/
def Strand.cancelRun (st : Strand) : Strand :=
  match st.run with
  | none => st
  | some r => { (st.restoreRun r r.lanes) with run := none }

/-- What prediction has left in a strand dropped: its run, and lanes that issue a run's instructions again. -/
def Strand.endRun (st : Strand) : Strand := { st.cancelRun with replay := none }

/-! ## Stops (R72, R97, R408, R446) -/

/-- A stop whose threads halt at instruction boundaries, not at safe points. -/
def StopWhy.atOnce : StopWhy → Bool
  | .fault | .partner | .abort => true
  | .preempt | .victim | .halt | .frontier | .squall | .hold | .spare | .joinWait => false

/-- A resident block asked to stop; a fault stop replaces a pending pre-emption (R410). Subjunctive runs, which may have
begun since an earlier request, are dropped (R46, R408). -/
def Block.stopFor (b : Block) (why : StopWhy) : Block :=
  match b.state with
  | .running => { b with state := .stopping why, strands := b.strands.map Strand.endRun }
  | .stopping w =>
    { b with state := .stopping (if why.atOnce && !w.atOnce then why else w), strands := b.strands.map Strand.endRun }
  | _ => b

/-- The block halts at instruction boundaries (R408). -/
def Block.haltsNow (b : Block) : Bool :=
  match b.state with
  | .stopping w => w.atOnce
  | _ => false

/-- The block holds registers and a matrix context of its core: it is not saved, and has not ended. -/
def Block.resident (b : Block) : Bool :=
  match b.state with
  | .running | .stopping _ | .overflow _ => true
  | .saved _ _ | .ended => false

/-- The block holds scratchpad rows of its core (R97), and slots of its handle table for operations under way (R196). -/
def Block.onCore (b : Block) : Bool := b.resident || b.state == .ended

/-- The block is stopped by a fault that is not answered. -/
def Block.faulted (b : Block) : Bool := !b.stops.isEmpty

/-- Blocks of a DET grid above its lowest faulted block are held (R446); the team of that block is not above it. -/
def State.holdFrontier (s : State) (grid : Nat) : State :=
  match s.grid? grid with
  | none => s
  | some g =>
    if !g.launch.det then s
    else
      match leastBy id ((s.blocks.filter fun b => b.grid == grid && b.faulted).map fun b => b.index) with
      | none => s
      | some f =>
        let above (b : Block) : Bool :=
          b.grid == grid && decide (f < b.index) && !(g.launch.teamed && b.index / 2 == f / 2)
        { s with blocks := s.blocks.map fun b => if above b then b.stopFor .frontier else b }

/-- A block stops for a fault, with its team's partner, and its DET grid's frontier holds (Table 19-2). -/
def State.stopFault (s : State) (b : Block) : State :=
  let first : Option (Nat × Nat) := some (s.coreClock b.core, s.cur.strand)
  let s := s.updBlock b.key fun k =>
    { k.stopFor .fault with faultAt := if k.haltsNow then k.faultAt else first }
  let s := match s.partner? b with
    | some p => s.updBlock p.key fun k => k.stopFor .partner
    | none => s
  s.holdFrontier b.grid

/-- Every block of a job stops, as a HALT stops them (R372, R409), and its dispatch with them. -/
def State.stopJob (s : State) (job : Nat) (why : StopWhy) : State :=
  let mine (b : Block) : Bool := s.jobOf b == job
  ({ s with blocks := s.blocks.map fun b => if mine b then b.stopFor why else b }).updJob job fun j =>
    { j with stopped := true }

/-- An asynchronous record that names a job: every block of the job on this module stops (Table 19-2). -/
def State.informJob (s : State) (cls sub job : Nat) (f : FaultRec → FaultRec) : State :=
  let (id, s) := s.fresh
  let s := { s with stops := s.stops ++ [Stop.mk id none (.job job false)] }
  let s := s.note (f (FaultRec.async id cls sub job s.mgmt.dev))
  s.stopJob job .halt

/-! ## Taking an exception -/

/-- The value of the special register child (Table 4-2). -/
def State.childOf (s : State) (b : Block) : Nat :=
  match s.grid? b.grid with
  | some g =>
    match g.parent, b.view with
    | some _, .child _ c => c
    | _, _ => 0xFFFFFFFF
  | none => 0xFFFFFFFF

/-- A lane that waits for no answer any more: its instruction faulted, and issues again from its start. -/
def Lane.breakOff (l : Lane) : Lane :=
  match l.park with
  | .reply _ | .claim _ => { l with park := .none, replies := [] }
  | _ => l

/-- TAKING AN EXCEPTION (R406 to R411): of the faults that the lanes meet, the class that stands first in R407's order
is taken; the record holds its lanes and its lowest address, and the SUB, INFO and INFO2 of the lane at that address;
the block stops, each lane with the PC that it has, and the record joins the ring. -/
def State.raise (s : State) (fs : List LaneFault) : State :=
  match leastBy (fun f => classRank f.cls) fs, s.block? s.cur.blk with
  | some top, some b =>
    let mine := fs.filter fun f => f.cls == top.cls
    let low := (leastBy (fun f => f.addr) mine).getD top
    let (id, s) := s.fresh
    let r : FaultRec :=
      { id := id, cls := low.cls, sub := low.sub, kind := low.kind, job := s.jobOf b, dev := s.mgmt.dev,
        die := low.die.getD (dieOf b.core), addr := BitVec.ofNat 64 low.addr, pc := s.cur.pc,
        grid := ((s.grid? b.grid).map fun g => g.gid).getD 0, blk := BitVec.ofNat 32 b.index, strand := s.cur.strand,
        core := b.core, lanes := BitVec.ofNat 64 (maskOf (mine.map fun f => f.lane)),
        child := BitVec.ofNat 32 (low.child.getD (s.childOf b)), info := BitVec.ofNat 32 low.info,
        info2 := BitVec.ofNat 32 low.info2, block := some b.key }
    let s := s.updBlock b.key fun k => { k with stops := k.stops ++ [id] }
    let s := s.updStrand b.key s.cur.strand fun st => st.updLanes s.cur.lanes fun _ l => l.breakOff
    let s := { s with stops := s.stops ++ [Stop.mk id none (.block b.key)] }
    (s.stopFault b).note r
  | _, _ => s

/-- A fault of every lane of the issue, with one SUB, address and detail. -/
def State.raiseAll (s : State) (cls sub addr info info2 : Nat) : State :=
  s.raise (s.cur.lanes.map fun l => { lane := l, cls := cls, sub := sub, addr := addr, info := info, info2 := info2 })

/-! ## Lanes -/

/-- The lanes of the issue change. -/
def State.updCur (s : State) (ls : List Nat) (f : Nat → Lane → Lane) : State :=
  s.updStrand s.cur.blk s.cur.strand fun st => st.updLanes ls f

/-- A lane completes an instruction and goes on at `pc`: it counts (R51), it is not parked, and answers that it took
are gone. -/
def Lane.retire (l : Lane) (pc : Dword) : Lane :=
  { l with pc := pc, park := .none, count := l.count + 1, safe := none, replies := [] }

/-- The lanes complete the instruction in progress and go on at its next address. -/
def State.retire (s : State) (ls : List Nat) : State := s.updCur ls fun _ l => l.retire s.cur.next

/-- The lanes wait, at the instruction in progress. -/
def State.park (s : State) (ls : List Nat) (p : Park) : State := s.updCur ls fun _ l => { l with park := p }

/-! ## Registers written by an instruction (R84, R271) -/

/-- A register word written: full, with the given taint and poison. -/
structure RegOut where
  lane : Nat
  reg : Nat
  val : Word
  taint : Bool
  poison : Bool
deriving DecidableEq, Repr

def Strand.write (st : Strand) (o : RegOut) : Strand := st.setReg o.lane o.reg ⟨o.val, true, o.taint, o.poison⟩

def Strand.writes (st : Strand) (os : List RegOut) : Strand := os.foldl Strand.write st

/-- The words written in the strand of the instruction in progress. -/
def State.writes (s : State) (os : List RegOut) : State :=
  s.updStrand s.cur.blk s.cur.strand fun st => st.writes os

/-- The sticky flags of a lane set (R175). -/
def State.setFlags (s : State) (fl : List (Nat × BitVec 5)) : State :=
  s.updStrand s.cur.blk s.cur.strand fun st =>
    fl.foldl (fun st e => st.updLane e.1 fun l => { l with fstat := l.fstat ||| e.2 }) st

/-! ## Handles (R87, R196) -/

/-- A handle's value (Table 4-1). -/
def handleValue (slot kind gen : Nat) : Word := BitVec.ofNat 32 (slot % 4096 + kind % 16 * 4096 + gen % 65536 * 65536)

/-- The slots whose operations are complete and whose words are all read, overwritten or left behind are freed; a fork's
slot waits for its first JOIN (R196). -/
def Block.freeHandles (b : Block) : Block :=
  if b.handles.isEmpty then b
  else { b with handles := b.handles.filter fun h => !(h.done && h.words.isEmpty && (h.kind != 6 || h.joined)) }

def Block.handle? (b : Block) (slot gen : Nat) : Option Handle :=
  b.handles.find? fun h => h.slot == slot && h.gen == gen

/-- The handle that a value names in a block (R196, R197). -/
def Block.named (b : Block) (v : Word) : Option Handle := b.handle? (v.toNat % 4096) (v.toNat / 65536)

def Block.updHandle (b : Block) (slot gen : Nat) (f : Handle → Handle) : Block :=
  { b with handles := b.handles.map fun h => if h.slot == slot && h.gen == gen then f h else h }

/-- The words with these keys, in strand `i`, have been read while full, or overwritten: their handles wait for them no
longer, and a batch's word counts for the handles that it gathered, in the same lane (R160, R196). -/
def Block.settle (b : Block) (i : Nat) (keys : List Nat) : Block :=
  if b.handles.isEmpty then b
  else
    let batches := b.handles.filter fun h => h.words.any fun w => w.1 == i && keys.contains w.2
    let gathered := batches.flatMap fun h => match h.op with | .batch g => g | _ => []
    let lanes := dedupe (keys.map fun k => k / 256)
    let read (h : Handle) (w : Nat × Nat) : Bool :=
      w.1 == i && (keys.contains w.2 || (gathered.contains (h.slot, h.gen) && lanes.contains (w.2 / 256)))
    let left (h : Handle) : Handle := { h with words := h.words.filter fun w => !read h w }
    ({ b with handles := b.handles.map left }).freeHandles

/-- The operation of a handle is complete (R87): its words are full, and a batch that gathered nothing else that is
pending is complete too. The number bounds the batches. -/
def Block.complete : Nat → Block → Nat → Nat → Block
  | 0, b, _, _ => b
  | n + 1, b, slot, gen =>
    match b.handle? slot gen with
    | none => b
    | some h =>
      if h.done then b
      else
        let b := b.updHandle slot gen fun h => { h with done := true, entries := 0, shared := 0, cleared := [] }
        let b := h.words.foldl (fun (b : Block) w =>
          let fill (st : Strand) : Strand :=
            let old := cellsGet RegWord.zero w.2 st.regs
            { st with regs := cellsPut RegWord.zero w.2 { old with full := true, poison := false } st.regs }
          { b with strands := b.strands.modify w.1 fill }) b
        let ready (b : Block) (h : Handle) : Bool :=
          match h.op with
          | .batch g => !h.done && g.all fun e => ((b.handle? e.1 e.2).map fun k => k.done).getD true
          | _ => false
        ((b.handles.filter (ready b)).foldl (fun b h => Block.complete n b h.slot h.gen) b).freeHandles

/-- The presence bits that an operation cleared are set again, once for each clearing (R105). -/
def State.present (s : State) (cs : List (Nat × Nat)) : State :=
  cs.foldl (fun s c => s.updBlock c.1 fun b => { b with absent := eraseOne c.2 b.absent }) s

/-- The handle completes: presence bits, words, batches. -/
def State.completeHandle (s : State) (k slot gen : Nat) : State :=
  match (s.block? k).bind fun b => b.handle? slot gen with
  | none => s
  | some h => (s.present h.cleared).updBlock k fun b => Block.complete 8 b slot gen

/-- Slots of a core's handle table in use: those of the blocks that it holds (R196). -/
def State.slotsUsed (s : State) (core : Nat) : Nat :=
  ((s.blocks.filter fun b => b.core == core && b.onCore).map fun b => b.handles.length).foldl (· + ·) 0

/-- The handles of the blocks that a core holds, with the role of the strand that issued each. -/
def State.coreHandles (s : State) (core : Nat) : List (Role × Handle) :=
  (s.blocks.filter fun b => b.core == core && b.onCore).flatMap fun b => b.handles.map fun h => ((b.strand h.strand).role, h)

/-- Entries of a role's own reserve (R194). -/
def Role.reserve : Role → Nat
  | .copy => 16
  | .general => 8
  | .matrix => 0

/-- Free shared entries, and free entries of the role's reserve (R194). -/
def State.entriesFree (s : State) (core : Nat) (role : Role) : Nat × Nat :=
  let hs := s.coreHandles core
  let shared := (hs.map fun h => h.2.shared).foldl (· + ·) 0
  let mine := (hs.map fun h => if h.1 == role then h.2.entries - h.2.shared else 0).foldl (· + ·) 0
  (40 - shared, role.reserve - mine)

/-- A request for `n` entries finds them open. A request for more than the role can ever hold needs all of those. -/
def State.entriesOpen (s : State) (core : Nat) (role : Role) (n : Nat) : Bool :=
  let f := s.entriesFree core role
  decide (Nat.min n (40 + role.reserve) ≤ f.1 + f.2)

end Sys2Proof.Machine
end

