-- ==== Sys2Proof/Machine/Operands.lean ====
section
/-! DEFINITION. Operand forms: effective register numbers (R266), the registers an instruction reads and writes, the
checks that come before any effect in the order of R407 (R419 to R423, R428), waiting on empty words (R85, R86), and the
shared course of an instruction that computes registers from registers (R277). -/

namespace Sys2Proof.Machine

open Sys2Proof

/-! ## Adverbs (R265, R266) -/

/-- The MOD fields that apply; all 0 without a MOD adverb. -/
def modOf : Adverb → Mod
  | .mod m => m
  | .none => Mod.zero
  | .imm _ => Mod.zero

/-- D, A and B of R266. -/
def dReg (v : Adverb) (d : BitVec 7) : Nat := d.toNat + 128 * ofFlag (modOf v).dh

def aReg (v : Adverb) (a : BitVec 7) : Nat := a.toNat + 128 * ofFlag (modOf v).ah

def bReg (v : Adverb) (b : BitVec 7) : Nat := b.toNat + 128 * ofFlag (modOf v).bh

/-- The fourth operand: C of a MOD adverb, and without one what the entry names (R265). -/
def cReg (v : Adverb) (other : Nat) : Nat :=
  match v with
  | .mod m => m.c.toNat
  | .none => other
  | .imm _ => other

/-- SUB of the field that stands for the fourth operand: c with a MOD adverb, else d (R419). -/
def cField (v : Adverb) : Nat :=
  match v with
  | .mod _ => 3
  | .none => 0
  | .imm _ => 0

/-- The immediate of an instruction with `n` immediate bits `x`: sign-extended, or imm32 (R268). -/
def immOf (v : Adverb) (n x : Nat) : Int :=
  match v with
  | .imm hi => sext (hi.toNat * 128 + x % 128) 32
  | .none => sext x n
  | .mod _ => sext x n

/-! ## What an instruction reads and writes -/

/-- A source: `n` words from `reg` on. `field` is R419's SUB; `trap` says whether TEA or TEB covers it; `poison` whether
R428 forbids poison in it; `wait` is false for a read that does not wait (R85); `once` marks an operand that the
instruction takes from the lowest active lane alone (R341). -/
structure Src where
  reg : Nat
  n : Nat := 1
  align : Nat := 1
  field : Nat := 1
  trap : Bool := false
  poison : Bool := false
  wait : Bool := true
  once : Bool := false
deriving DecidableEq, Repr

/-- A destination: `n` words from `reg` on. -/
structure Dst where
  reg : Nat
  n : Nat := 1
  align : Nat := 1
  field : Nat := 0
deriving DecidableEq, Repr

/-- The operands of an instruction. `more` gives words of other lanes that a lane reads (R293), which `moreTrap` makes
TEA cover; `across` says that every lane's result depends on every active lane's words (R295); `also` are registers that
the instruction names and that only the checks of R419 and R420 concern here. -/
structure Uses where
  srcs : List Src := []
  dsts : List Dst := []
  roles : List Role := [.general, .copy, .matrix]
  more : Strand → Nat → List Nat := fun _ _ => []
  moreTrap : Bool := false
  across : Bool := false
  also : List Dst := []
  report : Deferred → Bool := fun _ => false
  low : Nat := 0

/-- A source register `a` with TEA. -/
def srcA (v : Adverb) (a : BitVec 7) : Src := { reg := aReg v a, field := 1, trap := (modOf v).tea }

/-- A source register `b` with TEB. -/
def srcB (v : Adverb) (b : BitVec 7) : Src := { reg := bReg v b, field := 2, trap := (modOf v).teb }

def srcC (v : Adverb) (other : Nat) : Src := { reg := cReg v other, field := cField v }

/-- A source in the d field, which TEA covers in the S format (R342). -/
def srcD (v : Adverb) (d : BitVec 7) : Src := { reg := dReg v d, field := 0, trap := (modOf v).tea }

def dstD (v : Adverb) (d : BitVec 7) : Dst := { reg := dReg v d }

/-- The same source as a pair. -/
def Src.pair (x : Src) : Src := { x with n := 2, align := 2 }

/-- The same source as an aligned group of `n`. -/
def Src.group (x : Src) (n : Nat) : Src := { x with n := n, align := n }

/-- The same source, faulting on poison. -/
def Src.clean (x : Src) : Src := { x with poison := true }

def Dst.pair (x : Dst) : Dst := { x with n := 2, align := 2 }

def Dst.group (x : Dst) (n : Nat) : Dst := { x with n := n, align := n }

def regsFrom (r n : Nat) : List Nat := (List.range n).map fun i => r + i

def Src.regs (x : Src) : List Nat := regsFrom x.reg x.n

def Dst.regs (x : Dst) : List Nat := regsFrom x.reg x.n

/-! ## Register values -/

def Strand.word (st : Strand) (l r : Nat) : Word := (st.reg l r).val

/-- The pair of an even register (R82, R271). -/
def Strand.pair (st : Strand) (l r : Nat) : Dword := pairOf (st.word l r) (st.word l (r + 1))

def Strand.full (st : Strand) (key : Nat) : Bool := (cellsGet RegWord.zero key st.regs).full

/-! ## Checks -/

/-- SUB of class 0x06 for a field (R421). -/
def trapSub (field : Nat) : Nat :=
  match field with
  | 1 => 0
  | 2 => 1
  | _ => 2

/-- Fields, first and last registers, and alignments of the operands. -/
def Uses.spans (u : Uses) : List (Nat × Nat × Nat × Nat) :=
  ((u.dsts ++ u.also).map fun d => (d.field, d.reg, d.reg + d.n - 1, d.align)) ++
  (u.srcs.map fun x => (x.field, x.reg, x.reg + x.n - 1, x.align))

/-- Class 0x04 (R419), then 0x05 (R420): class, SUB, INFO. -/
def Uses.shapeFlaw (u : Uses) (regs : Nat) : Option (Nat × Nat × Nat) :=
  match leastBy (fun x => x.1) (u.spans.filter fun x => x.2.1 % x.2.2.2 != 0) with
  | some x => some (4, x.1, x.2.1)
  | none =>
    match leastBy (fun x => x.1) (u.spans.filter fun x => decide (regs ≤ x.2.2.1)) with
    | some x => some (5, x.1, x.2.2.1)
    | none => none

/-- The sources that lane `l` itself gives. -/
def Uses.srcsOf (u : Uses) (l : Nat) : List Src := u.srcs.filter fun x => !x.once || l == u.low

/-- Keys of the words that the lowest lane gives for the lanes that it is not. -/
def Uses.onceKeys (u : Uses) (l : Nat) : List Nat :=
  if l == u.low then [] else (u.srcs.filter fun x => x.once).flatMap fun x => x.regs.map (regKey u.low)

/-- Keys of lane `l`'s own source words that are empty and waited for. -/
def Uses.ownEmpty (u : Uses) (st : Strand) (l : Nat) : List Nat :=
  (((u.srcsOf l).filter fun x => x.wait).flatMap fun x => x.regs.map (regKey l)).filter fun k => !st.full k

/-- Keys of the words that lane `l` waits for: its empty source words and the lowest lane's, then those of other lanes
and the empty destination words (R85, R86). -/
def Uses.missing (u : Uses) (st : Strand) (l : Nat) : List Nat :=
  let first := u.ownEmpty st l ++ (u.onceKeys l).filter fun k => !st.full k
  if first.isEmpty then
    ((u.more st l) ++ (u.dsts.flatMap fun d => d.regs.map (regKey l))).filter fun k => !st.full k
  else first

/-- The faults of one lane that its registers show, whatever the instruction does (R421, R422, R423, R428). -/
def Uses.laneFlaws (u : Uses) (st : Strand) (safe : Bool) (l : Nat) : List LaneFault :=
  let f (c sub info info2 : Nat) : LaneFault := { lane := l, cls := c, sub := sub, addr := 0, info := info, info2 := info2 }
  ((u.srcsOf l).flatMap fun x =>
    if x.trap then
      (x.regs.filter fun r => !(st.reg l r).full).map fun r => f 6 (trapSub x.field) r (st.word l r).toNat
    else []) ++
  (if u.moreTrap && (u.ownEmpty st l).isEmpty then
    ((u.more st l).filter fun k => !st.full k).map fun k =>
      f 6 0 (k % 256) (cellsGet RegWord.zero k st.regs).val.toNat
  else []) ++
  (if !safe && decide (16384 ≤ (st.lane l).count) then [f 7 0 16384 0] else []) ++
  ((u.srcsOf l).flatMap fun x =>
    if x.poison then
      (x.regs.filter fun r => (st.reg l r).full && (st.reg l r).poison).map fun r => f 0x0A x.field r 0
    else []) ++
  (if u.roles.contains st.role then [] else [f 0x0B 0 st.role.code 0])

/-- A deferred failure as the fault of the lane that reports it. -/
def Deferred.fault (d : Deferred) (l : Nat) : LaneFault :=
  { lane := l, cls := d.cls, sub := d.sub, addr := d.addr.toNat, info := d.info.toNat, info2 := d.info2.toNat,
    kind := if d.now then 0 else 1 }

/-- The deferred failure that lane `l` reports at this instruction: one of a handle word that it reads or overwrites, or
that of its refused access (R434, R467); of several, the one whose class stands first in R407's order. -/
def Uses.due (u : Uses) (st : Strand) (l : Nat) : Option Deferred :=
  let ln := st.lane l
  if ln.due.isEmpty then none
  else
    let keys := (((u.srcsOf l).filter fun x => x.wait).flatMap fun x => x.regs.map (regKey l)) ++
      u.dsts.flatMap fun d => d.regs.map (regKey l)
    leastBy (fun d => classRank d.cls) (ln.due.filter fun d => d.now || u.report d || d.words.any keys.contains)

def LaneFault.ofShape (x : Nat × Nat × Nat) (l : Nat) : LaneFault :=
  { lane := l, cls := x.1, sub := x.2.1, addr := 0, info := x.2.2, info2 := 0 }

/-- A matrix product's failure is reported once (R426): every lane of the block that holds it drops it. -/
def Block.dropDue (d : Deferred) (b : Block) : Block :=
  { b with strands := b.strands.map fun st =>
      { st with lanes := st.lanes.map fun ln => { ln with due := ln.due.filter fun e => e != d } } }

/-- A fault taken among those found; deferred failures that it reports are reported (R426, R434). -/
def State.raiseDue (s : State) (fs : List LaneFault) (ds : List (Nat × Deferred)) : State :=
  let all := fs ++ ds.map fun d => d.2.fault d.1
  match leastBy (fun f => classRank f.cls) all with
  | none => s
  | some top =>
    let now := ds.filter fun d => d.2.cls == top.cls
    let s := now.foldl (fun s d =>
      s.updLane s.cur.blk s.cur.strand d.1 fun ln => { ln with due := eraseOne d.2 ln.due }) s
    let s := (dedupe ((now.filter fun d => d.2.cls == 9).map fun d => d.2)).foldl (fun s d =>
      s.updBlock s.cur.blk (Block.dropDue d)) s
    s.raise all

/-- What the checks leave: nothing more to do in this step, or lanes that run. -/
inductive Gate where
  | stop (s : State)
  | go (s : State) (b : Block) (st : Strand) (lanes : List Nat)

/-- Faults that an instruction meets on its operands' values: state, block, strand, lanes that do not wait. -/
abbrev Late := State → Block → Strand → List Nat → List LaneFault

def Late.none : Late := fun _ _ _ _ => []

/-- Every check of R407 in every active lane before any effect (R406); then lanes that wait are parked, and the others run
the instruction. `safe` marks SAFEPT, which no count makes overdue (R422). -/
def State.gate (s : State) (u : Uses) (late : Late) (safe : Bool := false) : Gate :=
  match s.block? s.cur.blk with
  | none => .stop s
  | some b =>
    let st := b.strand s.cur.strand
    let ls := s.cur.lanes
    let ready := ls.filter fun l => (u.missing st l).isEmpty
    match u.shapeFlaw b.regs with
    | some x =>
      .stop (s.raise (ls.map (LaneFault.ofShape x) ++ (late s b st ready).filter fun f => decide (f.cls < 4)))
    | none =>
      let fs := (ls.flatMap (u.laneFlaws st safe)) ++ late s b st ready
      let ds := ready.filterMap fun l => (u.due st l).map fun d => (l, d)
      if fs.isEmpty && ds.isEmpty then
        let waits := ls.filter fun l => !(u.missing st l).isEmpty
        let s := if waits.isEmpty then s else s.updCur waits fun l ln => { ln with park := .words (u.missing st l) }
        if ready.isEmpty then .stop s else .go s b st ready
      else .stop (s.raiseDue fs ds)

/-- Keys of the words of the lanes that the instruction reads while full, or overwrites. -/
def Uses.touched (u : Uses) (st : Strand) (ls : List Nat) : List Nat :=
  ls.flatMap fun l =>
    (((u.srcsOf l).flatMap fun x => x.regs.map (regKey l)) ++ u.more st l).filter st.full ++
    u.dsts.flatMap fun d => d.regs.map (regKey l)

/-- The words read or overwritten are settled with their handles (R196). -/
def State.settle (s : State) (u : Uses) (b : Block) (st : Strand) (ls : List Nat) : State :=
  if b.handles.isEmpty then s
  else s.updBlock s.cur.blk fun b => b.settle s.cur.strand (u.touched st ls)

/-! ## Results -/

/-- Some word that lane `l` reads has the bit that `p` picks (R84, R428). -/
def Uses.marked (u : Uses) (st : Strand) (ls : List Nat) (p : RegWord → Bool) (l : Nat) : Bool :=
  let keys (l : Nat) := ((u.srcsOf l).flatMap fun x => x.regs.map (regKey l)) ++ u.onceKeys l ++ u.more st l
  let any (l : Nat) := (keys l).any fun k => p (cellsGet RegWord.zero k st.regs)
  if u.across then ls.any any else any l

/-- The words that lane `l` writes, with taint and poison from its sources. -/
def Uses.outs (u : Uses) (st : Strand) (ls : List Nat) (l : Nat) (ws : List (Nat × Word)) : List RegOut :=
  let t := u.marked st ls (fun w => w.taint) l
  let p := u.marked st ls (fun w => w.poison) l
  ws.map fun w => ⟨l, w.1, w.2, t, p⟩

/-- What a lane's computation gives: words written, and flags raised (R175). -/
structure Out where
  words : List (Nat × Word) := []
  flags : BitVec 5 := 0
deriving DecidableEq, Repr

/-- A lane's function of the strand, the active lanes and its own number. -/
abbrev LaneFn := Strand → List Nat → Nat → Out

/-- The course of an instruction that computes registers from registers (R277): checks, then every lane reads, then
every lane writes its words and flags, and goes on at the next address. -/
def State.compute (s : State) (u : Uses) (f : LaneFn) (late : Late := Late.none) : Result :=
  match s.gate u late with
  | .stop s => .next s
  | .go s b st ls =>
    let outs := ls.map fun l => (l, f st ls l)
    let s := s.settle u b st ls
    let s := s.writes (outs.flatMap fun o => u.outs st ls o.1 o.2.words)
    let s := s.setFlags (outs.map fun o => (o.1, o.2.flags))
    .next (s.retire ls)

def Out.one (r : Nat) (w : Word) : Out := { words := [(r, w)] }

def Out.two (r : Nat) (w : Dword) : Out := { words := [(r, loWord w), (r + 1, hiWord w)] }

end Sys2Proof.Machine
end

