-- ==== Sys2Proof/Machine/Fetch.lean ====
section
/-! DEFINITION. Fetching instruction units in 8-byte blocks (R257, R258), the words that a record of classes 0x01 to
0x03 shows (R414), and the checks of a transfer's targets (R415, R416). -/

namespace Sys2Proof.Machine

open Sys2Proof

/-! ## Blocks of code -/

/-- What an aligned 8-byte block of code is: its bits, the fault of reading it, or the place of another module or host
that must be asked. -/
inductive CodeBlock where
  | got (x : Nat)
  | bad (f : Flaw)
  | away (p : Place)

/-- The place of code at an address; scratchpad windows hold no code. -/
def State.codePlace (s : State) (b : Block) (va : Nat) : Except Flaw Place :=
  if windowBase ≤ va && va < 2 ^ 57 then .error ⟨0x10, 0, va⟩ else s.place b (s.jobOf b) va 8 .exec

/-- The thread in whose name lanes `ls` of strand `i` read code at `va`: one that holds an answer for it, if any. -/
def State.codeAsk (s : State) (b : Block) (i : Nat) (ls : List Nat) (va : Nat) (p : Place) : Ask :=
  let l := ((ls.find? fun l => (((b.strand i).lane l).answer p.loc 8 false).isSome).getD (ls.headD 0))
  { core := b.core, job := s.jobOf b, blk := b.key, strand := i, lane := l, va := va }

/-- The block of code at the 8-byte aligned address `va`. -/
def State.codeBlock (s : State) (b : Block) (i : Nat) (ls : List Nat) (va : Nat) : CodeBlock :=
  match s.codePlace b va with
  | .error f => .bad f
  | .ok p =>
    match p.loc with
    | .phys pa =>
      if (p.leaf.map fun l => l.view).getD false then .got (leNat (s.viewBytes (s.jobOf b) .root va 8))
      else .got (memNat s.mem pa 8)
    | .scratch _ _ => .bad ⟨0x10, 0, va⟩
    | _ =>
      match s.load (s.codeAsk b i ls va p) p 8 false false with
      | .got bs _ _ => .got (leNat bs)
      | .wait _ _ => .away p

/-- The block at `va` is asked for: what waits for it, and the tag. -/
def State.askCode (s : State) (b : Block) (i : Nat) (ls : List Nat) (va : Nat) (p : Place) : State × List Nat :=
  match s.load (s.codeAsk b i ls va p) p 8 false false with
  | .got _ _ s => (s, [])
  | .wait t s => (s, [t])

/-! ## Units -/

inductive Fetched where
  /-- the unit's bits, from bit 0 on -/
  | unit (x : BitVec 64)
  | bad (f : Flaw)
  | away (va : Nat) (p : Place)

/-- Bytes of the unit that begins with halfword `h` at offset `off` of its block; a pair at another offset than 0 is
refused by its adverb alone. -/
def unitBytes (h off : Nat) : Nat :=
  if h % 2 == 0 then 2 else if h % 4 == 1 then 4 else if off == 0 then 8 else 4

/-- The unit at `pc` (R257); a unit that runs onto a bad page faults at the first byte there (R414). -/
def State.fetchUnit (s : State) (b : Block) (i : Nat) (ls : List Nat) (pc : Nat) : Fetched :=
  let off := pc % 8
  let base := pc - off
  match s.codeBlock b i ls base with
  | .bad f => .bad { f with addr := pc }
  | .away p => .away base p
  | .got x =>
    let y := x / 256 ^ off
    if off + unitBytes (y % 2 ^ 16) off ≤ 8 then .unit (BitVec.ofNat 64 y)
    else
      match s.codeBlock b i ls (base + 8) with
      | .got z => .unit (BitVec.ofNat 64 (y % 2 ^ 16 + z % 2 ^ 16 * 2 ^ 16))
      | .bad f => if y % 4 == 3 then .unit (BitVec.ofNat 64 (y % 2 ^ 16)) else .bad f
      | .away p => if y % 4 == 3 then .unit (BitVec.ofNat 64 (y % 2 ^ 16)) else .away (base + 8) p

/-- The bytes of this module's DRAM that the unit at `pc` is fetched from: the addresses of its 8-byte blocks. -/
def State.codePieces (s : State) (b : Block) (pc : Nat) (x : BitVec 64) : List (Nat × Nat) :=
  let n := pc % 8 + unitBytes (x.toNat % 2 ^ 16) (pc % 8)
  ((List.range ((n + 7) / 8)).map fun j => pc / 8 * 8 + 8 * j).filterMap fun va =>
    match s.codePlace b va with
    | .ok p => match p.loc with
      | .phys pa => some (va, pa)
      | _ => none
    | .error _ => none

/-- The die at which the fetch of a unit waits for class 0 credit (R70, R71). -/
def State.codeShort (s : State) (b : Block) (ps : List (Nat × Nat)) : Option Nat :=
  if s.dies.any fun d => d.limited 0 then s.shortOf 0 (ps.flatMap fun p => [dieOf b.core, dieOfAddr p.2]) else none

/-- A fetch goes through the core's TLB, its retention counters and its die's L2 (R70, R110 to R112, R118). -/
def State.noteFetch (s : State) (b : Block) (ps : List (Nat × Nat)) : State :=
  ps.foldl (fun s p =>
    let kept := s.retainedIn b.core (s.jobOf b) p.1
    (s.fillTlb b.core (s.jobOf b) p.1).traffic (dieOf b.core) 0 p.2 8 false kept) s

/-- ADDR of a unit at `pc` that fails a check: the unit behind an adverb for 0x02 SUB 1 and 2, else the PC (R414). -/
def checkAddr (c sub pc : Nat) : Nat := if c == 2 && sub != 0 then pc + 4 else pc

/-- The 32 bits at `va`; none where they cannot be read. -/
def State.codeWord (s : State) (b : Block) (i : Nat) (ls : List Nat) (va : Nat) : Option Nat :=
  let off := va % 8
  match s.codeBlock b i ls (va - off) with
  | .got x =>
    if off ≤ 4 then some (x / 256 ^ off % 2 ^ 32)
    else
      match s.codeBlock b i ls (va - off + 8) with
      | .got z => some ((x / 256 ^ off + z * 256 ^ (8 - off)) % 2 ^ 32)
      | _ => none
  | _ => none

/-- INFO and INFO2 of a record of classes 0x01 to 0x03 at `va` (R414). Bits that no read gives are free values. -/
def State.unitInfo (s : State) (b : Block) (i : Nat) (ls : List Nat) (va : Nat) : Nat × Nat × State :=
  let word (s : State) (x : Option Nat) : Nat × State :=
    match x with
    | some x => (x, s)
    | none => let (k, s) := s.draw; ((Config.freeWord k).toNat, s)
  let (x, s) := word s (s.codeWord b i ls va)
  let (y, s) := word s (s.codeWord b i ls (va + 4))
  (x, y, s)

/-! ## Targets of a transfer (R415, R416) -/

/-- The faults of lane `l`'s target `t`. A target whose bytes must be asked for shows none yet. -/
def State.targetFlaws (s : State) (b : Block) (i l : Nat) (t : Dword) : List LaneFault :=
  let va := t.toNat
  let base := va / 8 * 8
  let f (c sub info info2 : Nat) : LaneFault := { lane := l, cls := c, sub := sub, addr := va, info := info, info2 := info2 }
  let odd := if bit va 0 then [f 0x12 0 2 0] else []
  odd ++
  match s.codeBlock b i [l] base with
  | .bad x => [f x.cls x.sub 2 0]
  | .away _ => []
  | .got x =>
    let h (o : Nat) : Bool := x / 256 ^ o % 4 == 3
    let lo := x % 2 ^ 32
    let hi := x / 2 ^ 32
    if bit va 0 then []
    else
      (if va % 8 != 0 && h (va % 8) then [f 0x02 0 lo hi] else []) ++
      (if va % 8 == 4 && h 0 then [f 0x03 0 lo hi] else [])

/-- The block of code at a lane's address must be asked for. -/
def State.codeAway (s : State) (b : Block) (i l va : Nat) : Option Place :=
  match s.codeBlock b i [l] (va / 8 * 8) with
  | .away p => some p
  | _ => none

/-- The lanes' blocks of code that must be asked for are asked for: the tags awaited. -/
def State.askTargets (s : State) (b : Block) (i : Nat) (ts : List (Nat × Nat)) : State × List Nat :=
  ts.foldl (fun acc t =>
    match acc.1.codeAway b i t.1 t.2 with
    | some p =>
      let (s, tags) := acc.1.askCode b i [t.1] (t.2 / 8 * 8) p
      (s, acc.2 ++ tags)
    | none => acc) (s, [])

/-- The lanes go to their targets, or wait for code that must be asked for. -/
def State.transfer (s : State) (b : Block) (ls : List Nat) (ts : List (Nat × Dword)) (done : State → State) : State :=
  let (s, tags) := s.askTargets b s.cur.strand (ts.map fun t => (t.1, t.2.toNat))
  if tags.isEmpty then
    (done s).updCur ls fun l ln =>
      ln.retire (((ts.find? fun t => t.1 == l).map fun t => t.2).getD s.cur.next)
  else s.park ls (.reply tags)

end Sys2Proof.Machine
end

