-- ==== Sys2Proof/Machine/Select.lean ====
section
/-! DEFINITION. Which lanes wait (R30), a quad's pending paths and a strand's gangs, the choice among them and the
fairness timers (R32 to R36), and the choice among strands (R65 to R67). -/

namespace Sys2Proof.Machine

open Sys2Proof

/-! ## Waiting -/

/-- `n` bytes of a block's scratchpad, little-endian. -/
def Block.padNat (b : Block) (off n : Nat) : Nat :=
  leNat ((List.range n).map fun j => cellsGet 0 (off + j) b.scratch)

/-- Slot `slot` of the ring at `ring` is armed or free, at phase `phase` (R207, Table 9-2). -/
def Block.stageIs (b : Block) (ring slot : Nat) (armed phase : Bool) : Bool :=
  bit (b.padNat (ring + 8) 8) slot == phase && bit (b.padNat (ring + 16) 8) slot == armed

/-- The age of a block: admission of its launch and its index, and behind its forking block for a child (R66, R125). The
number bounds the nesting. -/
def State.agePath (s : State) : Nat → Block → List Nat
  | 0, _ => []
  | n + 1, b =>
    match s.grid? b.grid with
    | none => [0, b.index + 1]
    | some g =>
      let above := ((g.fork.bind s.fork?).bind fun f => f.owner.bind fun o => s.block? o.1).map (s.agePath n)
      above.getD [] ++ [g.age, b.index + 1]

/-- The age of a strand, as a number: the block's path, then the strand's index. -/
def State.ageOf (s : State) (b : Block) (i : Nat) : Nat :=
  let path := s.agePath 10 b
  ((path ++ List.replicate (20 - path.length) 0).foldl (fun n x => n * 2 ^ 64 + x) 0) * 2 ^ 8 + i

/-- The number of queue entries that a parked lane waits for. -/
def Strand.queueNeed (st : Strand) : Option Nat :=
  st.lanes.findSome? fun l => match l.park with | .queue n => some n | _ => none

/-- One request served from free shared, copy-role and general entries; a request that finds too few leaves the shared
ones, and its role's, for no younger one (R194). -/
def serveEntries (f : Nat × Nat × Nat) (role : Role) (need : Nat) : Bool × Nat × Nat × Nat :=
  let own := match role with | .copy => f.2.1 | .general => f.2.2 | .matrix => 0
  let n := Nat.min need (40 + role.reserve)
  let ok := decide (n ≤ f.1 + own)
  let sh := if ok then f.1 - n else 0
  let rest := if ok then own - (n - f.1) else 0
  match role with
  | .copy => (ok, sh, rest, f.2.2)
  | .general => (ok, sh, f.2.1, rest)
  | .matrix => (ok, sh, f.2.1, f.2.2)

/-- The request of strand `i` of block `b` for `need` queue entries can be granted, after the parked requests of older
strands of the core (R194). -/
def State.queueGrant (s : State) (b : Block) (i need : Nat) : Bool :=
  let me := s.ageOf b i
  let others : List (Nat × Role × Nat) := (s.blocks.filter fun k => k.core == b.core && k.resident).flatMap fun k =>
    (List.range k.strands.length).filterMap fun j =>
      match (k.strand j).queueNeed with
      | some n => if s.ageOf k j < me then some (s.ageOf k j, (k.strand j).role, n) else none
      | none => none
  let start : Nat × Nat × Nat :=
    ((s.entriesFree b.core .copy).1, (s.entriesFree b.core .copy).2, (s.entriesFree b.core .general).2)
  let left := (sortBy (fun x : Nat × Role × Nat => x.1) others).foldl (fun f x => (serveEntries f x.2.1 x.2.2).2) start
  (serveEntries left (b.strand i).role need).1

/-- The core has `need` free handle slots (R196). -/
def State.slotGrant (s : State) (b : Block) (need : Nat) : Bool := decide (s.slotsUsed b.core + need ≤ 4096)

/-- A request with this tag has no answer yet. -/
def State.outstanding (s : State) (tag : Nat) : Bool :=
  (s.fabric.reqs.any fun r => r.tag == tag) || s.hostReads.any fun r => r.tag == tag

/-! ### Ordered-atomic buffers (R163) -/

def Stream.fresh : Stream := ⟨[], none, none⟩

/-- The lowest block index that has not passed (R161). -/
def Stream.frontier (x : Stream) : Nat := leastFree x.passed x.passed.length 0

def Grid.stream (g : Grid) (k : Nat) : Stream := g.streams.getD k Stream.fresh

def State.gridOf (s : State) (b : Block) : Option Grid := s.grid? b.grid

/-- Stream `k` of the block's grid. -/
def State.streamOf (s : State) (b : Block) (k : Nat) : Stream := ((s.gridOf b).map fun g => g.stream k).getD Stream.fresh

/-- The slice whose buffer holds a stream's waiting requests: module, die, slice. It is the one of the descriptor's line
(R352); of a stream without a descriptor R163 does not name it, and the model takes slice `k` of die 0 (DESIGN CHOICE,
log 57). -/
def State.bufferOf (s : State) (g : Grid) (k : Nat) : Nat × Nat × Nat :=
  match (g.stream k).bound.bind fun va => (s.walkJob g.launch.job va).map fun lf => (lf.home, lf.addr + (va - lf.base)) with
  | some (home, pa) => (home, dieOfAddr pa, sliceOf pa)
  | none => (s.mgmt.dev, 0, k)

/-- The stream that a parked lane's request waits at. -/
def Park.stream : Park → Option Nat
  | .append k | .ticket k _ => some k
  | _ => Option.none

/-- Program counters of a strand's lanes whose requests wait in a buffer: one request for each. -/
def State.waitsIn (s : State) (g : Grid) (slot : Nat × Nat × Nat) (st : Strand) : List Dword :=
  dedupe ((st.lanes.filter fun l => (l.park.stream.map fun k => s.bufferOf g k == slot).getD false).map fun l => l.pc)

/-- Entries of a buffer in use. -/
def State.bufferUsed (s : State) (slot : Nat × Nat × Nat) : Nat :=
  ((s.blocks.filter Block.resident).map fun b =>
    match s.gridOf b with
    | some g => (b.strands.map fun st => (s.waitsIn g slot st).length).foldl (· + ·) 0
    | none => 0).foldl (· + ·) 0

/-- A request that must wait at stream `k` finds an entry: the last of the 256 is kept for the frontier's block, whose
requests need no wait. -/
def State.bufferOpen (s : State) (b : Block) (k : Nat) : Bool :=
  match s.gridOf b with
  | some g => decide (s.bufferUsed (s.bufferOf g k) < 255)
  | none => true

/-- The write that waits for `need` pool slots can have them (R138, R139). -/
def State.poolGrant (s : State) (b : Block) (need : Nat) : Bool :=
  decide (need ≤ s.freeSlots) ||
  match b.view with
  | .root => true
  | .child k c => ((s.fork? k).map fun f => s.inReserve viewFuel f c need || s.lowestLive f == some c).getD true

/-- The clock since which a lane waits at a RALLY. -/
def Park.rallied (p : Park) : Option Nat :=
  match p with
  | .rally t => some t
  | _ => Option.none

/-- The wait of a lane other than at RALLY goes on. -/
def State.waits (s : State) (b : Block) (st : Strand) (i : Nat) (p : Park) : Bool :=
  match p with
  | .none | .rally _ => false
  | .words ks | .matWords ks => ks.any fun k => !st.full k
  | .chunks cs => cs.any fun c => ((s.block? c.1).map fun k => k.absent.contains c.2).getD false
  | .bar _ | .tbar _ | .ticket _ _ | .append _ | .latch => true
  | .stage ring slot armed phase => !b.stageIs ring slot armed phase
  | .join slot gen => ((b.handle? slot gen).map fun h => !h.done).getD false
  | .queue n => !s.queueGrant b i n
  | .slot n => !s.slotGrant b n
  | .engine goal | .barEngine goal | .matQueue goal => ((b.mat).map fun m => decide (m.executed < goal)).getD false
  | .reserve n => decide (s.freeSlots < n)
  | .pool n => !s.poolGrant b n
  | .reply tags | .claim tags => tags.any s.outstanding
  | .credit d => !(s.die d).credited 0
  | .refused _ k goal => decide ((s.streamOf b k).frontier < goal) && !s.bufferOpen b k

/-- A wait that holds the whole strand (R106, R194, R196, R329, R330). -/
def Park.wholeStrand : Park → Bool
  | .chunks _ | .queue _ | .slot _ | .latch | .matWords _ | .matQueue _ => true
  | _ => false

/-- The lane is live, not stopped, and not parked in a wait that goes on, nor at a RALLY. -/
def State.runs (s : State) (b : Block) (st : Strand) (i l : Nat) : Bool :=
  let ln := st.lane l
  ln.status == .live && ln.stopped.isNone && ln.park.rallied.isNone && !s.waits b st i ln.park

/-- A live lane that waits at no instruction has a program counter below `pc` (R38). A lane that has stopped at a SAFEPT is
not parked, and holds the RALLY (DEDUCED, log 60). -/
def State.straggler (s : State) (b : Block) (st : Strand) (i : Nat) (pc : Nat) : Bool :=
  (List.range st.lanes.length).any fun l =>
    let ln := st.lane l
    ln.status == .live && ln.park.rallied.isNone && !s.waits b st i ln.park && decide (ln.pc.toNat < pc)

/-- The lane is in the middle of an instruction that other modules or hosts are performing. -/
def Park.midway : Park → Bool
  | .reply _ | .claim _ => true
  | _ => false

/-- The strand issues in the cycle in which a lower strand's fault has stopped its block: its own fault then writes a record
of its own, behind that one (R410). -/
def State.inFaultCycle (s : State) (b : Block) (i : Nat) : Bool :=
  match b.faultAt with
  | some (t, j) => t == s.coreClock b.core && decide (j < i)
  | none => false

/-- The lanes of a strand that may issue (R32): its pending lanes. A lane that counts as stopped at its wait (R52) goes on
if the wait ends before the block has been saved (DESIGN CHOICE, log 44). -/
def State.pending (s : State) (b : Block) (i : Nat) : List Nat :=
  let st := b.strand i
  let all := List.range st.lanes.length
  if all.any fun l => (st.lane l).status == .live && (st.lane l).park.wholeStrand && s.waits b st i (st.lane l).park
  then []
  else all.filter fun l =>
    (!b.haltsNow || s.inFaultCycle b i || (st.lane l).park.midway) &&
    (s.runs b st i l ||
    (st.lane l).status == .live && (st.lane l).stopped.isNone && (st.lane l).park.rallied.isSome &&
      !s.straggler b st i (st.lane l).pc.toNat)

/-! ## Paths and gangs (R32 to R35) -/

def Strand.pc (st : Strand) (l : Nat) : Nat := (st.lane l).pc.toNat

/-- Index of the lane's quad. -/
def quadOf (l : Nat) : Nat := l / 4

/-- The choice among lanes by a timer: the kept choice if it is still pending and stands alone at its program counter,
else the lowest program counter (R34, R35). Chosen program counter, lanes there, and the timer with a dissolved choice
dropped. R35 does not say which part of a kept choice that splits at a branch stays the choice: the model keeps all its
lanes, the lowest program counter first (DESIGN CHOICE, log 61). -/
def Strand.choose (st : Strand) (f : Fair) (cands : List Nat) : Option (Nat × List Nat × Fair) :=
  let kept := f.forced.filter cands.contains
  let low := leastBy id (cands.map st.pc)
  let at' (p : Nat) : List Nat := cands.filter fun l => st.pc l == p
  match leastBy id (kept.map st.pc), low with
  | some p, some m =>
    if (at' p).all kept.contains then some (p, at' p, { f with forced := kept })
    else some (m, at' m, { f with forced := [] })
  | none, some m => some (m, at' m, { f with forced := [] })
  | _, none => none

def Strand.quad (st : Strand) (q : Nat) : Fair := st.quads.getD q Fair.zero

/-- The issue PC and lanes of every quad that has a pending path. -/
def Strand.issuePcs (st : Strand) (pend : List Nat) : List (Nat × Nat × List Nat) :=
  (List.range ((st.width + 3) / 4)).filterMap fun q =>
    (st.choose (st.quad q) (pend.filter fun l => quadOf l == q)).map fun c => (q, c.1, c.2.1)

/-- The selected gang of a strand: issue PC and lanes (R33, R34). -/
def Strand.gangOf (st : Strand) (pend : List Nat) : Option (Nat × List Nat) :=
  let qs := st.issuePcs pend
  let kept := qs.filter fun q => pend.any fun l => quadOf l == q.1 && st.fair.forced.contains l
  let at' (p : Nat) : List Nat := (qs.filter fun q => q.2.1 == p).flatMap fun q => q.2.2
  let low := (leastBy id (qs.map fun q => q.2.1)).map fun m => (m, at' m)
  match leastBy id (kept.map fun q => q.2.1) with
  | some p => if (qs.filter fun q => q.2.1 == p).all kept.contains then some (p, at' p) else low
  | none => low

/-- The kept choice of the strand still stands (R35). -/
def Strand.keeps (st : Strand) (pend : List Nat) : Bool :=
  let qs := st.issuePcs pend
  let kept := qs.filter fun q => pend.any fun l => quadOf l == q.1 && st.fair.forced.contains l
  match leastBy id (kept.map fun q => q.2.1) with
  | some p => (qs.filter fun q => q.2.1 == p).all kept.contains
  | none => false

/-- The next choice after program counter `p` among others: the next higher, else the lowest. -/
def nextChoice (p : Nat) (others : List Nat) : Option Nat :=
  match leastBy id (others.filter fun x => decide (p < x)) with
  | some x => some x
  | none => leastBy id others

/-- A timer forces the next choice among `cands`, which are not at the current choice `p` (R35). -/
def Strand.force (st : Strand) (p : Nat) (cands : List Nat) (f : Fair) : Fair :=
  match nextChoice p (cands.map st.pc) with
  | some x => ⟨0, cands.filter fun l => st.pc l == x, []⟩
  | none => { f with count := 0 }

def Strand.updQuad (st : Strand) (q : Nat) (f : Fair → Fair) : Strand :=
  { st with quads := (List.range ((st.width + 3) / 4)).map fun k => if k == q then f (st.quad k) else st.quad k }

/-- Kept choices that are no longer pending, or that have joined another one, are dropped. -/
def Strand.settleFair (st : Strand) (pend : List Nat) : Strand :=
  let quad (q : Nat) : Fair :=
    match st.choose (st.quad q) (pend.filter fun l => quadOf l == q) with
    | some c => c.2.2
    | none => { st.quad q with forced := [] }
  let st := { st with quads := (List.range ((st.width + 3) / 4)).map quad }
  if st.keeps pend then st else { st with fair := { st.fair with forced := [] } }

/-- The program counter of a timer's current choice: the lowest of the lanes that issued last, wherever their latest issue has
taken them; where none has issued yet, the choice that stands. -/
def Strand.currentPc (st : Strand) (f : Fair) (stands : Option Nat) : Option Nat :=
  match leastBy id (f.last.map st.pc) with
  | some p => some p
  | none => stands

/-- The timer of quad `q` forces its next choice: another path than the one whose slots it has counted. -/
def Strand.forceQuad (st : Strand) (pend : List Nat) (q : Nat) : Strand :=
  let cands := pend.filter fun l => quadOf l == q
  match st.currentPc (st.quad q) ((st.choose (st.quad q) cands).map fun c => c.1) with
  | some p => st.updQuad q fun f => st.force p (cands.filter fun l => st.pc l != p) f
  | none => st

/-- The strand's timer forces its next choice: another gang than the one whose slots it has counted. -/
def Strand.forceGang (st : Strand) (pend : List Nat) : Strand :=
  match st.currentPc st.fair ((st.gangOf pend).map fun g => g.1) with
  | some p =>
    let others := (st.issuePcs pend).flatMap fun q => if q.2.1 == p then [] else q.2.2
    { st with fair := st.force p others st.fair }
  | none => st

/-- Timers at 64 force their next choices (R35). -/
def Strand.expire (st : Strand) (pend : List Nat) : Strand :=
  let st := (List.range ((st.width + 3) / 4)).foldl (fun st q =>
    if 64 ≤ (st.quad q).count then st.forceQuad pend q else st) st
  if 64 ≤ st.fair.count then st.forceGang pend else st

/-- An issue of lanes `ls` counts in the timers of their quads and of the strand (R35). A 64-wide strand's issue, which takes
two slots (R39), counts once: R35 does not say (DESIGN CHOICE, log 61). -/
def Strand.countIssue (st : Strand) (pend ls : List Nat) : Strand :=
  let qs := dedupe (ls.map quadOf)
  let quad (q : Nat) : Fair :=
    let f := st.quad q
    if qs.contains q then
      let other := pend.any fun l => quadOf l == q && !ls.contains l
      { f with count := if other then f.count + 1 else 0, last := ls.filter fun l => quadOf l == q }
    else f
  let st := { st with quads := (List.range ((st.width + 3) / 4)).map quad }
  let other := (st.issuePcs pend).any fun q => q.2.2.any fun l => !ls.contains l
  { st with fair := { st.fair with count := if other then st.fair.count + 1 else 0, last := ls } }

/-- `n` confirmed subjunctive issues of lanes `ls` count (R35). -/
def Strand.countIssues (st : Strand) (pend ls : List Nat) : Nat → Strand
  | 0 => st
  | n + 1 => (st.countIssue pend ls).countIssues pend ls n

/-- The issues that the timers leave to lanes `ls` before one of them reaches 64. -/
def Strand.slotsLeft (st : Strand) (ls : List Nat) : Nat :=
  64 - ((dedupe (ls.map quadOf)).map fun q => (st.quad q).count).foldl Nat.max st.fair.count

/-! ## Strands (R65 to R67) -/

/-- The module's clocks run, and its boot is over (R239, R253, R474). -/
def State.clocksRun (s : State) : Bool := s.mgmt.boot == 3 && !s.mgmt.frozen && !s.mgmt.trip

/-- The block's threads may issue. At a stop that takes hold at instruction boundaries, only those do that are in the
middle of an instruction (`State.pending`). -/
def State.mayIssue (s : State) (b : Block) : Bool :=
  s.clocksRun && !(s.job (s.jobOf b)).resuming &&
  match b.state with
  | .running | .stopping _ => true
  | _ => false

/-- Rank of a strand among candidates: promoted ones first, then copy, matrix, general (R65, R67). -/
def Strand.rank (st : Strand) : Nat :=
  if st.promoted then 0 else match st.role with | .copy => 1 | .matrix => 2 | .general => 3

/-- The partition of strand `i` of a block, among the module's 2,048. -/
def Block.partOf (b : Block) (i : Nat) : Nat := b.core * 16 + (b.strand i).partition

/-- A candidate that has been passed over for 256 clocks and not promoted yet (R67). -/
def Strand.overdue (st : Strand) : Bool := decide (256 ≤ st.waited) && !st.promoted

/-- The strands that have a gang to issue: block, strand, partition, and place in its order of selection. -/
def State.candidates (s : State) : List (Nat × Nat × Nat × Nat) :=
  (s.blocks.filter s.mayIssue).flatMap fun b =>
    (List.range b.strands.length).filterMap fun i =>
      if (s.pending b i).isEmpty then none else some (b.key, i, b.partOf i, (b.strand i).rank * 2 ^ 1400 + s.ageOf b i)

/-- The strand that issues next when nothing else says which: the partitions select in turn, each its first candidate. -/
def State.nextStrand (s : State) : Option (Nat × Nat × Nat) :=
  let turn (p : Nat) : Nat := (p + 2047 - s.selected) % 2048
  (leastBy (fun c : Nat × Nat × Nat × Nat => turn c.2.2.1 * 2 ^ 1500 + c.2.2.2) s.candidates).map
    fun c => (c.1, c.2.1, c.2.2.1)

/-- The other candidates of strand `i`'s partition have been passed over once more (R67). -/
def State.passOver (s : State) (b : Block) (i : Nat) : State :=
  let pass (c : Block) (j : Nat) (st : Strand) : Strand :=
    if b.partOf i != c.partOf j || (c.key == b.key && j == i) then st
    else if (s.pending c j).isEmpty then { st with waited := 0 }
    else { st with waited := st.waited + 1 }
  let near (c : Block) : Bool := c.core == b.core && s.mayIssue c
  { s with blocks := s.blocks.map fun c => if near c then { c with strands := c.strands.mapIdx (pass c) } else c }

end Sys2Proof.Machine
end

