-- ==== Sys2Proof/Machine/Reach.lean ====
section
/-! DEFINITION. What loads, stores, atomics and engine instructions share: address formation (R345), the checks of an
access (Tables 21-1, 21-7, R432, R437, R439, R444, R445), holds by absent chunks and by the matrix engine (R106, R339),
releases that wait, and slots of the twin pool (R138, R139, R443). -/

namespace Sys2Proof.Machine

open Sys2Proof

/-! ## Accesses -/

/-- What an access does to its bytes: a load; a store; an atomic that writes; LDRES, which does not. -/
inductive Way where
  | read | write | both | reserve
deriving DecidableEq, Repr

def Way.reads : Way → Bool
  | .read | .both | .reserve => true
  | .write => false

def Way.writes : Way → Bool
  | .write | .both => true
  | .read | .reserve => false

/-- A store or an atomic, which a frozen view does not permit (R439). -/
def Way.stores : Way → Bool
  | .write | .both | .reserve => true
  | .read => false

/-- One lane's access: `n` bytes at a generic address, or at a scratchpad offset (`pad`). `acq` is the scope of an
acquire, 0 for a relaxed access. -/
structure Acc where
  lane : Nat
  va : Nat
  n : Nat
  pad : Bool
  way : Way
  acq : Nat
  /-- a load that takes no byte of a lease (R158) -/
  fresh : Bool := false
deriving DecidableEq, Repr

/-- The place of an access under one permission. -/
def State.accPlace1 (s : State) (b : Block) (a : Acc) (p : Perm) : Except Flaw Place :=
  if a.pad then s.padPlace b a.va a.n else s.place b (s.jobOf b) a.va a.n p

/-- The place of an access, or its first fault of Table 21-1. -/
def State.accPlace (s : State) (b : Block) (a : Acc) : Except Flaw Place :=
  match a.way with
  | .read | .reserve => s.accPlace1 b a .read
  | .write => s.accPlace1 b a .write
  | .both =>
    match s.accPlace1 b a .read with
    | .error f => .error f
    | .ok _ => s.accPlace1 b a .write

/-- The place of an access that has passed its checks. -/
def State.placeOf (s : State) (b : Block) (a : Acc) : Place :=
  match s.accPlace b a with
  | .ok p => p
  | .error _ => ⟨.scratch b.key 0, none⟩

def Place.viewed (p : Place) : Bool := (p.leaf.map fun l => l.view).getD false

/-- The page is open (R126): translated, and not viewed. -/
def Place.isOpen (p : Place) : Bool := (p.leaf.map fun l => !l.view).getD false

/-- ROP and RTYPE form a combination that Table 6-2 accepts; ROP 0 takes bytes. -/
def ropAccepts (rop rtype : Nat) : Bool :=
  let int := decide (rtype ≤ 7)
  let flt := rtype == 10 || rtype == 11
  match rop with
  | 0 => true
  | 1 | 2 | 3 | 7 => int || flt
  | 4 | 5 | 6 => int
  | _ => false

/-- The access breaks R164 (Table 21-7, SUB 0): of unguarded accesses to open pages only loads from read-only ones are
permitted. -/
def State.breaksDet (s : State) (b : Block) (p : Place) (w : Way) : Bool :=
  s.isDet b && b.guards.isEmpty && p.isOpen &&
  (w != .read || ((p.leaf.map fun l => l.perm.getLsbD 1).getD false))

/-- The lowest poisoned byte that a read of `n` bytes at a place touches, as an offset from its first byte (R436, R437). -/
def State.poisonIn (s : State) (job : Nat) (p : Place) (n : Nat) : Option Nat :=
  match p.loc with
  | .phys pa => (s.poisonAt pa n).map fun x => x - pa
  | .scratch k off =>
    if s.padPoison.isEmpty then none
    else leastBy id ((s.padPoison.filter fun u =>
      u.1 == k && decide (u.2 * 8 < off + n) && decide (off < u.2 * 8 + 8)).map fun u => max off (u.2 * 8) - off)
  | .view f c va => if s.viewPoisoned viewFuel job (.child f c) va then some 0 else none
  | _ => none

/-- The poison that the lane's answer for the place brought (R437, R469). -/
def Lane.answerPoison (l : Lane) (loc : Loc) (n : Nat) : Bool :=
  ((l.answer loc n false).map fun a => a.2).getD false

/-- The faults of an access whose address must be a multiple of `align` (else 0x12 with SUB `sub`), in the order of its
checks (R432, R437, R439, R444, R445). `claim` marks the writes of an ordered append, which R164 always permits. -/
def State.accChecks (s : State) (b : Block) (st : Strand) (i : Nat) (align sub : Nat) (claim : Bool) (a : Acc) :
    List LaneFault :=
  let size := a.n + (if a.way.writes then 256 else 0)
  let f (c sub addr : Nat) : LaneFault :=
    { lane := a.lane, cls := c, sub := sub, addr := addr, info := size, info2 := 0 }
  if a.va % align != 0 then [f 0x12 sub a.va]
  else
    match s.accPlace b a with
    | .error x => [f x.cls x.sub x.addr]
    | .ok p =>
      let w := a.way.writes
      let lf := p.leaf
      let reserved := (lf.map fun l => l.view && !ropAccepts l.rop.toNat l.rtype.toNat).getD false
      let depth := b.view.depth s
      (if w && reserved then [f 0x11 5 a.va] else []) ++
      (if a.way.stores && p.viewed && s.frozen (s.jobOf b) b.view then [{ f 0x16 0 a.va with info := depth }] else []) ++
      (if !claim && s.breaksDet b p a.way then [{ f 0x17 0 a.va with info := 0 }] else []) ++
      (match if a.way.reads then s.scopeFlaw b i a.acq p.loc else none with
       | some (x, y) => [{ f 0x18 0 a.va with info := x, info2 := y }]
       | none => []) ++
      (if !a.way.reads then []
       else if (st.lane a.lane).answerPoison p.loc a.n then [f 0x1A 0 a.va]
       else
         match s.poisonIn (s.jobOf b) p a.n with
         | some d => [f 0x1A 0 (a.va + d)]
         | none => [])

/-- The faults of a load, store or atomic, whose address must be a multiple of its size. -/
def State.accFlaws (s : State) (b : Block) (st : Strand) (i : Nat) (a : Acc) : List LaneFault :=
  s.accChecks b st i a.n 0 false a

/-- The faults of an access to an object that must lie on an open page (R153, R352): 0x11 SUB 4 elsewhere. -/
def State.objFlaws (s : State) (b : Block) (st : Strand) (i : Nat) (claim : Bool) (a : Acc) : List LaneFault :=
  match s.accChecks b st i 64 1 claim a with
  | [] => if (s.placeOf b a).isOpen then [] else
      [{ lane := a.lane, cls := 0x11, sub := 4, addr := a.va, info := a.n + (if a.way.writes then 256 else 0), info2 := 0 }]
  | f :: fs =>
    if f.cls == 0x10 || f.cls == 0x11 || f.cls == 0x12 || f.cls == 0x13 || (s.placeOf b a).isOpen then f :: fs
    else [{ f with cls := 0x11, sub := 4, addr := a.va, info := a.n + (if a.way.writes then 256 else 0), info2 := 0 }]

def State.ask (_ : State) (b : Block) (i job : Nat) (a : Acc) : Ask :=
  { core := b.core, job := job, blk := b.key, strand := i, lane := a.lane, va := a.va }

/-! ## Addresses (R345) -/

/-- What the offset field adds to an address: off8 × n, or imm32 in bytes. -/
def offsetOf (v : Adverb) (off : BitVec 8) (n : Nat) : Int :=
  match v with
  | .imm _ => immOf v 8 off.toNat
  | .none => sext off.toNat 8 * n
  | .mod _ => sext off.toNat 8 * n

/-- The generic address or the scratchpad offset of lane `l`. -/
def addrOf (st : Strand) (v : Adverb) (a : BitVec 7) (off : BitVec 8) (n : Nat) (pad : Bool) (l : Nat) : Nat :=
  let x := offsetOf v off n
  if pad then (st.word l (aReg v a) + BitVec.ofInt 32 x).toNat else (st.pair l (aReg v a) + BitVec.ofInt 64 x).toNat

/-- The scope of an access: 0 is relaxed (R143). -/
def accScope (v : Adverb) : Nat := (modOf v).scope.toNat

/-- The scope of a SYNC instruction, which reads 0 as device (R143). -/
def syncScope (v : Adverb) : Nat := if accScope v == 0 then 4 else accScope v

/-! ## Absent chunks (R106) -/

/-- The chunks that `n` bytes at a place touch. -/
def Loc.chunks (l : Loc) (n : Nat) : List (Nat × Nat) :=
  match l with
  | .scratch k off => (List.range ((off + n - 1) / 512 - off / 512 + 1)).map fun j => (k, off / 512 + j)
  | _ => []

/-- The absent ones among the chunks that an access touches. -/
def State.absentAt (s : State) (loc : Loc) (n : Nat) : List (Nat × Nat) :=
  (loc.chunks n).filter fun c => ((s.block? c.1).map fun b => b.absent.contains c.2).getD false

/-! ## The matrix engine's scratchpad accesses (R333, R337, R339) -/

/-- The rows of a scratchpad operand: offsets (R333). -/
def MatSrc.rows : MatSrc → List Nat
  | .pad base pitch tp => (List.range 64).map fun i => base + i * pitch + i / 8 * tp * 256
  | _ => []

/-- Bytes of an operand row that an instruction reads from scratchpad. -/
def MatFn.rowBytes : MatFn → Nat
  | .f4 => 32
  | .scale => 8
  | .load | .store => 256
  | .storePart => 128
  | .zero => 0
  | _ => 64

def MatFn.storesRows : MatFn → Bool
  | .store | .storePart => true
  | _ => false

/-- The scratchpad byte of an offset: block key and offset in its allocation (R95). -/
def State.padByte (s : State) (b : Block) (x : Nat) : Nat × Nat :=
  if bit x 22 then (((s.partner? b).map fun p => p.key).getD b.key, x % 2 ^ 22) else (b.key, x % 2 ^ 22)

/-- An accepted instruction conflicts with an access of `n` bytes at (block, offset): it writes them, or the access
does. -/
def State.matMeets (s : State) (b : Block) (op : MatOp) (loc : Loc) (n : Nat) (w : Bool) : Bool :=
  match loc with
  | .scratch k off =>
    let len := op.fn.rowBytes
    (w || op.fn.storesRows) && (op.a.rows ++ op.b.rows).any fun x =>
      let y := s.padByte b x
      y.1 == k && decide (y.2 < off + n) && decide (off < y.2 + len)
  | _ => false

/-- Instructions that the block's context must have executed before `p` holds of none that is accepted from strand
`i`. -/
def Block.matGoal (b : Block) (i : Nat) (p : MatOp → Bool) : Option Nat :=
  match b.mat with
  | none => none
  | some m =>
    let at' := (List.range m.queue.length).filter fun j =>
      match m.queue[j]? with
      | some op => op.members.contains i && p op
      | none => false
    at'.getLast?.map fun j => m.executed + j + 1

/-- What a later access of strand `i` waits for (R339). -/
def State.matHold (s : State) (b : Block) (i : Nat) (loc : Loc) (n : Nat) (w : Bool) : Option Nat :=
  match b.mat with
  | none => none
  | some _ => b.matGoal i fun op => s.matMeets b op loc n w

/-- What a release, barrier or stage update of strand `i` waits for: every earlier MAT instruction's scratchpad
accesses (R339). -/
def Block.matDrain (b : Block) (i : Nat) : Option Nat :=
  match b.mat with
  | none => none
  | some _ => b.matGoal i fun op => op.fn.rowBytes != 0 && (op.a.rows ++ op.b.rows).length != 0

/-- The dies at whose interfaces an access makes a request (R70): none where the core's L1 or a scratchpad holds its bytes. -/
def State.requestDies (s : State) (b : Block) (a : Acc) (p : Place) : List Nat :=
  let here := dieOf b.core
  match p.loc with
  | .phys pa =>
    let cached := (p.leaf.map fun l => l.cache == 0).getD false
    let inL1 := match a.way with
      | .read => cached && a.acq == 0 && !a.fresh && (s.core b.core).serves pa a.n (s.coreClock b.core)
      | .write => cached
      | .both | .reserve => false
    if inL1 then [] else [here, dieOfAddr pa]
  | .view _ _ _ | .remote _ _ => [here]
  | .scratch _ _ | .host _ _ | .reg _ _ => []

/-- A request of the accesses finds no credit in class 0 (R71): it is held until the die's next period. -/
def State.creditHold (s : State) (b : Block) (as : List (Acc × Place)) : Option Park :=
  if s.dies.any fun d => d.limited 0 then (s.shortOf 0 (as.flatMap fun a => s.requestDies b a.1 a.2)).map Park.credit
  else none

/-- The wait of the accesses of an issue, if one must wait: chunks first, then the matrix engine, then credit. -/
def State.accHold (s : State) (b : Block) (i : Nat) (as : List (Acc × Place)) : Option Park :=
  let cs := as.flatMap fun a => s.absentAt a.2.loc a.1.n
  if !cs.isEmpty then some (.chunks (dedupe cs))
  else
    match as.findSome? fun a => s.matHold b i a.2.loc a.1.n a.1.way.writes with
    | some g => some (.engine g)
    | none => s.creditHold b as

/-! ## Releases -/

/-- The release action of a strand's instruction at a scope on a set (R152, R339): what it waits for, or nothing. -/
def State.release (s : State) (b : Block) (i scope : Nat) (r : ByteSet) : State × Option Park :=
  match b.matDrain i with
  | some g => (s, some (.engine g))
  | none =>
    let (s, tags) := s.releaseSet b.core scope r
    (s, if tags.isEmpty then none else some (.reply tags))

/-- Lines of other modules that places lie on: module and address. -/
def remoteLines (ps : List Place) : List (Nat × Nat) :=
  dedupe (ps.filterMap fun p => match p.loc with | .remote d a => some (d, a / 128 * 128) | _ => none)

/-- Room in the core's write-combining buffer for a block's stores to these places together. Lines that have no open entry
need one; where they find too few, the oldest entries drain and the instruction waits for them (R230, R231). -/
def State.wcbRoom (s : State) (b : Block) (ps : List Place) : State × Option Park :=
  let job := s.jobOf b
  let tag := ps.findSome? fun p => p.viewTag b.view
  let open_ (x : Nat × Nat) : Bool := (s.core b.core).wcb.any fun e =>
    e.sent.isNone && (e.takes job x.1 x.2 none || e.takes job x.1 x.2 tag)
  let need := ((remoteLines ps).filter fun x => !open_ x).length
  let short := (s.core b.core).wcb.length + need - 64
  if need == 0 || short == 0 then (s, none)
  else
    let sent (s : State) : List Nat := s.unacked b.core fun _ => true
    let s := (List.range (short - (sent s).length)).foldl (fun s _ => s.drainOldest b.core) s
    (s, some (.reply ((sent s).take short)))

/-- Deferred failures that a release, a fence or a barrier arrival reports: drained stores, and a matrix product (R406,
R426). -/
def reportsStores (d : Deferred) : Bool := d.cls == 0x20 || d.cls == 0x09

/-- A deferred failure of a matrix product, which the points of R339 report (R426). -/
def reportsMatrix (d : Deferred) : Bool := d.cls == 0x09

/-! ## Slots for writes in a view (R138, R139, R443) -/

/-- The granules, of those that a child's writes touch, for which the child has no private copy. -/
def newGranules (as : List (Acc × Place)) : List (Nat × Nat × Nat) :=
  dedupe (as.filterMap fun a =>
    match a.2.loc with
    | .view f c va => if a.1.way.writes then some (f, c, granule va) else none
    | _ => none)

/-- Slots that first writes to granules need. -/
def State.slotsFor (s : State) (gs : List (Nat × Nat × Nat)) : Nat :=
  (gs.map fun g => ((s.fork? g.1).map fun f => slotsNeeded f g.2.1 g.2.2).getD 0).foldl (· + ·) 0

/-- The outcome of a request for slots. -/
inductive Pool where
  | open | wait (need : Nat) | spent
  /-- the requesting block itself has been rolled back -/
  | gone
deriving DecidableEq, Repr

/-- A child's request for `need` slots: a pool that is short rolls back children until the request fits or none is
eligible. The number bounds the children. -/
def State.takeSlots (s : State) (die k c need : Nat) : Nat → State × Pool
  | 0 => (s, .wait need)
  | n + 1 =>
    match s.fork? k with
    | none => (s, .open)
    | some f =>
      if s.slotsOpen f c need then (s, .open)
      else
        match s.rollbackChoice with
        | some (g, d) => (s.rollback die g d).takeSlots die k c need n
        | none =>
          if s.lowestLive f == some c && decide (s.reserveOf f ≤ s.childSlots f c + need) then (s, .spent) else (s, .wait need)

/-- Slots for every write of an issue in the block's view. -/
def State.slotsForWrites (s : State) (as : List (Acc × Place)) : State × Pool :=
  match newGranules as with
  | [] => (s, .open)
  | (k, c, g) :: r =>
    let die := ((as.findSome? fun a => a.2.leaf).map fun l => dieOfAddr l.addr).getD 0
    let (s, p) := s.takeSlots die k c (s.slotsFor ((k, c, g) :: r)) 70000
    (s, if (s.block? s.cur.blk).isNone then .gone else p)

/-- The exhausted twin reserve as a fault of the lanes (Table 21-7, SUB 5). -/
def State.spentFault (s : State) (b : Block) (ls : List Nat) : State :=
  let nres := match b.view with
    | .child k _ => ((s.fork? k).map fun f => f.nres).getD 0
    | .root => 0
  s.raise (ls.map fun l => { lane := l, cls := 0x17, sub := 5, addr := 0, info := nres, info2 := 0 })

/-- The block has made an effect outside its view (R139): a write to an open page or to the partner's window. -/
def writesOutside (b : Block) (as : List (Acc × Place)) : Bool :=
  as.any fun a => a.1.way.writes &&
    (a.2.isOpen || match a.2.loc with | .scratch k _ => k != b.key | _ => false)

def State.markOutside (s : State) (k : Nat) (p : Bool) : State :=
  if p then s.updBlock k fun b => { b with outside := true } else s

end Sys2Proof.Machine
end

