-- ==== Sys2Proof/Machine/LdSt.lean ====
section
/-! DEFINITION. LD, LDCON, ST, LDS and STS (R345 to R348). -/

namespace Sys2Proof.Machine

open Sys2Proof

/-! ## Loads -/

/-- A load function (Table 15-2): bytes, sign extension, scratchpad form, consume load. -/
structure LoadKind where
  n : Nat
  signed : Bool := false
  pad : Bool := false
  con : Bool := false
deriving DecidableEq, Repr

/-- Registers that `n` bytes fill. -/
def wordsOf (n : Nat) : Nat := (n + 3) / 4

/-- The words that loaded bytes write from register `r` on (R346). -/
def loadWords (k : LoadKind) (r : Nat) (bs : List Byte) : List (Nat × Word) :=
  if k.n < 4 then [(r, if k.signed then BitVec.ofInt 32 (sext (leNat bs) (8 * k.n)) else BitVec.ofNat 32 (leNat bs))]
  else (List.range (k.n / 4)).map fun j => (r + j, BitVec.ofNat 32 (leNat ((bs.drop (4 * j)).take 4)))

/-- The source that holds the address or the offset. -/
def addrSrc (v : Adverb) (a : BitVec 7) (pad : Bool) : Src := if pad then (srcA v a).clean else (srcA v a).pair.clean

def usesLoad (k : LoadKind) (t a : BitVec 7) (v : Adverb) : Uses :=
  { srcs := [addrSrc v a k.pad], dsts := [(dstD v t).group (wordsOf k.n)] }

/-- The address registers of a lane hold a tainted word (R158). -/
def Strand.taintedAt (st : Strand) (a : BitVec 7) (v : Adverb) (pad : Bool) (l : Nat) : Bool :=
  (addrSrc v a pad).regs.any fun r => (st.reg l r).taint

def loadAcc (k : LoadKind) (st : Strand) (a : BitVec 7) (off : BitVec 8) (v : Adverb) (l : Nat) : Acc :=
  { lane := l, va := addrOf st v a off k.n k.pad l, n := k.n, pad := k.pad, way := .read, acq := accScope v,
    fresh := k.con || st.taintedAt a v k.pad l }

/-- The accesses of the lanes, with their places. -/
def State.reach (s : State) (b : Block) (as : List Acc) : List (Acc × Place) := as.map fun a => (a, s.placeOf b a)

/-- One lane's load, added to those before it: bytes by lane, and the tags awaited. -/
def State.loadLane (b : Block) (i : Nat) (tainted : Nat → Bool) (acc : State × List (Nat × List Byte) × List Nat)
    (a : Acc × Place) : State × List (Nat × List Byte) × List Nat :=
  let s := acc.1
  match s.load (s.ask b i (s.jobOf b) a.1) a.2 a.1.n a.1.fresh (tainted a.1.lane) with
  | .got bs _ s => (s, acc.2.1 ++ [(a.1.lane, bs)], acc.2.2)
  | .wait t s => (s, acc.2.1, acc.2.2 ++ [t])

/-- A word that lane `l` gives is tainted (R158). -/
def Uses.tainted (u : Uses) (st : Strand) (l : Nat) : Bool := u.marked st [l] (fun w => w.taint) l

def State.loadInstr (s : State) (k : LoadKind) (t a : BitVec 7) (off : BitVec 8) (v : Adverb) : Result :=
  let u := usesLoad k t a v
  let i := s.cur.strand
  let late : Late := fun s b st ls => ls.flatMap fun l => s.accFlaws b st i (loadAcc k st a off v l)
  match s.gate u late with
  | .stop s => .next s
  | .go s b st ls =>
    let as := s.reach b (ls.map (loadAcc k st a off v))
    match s.accHold b i as with
    | some p => .next (s.park ls p)
    | none =>
      let (s, got, tags) := as.foldl (State.loadLane b i (st.taintedAt a v k.pad)) (s, [], [])
      if tags.isEmpty then
        let s := (s.meetScope b i (accScope v) (as.map fun x => x.2.loc)).acquireSet b.core (accScope v) none
        let outs := got.flatMap fun g =>
          (u.outs st ls g.1 (loadWords k (dReg v t) g.2)).map fun o => { o with taint := o.taint || k.con }
        .next (((s.settle u b st ls).writes outs).retire ls)
      else .next (s.park ls (.reply tags))

def execLdI8 (t a : BitVec 7) (off : BitVec 8) (v : Adverb) (s : State) : Result :=
  s.loadInstr { n := 1, signed := true } t a off v

def execLdN8 (t a : BitVec 7) (off : BitVec 8) (v : Adverb) (s : State) : Result :=
  s.loadInstr { n := 1 } t a off v

def execLdI16 (t a : BitVec 7) (off : BitVec 8) (v : Adverb) (s : State) : Result :=
  s.loadInstr { n := 2, signed := true } t a off v

def execLdN16 (t a : BitVec 7) (off : BitVec 8) (v : Adverb) (s : State) : Result :=
  s.loadInstr { n := 2 } t a off v

def execLdB32 (t a : BitVec 7) (off : BitVec 8) (v : Adverb) (s : State) : Result :=
  s.loadInstr { n := 4 } t a off v

def execLdB64 (t a : BitVec 7) (off : BitVec 8) (v : Adverb) (s : State) : Result :=
  s.loadInstr { n := 8 } t a off v

def execLdB128 (t a : BitVec 7) (off : BitVec 8) (v : Adverb) (s : State) : Result :=
  s.loadInstr { n := 16 } t a off v

def execLdcon (t a : BitVec 7) (off : BitVec 8) (v : Adverb) (s : State) : Result :=
  s.loadInstr { n := 8, con := true } t a off v

def execLdsI8 (t a : BitVec 7) (off : BitVec 8) (v : Adverb) (s : State) : Result :=
  s.loadInstr { n := 1, signed := true, pad := true } t a off v

def execLdsN8 (t a : BitVec 7) (off : BitVec 8) (v : Adverb) (s : State) : Result :=
  s.loadInstr { n := 1, pad := true } t a off v

def execLdsI16 (t a : BitVec 7) (off : BitVec 8) (v : Adverb) (s : State) : Result :=
  s.loadInstr { n := 2, signed := true, pad := true } t a off v

def execLdsN16 (t a : BitVec 7) (off : BitVec 8) (v : Adverb) (s : State) : Result :=
  s.loadInstr { n := 2, pad := true } t a off v

def execLdsB32 (t a : BitVec 7) (off : BitVec 8) (v : Adverb) (s : State) : Result :=
  s.loadInstr { n := 4, pad := true } t a off v

def execLdsB64 (t a : BitVec 7) (off : BitVec 8) (v : Adverb) (s : State) : Result :=
  s.loadInstr { n := 8, pad := true } t a off v

def execLdsB128 (t a : BitVec 7) (off : BitVec 8) (v : Adverb) (s : State) : Result :=
  s.loadInstr { n := 16, pad := true } t a off v

/-! ## Stores -/

/-- The low `n` bytes of register `r` and those after it (R347). -/
def Strand.regBytes (st : Strand) (l r n : Nat) : List Byte :=
  leBytes n (leNat ((List.range (wordsOf n)).flatMap fun j => leBytes 4 (st.word l (r + j)).toNat))

def usesStore (n : Nat) (pad : Bool) (t a : BitVec 7) (v : Adverb) : Uses :=
  { srcs := [addrSrc v a pad,
      { reg := dReg v t, n := wordsOf n, align := wordsOf n, field := 0, trap := (modOf v).teb, poison := true }],
    report := fun d => accScope v != 0 && reportsStores d }

def storeAcc (n : Nat) (pad : Bool) (st : Strand) (a : BitVec 7) (off : BitVec 8) (v : Adverb) (l : Nat) : Acc :=
  { lane := l, va := addrOf st v a off n pad l, n := n, pad := pad, way := .write, acq := 0 }

/-- One lane's store after those before it; a lane that finds no room in the write-combining buffer, and every lane
after it, waits (R230). -/
def State.storeLane (b : Block) (i scope : Nat) (bytes : Nat → List Byte) (acc : State × List Nat × List (Nat × Nat))
    (a : Acc × Place) : State × List Nat × List (Nat × Nat) :=
  let s := acc.1
  match acc.2.2.head? with
  | some w => (s, acc.2.1, acc.2.2 ++ [(a.1.lane, w.2)])
  | none =>
    match s.store (s.ask b i (s.jobOf b) a.1) a.2 (bytes a.1.lane) false with
    | (s, some tag) => (s, acc.2.1, [(a.1.lane, tag)])
    | (s, none) =>
      (if scope == 0 then s else s.setScope b i scope a.2.loc, acc.2.1 ++ [a.1.lane], [])

/-- The lanes that stored go on; the others wait for room. -/
def State.finishStores (s : State) (u : Uses) (b : Block) (st : Strand) (as : List (Acc × Place))
    (done : List Nat) (waits : List (Nat × Nat)) : State :=
  let s := s.markOutside b.key (writesOutside b (as.filter fun a => done.contains a.1.lane))
  let s := (s.settle u b st done).retire done
  match waits.head? with
  | none => s
  | some w => s.park (waits.map fun w => w.1) (.reply [w.2])

def State.storeInstr (s : State) (n : Nat) (pad : Bool) (t a : BitVec 7) (off : BitVec 8) (v : Adverb) : Result :=
  let u := usesStore n pad t a v
  let i := s.cur.strand
  let scope := accScope v
  let late : Late := fun s b st ls => ls.flatMap fun l => s.accFlaws b st i (storeAcc n pad st a off v l)
  match s.gate u late with
  | .stop s => .next s
  | .go s b st ls =>
    let as := s.reach b (ls.map (storeAcc n pad st a off v))
    match s.accHold b i as with
    | some p => .next (s.park ls p)
    | none =>
      let (s, w) := if scope == 0 then (s, none) else s.release b i scope none
      match w with
      | some p => .next (s.park ls p)
      | none =>
        match s.slotsForWrites as with
        | (s, .wait need) => .next (s.park ls (.pool need))
        | (s, .spent) => .next (s.spentFault b ls)
        | (s, .gone) => .next s
        | (s, .open) =>
          let bytes := fun l => st.regBytes l (dReg v t) n
          let (s, done, waits) := as.foldl (State.storeLane b i scope bytes) (s, [], [])
          .next (s.finishStores u b st as done waits)

def execStB8 (t a : BitVec 7) (off : BitVec 8) (v : Adverb) (s : State) : Result := s.storeInstr 1 false t a off v

def execStB16 (t a : BitVec 7) (off : BitVec 8) (v : Adverb) (s : State) : Result := s.storeInstr 2 false t a off v

def execStB32 (t a : BitVec 7) (off : BitVec 8) (v : Adverb) (s : State) : Result := s.storeInstr 4 false t a off v

def execStB64 (t a : BitVec 7) (off : BitVec 8) (v : Adverb) (s : State) : Result := s.storeInstr 8 false t a off v

def execStB128 (t a : BitVec 7) (off : BitVec 8) (v : Adverb) (s : State) : Result := s.storeInstr 16 false t a off v

def execStsB8 (t a : BitVec 7) (off : BitVec 8) (v : Adverb) (s : State) : Result := s.storeInstr 1 true t a off v

def execStsB16 (t a : BitVec 7) (off : BitVec 8) (v : Adverb) (s : State) : Result := s.storeInstr 2 true t a off v

def execStsB32 (t a : BitVec 7) (off : BitVec 8) (v : Adverb) (s : State) : Result := s.storeInstr 4 true t a off v

def execStsB64 (t a : BitVec 7) (off : BitVec 8) (v : Adverb) (s : State) : Result := s.storeInstr 8 true t a off v

def execStsB128 (t a : BitVec 7) (off : BitVec 8) (v : Adverb) (s : State) : Result := s.storeInstr 16 true t a off v

end Sys2Proof.Machine
end

