-- ==== Sys2Proof/Machine/Streams.lean ====
section
/-! DEFINITION. Ordered streams and tickets (R161 to R163, R352, R353, R357, R444, R447, R448). -/

namespace Sys2Proof.Machine

open Sys2Proof

/-! ## Streams -/

/-- The block lies above the stream's void point, where a pass has no effect (R448). -/
def Stream.voidAbove (x : Stream) (index : Nat) : Bool := (x.void.map fun v => decide (v < index)).getD false

/-- A block's pass takes its place in the stream. -/
def Grid.pass (g : Grid) (k index : Nat) : Grid :=
  { g with streams := g.streams.modify k fun x =>
      if x.passed.contains index then x else { x with passed := x.passed ++ [index] } }

/-- Passes whose release has been acknowledged take effect (Table 7-3). -/
def State.settlePasses (s : State) : State :=
  if s.grids.all fun g => g.passing.isEmpty then s
  else
    let settle (g : Grid) : Grid :=
      let ready := g.passing.filter fun p => !p.2.2.any s.outstanding
      let g := ready.foldl (fun g p => g.pass p.1 p.2.1) g
      { g with passing := g.passing.filter fun p => p.2.2.any s.outstanding }
    { s with grids := s.grids.map settle }

/-- The block passes stream `k` (R161): a domain-scope release comes first, and the frontier moves once that is
acknowledged. A second pass has no effect, nor has one above a void point. -/
def State.passStream (s : State) (key k : Nat) : State :=
  match s.block? key with
  | none => s
  | some b =>
    if b.passed.contains k || (s.streamOf b k).voidAbove b.index then s
    else
      let (s, tags) := s.releaseSet b.core 5 none
      let s := s.updBlock key fun b => { b with passed := b.passed ++ [k], guards := b.guards.filter fun x => x != k }
      s.updGrid b.grid fun g =>
        if tags.isEmpty then g.pass k b.index else { g with passing := g.passing ++ [(k, b.index, tags)] }

/-- Streams that the block has not passed. -/
def State.unpassed (s : State) (b : Block) : List Nat :=
  if s.isDet b then
    (List.range (((s.gridOf b).map fun g => g.launch.nstream).getD 0)).filter fun k => !b.passed.contains k
  else []

/-- A fault of every lane of the issue that names stream `k`. -/
def State.streamFault (s : State) (cls sub addr k info2 : Nat) : State := s.raiseAll cls sub addr k info2

/-- The faults that an operation on stream `k` meets at issue (Table 21-7, SUB 1 and 2). -/
def State.streamFlaws (s : State) (b : Block) (k : Nat) : List LaneFault :=
  let f (sub : Nat) : List LaneFault :=
    s.cur.lanes.map fun l => { lane := l, cls := 0x17, sub := sub, addr := 0, info := k, info2 := 0 }
  if !s.isDet b then f 1
  else if ((s.gridOf b).map fun g => g.launch.nstream).getD 0 ≤ k then f 2
  else []

/-! ## Tickets (R357) -/

def usesTicket (s : State) (v : Adverb) (a : BitVec 7) (b : Option (BitVec 7)) (release : Bool := false) : Uses :=
  { report := fun d => release && reportsStores d,
    srcs := [{ (srcA v a).clean with once := true }] ++
      (match b with | some b => [{ (srcB v b).clean with once := true }] | none => []),
    low := s.cur.lanes.headD 0 }

/-- Faults of a ticket operation, when the stream number can be read. -/
def lateTicket (v : Adverb) (a : BitVec 7) : Late := fun s b st ls =>
  if ls.isEmpty then [] else s.streamFlaws b (st.word (s.cur.lanes.headD 0) (aReg v a)).toNat

/-- The return of a TAKE or a WAIT that waited for `goal`: guarded from now on, with the acquire of the ticket-pass
edge; or the void stream's fault (R448). -/
def State.ticketReturn (s : State) (u : Uses) (b : Block) (st : Strand) (ls : List Nat) (k goal : Nat) : State :=
  let x := s.streamOf b k
  match x.void with
  | some v =>
    if v < goal then s.streamFault 0x19 0 0 k v
    else
      let s := s.updBlock b.key fun y => { y with guards := if y.guards.contains k then y.guards else y.guards ++ [k], outside := true }
      ((s.acquireSet b.core 5 none).settle u b st ls).retire ls
  | none =>
    let s := s.updBlock b.key fun y => { y with guards := if y.guards.contains k then y.guards else y.guards ++ [k], outside := true }
    ((s.acquireSet b.core 5 none).settle u b st ls).retire ls

/-- TAKE and WAIT: `goal` gives the frontier that the instruction waits for. -/
def State.ticketWait (s : State) (u : Uses) (v : Adverb) (a : BitVec 7) (goal : Block → Strand → Nat → Nat) : Result :=
  match s.gate u (lateTicket v a) with
  | .stop s => .next s
  | .go s b st ls =>
    let low := s.cur.lanes.headD 0
    let k := (st.word low (aReg v a)).toNat
    if b.passed.contains k then .next (((s.markOutside b.key true).settle u b st ls).retire ls)
    else
      let g := goal b st low
      if (s.streamOf b k).frontier < g then .next (s.park ls (if s.bufferOpen b k then .ticket k g else .refused true k g))
      else .next (s.ticketReturn u b st ls k g)

def execTicketTake (a : BitVec 7) (v : Adverb) (s : State) : Result :=
  s.ticketWait (usesTicket s v a none) v a fun b _ _ => b.index

def execTicketWait (a b : BitVec 7) (v : Adverb) (s : State) : Result :=
  s.ticketWait (usesTicket s v a (some b)) v a fun blk st low => Nat.min (st.word low (bReg v b)).toNat blk.index

def execTicketDecl (a : BitVec 7) (v : Adverb) (s : State) : Result :=
  let u := usesTicket s v a none true
  match s.gate u (lateTicket v a) with
  | .stop s => .next s
  | .go s b st ls =>
    let k := (st.word (s.cur.lanes.headD 0) (aReg v a)).toNat
    match b.matDrain s.cur.strand with
    | some g => .next (s.park ls (.engine g))
    | none =>
      let s := (s.passStream b.key k).updBlock b.key fun y => { y with outside := true }
      .next ((s.settle u b st ls).retire ls)

/-! ## Ordered appends (R352, R353) -/

/-- A stream descriptor (Table 15-4). -/
structure StreamDesc where
  stream : Nat
  wide : Bool
  base : Nat
  cap : Nat
  count : Nat
deriving DecidableEq, Repr

def StreamDesc.ofBytes (bs : List Byte) : StreamDesc :=
  let x := leNat bs
  { stream := bits x 0 4, wide := bit x 8, base := bits x 64 64, cap := bits x 128 64, count := bits x 192 64 }

def streamAcc (st : Strand) (low : Nat) (v : Adverb) (a : BitVec 7) (n : Nat) (way : Way) (off : Nat) : Acc :=
  { lane := low, va := (st.pair low (aReg v a)).toNat + off, n := n, pad := false, way := way, acq := 0 }

/-- The descriptor as a read now gives it; none while another module must be asked. -/
def State.peekDesc (s : State) (b : Block) (i : Nat) (a : Acc) : Option StreamDesc :=
  match s.load (s.ask b i (s.jobOf b) a) (s.placeOf b a) 64 true false with
  | .got bs _ _ => some (StreamDesc.ofBytes bs)
  | .wait _ _ => none

/-- Bytes of an element. -/
def StreamDesc.size (d : StreamDesc) : Nat := if d.wide then 8 else 4

/-- The operands: the element is a pair when the descriptor says so. -/
def usesAppend (s : State) (v : Adverb) (d a b : BitVec 7) (wide : Bool) : Uses :=
  let e := (srcB v b).clean
  { report := reportsStores,
    srcs := [{ (srcA v a).pair.clean with once := true }, if wide then e.pair else e, (srcC v (dReg v d)).clean],
    dsts := [dstD v d], low := s.cur.lanes.headD 0 }

/-- Faults of the descriptor, then of the stream that it names (Table 21-7). -/
def lateAppend (v : Adverb) (a : BitVec 7) : Late := fun s b st ls =>
  if ls.isEmpty then []
  else
    let i := s.cur.strand
    let low := s.cur.lanes.headD 0
    let rd := streamAcc st low v a 64 .read 0
    let every (fs : List LaneFault) : List LaneFault := fs.flatMap fun f => s.cur.lanes.map fun l => { f with lane := l }
    match s.objFlaws b st i true rd with
    | f :: _ => every [f]
    | [] =>
      match s.objFlaws b st i true { rd with n := 64, way := .write } with
      | f :: _ => every [f]
      | [] =>
        match s.peekDesc b i rd with
        | none => []
        | some d =>
          let k := d.stream
          let f (sub addr : Nat) : List LaneFault :=
            every [{ lane := low, cls := 0x17, sub := sub, addr := addr, info := k, info2 := 0 }]
          match s.streamFlaws b k with
          | g :: gs => g :: gs
          | [] =>
            if b.passed.contains k then f 3 0
            else
              match (s.streamOf b k).bound with
              | some x => if x == rd.va then [] else f 4 rd.va
              | none => []

/-- The lanes' indices: lane, index, and whether the element is written (R353). -/
def appendPlan (d : StreamDesc) (p : Nat → Bool) : Nat → List Nat → List (Nat × Nat × Bool)
  | _, [] => []
  | n, l :: ls =>
    if p l then (l, n, decide (n < d.cap)) :: appendPlan d p (n + 1) ls else appendPlan d p n ls

/-- The claim of stream `k`, once the frontier has reached the block. -/
def State.claim (s : State) (u : Uses) (dst bReg' : Nat) (b : Block) (st : Strand) (ls : List Nat)
    (rd : Acc) (d : StreamDesc) (p : Nat → Bool) : State :=
  let i := s.cur.strand
  let plan := appendPlan d p d.count ls
  let as := (plan.filter fun e => e.2.2).map fun e =>
    ({ lane := e.1, va := (d.base + d.size * e.2.1) % 2 ^ 64, n := d.size, pad := false, way := .write, acq := 0 } : Acc)
  match as.flatMap fun a => s.accChecks b st i d.size 0 true a with
  | f :: fs => s.raise (f :: fs)
  | [] =>
    let es := s.reach b as
    let cnt : Acc := { rd with va := rd.va + 24, n := 8, way := .write }
    let (s, room) := s.wcbRoom b ((es.map fun e => e.2) ++ [s.placeOf b cnt])
    match (s.accHold b i es).or room with
    | some w => s.park ls w
    | none =>
      match s.slotsForWrites es with
      | (s, .wait need) => s.park ls (.pool need)
      | (s, .spent) => s.spentFault b ls
      | (s, .gone) => s
      | (s, .open) =>
        let s := es.foldl (fun s e =>
          (s.store (s.ask b i (s.jobOf b) e.1) e.2 (st.regBytes e.1.lane bReg' d.size) true).1) s
        let q := s.placeOf b cnt
        let now := leBytes 8 (d.count + plan.length)
        let s := match q.loc with
          | .phys pa => (s.settleWord b.core pa 8).homeWrite q now
          | _ => (s.store (s.ask b i (s.jobOf b) cnt) q now true).1
        let s := s.updGrid b.grid fun g =>
          { g with streams := g.streams.modify d.stream fun x => { x with bound := some rd.va } }
        let s := (s.passStream b.key d.stream).acquireSet b.core 5 none
        let s := s.updBlock b.key fun y => { y with outside := true }
        let outs := ls.flatMap fun l =>
          let w : Word := match plan.find? fun e => e.1 == l with
            | some e => BitVec.ofNat 32 e.2.1
            | none => 0xFFFFFFFF
          u.outs st ls l [(dst, w)]
        ((s.settle u b st ls).writes outs).retire ls

/-- The descriptor has been read since the frontier reached the block, so that its COUNT counts every lower block's
elements: it lies in this module, or the answer that the lanes hold was asked for at their turn (R162). -/
def Lane.claims (ln : Lane) (p : Place) : Bool :=
  match p.loc, ln.park with
  | .remote _ _, .claim _ => true
  | .remote _ _, _ => false
  | _, _ => true

/-- The descriptor of another module is asked for at the block's turn; an older answer is dropped. -/
def State.askClaim (s : State) (b : Block) (ls : List Nat) (rd : Acc) (p : Place) : State :=
  let s := s.updCur ls fun _ ln => { ln with replies := [] }
  match s.load (s.ask b s.cur.strand (s.jobOf b) rd) p 64 true false with
  | .wait t s => s.park ls (.claim [t])
  | .got _ _ s => s.park ls (.claim [])

def execAtomAappend (d a b : BitVec 7) (v : Adverb) (s : State) : Result :=
  let i := s.cur.strand
  let low := s.cur.lanes.headD 0
  let wide := match s.block? s.cur.blk with
    | some blk =>
      let st := blk.strand i
      let rd := streamAcc st low v a 64 .read 0
      if (s.objFlaws blk st i true rd).isEmpty then ((s.peekDesc blk i rd).map fun d => d.wide).getD false else false
    | none => false
  let u := usesAppend s v d a b wide
  match s.gate u (lateAppend v a) with
  | .stop s => .next s
  | .go s blk st ls =>
    let rd := streamAcc st low v a 64 .read 0
    let q := s.placeOf blk rd
    match s.load (s.ask blk i (s.jobOf blk) rd) q 64 true false with
    | .wait t s => .next (s.park ls (.reply [t]))
    | .got bs _ s =>
      let desc := StreamDesc.ofBytes bs
      let k := desc.stream
      let x := s.streamOf blk k
      if x.frontier != blk.index then
        .next (s.park ls (if s.bufferOpen blk k then .append k else .refused false k blk.index))
      else if !(st.lane low).claims q then .next (s.askClaim blk ls rd q)
      else
        match blk.matDrain i with
        | some g => .next (s.park ls (.engine g))
        | none =>
          if x.voidAbove blk.index then .next (s.streamFault 0x19 0 0 k (x.void.getD 0))
          else
            .next (s.claim u (dReg v d) (bReg v b) blk st ls rd desc fun l => st.word l (cReg v (dReg v d)) != 0)

/-! ## Release of waiting requests (R162, R163) -/

/-- The request of a lane at a stream has come to its turn. -/
def State.requestOpen (s : State) (b : Block) (p : Park) : Bool :=
  match p with
  | .ticket k g => decide (g ≤ (s.streamOf b k).frontier)
  | .append k => (s.streamOf b k).frontier == b.index
  | _ => false

/-- The strand's waiting requests that the frontier has reached proceed: their instructions issue again and return. -/
def execOrderedRequestRelease (blk strand : Nat) (s : State) : Result :=
  match s.block? blk with
  | none => .next s
  | some b =>
    .next (s.updStrand blk strand fun st =>
      { st with lanes := st.lanes.map fun l => if s.requestOpen b l.park then { l with park := .none } else l })

end Sys2Proof.Machine
end

