-- ==== Sys2Proof/Machine/Answer.lean ====
section
/-! DEFINITION. The handler's answers to fault records (R372, R413, R418, R441, R447, R467, R472, R477). -/

namespace Sys2Proof.Machine

open Sys2Proof

/-- A lane exits where it stands: its reservation ends. -/
def Lane.exit (l : Lane) : Lane :=
  { l with status := .exited, park := .none, stopped := none, resv := none, unsealed := [], due := [], replies := [] }

/-! ## Ending a block by an answer -/

/-- Every live lane of the strand exits where it stands. -/
def Strand.exitAll (st : Strand) : Strand :=
  let st := st.endRun
  { st with arrived := none, arrivals := 0,
            lanes := st.lanes.map fun ln => if ln.status == .live then ln.exit else ln }

/-- A handle that outlives its ended block's threads: an unjoined fork, whose join the block's end performs, and a copy
that is still under way. Collectives, checkpoints and batches end with the threads (DESIGN
CHOICE, log 41). -/
def Handle.outlives (h : Handle) : Bool :=
  match h.op with
  | .fork _ => true
  | .lanes _ _ | .tile _ | .pack _ | .expand _ | .stopped _ => !h.done
  | .coll _ | .ckpt _ | .batch _ | .idle => false

/-- The block as its threads have exited at its stop. A block that is off its core, or held there without a frame, ends
as a saved one. -/
def Block.endNow (b : Block) : Block :=
  let hs : List Handle := (b.handles.filter Handle.outlives).map (fun h => { h with words := [] })
  let b := { b with strands := b.strands.map Strand.exitAll, stops := [], handles := hs }
  match b.state with
  | .running | .stopping _ => { b with state := .stopping .abort }
  | .overflow _ | .saved _ _ => { b with state := .saved .abort 0, mat := none }
  | .ended => b

/-- Streams that the block had not passed become void at it, and their frontiers move past it (R447). -/
def State.voidStreams (s : State) (b : Block) : State :=
  let todo := s.unpassed b
  let s := s.updBlock b.key fun k => { k with passed := k.passed ++ todo, guards := [] }
  s.updGrid b.grid fun g =>
    todo.foldl (fun g k =>
      { (g.pass k b.index) with streams := (g.pass k b.index).streams.modify k fun x =>
          { x with void := x.void.or (some b.index) } }) g

/-- The refused stores of the block's threads: their entries' requests (R467). -/
def State.refusedBy (s : State) (key : Nat) : List (Nat × Nat) :=
  (List.range s.cores.length).flatMap fun c => (s.core c).wcb.filterMap fun e =>
    match e.sent with
    | some t =>
      if (e.writers.any fun w => w.1 == key) && (s.fabric.reqs.any fun r => r.tag == t && r.phase == .refused)
      then some (c, t) else none
    | none => none

/-- Refused stores sent again, with a fresh count. -/
def State.resendRefused (s : State) (key : Nat) : State :=
  (s.refusedBy key).foldl (fun s x => (s.updReq x.2 fun r => { r with tries := 0 }).launchReq x.2) s

/-- Refused stores dropped; what waited behind them goes on. -/
def State.dropRefused (s : State) (key : Nat) : State :=
  (s.refusedBy key).foldl (fun s x =>
    (s.updCore x.1 fun c => { c with wcb := c.wcb.filter fun e => e.sent != some x.2 }).finishReq x.2) s

/-- Refused reads and atomics of the block's threads end; what waited behind them goes on (R467). -/
def State.dropAsked (s : State) (key : Nat) : State :=
  let mine (r : RemoteReq) : Bool := r.phase == .refused && match r.who with | .lane k _ _ => k == key | _ => false
  ((s.fabric.reqs.filter mine).map fun r => r.tag).foldl State.finishReq s

/-- Stops that name the block alone. -/
def Stop.names (x : Stop) (key : Nat) : Bool := x.reach == .block key || x.reach == .overflow key

def State.dropStops (s : State) (p : Stop → Bool) : State := { s with stops := s.stops.filter fun x => !p x }

/-- The FAULT bit of a block's frame, bit 209 of its header, cleared by the answer (R408, Table 3-6). -/
def State.clearFault (s : State) (key : Nat) : State :=
  match s.block? key with
  | none => s
  | some b =>
    match b.state, s.saveArea (s.jobOf b) with
    | .saved _ off, some (base, _) =>
      let x := (s.peekJob (s.jobOf b) (base + off + 26) 1).getD 0 0
      s.pokeJob (s.jobOf b) (base + off + 26) [x &&& 0xFD]
    | _, _ => s

/-- ACT 2 on one block: its threads exit at the stop, its unpassed streams become void, and its frame is dead (R413,
R447, R476). -/
def State.endBlock (s : State) (key : Nat) (voids : Bool) : State :=
  match s.block? key with
  | none => s
  | some b =>
    let s := match b.state, s.grid? b.grid with
      | .saved _ off, some g => s.killFrame g.launch.job off
      | _, _ => s
    let s := if voids then s.voidStreams b else s
    let s := ((s.dropRefused key).dropAsked key).updBlock key Block.endNow
    s.dropStops fun x => x.names key

/-- ACT 3: every block of the grid ends where it stands, and no further block of it runs. -/
def State.endGrid (s : State) (grid : Nat) : State :=
  let mine := (s.blocks.filter fun b => b.grid == grid && b.state != .ended).map fun b => b.key
  let s := mine.foldl (fun s k => s.endBlock k false) s
  (s.dropStops fun x => x.reach == .grid grid).updGrid grid fun g => { g with aborted := true, state := .active }

/-- Every grid of the job ends, or every one that holds a block (R372, R413, R472). -/
def State.endJob (s : State) (job : Nat) (whole : Bool) : State :=
  let holds (g : Grid) : Bool := whole || s.blocks.any fun b => b.grid == g.key && b.state != .ended
  ((s.grids.filter fun g => g.launch.job == job && g.state != .held && holds g).map fun g => g.key).foldl
    State.endGrid s

/-! ## The report of a HALT (R372) -/

/-- The record of a HALT, once every block of the job is saved. -/
def State.haltRecord (s : State) (job : Nat) : State :=
  match (s.job job).halting with
  | none => s
  | some (grid, blk, strand, pc, lanes, core) =>
    let mine := s.blocks.filter fun b => s.jobOf b == job
    if mine.any Block.resident then s
    else
      let n := (mine.filter fun b => b.state != .ended).length
      let (id, s) := s.fresh
      let s := { s with stops := s.stops ++ [Stop.mk id none (.job job true)] }
      let r : FaultRec :=
        { FaultRec.async id 0x30 1 job s.mgmt.dev with
          kind := 0, die := dieOf core, pc := pc, grid := grid, blk := BitVec.ofNat 32 blk, strand := strand,
          core := core, lanes := lanes, info := BitVec.ofNat 32 n }
      (s.updJob job fun j => { j with halting := none }).note r

/-! ## Answers -/

def Stop.ofJob (x : Stop) (job : Nat) : Bool := x.reach == .job job true || x.reach == .job job false

/-- The answer `act` to what a record stopped can act: to resume a block, once it has been saved; and a block held for want
of room waits for the answer to its 0x1B record (R477). -/
def State.answerable (s : State) (act : Nat) : StopReach → Bool
  | .block key =>
    match s.block? key with
    | none => true
    | some b =>
      match b.state with
      | .saved _ _ | .ended => true
      | .overflow _ => false
      | .running | .stopping _ => act != 1
  | .job job _ => act != 1 || s.blocks.all fun b => s.jobOf b != job ||
      (match b.state with | .saved _ _ | .ended => true | .running | .stopping _ | .overflow _ => false)
  | .grid _ => true
  | .overflow key =>
    match s.block? key with
    | none => false
    | some b =>
      match b.state with
      | .overflow _ => true
      | .running | .stopping _ | .saved _ _ | .ended => false

/-- The grid of a block. -/
def State.gridKeyOf (s : State) (key : Nat) : Nat := ((s.block? key).map fun b => b.grid).getD 0

/-- The answer `act` to a stop takes effect (R413, R418, R441, R477). -/
def State.act (s : State) (x : Stop) (act : Nat) : State :=
  let s := s.dropStops fun y => y.id == x.id
  match x.reach with
  | .block key =>
    if act == 1 then
      let s := (((s.resendRefused key).dropAsked key).clearFault key).updBlock key fun b => { b with stops := [] }
      s.dropStops fun y => y.reach == .block key
    else if act == 2 then s.endBlock key true
    else s.endGrid (s.gridKeyOf key)
  | .job job whole =>
    let s := s.dropStops fun y => y.ofJob job
    let s := if act == 1 then s else s.endJob job whole
    s.updJob job fun j => { j with stopped := j.halting.isSome }
  | .grid key => s.updGrid key fun g => { g with state := .active, aborted := true }
  | .overflow key =>
    if act == 1 then
      s.updBlock key fun b => match b.state with
        | .overflow why => { b with state := .stopping why }
        | _ => b
    else if act == 2 then s.endBlock key true
    else s.endGrid (s.gridKeyOf key)

/-- Answers that waited act once what they answer has been saved. The number bounds them. -/
def State.settleAnswers (s : State) : Nat → State
  | 0 => s
  | n + 1 =>
    match s.stops.find? fun x => (x.answer.map fun a => s.answerable a x.reach) == some true with
    | none => s
    | some x => (s.act x (x.answer.getD 1)).settleAnswers n

/-- A write of SEQ and ACT to FCMD (R413). -/
def State.answer (s : State) (seq : Word) (act : Nat) : State :=
  match s.stops.find? fun x => (x.seq.map fun q => q.setWidth 32) == some seq with
  | none => s
  | some x =>
    if act == 0 || 3 < act || x.answer.isSome then s
    else
      let note (y : Stop) : Stop := if y.id == x.id then { y with answer := some act } else y
      let s := { s with stops := s.stops.map note }
      s.settleAnswers s.stops.length

def execFaultAnswerResume (seq : Word) (s : State) : Result := .next (if s.hostSpeaks then s.answer seq 1 else s)

def execFaultAnswerAbortBlock (seq : Word) (s : State) : Result := .next (if s.hostSpeaks then s.answer seq 2 else s)

def execFaultAnswerAbortGrid (seq : Word) (s : State) : Result := .next (if s.hostSpeaks then s.answer seq 3 else s)

end Sys2Proof.Machine
end

