-- ==== Sys2Proof/Machine/Int.lean ====
section
/-! DEFINITION. Integer instructions: the INT, BIT, INTI, CMP, CMPI and WIDE majors, MOVI, LUI and ADR, and the integer
short forms (R277 to R292). -/

namespace Sys2Proof.Machine

open Sys2Proof

/-! ## Forms -/

/-- R format with two sources. -/
def usesR (v : Adverb) (d a b : BitVec 7) : Uses := { srcs := [srcA v a, srcB v b], dsts := [dstD v d] }

/-- R format with one source, or the I format. -/
def usesR1 (v : Adverb) (d a : BitVec 7) : Uses := { srcs := [srcA v a], dsts := [dstD v d] }

/-- R format with a fourth operand, which is the old destination without a MOD adverb (R285). -/
def usesR4 (v : Adverb) (d a b : BitVec 7) : Uses :=
  { srcs := [srcA v a, srcB v b, srcC v (dReg v d)], dsts := [dstD v d] }

/-- Short form (R261): the destination is the first source; without I the second is a register. -/
def usesShort (i : Bool) (x d : BitVec 5) : Uses :=
  { srcs := { reg := d.toNat, field := 0 } :: (if i then [] else [{ reg := x.toNat, field := 2 }]),
    dsts := [{ reg := d.toNat }] }

/-- Two sources, one word written. -/
def State.word2 (s : State) (v : Adverb) (d a b : BitVec 7) (f : Word → Word → Word) : Result :=
  s.compute (usesR v d a b) fun st _ l =>
    Out.one (dReg v d) (f (st.word l (aReg v a)) (st.word l (bReg v b)))

def State.word1 (s : State) (v : Adverb) (d a : BitVec 7) (f : Word → Word) : Result :=
  s.compute (usesR1 v d a) fun st _ l => Out.one (dReg v d) (f (st.word l (aReg v a)))

def State.word3 (s : State) (v : Adverb) (d a b : BitVec 7) (f : Word → Word → Word → Word) : Result :=
  s.compute (usesR4 v d a b) fun st _ l =>
    Out.one (dReg v d)
      (f (st.word l (aReg v a)) (st.word l (bReg v b)) (st.word l (cReg v (dReg v d))))

/-- One source and an immediate (R286). -/
def State.wordI (s : State) (v : Adverb) (d a : BitVec 7) (imm : BitVec 8) (f : Word → Word → Word) : Result :=
  s.compute (usesR1 v d a) fun st _ l =>
    Out.one (dReg v d) (f (st.word l (aReg v a)) (BitVec.ofInt 32 (immOf v 8 imm.toNat)))

/-- Second operand of an integer short form (R261). -/
def shortInt (i : Bool) (x : BitVec 5) (st : Strand) (l : Nat) : Word :=
  if i then x.signExtend 32 else st.word l x.toNat

def State.wordShort (s : State) (i : Bool) (x d : BitVec 5) (f : Word → Word → Word) : Result :=
  s.compute (usesShort i x d) fun st _ l => Out.one d.toNat (f (st.word l d.toNat) (shortInt i x st l))

/-- Pairs: two sources, one pair written (R288). -/
def State.wide2 (s : State) (v : Adverb) (d a b : BitVec 7) (f : Dword → Dword → Dword) : Result :=
  s.compute { srcs := [(srcA v a).pair, (srcB v b).pair], dsts := [(dstD v d).pair] } fun st _ l =>
    Out.two (dReg v d) (f (st.pair l (aReg v a)) (st.pair l (bReg v b)))

/-- A pair shifted by a single register (R288). -/
def State.wideShift (s : State) (v : Adverb) (d a b : BitVec 7) (f : Dword → Nat → Dword) : Result :=
  s.compute { srcs := [(srcA v a).pair, srcB v b], dsts := [(dstD v d).pair] } fun st _ l =>
    Out.two (dReg v d) (f (st.pair l (aReg v a)) ((st.word l (bReg v b)).toNat % 64))

/-- Pairs compared into a single register (R289). -/
def State.wideCmp (s : State) (v : Adverb) (d a b : BitVec 7) (p : Dword → Dword → Bool) : Result :=
  s.compute { srcs := [(srcA v a).pair, (srcB v b).pair], dsts := [dstD v d] } fun st _ l =>
    Out.one (dReg v d) (BitVec.ofNat 32 (ofFlag (p (st.pair l (aReg v a)) (st.pair l (bReg v b)))))

/-! ## Functions -/

/-- A sum or difference clamped to the signed range (R284). -/
def clamp32 (x : Int) : Word :=
  BitVec.ofInt 32 (if x < -(2 ^ 31 : Int) then -(2 ^ 31 : Int) else if (2 ^ 31 : Int) ≤ x then 2 ^ 31 - 1 else x)

def addWord (sat : Bool) (x y : Word) : Word := if sat then clamp32 (x.toInt + y.toInt) else x + y

def subWord (sat : Bool) (x y : Word) : Word := if sat then clamp32 (x.toInt - y.toInt) else x - y

/-- High word of the signed product. -/
def mulHigh (x y : Word) : Word := (x.signExtend 64 * y.signExtend 64).extractLsb' 32 32

/-- High word of the unsigned product. -/
def mulHighN (x y : Word) : Word := (x.zeroExtend 64 * y.zeroExtend 64).extractLsb' 32 32

def minSigned (x y : Word) : Word := if x.slt y then x else y

def maxSigned (x y : Word) : Word := if x.slt y then y else x

def minUnsigned (x y : Word) : Word := if x.ult y then x else y

def maxUnsigned (x y : Word) : Word := if x.ult y then y else x

def shiftLeft (x y : Word) : Word := x <<< (y.toNat % 32)

def shiftRight (x y : Word) : Word := x >>> (y.toNat % 32)

def shiftArith (x y : Word) : Word := x.sshiftRight (y.toNat % 32)

/-- `rotl32` of Table 12-8. -/
def rotl (x : Word) (k : Nat) : Word := x.rotateLeft (k % 32)

def funnelLeft (x y z : Word) : Word := ((x ++ y : Dword) <<< (z.toNat % 32)).extractLsb' 32 32

def funnelRight (x y z : Word) : Word := ((x ++ y : Dword) >>> (z.toNat % 32)).extractLsb' 0 32

/-- Position and length of a bit field (R285). -/
def fieldOf (y : Word) : Nat × Nat :=
  let pos := y.toNat % 32
  (pos, Nat.min (bits y.toNat 8 6) (32 - pos))

def extractUnsigned (x y : Word) : Word := BitVec.ofNat 32 (bits x.toNat (fieldOf y).1 (fieldOf y).2)

def extractSigned (x y : Word) : Word :=
  let (pos, len) := fieldOf y
  if len == 0 then 0 else BitVec.ofInt 32 (sext (bits x.toNat pos len) len)

def insertField (x y z : Word) : Word :=
  let (pos, len) := fieldOf y
  let mask : Word := BitVec.ofNat 32 ((2 ^ len - 1) * 2 ^ pos)
  (z &&& ~~~mask) ||| ((x <<< pos) &&& mask)

/-- Number of leading zeros of the low `n` bits. -/
def leadingZeros : Nat → Nat → Nat
  | 0, _ => 0
  | n + 1, x => if bit x n then 0 else leadingZeros n x + 1

def trailingZeros (x : Word) : Nat := leadingZeros 32 x.reverse.toNat

/-- PERMB (Table 13-3): byte `i` of the result is a byte of z:x, or 0. -/
def permuteBytes (x y z : Word) : Word :=
  let pick (i : Nat) : Byte :=
    if bit y.toNat (4 * i + 3) then 0
    else BitVec.ofNat 8 ((x.toNat + z.toNat * 2 ^ 32) / 256 ^ bits y.toNat (4 * i) 3)
  BitVec.ofNat 32 (leNat ((List.range 4).map pick))

def absWord (sat : Bool) (x : Word) : Word :=
  if x.slt 0 then (if sat then clamp32 (-x.toInt) else -x) else x

def truth (b : Bool) : Word := if b then 1 else 0

/-- Division of R290: signed and unsigned quotient and remainder, with the borderline cases. -/
def quotSigned (x y : Dword) : Dword := if y = 0 then -1 else BitVec.ofInt 64 (x.toInt.tdiv y.toInt)

def remSigned (x y : Dword) : Dword := if y = 0 then x else BitVec.ofInt 64 (x.toInt.tmod y.toInt)

def quotUnsigned (x y : Dword) : Dword := if y = 0 then -1 else BitVec.ofNat 64 (x.toNat / y.toNat)

def remUnsigned (x y : Dword) : Dword := if y = 0 then x else BitVec.ofNat 64 (x.toNat % y.toNat)

/-! ## Short forms (R282) -/

def execMovShort (i : Bool) (x d : BitVec 5) (s : State) : Result :=
  s.compute { srcs := if i then [] else [{ reg := x.toNat, field := 2 }], dsts := [{ reg := d.toNat }] }
    fun st _ l => Out.one d.toNat (shortInt i x st l)

def execAddShort (i : Bool) (x d : BitVec 5) (s : State) : Result := s.wordShort i x d (addWord false)

def execSubShort (i : Bool) (x d : BitVec 5) (s : State) : Result := s.wordShort i x d (subWord false)

def execMulloShort (i : Bool) (x d : BitVec 5) (s : State) : Result := s.wordShort i x d (· * ·)

def execAndShort (i : Bool) (x d : BitVec 5) (s : State) : Result := s.wordShort i x d (· &&& ·)

def execOrShort (i : Bool) (x d : BitVec 5) (s : State) : Result := s.wordShort i x d (· ||| ·)

def execXorShort (i : Bool) (x d : BitVec 5) (s : State) : Result := s.wordShort i x d (· ^^^ ·)

def execShlShort (i : Bool) (x d : BitVec 5) (s : State) : Result := s.wordShort i x d shiftLeft

def execShrShort (i : Bool) (x d : BitVec 5) (s : State) : Result := s.wordShort i x d shiftRight

def execShaShort (i : Bool) (x d : BitVec 5) (s : State) : Result := s.wordShort i x d shiftArith

def execMinShort (i : Bool) (x d : BitVec 5) (s : State) : Result := s.wordShort i x d minSigned

def execMaxShort (i : Bool) (x d : BitVec 5) (s : State) : Result := s.wordShort i x d maxSigned

/-! ## INT (Table 13-2) -/

def execAdd (d a b : BitVec 7) (v : Adverb) (s : State) : Result := s.word2 v d a b (addWord (modOf v).sat)

def execSub (d a b : BitVec 7) (v : Adverb) (s : State) : Result := s.word2 v d a b (subWord (modOf v).sat)

def execMullo (d a b : BitVec 7) (v : Adverb) (s : State) : Result := s.word2 v d a b (· * ·)

def execMulhi (d a b : BitVec 7) (v : Adverb) (s : State) : Result := s.word2 v d a b mulHigh

def execMulhin (d a b : BitVec 7) (v : Adverb) (s : State) : Result := s.word2 v d a b mulHighN

def execMin (d a b : BitVec 7) (v : Adverb) (s : State) : Result := s.word2 v d a b minSigned

def execMax (d a b : BitVec 7) (v : Adverb) (s : State) : Result := s.word2 v d a b maxSigned

def execMinn (d a b : BitVec 7) (v : Adverb) (s : State) : Result := s.word2 v d a b minUnsigned

def execMaxn (d a b : BitVec 7) (v : Adverb) (s : State) : Result := s.word2 v d a b maxUnsigned

def execAnd (d a b : BitVec 7) (v : Adverb) (s : State) : Result := s.word2 v d a b (· &&& ·)

def execOr (d a b : BitVec 7) (v : Adverb) (s : State) : Result := s.word2 v d a b (· ||| ·)

def execXor (d a b : BitVec 7) (v : Adverb) (s : State) : Result := s.word2 v d a b (· ^^^ ·)

def execAndn (d a b : BitVec 7) (v : Adverb) (s : State) : Result := s.word2 v d a b fun x y => x &&& ~~~y

def execShl (d a b : BitVec 7) (v : Adverb) (s : State) : Result := s.word2 v d a b shiftLeft

def execShr (d a b : BitVec 7) (v : Adverb) (s : State) : Result := s.word2 v d a b shiftRight

def execSha (d a b : BitVec 7) (v : Adverb) (s : State) : Result := s.word2 v d a b shiftArith

/-! ## BIT (Table 13-3) -/

def execRotl (d a b : BitVec 7) (v : Adverb) (s : State) : Result := s.word2 v d a b fun x y => rotl x y.toNat

def execRotr (d a b : BitVec 7) (v : Adverb) (s : State) : Result :=
  s.word2 v d a b fun x y => rotl x (32 - y.toNat % 32)

def execFunl (d a b : BitVec 7) (v : Adverb) (s : State) : Result := s.word3 v d a b funnelLeft

def execFunr (d a b : BitVec 7) (v : Adverb) (s : State) : Result := s.word3 v d a b funnelRight

def execBfe (d a b : BitVec 7) (v : Adverb) (s : State) : Result := s.word2 v d a b extractSigned

def execBfen (d a b : BitVec 7) (v : Adverb) (s : State) : Result := s.word2 v d a b extractUnsigned

def execBfi (d a b : BitVec 7) (v : Adverb) (s : State) : Result := s.word3 v d a b insertField

def execPopc (d a : BitVec 7) (v : Adverb) (s : State) : Result :=
  s.word1 v d a fun x => BitVec.ofNat 32 (popcount 32 x.toNat)

def execClz (d a : BitVec 7) (v : Adverb) (s : State) : Result :=
  s.word1 v d a fun x => BitVec.ofNat 32 (leadingZeros 32 x.toNat)

def execCtz (d a : BitVec 7) (v : Adverb) (s : State) : Result :=
  s.word1 v d a fun x => BitVec.ofNat 32 (trailingZeros x)

def execBrev (d a : BitVec 7) (v : Adverb) (s : State) : Result := s.word1 v d a BitVec.reverse

def execPermb (d a b : BitVec 7) (v : Adverb) (s : State) : Result := s.word3 v d a b permuteBytes

def execAbs (d a : BitVec 7) (v : Adverb) (s : State) : Result := s.word1 v d a (absWord (modOf v).sat)

def execSel (d a b : BitVec 7) (v : Adverb) (s : State) : Result :=
  s.word3 v d a b fun x y z => if z = 0 then y else x

/-! ## INTI (R286) -/

def execAddi (d a : BitVec 7) (imm : BitVec 8) (v : Adverb) (s : State) : Result :=
  s.wordI v d a imm (addWord (modOf v).sat)

def execAndi (d a : BitVec 7) (imm : BitVec 8) (v : Adverb) (s : State) : Result := s.wordI v d a imm (· &&& ·)

def execOri (d a : BitVec 7) (imm : BitVec 8) (v : Adverb) (s : State) : Result := s.wordI v d a imm (· ||| ·)

def execXori (d a : BitVec 7) (imm : BitVec 8) (v : Adverb) (s : State) : Result := s.wordI v d a imm (· ^^^ ·)

def execShli (d a : BitVec 7) (imm : BitVec 8) (v : Adverb) (s : State) : Result := s.wordI v d a imm shiftLeft

def execShri (d a : BitVec 7) (imm : BitVec 8) (v : Adverb) (s : State) : Result := s.wordI v d a imm shiftRight

def execShai (d a : BitVec 7) (imm : BitVec 8) (v : Adverb) (s : State) : Result := s.wordI v d a imm shiftArith

def execMuli (d a : BitVec 7) (imm : BitVec 8) (v : Adverb) (s : State) : Result := s.wordI v d a imm (· * ·)

/-! ## Comparisons (Table 13-4) -/

def execCmpEq (d a b : BitVec 7) (v : Adverb) (s : State) : Result := s.word2 v d a b fun x y => truth (x == y)

def execCmpNe (d a b : BitVec 7) (v : Adverb) (s : State) : Result := s.word2 v d a b fun x y => truth (x != y)

def execCmpLt (d a b : BitVec 7) (v : Adverb) (s : State) : Result := s.word2 v d a b fun x y => truth (x.slt y)

def execCmpLe (d a b : BitVec 7) (v : Adverb) (s : State) : Result := s.word2 v d a b fun x y => truth (x.sle y)

def execCmpGt (d a b : BitVec 7) (v : Adverb) (s : State) : Result := s.word2 v d a b fun x y => truth (y.slt x)

def execCmpGe (d a b : BitVec 7) (v : Adverb) (s : State) : Result := s.word2 v d a b fun x y => truth (y.sle x)

def execCmpLtn (d a b : BitVec 7) (v : Adverb) (s : State) : Result := s.word2 v d a b fun x y => truth (x.ult y)

def execCmpLen (d a b : BitVec 7) (v : Adverb) (s : State) : Result := s.word2 v d a b fun x y => truth (x.ule y)

def execCmpGtn (d a b : BitVec 7) (v : Adverb) (s : State) : Result := s.word2 v d a b fun x y => truth (y.ult x)

def execCmpGen (d a b : BitVec 7) (v : Adverb) (s : State) : Result := s.word2 v d a b fun x y => truth (y.ule x)

def execCmpiEq (d a : BitVec 7) (imm : BitVec 8) (v : Adverb) (s : State) : Result :=
  s.wordI v d a imm fun x k => truth (x == k)

def execCmpiNe (d a : BitVec 7) (imm : BitVec 8) (v : Adverb) (s : State) : Result :=
  s.wordI v d a imm fun x k => truth (x != k)

def execCmpiLt (d a : BitVec 7) (imm : BitVec 8) (v : Adverb) (s : State) : Result :=
  s.wordI v d a imm fun x k => truth (x.slt k)

def execCmpiLe (d a : BitVec 7) (imm : BitVec 8) (v : Adverb) (s : State) : Result :=
  s.wordI v d a imm fun x k => truth (x.sle k)

def execCmpiGt (d a : BitVec 7) (imm : BitVec 8) (v : Adverb) (s : State) : Result :=
  s.wordI v d a imm fun x k => truth (k.slt x)

def execCmpiGe (d a : BitVec 7) (imm : BitVec 8) (v : Adverb) (s : State) : Result :=
  s.wordI v d a imm fun x k => truth (k.sle x)

def execCmpiLtn (d a : BitVec 7) (imm : BitVec 8) (v : Adverb) (s : State) : Result :=
  s.wordI v d a imm fun x k => truth (x.ult k)

def execCmpiGen (d a : BitVec 7) (imm : BitVec 8) (v : Adverb) (s : State) : Result :=
  s.wordI v d a imm fun x k => truth (k.ule x)

/-! ## WIDE (R288 to R290) -/

def execAddx (d a b : BitVec 7) (v : Adverb) (s : State) : Result := s.wide2 v d a b (· + ·)

def execSubx (d a b : BitVec 7) (v : Adverb) (s : State) : Result := s.wide2 v d a b (· - ·)

def execMulx (d a b : BitVec 7) (v : Adverb) (s : State) : Result := s.wide2 v d a b (· * ·)

def execMulxn (d a b : BitVec 7) (v : Adverb) (s : State) : Result :=
  s.wide2 v d a b fun x y => (x.zeroExtend 128 * y.zeroExtend 128).extractLsb' 64 64

def execShlx (d a b : BitVec 7) (v : Adverb) (s : State) : Result := s.wideShift v d a b (· <<< ·)

def execShrx (d a b : BitVec 7) (v : Adverb) (s : State) : Result := s.wideShift v d a b (· >>> ·)

def execShax (d a b : BitVec 7) (v : Adverb) (s : State) : Result := s.wideShift v d a b BitVec.sshiftRight

def execCmpxEq (d a b : BitVec 7) (v : Adverb) (s : State) : Result := s.wideCmp v d a b (· == ·)

def execCmpxLt (d a b : BitVec 7) (v : Adverb) (s : State) : Result := s.wideCmp v d a b BitVec.slt

def execCmpxLtn (d a b : BitVec 7) (v : Adverb) (s : State) : Result := s.wideCmp v d a b BitVec.ult

def execDiv (d a b : BitVec 7) (v : Adverb) (s : State) : Result := s.wide2 v d a b quotSigned

def execDivn (d a b : BitVec 7) (v : Adverb) (s : State) : Result := s.wide2 v d a b quotUnsigned

def execRem (d a b : BitVec 7) (v : Adverb) (s : State) : Result := s.wide2 v d a b remSigned

def execRemn (d a b : BitVec 7) (v : Adverb) (s : State) : Result := s.wide2 v d a b remUnsigned

/-! ## MOVI, LUI, ADR (R291, R292) -/

def execMovi (d : BitVec 7) (imm : BitVec 18) (v : Adverb) (s : State) : Result :=
  s.compute { dsts := [dstD v d] } fun _ _ _ => Out.one (dReg v d) (BitVec.ofInt 32 (immOf v 18 imm.toNat))

def execLui (d : BitVec 7) (imm : BitVec 18) (v : Adverb) (s : State) : Result :=
  s.compute { dsts := [dstD v d] } fun _ _ _ => Out.one (dReg v d) (imm.zeroExtend 32 <<< 14)

def execAdr (d : BitVec 7) (imm : BitVec 18) (v : Adverb) (s : State) : Result :=
  let pc := s.cur.pc
  s.compute { dsts := [(dstD v d).pair] } fun _ _ _ =>
    Out.two (dReg v d) (pc + BitVec.ofInt 64 (immOf v 18 imm.toNat * 2))

end Sys2Proof.Machine
end

