-- ==== Sys2Proof/Machine/Flags.lean ====
section
/-! DEFINITION. The sticky flags of fstat (Table 4-4, R175), the rounding modes, and the mode and flushing that an
instruction uses (Table 4-3, R91). -/

namespace Sys2Proof.Machine

open Sys2Proof

/-! ## Flags (R175) -/

abbrev FpFlags := BitVec 5

def FpFlags.none : FpFlags := 0
def FpFlags.nv : FpFlags := 1
def FpFlags.dz : FpFlags := 2
def FpFlags.of : FpFlags := 4
def FpFlags.uf : FpFlags := 8
def FpFlags.nx : FpFlags := 16

/-- NV when the condition holds. -/
def invalid (b : Bool) : FpFlags := if b then FpFlags.nv else 0

/-! ## Modes (R91, R171) -/

inductive Rnd where
  | rne | rtz | rup | rdn | rna
deriving DecidableEq, Repr

/-- fmode.RND and the adverb's RND (Table 4-3, R91). -/
def Rnd.ofCode : Nat → Rnd
  | 2 => .rtz
  | 3 => .rup
  | 4 => .rdn
  | 5 => .rna
  | _ => .rne

/-- The rounding mode and the flushing in force. -/
structure Ctx where
  rnd : Rnd
  ftz : Bool
deriving DecidableEq, Repr

/-- The context of a lane under an adverb: RND 0 selects fmode.RND, and either FTZ bit flushes (R91). -/
def Strand.ctx (st : Strand) (v : Adverb) (l : Nat) : Ctx :=
  let fm := (st.lane l).fmode.toNat
  let r := (modOf v).rnd.toNat
  ⟨Rnd.ofCode (if r == 0 then fm % 8 else r), (modOf v).ftz || bit fm 3⟩

/-- What a write of `x` leaves in fmode (Table 4-3). -/
def fmodeOf (x : Nat) : BitVec 4 :=
  let r := x % 8
  BitVec.ofNat 4 ((if r == 0 || 6 ≤ r then 1 else r) + x / 8 % 2 * 8)

end Sys2Proof.Machine
end

