-- ==== Sys2Proof/Machine/Num.lean ====
section
/-! DEFINITION. Number formats and arithmetic: the formats of Table 8-1, exact values, rounding, the operations that
the vector, matrix, merge and copy engines share, the functions of R183, QALIGN and the gust generator (R169 to R189). -/

namespace Sys2Proof.Machine

open Sys2Proof

/-! ## Formats (R169) -/

inductive Fmt where
  | f64 | f32 | f16 | bf16 | f8e4 | f8e5 | f4 | e3m5
deriving DecidableEq, Repr

/-- Mantissa bits. -/
def Fmt.man : Fmt → Nat
  | .f64 => 52 | .f32 => 23 | .f16 => 10 | .bf16 => 7 | .f8e4 => 3 | .f8e5 => 2 | .f4 => 1 | .e3m5 => 5

/-- Exponent bits. -/
def Fmt.exp : Fmt → Nat
  | .f64 => 11 | .f32 => 8 | .f16 => 5 | .bf16 => 8 | .f8e4 => 4 | .f8e5 => 5 | .f4 => 2 | .e3m5 => 3

def Fmt.bias : Fmt → Nat
  | .f64 => 1023 | .f32 => 127 | .f16 => 15 | .bf16 => 127 | .f8e4 => 7 | .f8e5 => 15 | .f4 => 1 | .e3m5 => 3

/-- The encoding of the largest finite value. -/
def Fmt.top : Fmt → Nat
  | .f64 => 0x7FEFFFFFFFFFFFFF | .f32 => 0x7F7FFFFF | .f16 => 0x7BFF | .bf16 => 0x7F7F | .f8e4 => 0x7E
  | .f8e5 => 0x7B | .f4 => 7 | .e3m5 => 0xFE

/-- The canonical NaN; f4 has none, and a NaN source gives 0x0 (R172). -/
def Fmt.nan : Fmt → Nat
  | .f64 => 0x7FF8000000000000 | .f32 => 0x7FC00000 | .f16 => 0x7E00 | .bf16 => 0x7FC0 | .f8e4 => 0x7F
  | .f8e5 => 0x7E | .f4 => 0 | .e3m5 => 0xFF

/-- The format has infinities and NaNs as IEEE 754 has them. -/
def Fmt.ieee : Fmt → Bool
  | .f64 | .f32 | .f16 | .bf16 | .f8e5 => true
  | .f8e4 | .f4 | .e3m5 => false

def Fmt.signed : Fmt → Bool
  | .e3m5 => false
  | .f64 | .f32 | .f16 | .bf16 | .f8e4 | .f8e5 | .f4 => true

/-- Position of the sign bit: exponent and mantissa bits. -/
def Fmt.mag (t : Fmt) : Nat := t.exp + t.man

/-- The encoding of a magnitude with a sign. -/
def Fmt.sign (t : Fmt) (neg : Bool) (code : Nat) : Nat := if t.signed && neg then 2 ^ t.mag + code else code

def Fmt.infinity (t : Fmt) (neg : Bool) : Nat := t.sign neg ((2 ^ t.exp - 1) * 2 ^ t.man)

/-- Exponent of the smallest subnormal. -/
def Fmt.low (t : Fmt) : Int := 1 - (t.bias : Int) - t.man

/-! ## Values -/

/-- An exact value: a NaN, an infinity, or (−1)^neg × (m + δ) × 2^e, where δ is 0, or lies strictly between 0 and 1 when
`more` is set. -/
inductive Val where
  | nan (signalling : Bool)
  | inf (neg : Bool)
  | fin (neg : Bool) (m : Nat) (e : Int) (more : Bool)
deriving DecidableEq, Repr

def Val.zero (neg : Bool) : Val := .fin neg 0 0 false

/-- The value of an encoding (R169). -/
def Fmt.value (t : Fmt) (x : Nat) : Val :=
  let neg := t.signed && bit x t.mag
  let e := bits x t.man t.exp
  let m := bits x 0 t.man
  let top := 2 ^ t.exp - 1
  if t.ieee && e == top then
    if m == 0 then .inf neg else .nan (!bit m (t.man - 1))
  else if (match t with | .f8e4 | .e3m5 => true | _ => false) && e == top && m == 2 ^ t.man - 1 then .nan false
  else if e == 0 then .fin neg m t.low false
  else .fin neg (m + 2 ^ t.man) (t.low + (e : Int) - 1) false

/-- The value read under flushing (R173). -/
def Fmt.read (t : Fmt) (ftz : Bool) (x : Nat) : Val :=
  match t.value x with
  | .fin neg m e more => if ftz && t != .f4 && decide (m < 2 ^ t.man) then .zero neg else .fin neg m e more
  | v => v

def Val.isNan : Val → Bool
  | .nan _ => true
  | .inf _ => false
  | .fin _ _ _ _ => false

def Val.isSignalling : Val → Bool
  | .nan q => q
  | .inf _ => false
  | .fin _ _ _ _ => false

def Val.isZero : Val → Bool
  | .fin _ m _ more => m == 0 && !more
  | .nan _ => false
  | .inf _ => false

def Val.isInf : Val → Bool
  | .inf _ => true
  | .nan _ => false
  | .fin _ _ _ _ => false

def Val.isNeg : Val → Bool
  | .fin n _ _ _ => n
  | .inf n => n
  | .nan _ => false

def Val.negate : Val → Val
  | .fin n m e r => .fin (!n) m e r
  | .inf n => .inf (!n)
  | .nan q => .nan q

/-- Source modifiers on a bit pattern whose sign bit is bit `n` (R267). -/
def signMod (neg abs : Bool) (n x : Nat) : Nat :=
  let x := if abs && bit x n then x - 2 ^ n else x
  if neg then x ^^^ 2 ^ n else x

/-! ## Rounding and flags (R171 to R175) -/

/-- A signalling NaN among the sources sets NV (R174). -/
def signals (vs : List Val) : FpFlags := invalid (vs.any Val.isSignalling)

/-- Whether a magnitude is rounded up: `c` compares the part cut off with one half, `odd` is the kept part's last bit. -/
def roundsUp (r : Rnd) (neg odd : Bool) (c : Ordering) (inexact : Bool) : Bool :=
  match r with
  | .rne => match c with | .gt => true | .eq => odd | .lt => false
  | .rna => match c with | .gt | .eq => true | .lt => false
  | .rtz => false
  | .rup => inexact && !neg
  | .rdn => inexact && neg

/-- `(m + δ) / 2^k` rounded to an integer; whether it was inexact. A cut of many more bits than `m` has is the same as one
of two more. -/
def roundShift (r : Rnd) (neg : Bool) (m k : Nat) (more : Bool) : Nat × Bool :=
  let k := Nat.min k (m.log2 + 3)
  let q := m / 2 ^ k
  let rest := m % 2 ^ k
  let inexact := rest != 0 || more
  let c :=
    if k == 0 then (if more then Ordering.lt else .lt)
    else if 2 ^ k < 2 * rest then .gt
    else if 2 * rest == 2 ^ k then (if more then .gt else .eq)
    else .lt
  (if roundsUp r neg (q % 2 == 1) c inexact then q + 1 else q, inexact)

/-- Whether an overflow in the mode gives an infinity (R171). -/
def Rnd.toInf (r : Rnd) (neg : Bool) : Bool :=
  match r with
  | .rne | .rna => true
  | .rtz => false
  | .rup => !neg
  | .rdn => neg

/-- What an overflow gives (R171, R172); OF and NX are set. -/
def Fmt.overflow (t : Fmt) (r : Rnd) (sat neg : Bool) : Nat × FpFlags :=
  let big := t.sign neg t.top
  let v :=
    match t with
    | .f4 => big
    | .e3m5 => if r.toInf neg && !sat then 0xFF else 0xFE
    | .f8e4 => if r.toInf neg && !sat then 0x7F else big
    | .f8e5 => if r.toInf neg && !sat then t.infinity neg else big
    | .f64 | .f32 | .f16 | .bf16 => if r.toInf neg then t.infinity neg else big
  (v, FpFlags.of ||| FpFlags.nx)

/-- An infinite source rounded into the format (R172). -/
def Fmt.fromInf (t : Fmt) (r : Rnd) (sat neg : Bool) : Nat × FpFlags :=
  match t with
  | .f64 | .f32 | .f16 | .bf16 => (t.infinity neg, 0)
  | .f8e5 => if sat then (t.sign neg t.top, FpFlags.of ||| FpFlags.nx) else (t.infinity neg, 0)
  | .f4 => t.overflow .rne sat neg
  | .f8e4 => t.overflow r sat neg
  | .e3m5 => if neg then (0, FpFlags.nx) else t.overflow .rne sat neg

/-- `round_to(mode, type, x)` with the flags of R175; `ftz` flushes a subnormal result (R173). A NaN gives the canonical
NaN; NV for it is set where it arose. -/
def Fmt.round (t : Fmt) (r : Rnd) (sat ftz : Bool) (x : Val) : Nat × FpFlags :=
  match x with
  | .nan _ => (t.nan, if t = .f4 then FpFlags.nv else 0)
  | .inf neg => t.fromInf r sat neg
  | .fin neg m e more =>
    if !t.signed && neg then (0, if m == 0 && !more then 0 else FpFlags.nx)
    else if m == 0 && !more then (t.sign neg 0, 0)
    else
      let q := max (e + (m.log2 : Int) - t.man) t.low
      let (n, inexact) :=
        if q ≤ e then (m * 2 ^ (e - q).toNat, more) else roundShift r neg m (q - e).toNat more
      let (n, q) := if n == 2 ^ (t.man + 1) then (2 ^ t.man, q + 1) else (n, q)
      let nx := if inexact then FpFlags.nx else 0
      if n < 2 ^ t.man then
        if n == 0 then (t.sign neg 0, nx)
        else if ftz && t != .f4 then (t.sign neg 0, FpFlags.uf ||| FpFlags.nx)
        else (t.sign neg n, if inexact then FpFlags.uf ||| nx else 0)
      else
        let code := (q - t.low).toNat * 2 ^ t.man + n
        if t.top < code then t.overflow r sat neg else (t.sign neg code, nx)

/-- Rounding to an integer of a range (R177): the value, or the nearest end with NV; a NaN gives 0 with NV. -/
def roundInt (r : Rnd) (lo hi : Int) (x : Val) : Int × FpFlags :=
  match x with
  | .nan _ => (0, FpFlags.nv)
  | .inf neg => (if neg then lo else hi, FpFlags.nv)
  | .fin neg m e more =>
    let (n, inexact) :=
      if 0 ≤ e then (if 128 ≤ e && m != 0 then 2 ^ 128 else m * 2 ^ e.toNat, more) else roundShift r neg m (-e).toNat more
    let v : Int := if neg then -(n : Int) else n
    if v < lo then (lo, FpFlags.nv) else if hi < v then (hi, FpFlags.nv)
    else (v, if inexact then FpFlags.nx else 0)

/-! ## Exact operations -/

/-- An exact product, and NV for an infinity times a zero. -/
def Val.mul (x y : Val) : Val × FpFlags :=
  match x, y with
  | .nan _, _ => (.nan false, 0)
  | _, .nan _ => (.nan false, 0)
  | .inf a, .inf b => (.inf (a != b), 0)
  | .inf a, .fin b m e r => if (Val.fin b m e r).isZero then (.nan false, FpFlags.nv) else (.inf (a != b), 0)
  | .fin b m e r, .inf a => if (Val.fin b m e r).isZero then (.nan false, FpFlags.nv) else (.inf (a != b), 0)
  | .fin a m e _, .fin b n f _ => (.fin (a != b) (m * n) (e + f) false, 0)

/-- The least exponent of the finite terms. -/
def leastExp : List Val → Option Int
  | [] => none
  | .fin _ _ e _ :: vs =>
    match leastExp vs with
    | none => some e
    | some f => some (min e f)
  | .nan _ :: vs => leastExp vs
  | .inf _ :: vs => leastExp vs

/-- A finite term in units of 2^f. -/
def Val.scaled (f : Int) : Val → Int
  | .fin neg m e _ =>
    let n : Int := (m * 2 ^ (e - f).toNat : Nat)
    if neg then -n else n
  | .nan _ => 0
  | .inf _ => 0

def sumInts : List Int → Int
  | [] => 0
  | x :: xs => x + sumInts xs

/-- The exact sum of terms, and NV for infinities of both signs. An exact zero is negative when every term is a zero of
negative sign, or, under rdn, when the signs of the terms differ (R171, R178). -/
def sumVals (r : Rnd) (vs : List Val) : Val × FpFlags :=
  let pos := vs.any fun v => v.isInf && !v.isNeg
  let neg := vs.any fun v => v.isInf && v.isNeg
  if pos && neg then (.nan false, FpFlags.nv)
  else if vs.any Val.isNan then (.nan false, 0)
  else if pos then (.inf false, 0)
  else if neg then (.inf true, 0)
  else
    let f := (leastExp vs).getD 0
    let total := sumInts (vs.map (Val.scaled f))
    if total == 0 then
      let zeros := vs.all Val.isZero
      let allNeg := vs.all Val.isNeg
      let allPos := vs.all fun v => !v.isNeg
      (.zero (if zeros && allNeg then true else if zeros && allPos then false else r == .rdn), 0)
    else (.fin (decide (total < 0)) total.natAbs f false, 0)

/-- Exact quotient of finite values, to more bits than any format keeps; x is not zero or y is not zero. -/
def quotVal (neg : Bool) (m : Nat) (e : Int) (n : Nat) (f : Int) : Val :=
  let k := 60 + n.log2
  let q := m * 2 ^ k / n
  .fin neg q (e - f - k) (m * 2 ^ k % n != 0)

/-- x / y with NV for 0/0 and ∞/∞ and DZ for a nonzero finite x over zero. -/
def Val.div (x y : Val) : Val × FpFlags :=
  match x, y with
  | .nan _, _ => (.nan false, 0)
  | _, .nan _ => (.nan false, 0)
  | .inf _, .inf _ => (.nan false, FpFlags.nv)
  | .inf a, .fin b _ _ _ => (.inf (a != b), 0)
  | .fin a _ _ _, .inf b => (.zero (a != b), 0)
  | .fin a m e _, .fin b n f _ =>
    if n == 0 then (if m == 0 then (.nan false, FpFlags.nv) else (.inf (a != b), FpFlags.dz))
    else if m == 0 then (.zero (a != b), 0)
    else (quotVal (a != b) m e n f, 0)

/-- The greatest number with `n` bits or fewer, above `r`, whose square is at most `x`. -/
def isqrtFrom : Nat → Nat → Nat → Nat
  | 0, r, _ => r
  | n + 1, r, x => isqrtFrom n (if (r + 2 ^ n) * (r + 2 ^ n) ≤ x then r + 2 ^ n else r) x

/-- The integer square root. -/
def isqrt (x : Nat) : Nat := isqrtFrom (x.log2 / 2 + 1) 0 x

/-- The square root of m × 2^e, to more bits than any format keeps. -/
def rootVal (m : Nat) (e : Int) : Val :=
  let odd := e % 2 == 1
  let m := if odd then 2 * m else m
  let e := if odd then e - 1 else e
  let x := m * 2 ^ 120
  .fin false (isqrt x) (e / 2 - 60) (isqrt x * isqrt x != x)

def Val.sqrt : Val → Val × FpFlags
  | .nan _ => (.nan false, 0)
  | .inf neg => if neg then (.nan false, FpFlags.nv) else (.inf false, 0)
  | .fin neg m e _ =>
    if m == 0 then (.zero neg, 0) else if neg then (.nan false, FpFlags.nv) else (rootVal m e, 0)

/-- 1 / √x (Table 8-4). -/
def Val.rsqrt : Val → Val × FpFlags
  | .nan _ => (.nan false, 0)
  | .inf neg => if neg then (.nan false, FpFlags.nv) else (.zero false, 0)
  | .fin neg m e _ =>
    if m == 0 then (.inf neg, FpFlags.dz)
    else if neg then (.nan false, FpFlags.nv)
    else
      let odd := e % 2 == 1
      let m := if odd then 2 * m else m
      let e := if odd then e - 1 else e
      let k := 64 + m.log2
      let q := isqrt (2 ^ (2 * k) / m)
      (.fin false q (-(k : Int) - e / 2) (q * q * m != 2 ^ (2 * k)), 0)

/-! ## Order -/

/-- The order of two values that are no NaNs; zeros are equal. -/
def Val.cmp (x y : Val) : Ordering :=
  let rank (v : Val) : Int :=
    match v with
    | .inf neg => if neg then -1 else 1
    | .fin _ _ _ _ => 0
    | .nan _ => 0
  if rank x < rank y then .lt else if rank y < rank x then .gt
  else if rank x != 0 then .eq
  else
    let f := (leastExp [x, y]).getD 0
    compare (x.scaled f) (y.scaled f)

/-- The lesser, −0 below +0. -/
def Val.less (x y : Val) : Val :=
  match x.cmp y with
  | .lt => x
  | .gt => y
  | .eq => if x.isNeg then x else y

/-- The greater, +0 above −0. -/
def Val.more (x y : Val) : Val :=
  match x.cmp y with
  | .lt => y
  | .gt => x
  | .eq => if x.isNeg then y else x

/-! ## Operations of a format: sources as encodings, the result's encoding and its flags (Table 14-2) -/

/-- A value rounded once, with the flags that its exact computation raised. -/
def Fmt.finish (t : Fmt) (c : Ctx) (x : Val × FpFlags) : Nat × FpFlags :=
  let r := t.round c.rnd false c.ftz x.1
  (r.1, r.2 ||| x.2)

def Fmt.add (t : Fmt) (c : Ctx) (x y : Nat) : Nat × FpFlags :=
  let vs := [t.read c.ftz x, t.read c.ftz y]
  let r := sumVals c.rnd vs
  t.finish c (r.1, r.2 ||| signals vs)

def Fmt.sub (t : Fmt) (c : Ctx) (x y : Nat) : Nat × FpFlags :=
  let vs := [t.read c.ftz x, (t.read c.ftz y).negate]
  let r := sumVals c.rnd vs
  t.finish c (r.1, r.2 ||| signals vs)

def Fmt.mul (t : Fmt) (c : Ctx) (x y : Nat) : Nat × FpFlags :=
  let a := t.read c.ftz x
  let b := t.read c.ftz y
  let r := a.mul b
  t.finish c (r.1, r.2 ||| signals [a, b])

def Fmt.fma (t : Fmt) (c : Ctx) (x y z : Nat) : Nat × FpFlags :=
  let a := t.read c.ftz x
  let b := t.read c.ftz y
  let d := t.read c.ftz z
  let p := a.mul b
  let r := sumVals c.rnd [p.1, d]
  t.finish c (r.1, r.2 ||| p.2 ||| signals [a, b, d])

def Fmt.div (t : Fmt) (c : Ctx) (x y : Nat) : Nat × FpFlags :=
  let a := t.read c.ftz x
  let b := t.read c.ftz y
  let r := a.div b
  t.finish c (r.1, r.2 ||| signals [a, b])

def Fmt.sqrt (t : Fmt) (c : Ctx) (x : Nat) : Nat × FpFlags :=
  let a := t.read c.ftz x
  let r := a.sqrt
  t.finish c (r.1, r.2 ||| signals [a])

/-- Minimum or maximum; either NaN gives NaN. -/
def Fmt.pick (t : Fmt) (c : Ctx) (f : Val → Val → Val) (x y : Nat) : Nat × FpFlags :=
  let a := t.read c.ftz x
  let b := t.read c.ftz y
  let r := if a.isNan || b.isNan then Val.nan false else f a b
  ((t.round .rne false false r).1, signals [a, b])

/-- Minimum or maximum in which a NaN operand is missing (R314). -/
def Fmt.pickNum (t : Fmt) (c : Ctx) (f : Val → Val → Val) (x y : Nat) : Nat × FpFlags :=
  let a := t.read c.ftz x
  let b := t.read c.ftz y
  let r := if a.isNan then b else if b.isNan then a else f a b
  ((t.round .rne false false r).1, signals [a, b])

/-- Conditions of comparisons (R316). -/
inductive FCond where
  | eq | ne | lt | le | gt | ge | un | ord
deriving DecidableEq, Repr

def FCond.ordered : FCond → Bool
  | .lt | .le | .gt | .ge => true
  | .eq | .ne | .un | .ord => false

/-- Whether the condition holds, and NV (R316). -/
def Fmt.compare (t : Fmt) (ftz : Bool) (k : FCond) (x y : Nat) : Bool × FpFlags :=
  let a := t.read ftz x
  let b := t.read ftz y
  if a.isNan || b.isNan then
    ((match k with | .ne | .un => true | _ => false),
     if k.ordered then FpFlags.nv else signals [a, b])
  else
    let o := a.cmp b
    ((match k with
      | .eq => o == .eq
      | .ne => o != .eq
      | .lt => o == .lt
      | .le => o != .gt
      | .gt => o == .gt
      | .ge => o != .lt
      | .un => false
      | .ord => true), 0)

/-! ## Fixed-point evaluation for R183

Numbers are integers in units of 2^−P. Every truncation errs downward by less than one unit, and no function below
makes more than 2^12 of them, so that a result lies within 2^16 units of the exact value. -/

def atanInvTerms (p n : Nat) (alternate : Bool) : Nat → Int → Nat → Int
  | 0, _, _ => 0
  | k + 1, pow, i =>
    let term : Int := pow / (2 * i + 1)
    (if alternate && i % 2 == 1 then -term else term) + atanInvTerms p n alternate k (pow / (n * n : Nat)) (i + 1)

/-- Arc tangent, or hyperbolic arc tangent, of 1/n. -/
def atanInv (p n : Nat) (alternate : Bool) : Int := atanInvTerms p n alternate p ((2 ^ p / n : Nat) : Int) 0

/-- π (Machin). -/
def fixPi (p : Nat) : Int := 16 * atanInv p 5 true - 4 * atanInv p 239 true

/-- ln 2 = 2 artanh(1/3). -/
def fixLn2 (p : Nat) : Int := 2 * atanInv p 3 false

/-- Σ t^k / k! from the term `x` of index `i` on, every `step`th term, with the given sign pattern. -/
def taylor (p : Nat) (alternate : Bool) (step : Nat) (t : Int) : Nat → Int → Nat → Int
  | 0, _, _ => 0
  | k + 1, x, i =>
    let next :=
      if step == 1 then x * t / 2 ^ p / (i + 1 : Nat)
      else x * t / 2 ^ p * t / 2 ^ p / ((i + 1) * (i + 2) : Nat)
    x + taylor p alternate step t k (if alternate then -next else next) (i + step)

/-- e^t for 0 ≤ t < 1. -/
def fixExp (p : Nat) (t : Int) : Int := taylor p false 1 t p (2 ^ p) 0

/-- sin t and cos t for 0 ≤ t < 2. -/
def fixSin (p : Nat) (t : Int) : Int := taylor p true 2 t p t 1

def fixCos (p : Nat) (t : Int) : Int := taylor p true 2 t p (2 ^ p) 0

/-- artanh z for 0 ≤ z ≤ 1/3. -/
def artanhTerms (p : Nat) (z : Int) : Nat → Int → Nat → Int
  | 0, _, _ => 0
  | k + 1, pow, i => pow / (2 * i + 1 : Nat) + artanhTerms p z k (pow * z / 2 ^ p * z / 2 ^ p) (i + 1)

/-- m × 2^e in units of 2^−p. -/
def fixOf (p : Nat) (m : Nat) (e : Int) : Int :=
  if 0 ≤ (p : Int) + e then (m * 2 ^ ((p : Int) + e).toNat : Nat) else (m / 2 ^ (-((p : Int) + e)).toNat : Nat)

/-- A fixed-point result as a value whose exact one lies just above it. -/
def fixVal (p : Nat) (shift : Int) (x : Int) : Val := .fin (decide (x < 0)) x.natAbs (shift - p) true

/-- The rounding of a result known within 2^16 units: at precision 256, and at 1,024 where the two ends of the interval
do not round alike. `f p` gives the result in units of 2^−p and a power of two that scales it. -/
def roundFn (ftz : Bool) (f : Nat → Int × Int) : Nat × FpFlags :=
  let at' (p : Nat) (d : Int) : Nat × FpFlags := Fmt.f32.round .rne false ftz (fixVal p (f p).2 ((f p).1 + d))
  if at' 256 (-65536) == at' 256 65536 then at' 256 (-65536) else at' 1024 (-65536)

/-- 2^x for x = (−1)^neg × m × 2^e. -/
def exp2At (neg : Bool) (m : Nat) (e : Int) (p : Nat) : Int × Int :=
  let x := if neg then -fixOf p m e else fixOf p m e
  let n := x / 2 ^ p
  (fixExp p ((x - n * 2 ^ p) * fixLn2 p / 2 ^ p), n)

/-- log2 of m × 2^e. -/
def log2At (m : Nat) (e : Int) (p : Nat) : Int × Int :=
  let y := fixOf p m (-(m.log2 : Int))
  let z := (y - 2 ^ p) * 2 ^ p / (y + 2 ^ p)
  let l := 2 * artanhTerms p z p z 0
  (((e + m.log2 : Int) * 2 ^ p) + l * 2 ^ p / fixLn2 p, 0)

/-- sin(πr), or cos(πr), for r in units of 2^−p in [0, 2). -/
def sinPiAt (p : Nat) (r : Int) (cosine : Bool) : Int :=
  let half : Int := 2 ^ p / 2
  let q := r / half % 4
  let t := (r - r / half * half) * fixPi p / 2 ^ p
  let k := if cosine then (q + 1) % 4 else q
  if k == 0 then fixSin p t else if k == 1 then fixCos p t else if k == 2 then -fixSin p t else -fixCos p t

/-- tanh of m × 2^e < 16: (E − 1) / (E + 1) with E = e^(2x). -/
def tanhAt (neg : Bool) (m : Nat) (e : Int) (p : Nat) : Int × Int :=
  let x2 := 2 * fixOf p m e
  let l := fixLn2 p
  let n := x2 / l
  let big := fixExp p (x2 - n * l) * 2 ^ n.toNat
  let v := (big - 2 ^ p) * 2 ^ p / (big + 2 ^ p)
  (if neg then -v else v, 0)

/-! ## FPX functions on f32 (R183, Table 8-4) -/

inductive Fpx where
  | sqrt | rcp | rsq | exp2 | log2 | sinpi | cospi | tanh
deriving DecidableEq, Repr

def f32One : Val := .fin false 1 0 false

/-- Whether m × 2^e is an integer, or an integer after doubling. -/
def isMultiple (m : Nat) (e : Int) : Bool := 0 ≤ e || m % 2 ^ (-e).toNat == 0

/-- The functions of R183 on a value that has been flushed. -/
def Fpx.eval (f : Fpx) (ftz : Bool) (x : Val) : Nat × FpFlags :=
  let c : Ctx := ⟨.rne, ftz⟩
  let t := Fmt.f32
  match f with
  | .sqrt => t.finish c (x.sqrt.1, x.sqrt.2 ||| signals [x])
  | .rcp => t.finish c ((f32One.div x).1, (f32One.div x).2 ||| signals [x])
  | .rsq => t.finish c (x.rsqrt.1, x.rsqrt.2 ||| signals [x])
  | .exp2 =>
    match x with
    | .nan _ => (t.nan, signals [x])
    | .inf neg => if neg then (0, 0) else (t.infinity false, 0)
    | .fin neg m e _ =>
      if m == 0 then t.finish c (f32One, 0)
      else if 8 ≤ e + (m.log2 : Int) then
        t.finish c (.fin false 1 (if neg then -300 else 300) true, 0)
      else if isMultiple m e then
        let n : Int := (fixOf 0 m e)
        t.finish c (.fin false 1 (if neg then -n else n) false, 0)
      else roundFn ftz (exp2At neg m e)
  | .log2 =>
    match x with
    | .nan _ => (t.nan, signals [x])
    | .inf neg => if neg then (t.nan, FpFlags.nv) else (t.infinity false, 0)
    | .fin neg m e _ =>
      if m == 0 then (t.infinity true, FpFlags.dz)
      else if neg then (t.nan, FpFlags.nv)
      else if m == 2 ^ m.log2 then
        let k : Int := e + m.log2
        t.finish c (if k == 0 then .zero false else .fin (decide (k < 0)) k.natAbs 0 false, 0)
      else roundFn ftz (log2At m e)
  | .sinpi =>
    match x with
    | .nan _ => (t.nan, signals [x])
    | .inf _ => (t.nan, FpFlags.nv)
    | .fin neg m e _ =>
      if isMultiple m e then (t.sign neg 0, 0)
      else if isMultiple m (e + 1) then
        let up := (fixOf 1 m e / 2 % 2 == 0) != neg
        t.finish c (.fin (!up) 1 0 false, 0)
      else roundFn ftz fun p => let v := sinPiAt p (fixOf p m e % (2 * 2 ^ p)) false; (if neg then -v else v, 0)
  | .cospi =>
    match x with
    | .nan _ => (t.nan, signals [x])
    | .inf _ => (t.nan, FpFlags.nv)
    | .fin _ m e _ =>
      if isMultiple m e then t.finish c (.fin (fixOf 0 m e % 2 == 1) 1 0 false, 0)
      else if isMultiple m (e + 1) then (0, 0)
      else roundFn ftz fun p => (sinPiAt p (fixOf p m e % (2 * 2 ^ p)) true, 0)
  | .tanh =>
    match x with
    | .nan _ => (t.nan, signals [x])
    | .inf neg => t.finish c (.fin neg 1 0 false, 0)
    | .fin neg m e _ =>
      if m == 0 then (t.sign neg 0, 0)
      else if 4 ≤ e + (m.log2 : Int) then t.finish c (.fin neg (2 ^ 40 - 1) (-40) true, 0)
      else roundFn ftz (tanhAt neg m e)

/-! ## Types of CVT, views and collectives -/

/-- A type code as an integer type (signed, width) or a format (R169, R270). -/
def NumType.int? : NumType → Option (Bool × Nat)
  | .i8 => some (true, 8)
  | .i16 => some (true, 16)
  | .i32 => some (true, 32)
  | .i64 => some (true, 64)
  | .n8 => some (false, 8)
  | .n16 => some (false, 16)
  | .n32 => some (false, 32)
  | .n64 => some (false, 64)
  | .f16 | .bf16 | .f32 | .f64 | .f8e4 | .f8e5 | .f4 | .e3m5 => none

def NumType.fmt : NumType → Fmt
  | .f16 => .f16
  | .bf16 => .bf16
  | .f64 => .f64
  | .f8e4 => .f8e4
  | .f8e5 => .f8e5
  | .f4 => .f4
  | .e3m5 => .e3m5
  | .f32 | .i8 | .i16 | .i32 | .i64 | .n8 | .n16 | .n32 | .n64 => .f32

/-- Width in bits of a type. -/
def NumType.width : NumType → Nat
  | .i8 | .n8 | .f8e4 | .f8e5 | .e3m5 => 8
  | .i16 | .n16 | .f16 | .bf16 => 16
  | .i32 | .n32 | .f32 => 32
  | .i64 | .n64 | .f64 => 64
  | .f4 => 4

def intLow (signed : Bool) (w : Nat) : Int := if signed then -(2 ^ (w - 1) : Int) else 0

def intHigh (signed : Bool) (w : Nat) : Int := if signed then 2 ^ (w - 1) - 1 else 2 ^ w - 1

/-- An integer of a type from its bits. -/
def intOf (signed : Bool) (w x : Nat) : Int := if signed then sext x w else (x % 2 ^ w : Nat)

/-- CVT of one element (R320, R321): source and destination as bit patterns of their types' widths. -/
def convert (dst src : NumType) (c : Ctx) (sat neg abs : Bool) (x : Nat) : Nat × FpFlags :=
  match NumType.int? src, NumType.int? dst with
  | some (a, w), some (b, v) =>
    let n := intOf a w x
    let n := if sat then max (intLow b v) (min (intHigh b v) n) else n
    (wrap v n, 0)
  | some (a, w), none =>
    let n := intOf a w x
    (NumType.fmt dst).round c.rnd sat c.ftz (.fin (decide (n < 0)) n.natAbs 0 false)
  | none, _ =>
    let t := NumType.fmt src
    let y := if t.signed then t.read c.ftz (signMod neg abs t.mag (x % 2 ^ (t.mag + 1))) else
      let z := t.read c.ftz (x % 2 ^ t.mag)
      if neg then z.negate else z
    match NumType.int? dst with
    | some (b, v) =>
      let r := roundInt c.rnd (intLow b v) (intHigh b v) y
      (wrap v r.1, r.2)
    | none =>
      match dst == src, y with
      | true, .inf neg => (t.infinity neg, 0)
      | _, _ =>
        let r := (NumType.fmt dst).round c.rnd sat c.ftz y
        (r.1, r.2 ||| signals [y])

/-! ## QALIGN and gust (R186, R188) -/

/-- m of R186 for an f32 encoding. -/
def qalign (ftz : Bool) (x : Nat) (e : Int) (h : Nat) : Dword × FpFlags :=
  match Fmt.f32.read ftz x with
  | .nan _ => (0x8000000000000000, FpFlags.nv)
  | .inf _ => (0x8000000000000000, FpFlags.nv)
  | .fin neg m k _ =>
    if m != 0 && decide (e < k + (m.log2 : Int)) then
      (BitVec.ofInt 64 (if neg then -(2 ^ 63 - 1) else 2 ^ 63 - 1), FpFlags.nv)
    else
      let r := roundInt .rne (-(2 ^ 63)) (2 ^ 63 - 1) (.fin neg m (k + 62 - h - e) false)
      (BitVec.ofInt 64 r.1, r.2)

/-- One round of G (R188). -/
def gustRound (k : Word) (q : Word × Word × Word × Word) : Word × Word × Word × Word :=
  let (a, b, c, d) := q
  let a := a + b + k
  let d := (d ^^^ a).rotateLeft 16
  let c := c + d
  let b := (b ^^^ c).rotateLeft 12
  (a, b, c, d)

/-- G(K, C) of R188. -/
def gust (k0 k1 k2 k3 c0 c1 c2 c3 : Word) : Word :=
  let q := [k0, k1, k2, k3, k0, k1].foldl (fun q k => gustRound k q) (c0, c1, c2, c3)
  q.1 ^^^ q.2.2.1

end Sys2Proof.Machine
end

