-- ==== Sys2Proof/Machine/Atom.lean ====
section
/-! DEFINITION. ATOM functions on 32-bit words (R349 to R351). AAPPEND stands in Streams.lean. -/

namespace Sys2Proof.Machine

open Sys2Proof

/-- The functions of Table 15-3 but AAPPEND. -/
inductive AtomFn where
  | add | min | max | minn | maxn | and | or | xor | xchg | cas | fadd | ldres | stcond
deriving DecidableEq, Repr

/-- The function codes of Table 15-3, which a request to another module carries. -/
def AtomFn.code : AtomFn → Nat
  | .add => 0
  | .min => 1
  | .max => 2
  | .minn => 3
  | .maxn => 4
  | .and => 5
  | .or => 6
  | .xor => 7
  | .xchg => 8
  | .cas => 9
  | .fadd => 10
  | .ldres => 11
  | .stcond => 12

def AtomFn.ofCode : Nat → Option AtomFn
  | 0 => some .add
  | 1 => some .min
  | 2 => some .max
  | 3 => some .minn
  | 4 => some .maxn
  | 5 => some .and
  | 6 => some .or
  | 7 => some .xor
  | 8 => some .xchg
  | 9 => some .cas
  | 10 => some .fadd
  | 11 => some .ldres
  | 12 => some .stcond
  | _ => none

/-- The new word (Table 15-3); FADD always rounds with rne and keeps subnormals (R350). -/
def AtomFn.new (f : AtomFn) (old y cmp : Word) : Word :=
  match f with
  | .add => old + y
  | .min => minSigned old y
  | .max => maxSigned old y
  | .minn => minUnsigned old y
  | .maxn => maxUnsigned old y
  | .and => old &&& y
  | .or => old ||| y
  | .xor => old ^^^ y
  | .xchg => y
  | .cas => if old = cmp then y else old
  | .fadd => BitVec.ofNat 32 (Fmt.f32.add ⟨.rne, false⟩ old.toNat y.toNat).1
  | .ldres => old
  | .stcond => y

def AtomFn.way : AtomFn → Way
  | .ldres => .reserve
  | _ => .both

def usesAtom (f : AtomFn) (d a b : BitVec 7) (v : Adverb) : Uses :=
  { srcs := [(srcA v a).pair.clean] ++ (if f == .ldres then [] else [(srcB v b).clean]) ++
      (if f == .cas then [(srcC v (dReg v d)).clean] else []),
    dsts := [dstD v d],
    report := fun x => accScope v != 0 && reportsStores x }

def atomAcc (f : AtomFn) (st : Strand) (a : BitVec 7) (v : Adverb) (l : Nat) : Acc :=
  { lane := l, va := (st.pair l (aReg v a)).toNat, n := 4, pad := false, way := f.way, acq := accScope v }

/-- What one lane's atomic asks for. -/
structure AtomAsk where
  fn : AtomFn
  y : Word
  cmp : Word
deriving DecidableEq, Repr

/-- The lane as it stands now. -/
def State.laneOf (s : State) (b : Block) (i l : Nat) : Lane :=
  ((s.block? b.key).map fun k => (k.strand i).lane l).getD Lane.never

def State.setResv (s : State) (b : Block) (i l : Nat) (r : Option Resv) : State :=
  s.updLane b.key i l fun ln => { ln with resv := r }

/-- The lane's reservation holds and names the word (R351). -/
def State.holdsResv (s : State) (b : Block) (i l va : Nat) (loc : Loc) : Bool :=
  (s.laneOf b i l).resv == some ⟨va, loc⟩

/-- The step of an atomic on a word that this module holds: the value returned, and the state (R349, R351). -/
def State.atomHere (s : State) (b : Block) (i : Nat) (q : AtomAsk) (a : Acc) (p : Place) : Word × State :=
  let s := match p.loc with
    | .phys pa => (s.fillTlb b.core (s.jobOf b) a.va).settleWord b.core pa 4
    | _ => s
  let old := BitVec.ofNat 32 (leNat (s.homeBytes (s.jobOf b) p 4))
  match q.fn with
  | .ldres => (old, s.setResv b i a.lane (some ⟨a.va, p.loc⟩))
  | .stcond =>
    if s.holdsResv b i a.lane a.va p.loc then
      (1, (s.homeWrite p (leBytes 4 q.y.toNat)).setResv b i a.lane none)
    else (0, s.setResv b i a.lane none)
  | _ => (old, s.homeWrite p (leBytes 4 (q.fn.new old q.y q.cmp).toNat))

/-- A number that names a lane in its requests for reservations at another module (the model's own). -/
def laneName (k i l : Nat) : Word := BitVec.ofNat 32 ((k * 64 + i) * 64 + l)

/-- The response of another module's word, taken (R227). -/
def State.atomBack (s : State) (b : Block) (i : Nat) (q : AtomAsk) (a : Acc) (p : Place) (back : Word) : Word × State :=
  match q.fn with
  | .ldres => (back, s.setResv b i a.lane (some ⟨a.va, p.loc⟩))
  | .stcond =>
    let s := if back == 0 then s else s.clearResv p.loc 4 fun _ _ _ => false
    (back, s.setResv b i a.lane none)
  | _ => (back, s.clearResv p.loc 4 fun _ _ _ => false)

/-- What an atomic of a lane on another module's word does before it goes there: the issuing core's entry for the line drains
(R227), and its own copy of the word leaves its L1 (R349). -/
def State.sendAtomic (s : State) (b : Block) (a : Acc) (dev x : Nat) : State :=
  ((s.fillTlb b.core (s.jobOf b) a.va).settleWord b.core ((dev + 1) * 2 ^ 52 + x) 4).drainWhere b.core fun e =>
    e.dev == dev && e.line == x / 128 * 128

/-- One lane's atomic: its result, or the tag that it waits for. -/
def State.atomLane (s : State) (b : Block) (i : Nat) (q : AtomAsk) (a : Acc) (p : Place) : State × Except Nat Word :=
  match p.loc with
  | .remote dev x =>
    match (s.laneOf b i a.lane).answer p.loc 4 true with
    | some (bs, _) => let (w, s) := s.atomBack b i q a p (BitVec.ofNat 32 (leNat bs)); (s, .ok w)
    | none =>
      let s := s.sendAtomic b a dev x
      if q.fn == .stcond && !s.holdsResv b i a.lane a.va p.loc then (s.setResv b i a.lane none, .ok 0)
      else
        let view := p.viewTag b.view
        let s := if a.way.writes then s.noteAway view dev x else s
        let cmp := if q.fn == .ldres || q.fn == .stcond then laneName b.key i a.lane else q.cmp
        let (tag, s) := s.request b.core (s.jobOf b) dev (.lane b.key i a.lane) a.va 4 p.loc .atomic
          (.atomic x q.fn.code q.y cmp) view
        (s, .error tag)
  | .host w off =>
    match s.load (s.ask b i (s.jobOf b) a) p 4 true false with
    | .wait t s => (s, .error t)
    | .got bs _ s =>
      let old := BitVec.ofNat 32 (leNat bs)
      match q.fn with
      | .ldres => (s.setResv b i a.lane (some ⟨a.va, p.loc⟩), .ok old)
      | .stcond =>
        if s.holdsResv b i a.lane a.va p.loc then
          let s := (s.clearResv p.loc 4 fun _ _ _ => false).windowWrite w off (leBytes 4 q.y.toNat)
          (s.setResv b i a.lane none, .ok 1)
        else (s.setResv b i a.lane none, .ok 0)
      | _ =>
        let s := s.clearResv p.loc 4 fun _ _ _ => false
        (s.windowWrite w off (leBytes 4 (q.fn.new old q.y q.cmp).toNat), .ok old)
  | _ => let (w, s) := s.atomHere b i q a p; (s, .ok w)

/-- A lane's atomic after those of lower lanes: results, and tags awaited, by lane. A write with a scope is recorded
(R445); LDRES and a failing STCOND write nothing (R349). -/
def State.atomStep (b : Block) (i scope : Nat) (ask : Nat → AtomAsk)
    (acc : State × List (Nat × Word) × List (Nat × Nat)) (a : Acc × Place) :
    State × List (Nat × Word) × List (Nat × Nat) :=
  match acc.1.atomLane b i (ask a.1.lane) a.1 a.2 with
  | (s, .error t) => (s, acc.2.1, acc.2.2 ++ [(a.1.lane, t)])
  | (s, .ok w) =>
    let wrote := a.1.way.writes && ((ask a.1.lane).fn != .stcond || w != 0)
    (if scope == 0 then s else if wrote then s.setScope b i scope a.2.loc else s.meetScope b i scope [a.2.loc], acc.2.1 ++ [(a.1.lane, w)], acc.2.2)

def State.atomInstr (s : State) (f : AtomFn) (d a b : BitVec 7) (v : Adverb) : Result :=
  let u := usesAtom f d a b v
  let i := s.cur.strand
  let scope := accScope v
  let late : Late := fun s b st ls => ls.flatMap fun l => s.accFlaws b st i (atomAcc f st a v l)
  match s.gate u late with
  | .stop s => .next s
  | .go s blk st ls =>
    let as := s.reach blk (ls.map (atomAcc f st a v))
    match s.accHold blk i as with
    | some p => .next (s.park ls p)
    | none =>
      let (s, w) := if scope == 0 then (s, none) else s.release blk i scope none
      match w with
      | some p => .next (s.park ls p)
      | none =>
        match s.slotsForWrites as with
        | (s, .wait need) => .next (s.park ls (.pool need))
        | (s, .spent) => .next (s.spentFault blk ls)
        | (s, .gone) => .next s
        | (s, .open) =>
          let ask := fun l => AtomAsk.mk f (st.word l (bReg v b)) (st.word l (cReg v (dReg v d)))
          let (s, got, waits) := as.foldl (State.atomStep blk i scope ask) (s, [], [])
          let done := got.map fun g => g.1
          let s := if done.isEmpty then s else s.acquireSet blk.core scope none
          let s := s.markOutside blk.key (writesOutside blk (as.filter fun a => done.contains a.1.lane))
          let s := (s.settle u blk st done).writes (got.flatMap fun g => u.outs st ls g.1 [(dReg v d, g.2)])
          .next (waits.foldl (fun s w => s.park [w.1] (.reply [w.2])) (s.retire done))

def execAtomAdd (d a b : BitVec 7) (v : Adverb) (s : State) : Result := s.atomInstr .add d a b v

def execAtomMin (d a b : BitVec 7) (v : Adverb) (s : State) : Result := s.atomInstr .min d a b v

def execAtomMax (d a b : BitVec 7) (v : Adverb) (s : State) : Result := s.atomInstr .max d a b v

def execAtomMinn (d a b : BitVec 7) (v : Adverb) (s : State) : Result := s.atomInstr .minn d a b v

def execAtomMaxn (d a b : BitVec 7) (v : Adverb) (s : State) : Result := s.atomInstr .maxn d a b v

def execAtomAnd (d a b : BitVec 7) (v : Adverb) (s : State) : Result := s.atomInstr .and d a b v

def execAtomOr (d a b : BitVec 7) (v : Adverb) (s : State) : Result := s.atomInstr .or d a b v

def execAtomXor (d a b : BitVec 7) (v : Adverb) (s : State) : Result := s.atomInstr .xor d a b v

def execAtomXchg (d a b : BitVec 7) (v : Adverb) (s : State) : Result := s.atomInstr .xchg d a b v

def execAtomCas (d a b : BitVec 7) (v : Adverb) (s : State) : Result := s.atomInstr .cas d a b v

def execAtomFadd (d a b : BitVec 7) (v : Adverb) (s : State) : Result := s.atomInstr .fadd d a b v

def execAtomLdres (d a : BitVec 7) (v : Adverb) (s : State) : Result := s.atomInstr .ldres d a 0 v

def execAtomStcond (d a b : BitVec 7) (v : Adverb) (s : State) : Result := s.atomInstr .stcond d a b v

end Sys2Proof.Machine
end

