-- ==== Sys2Proof/Machine/Comp.lean ====
section
/-! DEFINITION. The error-bounded compressor and its expander (R190 to R193), and the element operators of merges and
collectives (R134, R135, R211). -/

namespace Sys2Proof.Machine

open Sys2Proof

/-! ## Elements of bytes -/

/-- The elements of `n` bytes each that a list of bytes holds; the first number bounds them. -/
def elements (n : Nat) (bs : List Byte) : List Nat := (List.range (bs.length / n)).map fun i =>
  leNat ((bs.drop (n * i)).take n)

/-- Elements of `n` bytes each as bytes. -/
def elementBytes (n : Nat) (xs : List Nat) : List Byte := xs.flatMap (leBytes n)

/-! ## Compression (R190 to R192) -/

/-- f32 or f64. -/
def packFmt (f64 : Bool) : Fmt := if f64 then .f64 else .f32

def packSize (f64 : Bool) : Nat := if f64 then 8 else 4

def Val.double : Val → Val
  | .fin neg m e more => .fin neg m (e + 1) more
  | .inf neg => .inf neg
  | .nan q => .nan q

/-- An integer as a value. -/
def intVal (q : Int) : Val := .fin (decide (q < 0)) q.natAbs 0 false

/-- The reconstruction of the value with quotient `q` after predictor `p`. -/
def reconstruct (t : Fmt) (eb p : Nat) (q : Int) : Nat :=
  (t.round .rne false false (sumVals .rne [t.value p, ((t.value eb).double.mul (intVal q)).1]).1).1

/-- |r − x| > eb, exactly; `x` is finite. -/
def exceeds (t : Fmt) (eb r x : Nat) : Bool :=
  match (sumVals .rne [t.value r, (t.value x).negate]).1, t.value eb with
  | .fin _ m e d, .fin _ n f c => (Val.fin false m e d).cmp (.fin false n f c) == .gt
  | _, _ => true

/-- The quotient and the reconstruction of a value, unless it is an outlier (R190). -/
def packValue (t : Fmt) (eb p x : Nat) : Option (Int × Nat) :=
  let d := (Fmt.f64.round .rne false false (sumVals .rne [t.value x, (t.value p).negate]).1).1
  let u := (Fmt.f64.round .rne false false ((Fmt.f64.value d).div (t.value eb).double).1).1
  let (q, fl) := roundInt .rne (-(2 ^ 30)) (2 ^ 30 - 1) (Fmt.f64.value u)
  let r := reconstruct t eb p q
  let finite := match t.value x with | .fin _ _ _ _ => true | .inf _ | .nan _ => false
  if !finite || fl &&& FpFlags.nv != 0 || exceeds t eb r x then none else some (q, r)

/-- The values of a block coded one after the other: quotients, and the last reconstruction. -/
def packValues (t : Fmt) (eb : Nat) : Nat → List Nat → Option (List Int × Nat)
  | p, [] => some ([], p)
  | p, x :: xs =>
    match packValue t eb p x with
    | none => none
    | some (q, r) =>
      match packValues t eb r xs with
      | none => none
      | some (qs, p) => some (q :: qs, p)

def zigzag (q : Int) : Nat := if q < 0 then (-2 * q - 1).toNat else (2 * q).toNat

def unzigzag (z : Nat) : Int := if z % 2 == 0 then (z / 2 : Nat) else -((z / 2 : Nat) : Int) - 1

/-- The least width below which every code lies. -/
def codeWidth (zs : List Nat) : Nat := (zs.map fun z => if z == 0 then 0 else z.log2 + 1).foldl max 0

/-- Codes of `w` bits as one number, the first lowest. -/
def packBits (w : Nat) : List Nat → Nat
  | [] => 0
  | z :: zs => z + 2 ^ w * packBits w zs

/-- One block of the stream, and the next predictor (R191). -/
def packBlock (f64 : Bool) (eb p : Nat) (xs : List Nat) : List Byte × Nat :=
  match packValues (packFmt f64) eb p xs with
  | some (qs, p) =>
    let w := codeWidth (qs.map zigzag)
    (leBytes 1 w ++ leBytes ((xs.length * w + 7) / 8) (packBits w (qs.map zigzag)), p)
  | none => (leBytes 1 255 ++ elementBytes (packSize f64) xs, xs.getLastD p)

/-- Blocks of 32; the first number bounds them. -/
def packBlocks (f64 : Bool) (eb : Nat) : Nat → Nat → List Nat → List Byte
  | 0, _, _ => []
  | n + 1, p, xs =>
    if xs.isEmpty then []
    else
      let (bs, p) := packBlock f64 eb p (xs.take 32)
      bs ++ packBlocks f64 eb n p (xs.drop 32)

/-- The stream (Table 8-5). -/
def packStream (f64 : Bool) (eb : Nat) (xs : List Nat) : List Byte :=
  leBytes 2 0x455A ++ leBytes 1 1 ++ leBytes 1 (ofFlag f64) ++ leBytes 4 xs.length ++ leBytes 8 eb ++
  packBlocks f64 eb (xs.length / 32 + 1) 0 xs

/-! ## Expansion (R193) -/

/-- The header's TYPE, COUNT and EB, unless it is one that Table 21-2 rejects. -/
def streamHeader (bs : List Byte) : Option (Bool × Nat × Nat) :=
  let x := leNat bs
  if bits x 0 16 != 0x455A || bits x 16 8 != 1 || decide (1 < bits x 24 8) then none
  else some (bit x 24, bits x 32 32, bits x 64 64 % 2 ^ (8 * packSize (bit x 24)))

/-- Bytes of the block's DATA for its WIDTH, unless the WIDTH is invalid. -/
def blockBytes (f64 : Bool) (w n : Nat) : Option Nat :=
  if w == 255 then some (n * packSize f64) else if w < 32 then some ((n * w + 7) / 8) else none

/-- The values of a coded block, in order. -/
def unpackCodes (t : Fmt) (eb : Nat) : Nat → List Nat → List Nat
  | _, [] => []
  | p, z :: zs => let r := reconstruct t eb p (unzigzag z); r :: unpackCodes t eb r zs

/-- The `n` values of a block with WIDTH `w` and DATA `bs`, after predictor `p`. -/
def unpackBlock (f64 : Bool) (eb p w n : Nat) (bs : List Byte) : List Nat :=
  if w == 255 then elements (packSize f64) bs
  else unpackCodes (packFmt f64) eb p ((List.range n).map fun j => bits (leNat bs) (j * w) w)

/-! ## Element operators -/

/-- The type of a type code. -/
def numTypeOf (c : Nat) : NumType :=
  [NumType.i8, .i16, .i32, .i64, .n8, .n16, .n32, .n64, .f16, .bf16, .f32, .f64, .f8e4, .f8e5, .f4, .e3m5].getD c .i8

/-- min and max as R135 gives them. -/
def foldPick (t : NumType) (most : Bool) (x y : Nat) : Nat :=
  match NumType.int? t with
  | some (sg, w) =>
    if (intOf sg w x < intOf sg w y) == most then y else x
  | none =>
    let f := NumType.fmt t
    let a := f.value x
    let b := f.value y
    if a.isNan || b.isNan then f.nan
    else (f.round .rne false false (if most then a.more b else a.less b)).1

/-- One step of a floating-point add of merges: `acc` plus the exact difference of `x` and the twin `t`. -/
def foldAddStep (f : Fmt) (t : Nat) (acc x : Nat) : Nat :=
  match f.value acc with
  | .inf _ => acc
  | _ => (f.round .rne false false (sumVals .rne [f.value acc, f.value x, (f.value t).negate]).1).1

/-- The floating-point add of R135, for two changers or more. -/
def foldAddFloat (f : Fmt) (t : Nat) (xs : List Nat) : Nat :=
  let vs := xs.map f.value
  let pos := vs.any fun v => v.isInf && !v.isNeg
  let neg := vs.any fun v => v.isInf && v.isNeg
  if (f.value t).isNan || vs.any Val.isNan || (f.value t).isInf || (pos && neg) then f.nan
  else if pos then f.infinity false
  else if neg then f.infinity true
  else xs.foldl (foldAddStep f t) t

/-- The fold of two changers or more of one element (Table 6-2), for a combination that the table accepts. -/
def foldElement (rop : Nat) (ty : NumType) (t : Nat) (xs : List Nat) : Nat :=
  let w := NumType.width ty
  let x0 := xs.headD t
  let r := xs.drop 1
  match rop with
  | 1 =>
    match NumType.int? ty with
    | some _ => wrap w (xs.foldl (fun (a : Int) (x : Nat) => a + x - t) t)
    | none => foldAddFloat (NumType.fmt ty) t xs
  | 2 => r.foldl (foldPick ty false) x0
  | 3 => r.foldl (foldPick ty true) x0
  | 4 => r.foldl (· &&& ·) x0
  | 5 => r.foldl (· ||| ·) x0
  | 6 => xs.foldl (fun a x => a ^^^ x ^^^ t) t
  | _ => xs.getLastD t

/-- The operator of a collective (R211). -/
def collOp (rop : Nat) (ty : NumType) (x y : Nat) : Nat :=
  match rop with
  | 1 =>
    match NumType.int? ty with
    | some (_, w) => (x + y) % 2 ^ w
    | none => ((NumType.fmt ty).add ⟨.rne, false⟩ x y).1
  | 2 => foldPick ty false x y
  | 3 => foldPick ty true x y
  | 4 => x &&& y
  | 5 => x ||| y
  | _ => x ^^^ y

/-- The element-wise fold of a received chunk into an accumulated one. -/
def collFold (rop : Nat) (ty : NumType) (acc recv : List Byte) : List Byte :=
  let n := NumType.width ty / 8
  elementBytes n (((elements n acc).zip (elements n recv)).map fun p => collOp rop ty p.1 p.2)

end Sys2Proof.Machine
end

