-- ==== Sys2Proof/Machine/Handles.lean ====
section
/-! DEFINITION. Issuing a handle (R87, R196), and the course that engine instructions and SEAL share. -/

namespace Sys2Proof.Machine

open Sys2Proof

/-- The `k`-th of the numbers that a rising list lacks. -/
def nthFree (k : Nat) : List Nat → Nat
  | [] => k
  | u :: us => if u ≤ k then nthFree (k + 1) us else k

/-- A SLOT value that none of the block's handles carries; which one is open (R196). -/
def Block.pickSlot (b : Block) (k : Nat) : Nat :=
  let used := sortBy id (b.handles.map fun h => h.slot)
  nthFree (Config.freeSlot k % (4096 - used.length)) used

/-- A handle to be issued. -/
structure NewHandle where
  kind : Nat
  op : EngOp
  entries : Nat := 0
  cleared : List (Nat × Nat) := []
  /-- complete at once -/
  done : Bool := false
deriving DecidableEq, Repr

/-- The next operation of the block takes a slot: its value, its record and the state (R196). The words at `keys` of
strand `i` receive it. -/
def State.newHandle (s : State) (b : Block) (i : Nat) (h : NewHandle) (keys : List Nat) : Word × Handle × State :=
  let (k, s) := s.draw
  let b := (s.block? b.key).getD b
  let slot := b.pickSlot k
  let gen := b.hcount % 65536
  let shared := Nat.min h.entries (s.entriesFree b.core (b.strand i).role).1
  let r : Handle :=
    { slot := slot, kind := h.kind, gen := gen, done := h.done, strand := i, words := keys.map fun x => (i, x),
      op := h.op, entries := h.entries, shared := shared, cleared := h.cleared, guarded := !b.guards.isEmpty,
      joined := false, replies := [], tags := [], rest := [], last := [], written := false }
  (handleValue slot h.kind gen, r,
    s.updBlock b.key fun x => { x with handles := x.handles ++ [r], hcount := x.hcount + 1 })

/-- The destination words of the lanes receive the handle: empty until the operation completes (R87). -/
def State.giveHandle (s : State) (u : Uses) (st : Strand) (ls : List Nat) (reg : Nat) (v : Word) (done : Bool) : State :=
  s.updStrand s.cur.blk s.cur.strand fun x =>
    (ls.flatMap fun l => u.outs st ls l [(reg, v)]).foldl (fun x o =>
      x.setReg o.lane o.reg ⟨o.val, done, o.taint, o.poison⟩) x

/-- The handle is among those that the lanes have issued since their last SEAL (R359). -/
def State.noteIssued (s : State) (ls : List Nat) (h : Handle) : State :=
  s.updCur ls fun _ ln => { ln with unsealed := ln.unsealed ++ [(h.slot, h.gen)] }

/-- Presence bits cleared at issue (R105). -/
def State.absentBy (s : State) (cs : List (Nat × Nat)) : State :=
  cs.foldl (fun s c => s.updBlock c.1 fun b => { b with absent := b.absent ++ [c.2] }) s

/-! ## Deferred failures (R406, R434) -/

/-- An exception taken by lanes of a strand outside an issue of theirs: at `pc`. -/
def State.raiseAt (s : State) (blk strand : Nat) (pc : Dword) (fs : List LaneFault) : State :=
  let old := s.cur
  let lanes := fs.map LaneFault.lane
  let s := { s with cur := { old with blk := blk, strand := strand, pc := pc, lanes := lanes } }
  { s.raise fs with cur := old }

/-- Deferred failures handed to their lanes. A lane that has exited already reports at its EXIT: it stands there again,
and its block stops (R434, R440). -/
def State.deferTo (s : State) (blk strand : Nat) (ds : List (Nat × Deferred)) : State :=
  match s.block? blk with
  | none => s
  | some b =>
    let st := b.strand strand
    let gone := ds.filter fun d => (st.lane d.1).status == .exited
    let here := ds.filter fun d => (st.lane d.1).status != .exited
    let s := s.updStrand blk strand fun st =>
      here.foldl (fun st d => st.updLane d.1 fun ln => { ln with due := ln.due ++ [d.2] }) st
    (dedupe (gone.map fun d => (st.lane d.1).pc)).foldl (fun s pc =>
      let mine := gone.filter fun d => (st.lane d.1).pc == pc
      let s := s.updStrand blk strand fun st => st.updLanes (mine.map fun d => d.1) fun _ ln => { ln with status := .live }
      s.raiseAt blk strand pc (mine.map fun d => d.2.fault d.1)) s

/-- Keys of the words of lane `l` of strand `i` whose reading reports a failure of a handle: the words that received it,
and those of batches that gathered it. -/
def Block.reportKeys (b : Block) (h : Handle) (l : Nat) : List Nat :=
  let of (k : Handle) : List Nat := (k.words.filter fun w => w.1 == h.strand && w.2 / 256 == l).map fun w => w.2
  of h ++ (b.handles.filter fun k =>
    match k.op with | .batch g => g.contains (h.slot, h.gen) | _ => false).flatMap of

/-! ## SEAL (R359) -/

/-- The handles that a batch gathers and that are still pending. -/
def Block.pendingOf (b : Block) (hs : List (Nat × Nat)) : List (Nat × Nat) :=
  hs.filter fun h => ((b.handle? h.1 h.2).map fun x => !x.done).getD false

def execSeal (d : BitVec 7) (v : Adverb) (s : State) : Result :=
  let u : Uses := { dsts := [dstD v d] }
  match s.gate u Late.none with
  | .stop s => .next s
  | .go s b st ls =>
    if s.slotGrant b 1 then
      let s := s.settle u b st ls
      let b := (s.block? b.key).getD b
      let all := dedupe (ls.flatMap fun l => (st.lane l).unsealed)
      let live := all.filter fun h => (b.handle? h.1 h.2).isSome
      let done := (b.pendingOf all).isEmpty
      let keys := ls.map fun l => regKey l (dReg v d)
      let (w, _, s) := s.newHandle b s.cur.strand { kind := 5, op := .batch live, done := done } keys
      let s := s.giveHandle u st ls (dReg v d) w done
      let cover (l : Nat) (x : Deferred) : Deferred :=
        if (x.handle.map live.contains).getD false then { x with words := x.words ++ [regKey l (dReg v d)] } else x
      let s := s.updCur ls fun l ln => { ln with unsealed := [], due := ln.due.map (cover l) }
      .next (s.retire ls)
    else .next (s.park ls (.slot 1))

end Sys2Proof.Machine
end

