-- ==== Sys2Proof/Machine/Engine.lean ====
section
/-! DEFINITION. How the copy engine reaches memory: segments and their checks (R205, R433, Table 21-2), requests to other
modules and hosts, the presence bits that an issue clears (R105), and how an operation ends (R197, R434). -/

namespace Sys2Proof.Machine

open Sys2Proof

/-! ## Segments -/

/-- A byte range cut at 64 KiB boundaries, so that each part has one page's attributes or lies in one window; the first
number bounds the parts. -/
def segments : Nat → Nat → Nat → List (Nat × Nat)
  | 0, _, _ => []
  | k + 1, va, n =>
    if n == 0 then []
    else
      let m := Nat.min n (2 ^ 16 - va % 2 ^ 16)
      (va, m) :: segments k (va + m) (n - m)

def segmentsOf (va n : Nat) : List (Nat × Nat) := segments (n / 2 ^ 16 + 2) va n

/-- A range of another module's or a host's bytes cut at 128-byte lines. -/
def linesOf : Nat → Nat → Nat → List (Nat × Nat)
  | 0, _, _ => []
  | k + 1, a, n =>
    if n == 0 then []
    else
      let m := Nat.min n (128 - a % 128)
      (a, m) :: linesOf k (a + m) (n - m)

def Loc.lines (l : Loc) (n : Nat) : List (Loc × Nat) :=
  match l with
  | .remote d a => (linesOf (n / 128 + 2) a n).map fun p => (.remote d p.1, p.2)
  | .host w a => (linesOf (n / 128 + 2) a n).map fun p => (.host w p.1, p.2)
  | _ => []

/-- The segment breaks R164, judged on the guard state at issue (Table 21-2). -/
def State.engBreaks (s : State) (b : Block) (h : Handle) (p : Place) (w : Bool) : Bool :=
  s.isDet b && !h.guarded && p.isOpen && (w || ((p.leaf.map fun l => l.perm.getLsbD 1).getD false))

/-! ## Reading -/

/-- Bytes that must be asked for: their place, how many, and the view of another module's granules that they are read in. -/
abbrev Need := Loc × Nat × Option (Nat × Nat)

/-- What an engine's read gives: bytes, the cause that ends the operation, or what must be asked for. -/
inductive Got where
  | ok (bs : List Byte)
  | flaw (f : Flaw)
  | away (ls : List Need)

/-- The first granule of a range that is poisoned for a reader in the child's view. -/
def State.viewPoisonIn (s : State) (job f c va n : Nat) : Option Nat :=
  ((List.range (n / 128 + 2)).find? fun j =>
    decide (granule va + 128 * j < va + n) && s.viewPoisoned viewFuel job (.child f c) (granule va + 128 * j)).map
      fun j => max va (granule va + 128 * j)

/-- One segment read for the operation of handle `h`. -/
def State.engRead1 (s : State) (b : Block) (h : Handle) (va n : Nat) : Got :=
  match s.place b (s.jobOf b) va n .read with
  | .error f => .flaw f
  | .ok p =>
    if s.engBreaks b h p false then .flaw ⟨0x17, 0, va⟩
    else
      match p.loc with
      | .phys _ | .scratch _ _ | .reg _ _ =>
        match s.poisonIn (s.jobOf b) p n with
        | some d => .flaw ⟨0x1A, 0, va + d⟩
        | none =>
          match p.loc with
          | .phys _ =>
            if p.viewed then .ok (s.viewBytes (s.jobOf b) .root va n) else .ok (s.homeBytes (s.jobOf b) p n)
          | _ => .ok (s.homeBytes (s.jobOf b) p n)
      | .view f c _ =>
        match s.viewPoisonIn (s.jobOf b) f c va n with
        | some a => .flaw ⟨0x1A, 0, a⟩
        | none => .ok (s.viewBytes (s.jobOf b) (.child f c) va n)
      | .remote _ _ | .host _ _ =>
        let parts := (p.loc.lines n).map fun l => (l, answerIn h.replies l.1 l.2 false)
        let missing := (parts.filter fun x => x.2.isNone).map fun x => x.1
        if !missing.isEmpty then .away (missing.map fun l => (l.1, l.2, p.viewTag b.view))
        else if parts.any fun x => (x.2.map fun r => r.2).getD false then .flaw ⟨0x1A, 0, va⟩
        else .ok (parts.flatMap fun x => (x.2.map fun r => r.1).getD [])

def Got.join (x y : Got) : Got :=
  match x, y with
  | .flaw f, _ => .flaw f
  | _, .flaw f => .flaw f
  | .away k, .away m => .away (k ++ m)
  | .away k, .ok _ => .away k
  | .ok _, .away m => .away m
  | .ok xs, .ok ys => .ok (xs ++ ys)

/-- A byte range read, segment by segment. -/
def State.engRead (s : State) (b : Block) (h : Handle) (va n : Nat) : Got :=
  ((segmentsOf va n).map fun p => s.engRead1 b h p.1 p.2).foldl Got.join (.ok [])

/-- Several ranges read, their bytes joined. -/
def State.engReads (s : State) (b : Block) (h : Handle) (rs : List (Nat × Nat)) : Got :=
  (rs.map fun r => s.engRead b h r.1 r.2).foldl Got.join (.ok [])

/-- Places asked for on behalf of `who`; the tags awaited. -/
def State.askFor (s : State) (core job : Nat) (who : Asker) (ls : List Need) : State × List Nat :=
  (dedupe ls).foldl (fun acc l =>
    match l.1 with
    | .remote d a =>
      let (t, s) := acc.1.request core job d who 0 l.2.1 l.1 .readReq (.readReq a l.2.1) l.2.2
      (s, acc.2 ++ [t])
    | .host w a =>
      let t := acc.1.freshTag
      let s := { acc.1 with hostReads := acc.1.hostReads ++ [HostRead.mk t w a l.2.1 who (s.coreClock 0)] }
      (s.send (.read w ((s.host w).hwbase + a) l.2.1 t), acc.2 ++ [t])
    | _ => acc) (s, [])

/-- The bytes that a read waits for are asked for; the handle keeps the tags. -/
def State.engAsk (s : State) (b : Block) (h : Handle) (ls : List Need) : State :=
  let (s, tags) := s.askFor b.core (s.jobOf b) (.engine b.key h.slot h.gen) ls
  s.updBlock b.key fun k => k.updHandle h.slot h.gen fun h => { h with tags := h.tags ++ tags }

/-- The budget class of an operation's traffic (R198). -/
def Handle.class (h : Handle) : Nat := if h.kind == 4 then 4 else 1

/-- The lines of a range that an operation has read or written, as traffic of its class through the die's L2; each access
counts in its retention range (R70, R112, R198). -/
def State.engTouch (s : State) (b : Block) (h : Handle) (w : Bool) (va n : Nat) : State :=
  let job := s.jobOf b
  (linesOf (n / 128 + 2) va n).foldl (fun s l =>
    match s.place b job l.1 l.2 (if w then .write else .read) with
    | .ok ⟨.phys pa, _⟩ =>
      let kept := s.retainedIn b.core job l.1
      (s.fillTlb b.core job l.1).traffic (dieOf b.core) h.class pa l.2 w kept
    | .ok ⟨.view _ _ _, _⟩ => (s.fillTlb b.core job l.1).charge (dieOf b.core) h.class l.2
    | _ => s) s

/-! ## Writing -/

/-- The cause that ends the operation at a segment to be written. -/
def State.engWriteFlaw (s : State) (b : Block) (h : Handle) (va n : Nat) : Option Flaw :=
  match s.place b (s.jobOf b) va n .write with
  | .error f => some f
  | .ok p =>
    let reserved := (p.leaf.map fun l => l.view && !ropAccepts l.rop.toNat l.rtype.toNat).getD false
    if reserved then some ⟨0x11, 5, va⟩
    else if p.viewed && s.frozen (s.jobOf b) b.view then some ⟨0x16, 0, va⟩
    else if s.engBreaks b h p true then some ⟨0x17, 0, va⟩
    else none

/-- One segment written. -/
def State.engWrite1 (s : State) (b : Block) (h : Handle) (va : Nat) (bs : List Byte) : State :=
  let s := s.engTouch b h true va bs.length
  match s.place b (s.jobOf b) va bs.length .write with
  | .error _ => s
  | .ok p =>
    match p.loc with
    | .phys pa => s.pokePhys pa bs
    | .scratch k off => (s.padWrite k off bs).clearResv p.loc bs.length fun _ _ _ => false
    | .reg d off => s.writeWindow d off bs
    | .view f c _ => s.viewWrites (bs.length / 128 + 2) (.child f c) (s.jobOf b) va bs
    | .host w off => s.windowWrite w off bs
    | .remote dev x =>
      let one (acc : State × List Nat) (l : Nat × Nat) : State × List Nat :=
        let o := l.1 % 128
        let data := List.replicate o 0 ++ (bs.drop (l.1 - x)).take l.2 ++ List.replicate (128 - o - l.2) 0
        let mask := maskOf ((List.range l.2).map fun j => o + j)
        let view := p.viewTag b.view
        let (t, s) := (acc.1.noteAway view dev l.1).request b.core (acc.1.jobOf b) dev (.engine b.key h.slot h.gen) va 128
          (.remote dev (l.1 - o)) .write (.write (l.1 - o) (BitVec.ofNat 128 mask) data) view
        (s, acc.2 ++ [t])
      let (s, tags) := (linesOf (bs.length / 128 + 2) x bs.length).foldl one (s, [])
      s.updBlock b.key fun k => k.updHandle h.slot h.gen fun h => { h with tags := h.tags ++ tags }

/-- Ranges written in order, up to the first segment that fails. -/
def State.engWrites (s : State) (b : Block) (h : Handle) (ws : List (Nat × List Byte)) : State × Option Flaw :=
  let parts := ws.flatMap fun w => (segmentsOf w.1 w.2.length).map fun p => (p.1, (w.2.drop (p.1 - w.1)).take p.2)
  parts.foldl (fun acc p =>
    match acc.2 with
    | some f => (acc.1, some f)
    | none =>
      match acc.1.engWriteFlaw b h p.1 p.2.length with
      | some f => (acc.1, some f)
      | none => (acc.1.engWrite1 b h p.1 p.2, none)) (s, none)

/-- Granules of a range that a child's writes touch and that it has no private copy of. -/
def State.engGranules (s : State) (b : Block) (va n : Nat) : List (Nat × Nat × Nat) :=
  (List.range (n / 128 + 2)).filterMap fun j =>
    let a := max va (granule va + 128 * j)
    if va + n ≤ a then none
    else
      match s.place b (s.jobOf b) a 1 .write with
      | .ok ⟨.view f c _, _⟩ => some (f, c, granule a)
      | _ => none

/-- Slots of the twin pool for every write of the operation (R128, R139). -/
def State.engSlots (s : State) (b : Block) (rs : List (Nat × Nat)) : State × Pool :=
  match dedupe (rs.flatMap fun r => s.engGranules b r.1 r.2) with
  | [] => (s, .open)
  | (k, c, g) :: r =>
    let die := ((s.leaf? b.core (s.jobOf b) g).map fun l => dieOfAddr l.addr).getD 0
    let (s, p) := s.takeSlots die k c (s.slotsFor ((k, c, g) :: r)) 70000
    (s, if (s.block? b.key).isNone then .gone else p)

/-! ## At issue (R105, R159) -/

/-- Chunks of scratchpad that destination ranges touch, once each. -/
def State.destChunks (s : State) (b : Block) (rs : List (Nat × Nat)) : List (Nat × Nat) :=
  dedupe (rs.flatMap fun r =>
    match padOffset? r.1 with
    | none => []
    | some x =>
      if r.2 == 0 then []
      else
        let (k, off) := s.padByte b x
        let size := ((s.block? k).map Block.padBytes).getD 0
        let last := Nat.min (off + r.2) size
        if last ≤ off then [] else (Loc.scratch k off).chunks (last - off))

/-- The source's dirty L1 bytes go to L2, and its write-combining entries to their homes. -/
def State.flushSource (s : State) (b : Block) (rs : List (Nat × Nat)) : State :=
  let set : ByteSet := some (rs.flatMap fun r => s.keyRanges b.core (s.jobOf b) (r.2 / 2 ^ 16 + 2) r.1 r.2)
  (s.writeBack b.core set).drainWhere b.core fun e => set.meets e.key 128

/-- The destination ranges hold data of an open page or of the partner's scratchpad (R139). -/
def State.engOutside (s : State) (b : Block) (rs : List (Nat × Nat)) : Bool :=
  rs.any fun r => (segmentsOf r.1 r.2).any fun p =>
    match s.place b (s.jobOf b) p.1 p.2 .write with
    | .ok q => q.isOpen || match q.loc with | .scratch k _ => k != b.key | _ => false
    | .error _ => false

/-! ## The end of an operation -/

/-- A deferred failure of one lane's part of an operation (R434). -/
def Handle.deferred (h : Handle) (b : Block) (l : Nat) (f : Flaw) : Deferred :=
  { cls := 0x14, sub := f.cls, addr := BitVec.ofNat 64 f.addr, info := 0, info2 := handleValue h.slot h.kind h.gen,
    handle := some (h.slot, h.gen), words := b.reportKeys h l, now := false }

/-- Failures found are handed to the lanes whose parts they ended. -/
def State.engFail (s : State) (b : Block) (h : Handle) (fs : List (Nat × Flaw)) : State :=
  match s.block? b.key with
  | none => s
  | some b => if fs.isEmpty then s else s.deferTo b.key h.strand (fs.map fun f => (f.1, h.deferred b f.1 f.2))

/-- Clean bytes of the destinations in the issuing core's L1 are discarded, so that reads ordered after the copy see its
data (Table 7-3). -/
def State.dropDest (s : State) (b : Block) (rs : List (Nat × Nat)) : State :=
  if rs.isEmpty then s
  else s.discard b.core (some (rs.flatMap fun r => s.keyRanges b.core (s.jobOf b) (r.2 / 2 ^ 16 + 2) r.1 r.2))

/-- The handle's operation, when the handle is pending, the block holds a core, and no request is outstanding. -/
def State.engReady (s : State) (blk slot : Nat) : Option (Block × Handle) :=
  match s.block? blk with
  | none => none
  | some b =>
    match b.handles.find? fun h => h.slot == slot && !h.done with
    | some h => if b.resident && s.clocksRun && !h.tags.any s.outstanding then some (b, h) else none
    | none => none

def State.updHandle (s : State) (b : Block) (h : Handle) (f : Handle → Handle) : State :=
  s.updBlock b.key fun k => k.updHandle h.slot h.gen f

/-- A step of the engine for a handle's operation, if it can be made now and its budget class has credit (R71, R198). -/
def State.withEngine (s : State) (blk slot : Nat) (go : Block → Handle → State) : State :=
  match s.engReady blk slot with
  | none => s
  | some (b, h) => s.underCredit h.class [dieOf b.core] fun _ => go b h

/-- The destination ranges of a collective: its result, its log ring and its receive area. -/
def CollOp.dest (c : CollOp) (bytes : Nat) : List (Nat × Nat) :=
  [(c.dst, bytes), (((c.ranks.getD c.this ⟨0, [], 0, 0⟩).inbox), 4 * c.chunk)]

/-- The destination ranges of an operation, as far as its record tells them. -/
def EngOp.dest : EngOp → List (Nat × Nat)
  | .lanes n ms => ms.map fun m => (m.2.1, n)
  | .tile ds => ds.flatMap fun d => if d.2.mcast then [] else
      (List.range d.2.nrow).map fun r => ((d.2.dst + r * d.2.dpitch) % 2 ^ 64, d.2.rowb)
  | .pack ds | .expand ds => ds.flatMap fun d => [(d.2.dst, Nat.min d.2.dcap (2 ^ 35)), (d.2.res, 8)]
  | .ckpt cs => cs.map fun c => (c.2.res, 72)
  | .coll cs => cs.flatMap fun c => c.2.dest (c.2.count * (NumType.width c.2.typ / 8))
  | .stopped d => d
  | .batch _ | .fork _ | .idle => []

/-- Deliveries of the operation are outstanding (R203). -/
def EngOp.delivering : EngOp → Bool
  | .tile ds => ds.any fun d => !d.2.targets.isEmpty
  | _ => false

/-- The handle completes when its segments are placed and acknowledged, and its deliveries done. -/
def State.engFinish (s : State) (blk slot gen : Nat) : State :=
  match (s.block? blk).bind fun b => (b.handle? slot gen).map fun h => (b, h) with
  | none => s
  | some (b, h) =>
    if h.written && !h.done && !h.op.delivering && !h.tags.any s.outstanding then
      (s.dropDest b h.op.dest).completeHandle blk slot gen
    else s

end Sys2Proof.Machine
end

