-- ==== Sys2Proof/Machine/Copy.lean ====
section
/-! DEFINITION. The ENG instructions that threads issue: lane copies, tile copies, compression, checkpoints, HTEST,
HCANCEL and the stage operations (R194 to R209, R213, R360 to R362). COLL stands in Coll.lean. -/

namespace Sys2Proof.Machine

open Sys2Proof

/-! ## Issuing -/

/-- Strands that may issue copies (Table 2-3). -/
def copyRoles : List Role := [.general, .copy]

/-- What an issue of `n` entries waits for: the queue, then the handle table (R194, R196). -/
def State.engGrant (s : State) (b : Block) (i n : Nat) : Option Park :=
  if !s.queueGrant b i n then some (.queue n) else if !s.slotGrant b 1 then some (.slot 1) else none

/-- An operation issued: source flushed, `more` of it once that has been, presence bits cleared, handle written, lanes go
on. -/
def State.engIssue (s : State) (u : Uses) (b : Block) (st : Strand) (ls : List Nat) (reg : Nat) (h : NewHandle)
    (src dest : List (Nat × Nat)) (outside : Bool) (more : State → State := id) : State :=
  let s := more ((s.settle u b st ls).flushSource b src)
  let cleared := s.destChunks b dest
  let (w, r, s) := (s.absentBy cleared).newHandle b s.cur.strand { h with cleared := cleared } (ls.map fun l => regKey l reg)
  let s := (s.giveHandle u st ls reg w false).noteIssued ls r
  (s.markOutside b.key (outside || s.engOutside b dest)).retire ls

/-! ## Lane copies (R199, R360) -/

def usesLaneCopy (d a b : BitVec 7) (v : Adverb) : Uses :=
  { srcs := [(srcA v a).pair.clean, (srcB v b).pair.clean], dsts := [dstD v d], roles := copyRoles }

/-- The faults of one lane's addresses (R360, Table 21-1). -/
def State.laneCopyFlaws (s : State) (b : Block) (n l dst src : Nat) : List LaneFault :=
  let f (c sub addr : Nat) (w : Bool) : LaneFault :=
    { lane := l, cls := c, sub := sub, addr := addr, info := n + (if w then 256 else 0), info2 := 0 }
  let pad (va : Nat) (w : Bool) : List LaneFault :=
    match padOffset? va with
    | none => []
    | some x =>
      match s.padPlace b x n with
      | .error e => [f e.cls e.sub (e.addr + windowBase) w]
      | .ok _ => []
  (if src % n != 0 then [f 0x12 0 src false] else []) ++ (if dst % n != 0 then [f 0x12 0 dst true] else []) ++
  (if n < 16 && (padOffset? dst).isSome then [f 0x12 2 dst true] else []) ++ pad src false ++ pad dst true

def State.laneCopy (s : State) (n : Nat) (d a b : BitVec 7) (v : Adverb) : Result :=
  let u := usesLaneCopy d a b v
  let move (st : Strand) (l : Nat) : Nat × Nat × Nat :=
    (l, (st.pair l (aReg v a)).toNat, (st.pair l (bReg v b)).toNat)
  let late : Late := fun s blk st ls => (ls.map (move st)).flatMap fun m => s.laneCopyFlaws blk n m.1 m.2.1 m.2.2
  match s.gate u late with
  | .stop s => .next s
  | .go s blk st ls =>
    match s.engGrant blk s.cur.strand 1 with
    | some p => .next (s.park ls p)
    | none =>
      let ms := ls.map (move st)
      .next (s.engIssue u blk st ls (dReg v d) { kind := 0, op := .lanes n ms, entries := 1 }
        (ms.map fun m => (m.2.2, n)) (ms.map fun m => (m.2.1, n)) false)

def execCpy4 (d a b : BitVec 7) (v : Adverb) (s : State) : Result := s.laneCopy 4 d a b v

def execCpy8 (d a b : BitVec 7) (v : Adverb) (s : State) : Result := s.laneCopy 8 d a b v

def execCpy16 (d a b : BitVec 7) (v : Adverb) (s : State) : Result := s.laneCopy 16 d a b v

/-! ## Descriptors -/

def usesDesc (d a : BitVec 7) (v : Adverb) : Uses :=
  { srcs := [(srcA v a).pair.clean], dsts := [dstD v d], roles := copyRoles }

/-- A lane's read of its 64-byte descriptor, a relaxed load. -/
def descAcc (st : Strand) (a : BitVec 7) (v : Adverb) (l : Nat) : Acc :=
  { lane := l, va := (st.pair l (aReg v a)).toNat, n := 64, pad := false, way := .read, acq := 0 }

/-- What an instruction makes of its lanes' descriptors: lane, address, value. -/
structure DescOp where
  kind : Nat
  op : State → Block → List (Nat × Nat × Nat) → EngOp
  src : List (Nat × Nat × Nat) → List (Nat × Nat)
  dest : List (Nat × Nat × Nat) → List (Nat × Nat)
  /-- an effect outside a view whatever the destination (R139) -/
  outside : List (Nat × Nat × Nat) → Bool := fun _ => false
  /-- what of its source it writes back once `src` has been -/
  more : Block → List (Nat × Nat × Nat) → State → State := fun _ _ s => s

/-- The course of an engine instruction with a descriptor: checks and reads at issue (R433), then its handle. -/
def State.descInstr (s : State) (k : DescOp) (d a : BitVec 7) (v : Adverb) : Result :=
  let u := usesDesc d a v
  let i := s.cur.strand
  let late : Late := fun s b st ls => ls.flatMap fun l => s.accChecks b st i 64 1 false (descAcc st a v l)
  match s.gate u late with
  | .stop s => .next s
  | .go s b st ls =>
    let as := s.reach b (ls.map (descAcc st a v))
    match s.accHold b i as with
    | some p => .next (s.park ls p)
    | none =>
      match s.engGrant b i ls.length with
      | some p => .next (s.park ls p)
      | none =>
        let (s, got, tags) := as.foldl (State.loadLane b i (u.tainted st)) (s, [], [])
        if tags.isEmpty then
          let ds := got.map fun g => (g.1, (st.pair g.1 (aReg v a)).toNat, leNat g.2)
          .next (s.engIssue u b st ls (dReg v d) { kind := k.kind, op := k.op s b ds, entries := ls.length }
            (k.src ds) (k.dest ds) (k.outside ds) (k.more b ds))
        else .next (s.park ls (.reply tags))

/-! ## Tile copies (R201 to R203) -/

/-- The blocks that a multicast names (R202): row mask, column mask. -/
def State.cluster (s : State) (b : Block) (rowm colm : Nat) : List Nat :=
  let n := ((s.grid? b.grid).map fun g => g.launch.nblk).getD 0
  ((List.range 36).filter fun p => bit rowm (p / 6) && bit colm (p % 6)).filterMap fun p =>
    let x := b.index / 36 * 36 + p
    if x < n then some x else none

/-- Table 9-1. -/
def State.tileDesc (s : State) (b : Block) (at' x : Nat) : TileDesc :=
  let rowm := bits x 232 6
  let colm := bits x 240 6
  let mc := bit x 224
  { src := bits x 0 64, dst := bits x 64 64, rowb := bits x 128 16, nrow := bits x 144 16, spitch := bits x 160 32,
    dpitch := bits x 192 32, mcast := mc, rowm := BitVec.ofNat 6 rowm, colm := BitVec.ofNat 6 colm,
    ring := bits x 256 32, slot := bits x 288 6, phase := bit x 294,
    targets := if mc then s.cluster b rowm colm else [], desc := at' }

/-- The rows of a tile from `base` on. -/
def tileRows (base pitch rowb nrow : Nat) : List (Nat × Nat) :=
  (List.range nrow).map fun r => ((base + r * pitch) % 2 ^ 64, rowb)

def TileDesc.srcRows (t : TileDesc) : List (Nat × Nat) := tileRows t.src t.spitch t.rowb t.nrow

def TileDesc.dstRows (t : TileDesc) : List (Nat × Nat) := tileRows t.dst t.dpitch t.rowb t.nrow

def State.tiles (s : State) (b : Block) (ds : List (Nat × Nat × Nat)) : List (Nat × TileDesc) :=
  ds.map fun d => (d.1, s.tileDesc b d.2.1 d.2.2)

/-- Rows that a tile descriptor's value gives. -/
def rawRows (x : Nat) (dst : Bool) : List (Nat × Nat) :=
  if dst then (if bit x 224 then [] else tileRows (bits x 64 64) (bits x 192 32) (bits x 128 16) (bits x 144 16))
  else tileRows (bits x 0 64) (bits x 160 32) (bits x 128 16) (bits x 144 16)

/-- A multicast counts as a partner-window store (R203). -/
def execCpyt (d a : BitVec 7) (v : Adverb) (s : State) : Result :=
  s.descInstr
    { kind := 1, op := fun s b ds => .tile (s.tiles b ds), src := fun ds => ds.flatMap fun x => rawRows x.2.2 false,
      dest := fun ds => ds.flatMap fun x => rawRows x.2.2 true,
      outside := fun ds => ds.any fun x => bit x.2.2 224 } d a v

/-! ## Compression and expansion (R209) -/

/-- Table 9-4. -/
def packDesc (at' x : Nat) : PackDesc :=
  { src := bits x 0 64, dst := bits x 64 64, count := bits x 128 32, f64 := bit x 160, eb := BitVec.ofNat 64 (bits x 192 64),
    dcap := bits x 256 64, res := bits x 320 64, desc := at' }

/-- The most bytes that a CPYZ stream of the descriptor takes. -/
def PackDesc.bound (p : PackDesc) : Nat := 16 + (p.count + 31) / 32 + p.count * packSize p.f64

def packs (ds : List (Nat × Nat × Nat)) : List (Nat × PackDesc) := ds.map fun d => (d.1, packDesc d.2.1 d.2.2)

/-- Destination ranges: `cap` gives the bytes at DSTADR. -/
def packDest (cap : PackDesc → Nat) (ds : List (Nat × Nat × Nat)) : List (Nat × Nat) :=
  (packs ds).flatMap fun p => [(p.2.dst, cap p.2), (p.2.res, 8)]

def execCpyz (d a : BitVec 7) (v : Adverb) (s : State) : Result :=
  s.descInstr
    { kind := 2, op := fun _ _ ds => .pack (packs ds),
      src := fun ds => (packs ds).map fun p => (p.2.src, p.2.count * packSize p.2.f64),
      dest := packDest fun p => Nat.min p.dcap p.bound } d a v

/-- What the issue of an operation reads with: a handle that holds no answers. -/
def Block.probe (b : Block) (i : Nat) : Handle :=
  { slot := 0, kind := 0, gen := 0, done := false, strand := i, words := [], op := .idle, entries := 0, shared := 0,
    cleared := [], guarded := !b.guards.isEmpty, joined := false, replies := [], tags := [], rest := [], last := [],
    written := false }

/-- The issuing core's own writes to a CPYX stream go to memory: as many bytes as the stream's header allows for, since the
descriptor's COUNT and TYPE are ignored (R159, R209); everything, where the header lies elsewhere. -/
def State.flushStream (s : State) (b : Block) (src : Nat) : State :=
  match s.engRead b (b.probe s.cur.strand) src 16 with
  | .ok hd =>
    match streamHeader hd with
    | some (f64, n, _) => s.flushSource b [(src, 16 + (n + 31) / 32 + n * packSize f64)]
    | none => s
  | .away _ => (s.writeBack b.core none).drainWhere b.core fun _ => true
  | .flaw _ => s

def execCpyx (d a : BitVec 7) (v : Adverb) (s : State) : Result :=
  s.descInstr
    { kind := 2, op := fun _ _ ds => .expand (packs ds),
      src := fun ds => (packs ds).map fun p => (p.2.src, 16),
      dest := packDest fun p => Nat.min p.dcap (2 ^ 35),
      more := fun b ds s => (packs ds).foldl (fun s p => s.flushStream b p.2.src) s } d a v

/-! ## Checkpoints (R213) -/

/-- Table 9-8, with the descriptor's bytes. -/
def ckptDesc (at' x : Nat) : CkptOp :=
  { block := leBytes 64 x, base := bits x 0 64, len := bits x 64 64, win := bits x 128 64, cap := bits x 192 64,
    res := bits x 256 64, ctx := bit x 320, ctxLen := 0, done := 0, chain := shaStart, tail := [], ended := false,
    desc := at' }

def execCkpt (d a : BitVec 7) (v : Adverb) (s : State) : Result :=
  s.descInstr
    { kind := 4, op := fun _ _ ds => .ckpt (ds.map fun d => (d.1, ckptDesc d.2.1 d.2.2)),
      src := fun ds => ds.map fun d => ((ckptDesc d.2.1 d.2.2).base, (ckptDesc d.2.1 d.2.2).len),
      dest := fun ds => ds.map fun d => ((ckptDesc d.2.1 d.2.2).res, 72), outside := fun _ => true } d a v

/-! ## HTEST, HCANCEL (R197, R361) -/

/-- A handle is complete (R197). -/
def Block.doneHandle (b : Block) (w : Word) : Bool := ((b.named w).map fun h => h.done).getD true

def handleSrc (v : Adverb) (a : BitVec 7) : Src := { (srcA v a).clean with wait := false }

def execHtest (d a : BitVec 7) (v : Adverb) (s : State) : Result :=
  let u : Uses := { srcs := [handleSrc v a], dsts := [dstD v d] }
  match s.gate u Late.none with
  | .stop s => .next s
  | .go s b st ls =>
    let out (l : Nat) : Word := if b.doneHandle (st.word l (aReg v a)) then 1 else 0
    let s := s.settle u b st ls
    .next ((s.writes (ls.flatMap fun l => u.outs st ls l [(dReg v d, out l)])).retire ls)

/-- HCANCEL on one operation (R197): the engine writes each segment in pieces that end at 128-byte boundaries, one to a
step, so that between two steps it has stopped at one. Nothing further moves, the presence bits are set, and the handle
completes, once what has been sent is acknowledged. -/
def State.cancelOp (s : State) (k : Nat) (h : Handle) : State :=
  if h.done then s
  else
    match h.op with
    | .lanes _ _ | .tile _ | .pack _ | .expand _ | .ckpt _ =>
      let stop (h : Handle) : Handle :=
        { h with op := .stopped h.op.dest, replies := [], rest := [], last := [], written := true }
      (s.updBlock k fun b => b.updHandle h.slot h.gen stop).engFinish k h.slot h.gen
    | .coll _ | .batch _ | .fork _ | .stopped _ | .idle => s

/-- HCANCEL on the handle that a value names. -/
def State.cancel (s : State) (k : Nat) (w : Word) : State :=
  match (s.block? k).bind fun b => b.named w with
  | none => s
  | some h =>
    match h.op with
    | .batch g => g.foldl (fun s e =>
        match (s.block? k).bind fun b => b.handle? e.1 e.2 with
        | some h => s.cancelOp k h
        | none => s) s
    | _ => s.cancelOp k h

def execHcancel (a : BitVec 7) (v : Adverb) (s : State) : Result :=
  let u : Uses := { srcs := [handleSrc v a], roles := copyRoles }
  match s.gate u Late.none with
  | .stop s => .next s
  | .go s b st ls =>
    let s := ls.foldl (fun s l => s.cancel b.key (st.word l (aReg v a))) s
    .next ((s.settle u b st ls).retire ls)

/-! ## Stage operations (R206, R207, R362) -/

/-- A stage word's slot, condition and phase. -/
def stageSlot (w : Word) : Nat := w.toNat % 64

def stageArmed (w : Word) : Bool := bit w.toNat 8

def stagePhase (w : Word) : Bool := bit w.toNat 9

/-- What is wrong with a stage operation on the ring at offset `x` (Table 21-1). -/
def State.stageFlaw (s : State) (b : Block) (x : Nat) (w : Word) : Option (Nat × Nat × Nat) :=
  if x % 64 != 0 then some (0x12, 1, x)
  else
    match s.padPlace b x 64 with
    | .error f => some (f.cls, f.sub, f.addr)
    | .ok _ =>
      let nslot := b.padNat x 1
      let ncons := b.padNat (x + 1) 1
      let slotch := b.padNat (x + 2) 2
      let base := b.padNat (x + 4) 4
      if bit x 22 || nslot == 0 || decide (nslot ≤ stageSlot w) || ncons == 0 || decide (16 < ncons) ||
          decide (b.padBytes < base + 512 * slotch * nslot) || (w &&& ~~~(0x33F : Word)) != 0 then
        some (0x13, 3, x)
      else none

/-- Bytes of a block's own scratchpad replaced by an update of the core. -/
def State.padPoke (s : State) (k off n x : Nat) : State :=
  (s.padWrite k off (leBytes n x)).clearResv (.scratch k off) n fun _ _ _ => false

/-- A number with bit `i` set to `v`. -/
def withBit (x i : Nat) (v : Bool) : Nat := x - ofFlag (bit x i) * 2 ^ i + ofFlag v * 2 ^ i

/-- The slot is armed. -/
def State.armStage (s : State) (b : Block) (ring slot : Nat) : State :=
  s.padPoke b.key (ring + 16) 8 (withBit (b.padNat (ring + 16) 8) slot true)

/-- One flip of the slot (R207). -/
def State.flipStage (s : State) (b : Block) (ring slot : Nat) : State :=
  let at' := ring + 24 + slot / 2
  let byte := b.padNat at' 1
  let sh := slot % 2 * 4
  let n := bits byte sh 4 + 1
  let put (c : Nat) : Nat := byte - bits byte sh 4 * 2 ^ sh + c * 2 ^ sh
  if n == b.padNat (ring + 1) 1 then
    let phase := b.padNat (ring + 8) 8
    let s := s.padPoke b.key at' 1 (put 0)
    let s := s.padPoke b.key (ring + 16) 8 (withBit (b.padNat (ring + 16) 8) slot false)
    s.padPoke b.key (ring + 8) 8 (withBit phase slot (!bit phase slot))
  else s.padPoke b.key at' 1 (put (n % 16))

def usesStage (a b : BitVec 7) (v : Adverb) (low : Nat) (report : Bool) : Uses :=
  { srcs := [{ (srcA v a).clean with once := true }, { (srcB v b).clean with once := true }], low := low,
    report := fun d => report && reportsMatrix d }

/-- The course of a stage operation, which acts once per issue on the lowest active lane's operands. `release` marks the
operations that wait for the matrix engine (R339). -/
def State.stageInstr (s : State) (a b : BitVec 7) (v : Adverb) (release : Bool)
    (act : State → Block → List Nat → Nat → Word → State) : Result :=
  let low := s.cur.lanes.headD 0
  let u := usesStage a b v low release
  let late : Late := fun s blk st ls =>
    let bad (r : Nat) := (st.reg low r).poison
    if !ls.contains low || bad (aReg v a) || bad (bReg v b) then []
    else
      match s.stageFlaw blk (st.word low (aReg v a)).toNat (st.word low (bReg v b)) with
      | none => []
      | some (c, sub, addr) => s.cur.lanes.map fun l =>
          { lane := l, cls := c, sub := sub, addr := addr, info := 64 + (if release then 256 else 0), info2 := 0 }
  match s.gate u late with
  | .stop s => .next s
  | .go s blk st ls =>
    match if release then blk.matDrain s.cur.strand else none with
    | some g => .next (s.park ls (.engine g))
    | none =>
      let s := s.settle u blk st ls
      .next (act s ((s.block? blk.key).getD blk) ls (st.word low (aReg v a)).toNat (st.word low (bReg v b)))

def execStgarm (a b : BitVec 7) (v : Adverb) (s : State) : Result :=
  s.stageInstr a b v true fun s blk ls ring w => (s.armStage blk ring (stageSlot w)).retire ls

def execStgwait (a b : BitVec 7) (v : Adverb) (s : State) : Result :=
  s.stageInstr a b v false fun s blk ls ring w =>
    if blk.stageIs ring (stageSlot w) (stageArmed w) (stagePhase w) then s.retire ls
    else s.park ls (.stage ring (stageSlot w) (stageArmed w) (stagePhase w))

def execStgflip (a b : BitVec 7) (v : Adverb) (s : State) : Result :=
  s.stageInstr a b v true fun s blk ls ring w => (s.flipStage blk ring (stageSlot w)).retire ls

end Sys2Proof.Machine
end

