-- ==== Sys2Proof/Machine/Coll.lean ====
section
/-! DEFINITION. Collectives: COLL and the receipt of a chunk (R210 to R212, R435, Tables 9-5 to 9-7). -/

namespace Sys2Proof.Machine

open Sys2Proof

/-! ## The request block -/

/-- Table 9-6. -/
def rankEntry (x : Nat) : RankEntry :=
  { parent := bits x 0 32, children := (List.range (Nat.min 4 (bits x 32 3))).map fun j => bits x (64 + 32 * j) 32,
    dev := bits x 40 4, inbox := bits x 192 64 }

/-- NCHILD above 4. -/
def badRank (x : Nat) : Bool := decide (4 < bits x 32 3)

def noParent : Nat := 0xFFFFFFFF

/-- Rank `i` climbs to a root within `n` steps. -/
def climbs (rs : List RankEntry) : Nat → Nat → Bool
  | 0, _ => false
  | n + 1, i =>
    match rs[i]? with
    | none => false
    | some r => r.parent == noParent || climbs rs n r.parent

/-- The entries form one tree with one root (R211). -/
def isTree (rs : List RankEntry) : Bool :=
  let n := rs.length
  let parentOf (i : Nat) : Nat := ((rs[i]?).map fun r => r.parent).getD 0
  (rs.filter fun r => r.parent == noParent).length == 1 &&
  ((List.range n).all fun i =>
    match rs[i]? with
    | none => false
    | some r =>
      climbs rs (n + 1) i &&
      (dedupe r.children).length == r.children.length && r.children.all fun c => decide (c < n) && parentOf c == i) &&
  (rs.map fun r => r.children.length).foldl (· + ·) 0 + 1 == n

/-- ROP is one that Table 9-5 allows with the KIND and the TYPE. -/
def ropAllowed (kind rop typ : Nat) : Bool :=
  if kind == 2 then rop == 0 else decide (1 ≤ rop) && decide (rop ≤ 3) || (decide (4 ≤ rop) && decide (rop ≤ 6) && decide (typ ≤ 7))

/-- NRANK of a header, if entries follow it (R212 reads them with it). -/
def rankCount (header : List Byte) : Nat :=
  let n := leNat ((header.drop 4).take 4)
  if n ≤ 4096 then n else 0

/-- The collective of a block as read at issue, and whether its fields are ones that Table 21-2 accepts. -/
def collOf (at' : Nat) (block : List Byte) : CollOp × Bool :=
  let x := leNat (block.take 64)
  let n := rankCount block
  let raw := (List.range n).map fun i => leNat ((block.drop (64 + 32 * i)).take 32)
  let ranks := raw.map rankEntry
  let kind := bits x 0 4
  let typ := bits x 8 4
  let chunk := bits x 96 32
  let this := bits x 64 32
  let ok := decide (kind ≤ 2) && decide (typ ≤ 11) && ropAllowed kind (bits x 4 4) typ && n != 0 && decide (this < n) &&
    chunk != 0 && chunk % 256 == 0 && decide (chunk ≤ 1048576) && !raw.any badRank && isTree ranks
  ({ block := block, kind := kind, rop := bits x 4 4, typ := numTypeOf typ, this := this, chunk := chunk,
     count := bits x 128 64, src := bits x 192 64, dst := bits x 256 64, ranks := ranks, upNext := 0, dnNext := 0,
     inbox := [], desc := at', failed := !ok }, ok)

/-- The block with THIS read as zero (R212), which names the collective. -/
def CollOp.name (c : CollOp) : List Byte := c.block.take 8 ++ [0, 0, 0, 0] ++ c.block.drop 12

def CollOp.logAddr (c : CollOp) : Nat := leNat ((c.block.drop 40).take 8)

/-! ## The log ring (R212, Table 9-7) -/

/-- The digest appended at issue; the cause, if the ring cannot be used. A ring on a page of another module is outside
R210's terms, and is left alone. -/
def State.logColl (s : State) (b : Block) (h : Handle) (c : CollOp) : State × Option Flaw :=
  match s.engRead b h c.logAddr 32 with
  | .flaw f => (s, some f)
  | .away _ => (s, none)
  | .ok hd =>
    let x := leNat hd
    let log := bits x 64 5
    if 24 < log then (s, some ⟨0x42, 0, c.desc⟩)
    else
      let prod := bits x 128 64
      s.engWrites b h [((bits x 0 64 + 64 * (prod % 2 ^ log)) % 2 ^ 64, sha512 c.name),
        ((c.logAddr + 16) % 2 ^ 64, leBytes 8 (prod + 1))]

/-- The ring's header and entry that the append writes, for their twin-pool slots. -/
def State.logRanges (s : State) (b : Block) (h : Handle) (c : CollOp) : List (Nat × Nat) :=
  match s.engRead b h c.logAddr 32 with
  | .ok hd =>
    let x := leNat hd
    [((bits x 0 64 + 64 * (bits x 128 64 % 2 ^ bits x 64 5)) % 2 ^ 64, 64), ((c.logAddr + 16) % 2 ^ 64, 8)]
  | _ => []

/-- The lines of the log ring that an append may have written: its header and the entry before PROD. -/
def State.logLines (s : State) (b : Block) (h : Handle) (c : CollOp) : List (Nat × Nat) :=
  (c.logAddr, 32) ::
  match s.engRead b h c.logAddr 32 with
  | .ok hd =>
    let x := leNat hd
    [(bits x 0 64, 64 * 2 ^ Nat.min 24 (bits x 64 5))]
  | _ => []

/-! ## COLL -/

/-- A lane's read of an entry of its request block. -/
def entryAcc (st : Strand) (a : BitVec 7) (v : Adverb) (l i : Nat) : Acc :=
  { lane := l, va := ((st.pair l (aReg v a)).toNat + 64 + 32 * i) % 2 ^ 64, n := 32, pad := false, way := .read, acq := 0 }

/-- The header of a lane's request block, if it can be read at once. -/
def State.peekHeader (s : State) (b : Block) (i : Nat) (a : Acc) : Option (List Byte) :=
  match s.load (s.ask b i (s.jobOf b) a) (s.placeOf b a) 64 false false with
  | .got bs _ _ => some bs
  | .wait _ _ => none

/-- Bytes of a vector. -/
def CollOp.bytes (c : CollOp) : Nat := c.count * (NumType.width c.typ / 8)

def CollOp.rank (c : CollOp) (i : Nat) : RankEntry := c.ranks.getD i ⟨noParent, [], 0, 0⟩

def CollOp.isRoot (c : CollOp) : Bool := (c.rank c.this).parent == noParent

/-- The rank writes DSTADR. -/
def CollOp.writes (c : CollOp) : Bool := c.kind != 0 || c.isRoot

/-- One lane's collective appended to the log; the flaw that ends it, if any. -/
def State.startColl (b : Block) (h : Handle) (acc : State × List (Nat × CollOp) × List (Nat × Flaw)) (c : Nat × CollOp) :
    State × List (Nat × CollOp) × List (Nat × Flaw) :=
  if c.2.failed then (acc.1, acc.2.1 ++ [c], acc.2.2 ++ [(c.1, ⟨0x42, 0, c.2.desc⟩)])
  else
    match acc.1.logColl b h c.2 with
    | (s, none) => (s, acc.2.1 ++ [c], acc.2.2)
    | (s, some f) => (s, acc.2.1 ++ [(c.1, { c.2 with failed := true })], acc.2.2 ++ [(c.1, f)])

/-- An issue whose header and entries have been read. -/
def State.issueColl (s : State) (u : Uses) (b : Block) (st : Strand) (ls : List Nat) (reg : Nat)
    (cs : List (Nat × CollOp)) : State :=
  let dest := cs.flatMap fun c => if c.2.failed || !c.2.writes then [] else [(c.2.dst, c.2.bytes)]
  let src := cs.flatMap fun c => [(c.2.src, c.2.bytes), (c.2.logAddr, 32)]
  let gen := b.hcount % 65536
  let s := s.engIssue u b st ls reg { kind := 3, op := .coll cs, entries := ls.length } src dest true
  match (s.block? b.key).bind fun k => k.handles.find? fun h => h.gen == gen && !h.done && h.kind == 3 with
  | none => s
  | some h =>
    let (s, cs, fs) := cs.foldl (State.startColl b h) (s, [], [])
    (s.updHandle b h fun h => { h with op := .coll cs }).engFail b h fs

def execColl (d a : BitVec 7) (v : Adverb) (s : State) : Result :=
  let u := usesDesc d a v
  let i := s.cur.strand
  let late : Late := fun s b st ls => ls.flatMap fun l =>
    let hd := descAcc st a v l
    match s.accChecks b st i 64 1 false hd with
    | [] =>
      match s.peekHeader b i hd with
      | none => []
      | some bs => ((List.range (rankCount bs)).findSome? fun j =>
          (s.accChecks b st i 32 1 false (entryAcc st a v l j)).head?).toList
    | fs => fs
  match s.gate u late with
  | .stop s => .next s
  | .go s b st ls =>
    let as := s.reach b (ls.map (descAcc st a v))
    match s.accHold b i as with
    | some p => .next (s.park ls p)
    | none =>
      match s.engGrant b i ls.length with
      | some p => .next (s.park ls p)
      | none =>
        let (s, got, tags) := as.foldl (State.loadLane b i (u.tainted st)) (s, [], [])
        if !tags.isEmpty then .next (s.park ls (.reply tags))
        else
          let more := got.flatMap fun g => (List.range (rankCount g.2)).map (entryAcc st a v g.1)
          let es := s.reach b more
          match s.accHold b i es with
          | some p => .next (s.park ls p)
          | none =>
            let (s, ents, tags) := es.foldl (State.loadLane b i (u.tainted st)) (s, [], [])
            if !tags.isEmpty then .next (s.park ls (.reply tags))
            else
              let cs := got.map fun g =>
                (g.1, (collOf (st.pair g.1 (aReg v a)).toNat
                  (g.2 ++ (ents.filter fun e => e.1 == g.1).flatMap fun e => e.2)).1)
              let probe := b.probe i
              match s.engSlots b (cs.flatMap fun c => if c.2.failed then [] else s.logRanges b probe c.2) with
              | (s, .wait n) => .next (s.park ls (.pool n))
              | (s, .spent) => .next (s.spentFault b ls)
              | (s, .gone) => .next s
              | (s, .open) => .next (s.issueColl u b st ls (dReg v d) cs)

/-! ## Progress (R211) -/

/-- Number of chunks, and the bytes of chunk `k`. -/
def CollOp.chunks (c : CollOp) : Nat := (c.bytes + c.chunk - 1) / c.chunk

def CollOp.chunkBytes (c : CollOp) (k : Nat) : Nat := Nat.min c.chunk (c.bytes - k * c.chunk)

/-- The rank has nothing left to do. -/
def CollOp.finished (c : CollOp) : Bool :=
  c.failed ||
  match c.kind with
  | 0 => decide (c.chunks ≤ c.upNext)
  | 1 => decide (c.chunks ≤ c.upNext) && decide (c.chunks ≤ c.dnNext)
  | _ => decide (c.chunks ≤ c.dnNext)

/-- The slot of a rank's receive area in which it takes a peer's chunks: R210 gives four of CHUNK bytes and no order, and the
model gives each child its own and the parent the last (DESIGN CHOICE, log 71). -/
def CollOp.inSlot (c : CollOp) (me peer : Nat) : Nat :=
  let r := c.rank me
  if r.parent == peer then 3 else (r.children.findIdx? fun j => j == peer).getD 3

/-- Where chunk bytes of a peer lie in the receive area of rank `me`. -/
def CollOp.inPlace (c : CollOp) (me peer : Nat) : Nat := ((c.rank me).inbox + c.inSlot me peer * c.chunk) % 2 ^ 64

/-- The rank has received a chunk of a peer, and not used it yet. -/
def CollOp.has (c : CollOp) (peer k : Nat) : Bool := c.inbox.contains (peer, k)

/-- No chunk stands in the slot that a peer's next one goes to. -/
def CollOp.slotFree (c : CollOp) (peer : Nat) : Bool :=
  c.inbox.all fun m => c.inSlot c.this m.1 != c.inSlot c.this peer

/-- A chunk sent to other ranks: to one of this module, which takes it when its slot is free, or written into the receive
area of one of another module. -/
def State.mailTo (s : State) (b : Block) (h : Handle) (c : CollOp) (k : Nat) (rs : List Nat) (data : List Byte) :
    State × Option Flaw :=
  rs.foldl (fun acc r =>
    match acc.2 with
    | some f => (acc.1, some f)
    | none =>
      if (c.rank r).dev == acc.1.mgmt.dev then
        let m : CollMail :=
          { block := c.name, job := acc.1.jobOf b, sender := c.this, receiver := r, chunk := k, data := data }
        ({ acc.1 with mail := acc.1.mail ++ [m] }, none)
      else acc.1.engWrites b h [(c.inPlace r c.this, data)]) (s, none)

/-- What one step of a rank came to. -/
inductive CollStep where
  /-- nothing can be done now -/
  | idle
  | did (s : State) (c : CollOp)
  | failed (s : State) (f : Flaw)
  /-- it waits for bytes, or for slots of the twin pool -/
  | ask (ls : List Need)
  | hold (s : State)

/-- Chunk `k` of the result written at DSTADR and passed down. -/
def State.collPut (s : State) (b : Block) (h : Handle) (c : CollOp) (k : Nat) (data : List Byte) (down : Bool)
    (c' : CollOp) : CollStep :=
  let at' := (c.dst + k * c.chunk) % 2 ^ 64
  match s.engSlots b [(at', data.length)] with
  | (s, .wait _) => .hold s
  | (s, .gone) => .hold s
  | (s, .spent) => .failed s ⟨0x17, 5, at'⟩
  | (s, .open) =>
    match s.engWrites b h [(at', data)] with
    | (s, some f) => .failed s f
    | (s, none) =>
      match if down then s.mailTo b h c k (c.rank c.this).children data else (s, none) with
      | (s, some f) => .failed s f
      | (s, none) => .did s c'

/-- Chunk `k` of a rank's contribution, and what its peers have sent of it. -/
def State.collRead (s : State) (b : Block) (h : Handle) (c : CollOp) (own : Bool) (peers : List Nat) (k : Nat) : Got :=
  s.engReads b h ((if own then [((c.src + k * c.chunk) % 2 ^ 64, c.chunkBytes k)] else []) ++
    peers.map fun j => (c.inPlace c.this j, c.chunkBytes k))

/-- The next chunk folded and sent upward, or into the root's result. -/
def State.collUp (s : State) (b : Block) (h : Handle) (c : CollOp) : CollStep :=
  let k := c.upNext
  let me := c.rank c.this
  if me.children.any fun j => !c.has j k then .idle
  else
    match s.collRead b h c true me.children k with
    | .flaw f => .failed s f
    | .away ls => .ask ls
    | .ok bs =>
      let n := c.chunkBytes k
      let part (i : Nat) : List Byte := (bs.drop (i * n)).take n
      let acc := (List.range me.children.length).foldl (fun a i => collFold c.rop c.typ a (part (i + 1))) (part 0)
      let c' := { c with upNext := k + 1, inbox := c.inbox.filter fun m => !(m.2 == k && me.children.contains m.1) }
      if c.isRoot then
        s.collPut b h c k acc (c.kind == 1) (if c.kind == 1 then { c' with dnNext := k + 1 } else c')
      else
        match s.mailTo b h c k [me.parent] acc with
        | (s, some f) => .failed s f
        | (s, none) => .did s c'

/-- The next chunk from above, or the root's own, written and passed down. -/
def State.collDown (s : State) (b : Block) (h : Handle) (c : CollOp) : CollStep :=
  let k := c.dnNext
  let me := c.rank c.this
  let c' := { c with dnNext := k + 1, inbox := c.inbox.filter fun m => !(m.2 == k && m.1 == me.parent) }
  if c.isRoot then
    match s.collRead b h c true [] k with
    | .flaw f => .failed s f
    | .away ls => .ask ls
    | .ok own => s.collPut b h c k own true c'
  else if !c.has me.parent k then .idle
  else
    match s.collRead b h c false [me.parent] k with
    | .flaw f => .failed s f
    | .away ls => .ask ls
    | .ok data => s.collPut b h c k data true c'

def State.collStep (s : State) (b : Block) (h : Handle) (c : CollOp) : CollStep :=
  if c.failed then .idle
  else
    let up := if c.kind != 2 && decide (c.upNext < c.chunks) then s.collUp b h c else .idle
    match up with
    | .idle =>
      let down := c.kind == 2 || (c.kind == 1 && !c.isRoot)
      if down && decide (c.dnNext < c.chunks) then s.collDown b h c else .idle
    | r => r

/-- The handle's record of one lane's collective. -/
def State.putColl (s : State) (b : Block) (h : Handle) (l : Nat) (c : CollOp) : State :=
  s.updHandle b h fun h =>
    match h.op with
    | .coll cs => { h with op := .coll (cs.map fun e => if e.1 == l then (l, c) else e) }
    | _ => h

/-- One lane's rank carried on, chunk after chunk; the number bounds the chunks. -/
def State.collRun (s : State) (blk slot gen l : Nat) : Nat → State
  | 0 => s
  | n + 1 =>
    match s.block? blk with
    | none => s
    | some b =>
      match b.handle? slot gen with
      | none => s
      | some h =>
        match h.op with
        | .coll cs =>
          match cs.find? fun e => e.1 == l with
          | none => s
          | some (_, c) =>
            match s.collStep b h c with
            | .idle => s
            | .did s c => (s.putColl b h l c).collRun blk slot gen l n
            | .failed s f => (s.putColl b h l { c with failed := true }).engFail b h [(l, f)]
            | .ask ls => s.engAsk b h ls
            | .hold s => s
        | _ => s

/-- The handle completes once every lane's rank has finished and its writes are acknowledged. -/
def State.collFinish (s : State) (blk slot gen : Nat) : State :=
  match (s.block? blk).bind fun b => (b.handle? slot gen).map fun h => (b, h) with
  | none => s
  | some (b, h) =>
    match h.op with
    | .coll cs =>
      if cs.all (fun c => c.2.finished) && !h.done && !h.tags.any s.outstanding then
        (s.dropDest b (h.op.dest ++ cs.flatMap fun c => s.logLines b h c.2)).completeHandle blk slot gen
      else s
    | _ => s

/-- Every lane of the operation goes on as far as it can. -/
def State.collAdvance (s : State) (b : Block) (h : Handle) (cs : List (Nat × CollOp)) : State :=
  (cs.foldl (fun s c => s.collRun b.key h.slot h.gen c.1 (2 * c.2.chunks + 2)) s).collFinish b.key h.slot h.gen

/-- A chunk reaches a rank (R211): from a rank of this module, what that rank has sent; from another module, the bytes
that arrive. -/
def execCollChunkReceive (blk slot lane peer chunk : Nat) (data : List Byte) (s : State) : Result :=
  match s.engReady blk slot with
  | none => .next s
  | some (b, h) =>
    match h.op with
    | .coll cs =>
      match cs.find? fun c => c.1 == lane && !c.2.failed with
      | none => .next s
      | some (_, c) =>
        let me := c.rank c.this
        let known := me.parent == peer && c.kind != 0 && decide (c.dnNext ≤ chunk) ||
          me.children.contains peer && c.kind != 2 && decide (c.upNext ≤ chunk)
        if !known || decide (c.chunks ≤ chunk) || !c.slotFree peer then .next s
        else
          let job := s.jobOf b
          let mine (m : CollMail) : Bool :=
            m.block == c.name && m.job == job && m.sender == peer && m.receiver == c.this && m.chunk == chunk
          let come : Option (List Byte × State) :=
            if (c.rank peer).dev == s.mgmt.dev then
              (s.mail.find? mine).map fun m => (m.data, { s with mail := eraseOne m s.mail })
            else if data.length == c.chunkBytes chunk then some (data, s) else none
          match come with
          | none => .next s
          | some (bs, t) =>
            let t := t.updHandle b h fun h => { h with tags := [] }
            let at' := c.inPlace c.this peer
            match t.engSlots b [(at', bs.length)] with
            | (_, .wait _) => .next s
            | (t, .gone) => .next t
            | (t, .spent) => .next ((t.putColl b h lane { c with failed := true }).engFail b h [(lane, ⟨0x17, 5, at'⟩)])
            | (t, .open) =>
              match t.engWrites b h [(at', bs)] with
              | (t, some f) => .next ((t.putColl b h lane { c with failed := true }).engFail b h [(lane, f)])
              | (t, none) =>
                let t := t.putColl b h lane { c with inbox := c.inbox ++ [(peer, chunk)] }
                .next (t.collAdvance b h cs)
    | _ => .next s

end Sys2Proof.Machine
end

