-- ==== Sys2Proof/Machine/Control.lean ====
section
/-! DEFINITION. Branches, jumps, calls, returns, BRX, RALLY, YIELD, SAFEPT, NOP, and units that are no instructions
(R297 to R308, R414 to R417, R422). EXIT stands in End.lean. -/

namespace Sys2Proof.Machine

open Sys2Proof

/-! ## Transfers of control -/

/-- `pc` plus a signed number of halfwords. -/
def halfTarget (pc : Dword) (n : Int) : Dword := pc + BitVec.ofInt 64 (2 * n)

/-- The lanes none of whose sources that must be clean is poisoned. -/
def Uses.cleanLanes (u : Uses) (st : Strand) (ls : List Nat) : List Nat :=
  ls.filter fun l => !(u.srcsOf l).any fun x => x.poison && x.regs.any fun r => (st.reg l r).poison

/-- The course of an instruction that transfers lanes to targets: the checks of R415 in every lane, then every lane goes
to its target or on to the next unit. `eff` are the instruction's other effects. -/
def State.jump (s : State) (u : Uses) (targets : Strand → List Nat → List (Nat × Dword))
    (eff : State → Strand → List Nat → State) : Result :=
  let late : Late := fun s b st ls =>
    (targets st (u.cleanLanes st ls)).flatMap fun t => s.targetFlaws b s.cur.strand t.1 t.2
  match s.gate u late with
  | .stop s => .next s
  | .go s b st ls => .next (s.transfer b ls (targets st ls) fun s => eff (s.settle u b st ls) st ls)

/-- The two words of a link, full, untainted and unpoisoned (R299). -/
def linkWords (l : Nat) (next : Dword) : List RegOut :=
  [⟨l, 2, loWord next, false, false⟩, ⟨l, 3, hiWord next, false, false⟩]

def linkDst : Dst := { reg := 2, n := 2, align := 2 }

def noEffect (s : State) (_ : Strand) (_ : List Nat) : State := s

/-- The link pair written in each lane. -/
def writeLink (s : State) (_ : Strand) (ls : List Nat) : State := s.writes (ls.flatMap fun l => linkWords l s.cur.next)

/-! ## Branches (Table 13-8) -/

def usesBranch (p : BitVec 7) (v : Adverb) : Uses := { srcs := [{ reg := dReg v p, field := 0, poison := true }] }

/-- A branch: `take` says which of the active lanes go to the target. -/
def State.branch (s : State) (p : BitVec 7) (off : BitVec 15) (v : Adverb) (take : Strand → List Nat → Nat → Bool)
    (eff : State → Strand → List Nat → State) : Result :=
  let t := halfTarget s.cur.pc (sext off.toNat 15)
  s.jump (usesBranch p v) (fun st ls => (ls.filter (take st ls)).map fun l => (l, t)) eff

def predTrue (p : BitVec 7) (v : Adverb) (st : Strand) (l : Nat) : Bool := st.word l (dReg v p) != 0

/-- The outcome of a per-lane branch (R43): 0b00 all fall-through, 0b01 all taken, 0b10 mixed. -/
def outcomeOf (taken all : List Nat) : Nat := if taken.isEmpty then 0 else if taken.length == all.length then 1 else 2

/-- The entry of a partition's predictor table for a branch: bits [12:1] of its address, exclusive-ored with the strand's
history (R43). The low two bits of an entry are its outcome, the high two its confidence. -/
def predictorKey (st : Strand) (pc : Nat) : Nat := st.partition * 4096 + (bits pc 1 12 ^^^ st.history.toNat)

/-- The entry of its mask cache: R43 gives 1,024 of them, and that the low ten bits of the table's index choose is the
model's choice (DESIGN CHOICE, log 62). -/
def maskKey (st : Strand) (pc : Nat) : Nat := st.partition * 1024 + predictorKey st pc % 1024

/-- The front end learns an outcome: the confidence rises or falls by one, an entry without confidence takes the outcome, and
a mixed one its taken mask. R43 does not say how it learns (DESIGN CHOICE, log 62). -/
def Core.learn (c : Core) (st : Strand) (pc out : Nat) (taken : List Nat) : Core :=
  let k := predictorKey st pc
  let e := (cellsGet 0 k c.predictor).toNat
  let e' :=
    if e % 4 == out then e % 4 + 4 * Nat.min 3 (e / 4 + 1)
    else if e / 4 == 0 then out
    else e - 4
  { c with predictor := cellsPut 0 k (BitVec.ofNat 4 e') c.predictor
           maskCache := if out == 2 then cellsPut 0 (maskKey st pc) (BitVec.ofNat 64 (maskOf taken)) c.maskCache else c.maskCache }

/-- The lanes of a gang that the front end predicts to take a branch (R43). -/
def Core.predicts (c : Core) (st : Strand) (pc : Nat) (ls : List Nat) : List Nat :=
  match (cellsGet 0 (predictorKey st pc) c.predictor).toNat % 4 with
  | 0 => []
  | 1 => ls
  | _ => ls.filter fun l => (cellsGet 0 (maskKey st pc) c.maskCache).getLsbD l

/-- The strand's history, and its partition's predictor, after a per-lane branch (R43). -/
def noteOutcome (take : Strand → List Nat → Nat → Bool) (s : State) (st : Strand) (ls : List Nat) : State :=
  let taken := ls.filter (take st ls)
  let out := outcomeOf taken ls
  let core := ((s.block? s.cur.blk).map fun b => b.core).getD 0
  (s.updCore core fun c => c.learn st s.cur.pc.toNat out taken).updStrand s.cur.blk s.cur.strand fun x =>
    { x with history := (x.history <<< 2) ||| BitVec.ofNat 8 out }

def takeBnz (p : BitVec 7) (v : Adverb) (st : Strand) (_ : List Nat) (l : Nat) : Bool := predTrue p v st l

def takeBz (p : BitVec 7) (v : Adverb) (st : Strand) (_ : List Nat) (l : Nat) : Bool := !predTrue p v st l

def takeBany (p : BitVec 7) (v : Adverb) (st : Strand) (ls : List Nat) (_ : Nat) : Bool := ls.any (predTrue p v st)

def takeBall (p : BitVec 7) (v : Adverb) (st : Strand) (ls : List Nat) (_ : Nat) : Bool := ls.all (predTrue p v st)

def takeBnone (p : BitVec 7) (v : Adverb) (st : Strand) (ls : List Nat) (_ : Nat) : Bool := !ls.any (predTrue p v st)

def execBnz (p : BitVec 7) (off : BitVec 15) (v : Adverb) (s : State) : Result :=
  s.branch p off v (takeBnz p v) (noteOutcome (takeBnz p v))

def execBz (p : BitVec 7) (off : BitVec 15) (v : Adverb) (s : State) : Result :=
  s.branch p off v (takeBz p v) (noteOutcome (takeBz p v))

def execBany (p : BitVec 7) (off : BitVec 15) (v : Adverb) (s : State) : Result :=
  s.branch p off v (takeBany p v) noEffect

def execBall (p : BitVec 7) (off : BitVec 15) (v : Adverb) (s : State) : Result :=
  s.branch p off v (takeBall p v) noEffect

def execBnone (p : BitVec 7) (off : BitVec 15) (v : Adverb) (s : State) : Result :=
  s.branch p off v (takeBnone p v) noEffect

/-! ## Jumps, calls, returns (R299, R300) -/

/-- Every lane to one target. -/
def allTo (t : Dword) (_ : Strand) (ls : List Nat) : List (Nat × Dword) := ls.map fun l => (l, t)

/-- Every lane to the pair of register `r`. -/
def toPair (r : Nat) (st : Strand) (ls : List Nat) : List (Nat × Dword) := ls.map fun l => (l, st.pair l r)

def usesTarget (d : BitVec 7) (v : Adverb) : Src := (srcD v d).pair.clean

def execJmpl (off : BitVec 25) (s : State) : Result :=
  s.jump {} (allTo (halfTarget s.cur.pc (sext off.toNat 25))) noEffect

def execCalll (off : BitVec 25) (s : State) : Result :=
  s.jump { dsts := [linkDst] } (allTo (halfTarget s.cur.pc (sext off.toNat 25))) writeLink

def execJmpr (d : BitVec 7) (v : Adverb) (s : State) : Result :=
  s.jump { srcs := [usesTarget d v] } (toPair (dReg v d)) noEffect

def execCallr (d : BitVec 7) (v : Adverb) (s : State) : Result :=
  s.jump { srcs := [usesTarget d v], dsts := [linkDst] } (toPair (dReg v d)) writeLink

def execRet (s : State) : Result :=
  s.jump { srcs := [{ reg := 2, n := 2, align := 2, field := 0, poison := true }] } (toPair 2) noEffect

/-! ## BRX (R301, R415) -/

/-- The address of the table halfword that an index selects. -/
def brxSlot (next : Dword) (sel i : Nat) : Nat := (next + BitVec.ofNat 64 (2 * Nat.min i sel)).toNat

/-- The target that lane `l`'s halfword gives: the fault of reading the halfword, the halfword's place if it must be asked
for, or the target. -/
def State.brxTarget (s : State) (b : Block) (i l : Nat) (slot : Nat) : Except Flaw (Option Dword) :=
  match s.codeBlock b i [l] (slot / 8 * 8) with
  | .bad f => .error { f with addr := slot }
  | .away _ => .ok none
  | .got x => .ok (some (halfTarget s.cur.next (sext (x / 256 ^ (slot % 8)) 16)))

def execBrx (d : BitVec 7) (sel : BitVec 10) (v : Adverb) (s : State) : Result :=
  let u : Uses := { srcs := [(srcD v d).clean] }
  let slot (st : Strand) (l : Nat) := brxSlot s.cur.next sel.toNat (st.word l (dReg v d)).toNat
  let late : Late := fun s b st ls => (u.cleanLanes st ls).flatMap fun l =>
    match s.brxTarget b s.cur.strand l (slot st l) with
    | .error f => [{ lane := l, cls := f.cls, sub := f.sub, addr := f.addr, info := 2, info2 := 0 }]
    | .ok (some t) => s.targetFlaws b s.cur.strand l t
    | .ok none => []
  match s.gate u late with
  | .stop s => .next s
  | .go s b st ls =>
    let ts := ls.map fun l =>
      match s.brxTarget b s.cur.strand l (slot st l) with
      | .ok (some t) => (l, some t)
      | _ => (l, none)
    let tables := (ts.filter fun t => t.2.isNone).map fun t => (t.1, slot st t.1)
    if tables.isEmpty then
      .next (s.transfer b ls (ts.map fun t => (t.1, t.2.getD 0)) fun s => s.settle u b st ls)
    else
      let (s, tags) := s.askTargets b s.cur.strand tables
      .next (s.park ls (.reply tags))

/-! ## RALLY, YIELD (R38, R35, R303, R304) -/

/-- The lanes that wait at the RALLY at `pc`. -/
def Strand.atRally (st : Strand) (pc : Dword) : List Nat :=
  (List.range st.lanes.length).filter fun l =>
    (st.lane l).status == .live && (st.lane l).park.rallied.isSome && (st.lane l).pc == pc

def execRally (s : State) : Result :=
  match s.gate {} Late.none with
  | .stop s => .next s
  | .go s b st ls =>
    if s.straggler b st s.cur.strand s.cur.pc.toNat then .next (s.park ls (.rally (s.coreClock b.core)))
    else .next (s.retire (ls ++ (st.atRally s.cur.pc).filter fun l => !ls.contains l))

/-- The choices of the quads of lanes `ls`, and of the strand, end at program counter `p`. -/
def Strand.yield (st : Strand) (pend ls : List Nat) (p : Nat) : Strand :=
  let st := (dedupe (ls.map quadOf)).foldl (fun st q =>
    st.updQuad q fun f => st.force p (pend.filter fun l => quadOf l == q && !ls.contains l) f) st
  let others := (st.issuePcs pend).flatMap fun q => if q.2.2.any ls.contains then [] else q.2.2
  { st with fair := st.force p others st.fair }

def execYield (s : State) : Result :=
  match s.gate {} Late.none with
  | .stop s => .next s
  | .go s _ _ ls =>
    let s := s.retire ls
    match s.block? s.cur.blk with
    | none => .next s
    | some b =>
      let pend := s.pending b s.cur.strand
      .next (s.updStrand b.key s.cur.strand fun st => st.yield pend ls s.cur.pc.toNat)

/-! ## SAFEPT, NOP (R50, R52, R307, R308) -/

/-- Safe-point entries of the block's kernel. -/
def State.nsafe (s : State) (b : Block) : Nat := ((s.grid? b.grid).map fun g => g.nsafe).getD 0

/-- A stop at safe points is pending for the block. -/
def Block.wantsSafe (b : Block) : Bool :=
  match b.state with
  | .stopping w => !w.atOnce
  | _ => false

/-- A unit of the issue raises a class from 0x01 to 0x03 at an address, with the bits of R414. -/
def State.raiseUnit (s : State) (b : Block) (cls sub addr : Nat) : State :=
  let (x, y, s) := s.unitInfo b s.cur.strand s.cur.lanes s.cur.pc.toNat
  s.raiseAll cls sub addr x y

def execSafept (imm : BitVec 18) (s : State) : Result :=
  match s.block? s.cur.blk with
  | none => .next s
  | some b =>
    if s.nsafe b ≤ imm.toNat then .next (s.raiseUnit b 0x01 5 s.cur.pc.toNat)
    else
      match s.gate { report := fun d => b.wantsSafe && reportsMatrix d } Late.none true with
      | .stop s => .next s
      | .go s b _ ls =>
        match if b.wantsSafe then b.matDrain s.cur.strand else none with
        | some g => .next (s.park ls (.engine g))
        | none =>
          let stop := if b.wantsSafe then some 2 else none
          .next (s.updCur ls fun _ l =>
            { l.retire s.cur.next with count := 0, safe := some imm.toNat, stopped := stop })

/-- Nothing but the program counter. -/
def State.noop (s : State) : Result :=
  match s.gate {} Late.none with
  | .stop s => .next s
  | .go s _ _ ls => .next (s.retire ls)

def execNopHalfword (s : State) : Result := s.noop

def execNop (s : State) : Result := s.noop

/-! ## Units that are no instructions (Table 20-1) -/

/-- The unit at the issue's PC raises `cls` and `sub`, with the faulting address `addr`: classes 0x01 to 0x03 show the
unit's bits, a fetch's 0x10 and 0x11 the size of a halfword (DEDUCED, log 15). -/
def execIllegalEncoding (cls sub : Nat) (addr : Dword) (s : State) : Result :=
  match s.block? s.cur.blk with
  | none => .next s
  | some b =>
    if cls ≤ 3 then .next (s.raiseUnit b cls sub addr.toNat)
    else .next (s.raiseAll cls sub addr.toNat 2 0)

end Sys2Proof.Machine
end

