-- ==== Sys2Proof/Machine/CopyRun.lean ====
section
/-! DEFINITION. The copy engine at work: the completion of copies, multicast deliveries, compression and expansion, and
checkpoints (R199 to R205, R209, R213, R214, R433, R434). An operation reads its sources in one step, and writes in each step
one piece of every lane's bytes, up to a 128-byte boundary, where HCANCEL may find it (R197). -/

namespace Sys2Proof.Machine

open Sys2Proof

/-! ## Moving rows -/

/-- One lane's part of an operation: rows read, and the places of the same bytes. -/
structure Part where
  lane : Nat
  bad : Option Flaw
  src : List (Nat × Nat)
  dst : List (Nat × Nat)
deriving DecidableEq, Repr

/-- Bytes cut into rows of the given places. -/
def rowsOut : List (Nat × Nat) → List Byte → List (Nat × List Byte)
  | [], _ => []
  | r :: rs, bs => (r.1, bs.take r.2) :: rowsOut rs (bs.drop r.2)

def State.partRead (s : State) (b : Block) (h : Handle) (p : Part) : Got :=
  match p.bad with
  | some f => .flaw f
  | none => s.engReads b h p.src

/-- What the reads of an operation's parts still lack. -/
def gotAway (gs : List (Part × Got)) : List Need :=
  gs.flatMap fun g => match g.2 with | .away ls => ls | .ok _ | .flaw _ => []

/-- The block and its handle as they stand. -/
def State.handleNow (s : State) (blk slot gen : Nat) : Option (Block × Handle) :=
  (s.block? blk).bind fun b => (b.handle? slot gen).map fun h => (b, h)

/-- Bytes of a lane's ranges as the segments that the engine writes. -/
def segmentBytes (l : Nat) (ws : List (Nat × List Byte)) : List (Nat × Nat × List Byte) :=
  ws.flatMap fun w => (segmentsOf w.1 w.2.length).map fun p => (l, p.1, (w.2.drop (p.1 - w.1)).take p.2)

/-- A lane's part of the operation has failed: it writes nothing more (R434). -/
def State.endLane (s : State) (b : Block) (h : Handle) (l : Nat) (f : Flaw) : State :=
  (s.updHandle b h fun h => { h with rest := h.rest.filter fun w => w.1 != l
                                     last := h.last.filter fun w => w.1 != l }).engFail b h [(l, f)]

/-- A lane's next piece, up to the next 128-byte boundary of its segment, written, once the twin pool has its slots. -/
def State.engPiece (blk slot gen : Nat) (s : State) (l : Nat) : State :=
  match s.handleNow blk slot gen with
  | none => s
  | some (b, h) =>
    match h.rest.find? fun w => w.1 == l with
    | none => s
    | some (_, va, bs) =>
      let k := 128 - va % 128
      let left : List (Nat × Nat × List Byte) := if bs.length ≤ k then [] else [(l, va + k, bs.drop k)]
      match s.engWriteFlaw b h va (Nat.min k bs.length) with
      | some f => s.endLane b h l f
      | none =>
        match s.engSlots b [(va, Nat.min k bs.length)] with
        | (s, .wait _) => s
        | (s, .gone) => s
        | (s, .spent) => s.endLane b h l ⟨0x17, 5, va⟩
        | (s, .open) =>
          (s.updHandle b h fun h => { h with rest := left ++ eraseOne (l, va, bs) h.rest }).engWrite1 b h va (bs.take k)

/-- What the engine does next with bytes that it holds: a piece of every lane's; when those are all written and acknowledged,
what follows them; and then the operation has been performed. The number bounds these. -/
def State.engStep (blk slot gen : Nat) : Nat → State → State
  | 0, s => s
  | n + 1, s =>
    match s.handleNow blk slot gen with
    | none => s
    | some (b, h) =>
      if h.tags.any s.outstanding then s
      else if !h.rest.isEmpty then
        let s := (dedupe (h.rest.map fun w => w.1)).foldl (State.engPiece blk slot gen) s
        if (s.handleNow blk slot gen).any fun x => x.2.rest.isEmpty then State.engStep blk slot gen n s else s
      else if !h.last.isEmpty then
        State.engStep blk slot gen n (s.updHandle b h fun h => { h with rest := h.last, last := [], tags := [] })
      else (s.updHandle b h fun h => { h with written := true }).engFinish blk slot gen

/-- The bytes that an operation writes, with those that follow, and what has failed: the engine starts writing. -/
def State.engStart (s : State) (b : Block) (h : Handle) (rest last : List (Nat × Nat × List Byte))
    (fs : List (Nat × Flaw)) : State :=
  let s := s.updHandle b h fun h => { h with rest := rest, last := last, replies := [] }
  State.engStep b.key h.slot h.gen 4 (s.engFail b h fs)

/-- An operation that has nothing more to read: it goes on writing, or completes. -/
def State.engGoOn (s : State) (b : Block) (h : Handle) : State :=
  if h.written then s.engFinish b.key h.slot h.gen else State.engStep b.key h.slot h.gen 4 s

/-- The operation holds bytes that it has read. -/
def Handle.holding (h : Handle) : Bool := h.written || !h.rest.isEmpty || !h.last.isEmpty

/-- Every source byte is read before any destination byte is written (R199, R201). -/
def State.engMove (s : State) (b : Block) (h : Handle) (parts : List Part) : State :=
  let gs := parts.map fun p => (p, s.partRead b h p)
  let away := gotAway gs
  if !away.isEmpty then s.engAsk b h away
  else
    let s := (parts.filter fun p => p.bad.isNone).foldl (fun s p =>
      p.src.foldl (fun s r => s.engTouch b h false r.1 r.2) s) s
    let rest := gs.flatMap fun g =>
      match g.2 with | .ok bs => segmentBytes g.1.lane (rowsOut g.1.dst bs) | .away _ | .flaw _ => []
    let fs := gs.filterMap fun g => match g.2 with | .flaw f => some (g.1.lane, f) | .ok _ | .away _ => none
    s.engStart b h rest [] fs

/-! ## Lane and tile copies -/

def laneParts (n : Nat) (ms : List (Nat × Nat × Nat)) : List Part :=
  ms.map fun m => { lane := m.1, bad := none, src := [(m.2.2, n)], dst := [(m.2.1, n)] }

/-- What Table 21-2 and R201 find wrong in a tile descriptor. -/
def State.tileFlaw (_ : State) (t : TileDesc) : Option Flaw :=
  let own := match padOffset? t.dst with | some x => !bit x 22 | none => false
  if t.rowb == 0 || t.nrow == 0 || (t.mcast && (decide (windowBase ≤ t.src) || !own)) then some ⟨0x43, 0, t.desc⟩
  else if (padOffset? t.dst).isSome && (t.dst % 16 != 0 || t.rowb % 16 != 0 || t.dpitch % 16 != 0) then
    some ⟨0x12, 2, t.dst⟩
  else none

/-- The parts that are not multicast, and those whose descriptors are bad. -/
def State.tileParts (s : State) (ds : List (Nat × TileDesc)) : List Part :=
  (ds.filter fun d => !d.2.mcast || (s.tileFlaw d.2).isSome).map fun d =>
    { lane := d.1, bad := s.tileFlaw d.2, src := d.2.srcRows, dst := d.2.dstRows }

/-- A part whose descriptor is bad delivers to no target. -/
def State.dropTargets (s : State) (b : Block) (h : Handle) (p : Nat × TileDesc → Bool) : State :=
  s.updHandle b h fun h =>
    match h.op with
    | .tile ds => { h with op := .tile (ds.map fun d => if p d then (d.1, { d.2 with targets := [] }) else d) }
    | _ => h

def execCopyComplete (blk slot : Nat) (s : State) : Result :=
  .next (s.withEngine blk slot fun b h =>
    let t := s.updHandle b h fun h => { h with tags := [] }
    match h.op with
    | .lanes n ms => if h.holding then t.engGoOn b h else t.engMove b h (laneParts n ms)
    | .tile ds =>
      if h.holding then t.engGoOn b h
      else (t.dropTargets b h fun d => (s.tileFlaw d.2).isSome).engMove b h (s.tileParts ds)
    | .coll cs => t.collAdvance b h cs
    | .stopped _ => t.engGoOn b h
    | .pack _ | .expand _ | .ckpt _ | .batch _ | .fork _ | .idle => s)

/-! ## Multicast (R203) -/

/-- The target block has started and its ring's slot is free at the descriptor's phase. -/
def Block.stageOpen (b : Block) (t : TileDesc) : Bool :=
  b.resident && b.padNat t.ring 1 != 0 && b.stageIs t.ring t.slot false t.phase

/-- One target's tile written into its allocation; the flaw of a row that lies outside it. -/
def State.deliver (s : State) (k : Block) (t : TileDesc) (bs : List Byte) : State × Option Flaw :=
  (rowsOut t.dstRows bs).foldl (fun acc r =>
    match acc.2 with
    | some f => (acc.1, some f)
    | none =>
      let x := r.1 - windowBase
      match acc.1.padPlace k x r.2.length with
      | .error f => (acc.1, some { f with addr := f.addr + windowBase })
      | .ok p =>
        match p.loc with
        | .scratch key off => ((acc.1.padWrite key off r.2).clearResv p.loc r.2.length fun _ _ _ => false, none)
        | _ => (acc.1, none)) (s, none)

/-- The delivery of lane `lane`'s tile to block `target` is done, or its part has failed. -/
def State.delivered (s : State) (b : Block) (h : Handle) (lane target : Nat) (all : Bool) : State :=
  let left (d : Nat × TileDesc) : Nat × TileDesc :=
    if d.1 == lane then (d.1, { d.2 with targets := if all then [] else d.2.targets.filter fun t => t != target }) else d
  s.updHandle b h fun h =>
    match h.op with
    | .tile ds => { h with op := .tile (ds.map left) }
    | _ => h

/-- The bytes of a tile's rows, one after the other, are written to the target, and its slot is armed. -/
def execMulticastDelivery (blk slot lane target : Nat) (s : State) : Result :=
  .next (s.withEngine blk slot fun b h =>
    match h.op with
    | .tile ds =>
      match ds.find? fun d => d.1 == lane, s.blocks.find? fun k => k.grid == b.grid && k.index == target with
      | some (_, t), some k =>
        if !t.targets.contains target || (s.tileFlaw t).isSome || !k.stageOpen t then s
        else
          let s := s.updHandle b h fun h => { h with tags := [] }
          match s.engReads b h t.srcRows with
          | .away ls => s.engAsk b h ls
          | .flaw f => ((s.delivered b h lane target true).engFail b h [(lane, f)]).engFinish blk slot h.gen
          | .ok bs =>
            let s := t.srcRows.foldl (fun s r => s.engTouch b h false r.1 r.2) s
            match s.deliver k t bs with
            | (s, some f) => ((s.delivered b h lane target true).engFail b h [(lane, f)]).engFinish blk slot h.gen
            | (s, none) =>
              let s := s.armStage ((s.block? k.key).getD k) t.ring t.slot
              (s.delivered b h lane target false).engFinish blk slot h.gen
      | _, _ => s
    | _ => s)

/-! ## Compression and expansion (R209) -/

/-- The values of a stream from its block at `va` on: `n` are left, after predictor `p`; the number bounds the blocks.
A bad WIDTH gives the cause 0x40. -/
def State.expandFrom (s : State) (b : Block) (h : Handle) (d : PackDesc) (f64 : Bool) (eb : Nat) :
    Nat → Nat → Nat → Nat → List Nat → Except Got (List Nat)
  | 0, _, _, _, acc => .ok acc
  | k + 1, va, n, p, acc =>
    if n == 0 then .ok acc
    else
      match s.engRead b h (va % 2 ^ 64) 1 with
      | .ok w =>
        let w := leNat w
        let m := Nat.min n 32
        match blockBytes f64 w m with
        | none => .error (.flaw ⟨0x40, 0, d.desc⟩)
        | some len =>
          match s.engRead b h ((va + 1) % 2 ^ 64) len with
          | .ok bs =>
            let vs := unpackBlock f64 eb p w m bs
            s.expandFrom b h d f64 eb k (va + 1 + len) (n - m) (vs.getLastD p) (acc ++ vs)
          | g => .error g
      | g => .error g

/-- The bytes that CPYX writes at DSTADR, and the value for RESADR. -/
def State.expanded (s : State) (b : Block) (h : Handle) (d : PackDesc) : Except Got (List Byte × Nat) :=
  match s.engRead b h d.src 16 with
  | .ok hd =>
    match streamHeader hd with
    | none => .error (.flaw ⟨0x40, 0, d.desc⟩)
    | some (f64, n, eb) =>
      if d.dcap < n * packSize f64 then .error (.flaw ⟨0x41, 0, d.desc⟩)
      else
        match s.expandFrom b h d f64 eb (n / 32 + 2) (d.src + 16) n 0 [] with
        | .ok vs => .ok (elementBytes (packSize f64) vs, n)
        | .error g => .error g
  | g => .error g

/-- The bytes that CPYZ writes at DSTADR, and the value for RESADR. -/
def State.compressed (s : State) (b : Block) (h : Handle) (d : PackDesc) : Except Got (List Byte × Nat) :=
  match s.engRead b h d.src (d.count * packSize d.f64) with
  | .ok bs =>
    let out := packStream d.f64 (d.eb.toNat % 2 ^ (8 * packSize d.f64)) (elements (packSize d.f64) bs)
    if d.dcap < out.length then .error (.flaw ⟨0x41, 0, d.desc⟩) else .ok (out, out.length)
  | g => .error g

/-- The results of every lane, once nothing that they read is missing: RESADR is written when every other byte is
acknowledged. `ranges` are what a lane has read. -/
def State.packRun (s : State) (b : Block) (h : Handle) (ds : List (Nat × PackDesc)) (ranges : PackDesc → List (Nat × Nat))
    (f : PackDesc → Except Got (List Byte × Nat)) : State :=
  let rs := ds.map fun d => (d.1, d.2, f d.2)
  let away := rs.flatMap fun r => match r.2.2 with | .error (.away ls) => ls | _ => []
  if !away.isEmpty then s.engAsk b h away
  else
    let s := ds.foldl (fun s d => (ranges d.2).foldl (fun s r => s.engTouch b h false r.1 r.2) s) s
    let rest := rs.flatMap fun r => match r.2.2 with | .ok (bs, _) => segmentBytes r.1 [(r.2.1.dst, bs)] | .error _ => []
    let last := rs.flatMap fun r =>
      match r.2.2 with | .ok (_, n) => segmentBytes r.1 [(r.2.1.res, leBytes 8 n)] | .error _ => []
    let fs := rs.filterMap fun r => match r.2.2 with | .error (.flaw f) => some (r.1, f) | _ => none
    s.engStart b h rest last fs

def execCompressComplete (blk slot : Nat) (s : State) : Result :=
  .next (s.withEngine blk slot fun b h =>
    let t := s.updHandle b h fun h => { h with tags := [] }
    match h.op with
    | .pack ds =>
      if h.holding then t.engGoOn b h
      else t.packRun b h ds (fun d => [(d.src, d.count * packSize d.f64)]) (s.compressed b h)
    | .expand ds =>
      if h.holding then t.engGoOn b h else t.packRun b h ds (fun d => [(d.src, 16)]) (s.expanded b h)
    | _ => s)

/-! ## Checkpoints (R213, R214) -/

/-- The shard's 64 KiB units of a range: those whose page is homed here. -/
def State.shardUnits (s : State) (b : Block) (base len : Nat) : List Nat :=
  ((List.range (len / 2 ^ 16)).map fun i => base + 2 ^ 16 * i).filter fun va =>
    ((s.leaf? b.core (s.jobOf b) va).map fun l => l.home == s.mgmt.dev).getD false

/-- Maximal runs of adjacent units, as address and length. -/
def runsOf : List Nat → List (Nat × Nat)
  | [] => []
  | va :: r =>
    match runsOf r with
    | (w, n) :: t => if va + 2 ^ 16 == w then (va, n + 2 ^ 16) :: t else (va, 2 ^ 16) :: (w, n) :: t
    | [] => [(va, 2 ^ 16)]

/-- A chunk of a checkpoint's stream: bytes that the engine makes, then a range that it reads, of the job's view, or of its
save area. -/
structure CkptChunk where
  made : List Byte
  va : Nat
  len : Nat
  area : Bool
deriving DecidableEq, Repr

def CkptChunk.size (k : CkptChunk) : Nat := k.made.length + k.len

/-- The chunks of the stream without its digest (Table 9-9): the header, each 64 KiB of each segment, behind the segment's
header at its start, and each 64 KiB of the save area. -/
def State.ckptChunks (s : State) (b : Block) (c : CkptOp) : List CkptChunk :=
  let runs := runsOf (s.shardUnits b c.base c.len)
  let base := ((s.saveArea (s.jobOf b)).getD (0, 0)).1
  let head := leBytes 2 0x4B43 ++ leBytes 1 1 ++ leBytes 1 s.mgmt.dev ++ leBytes 2 (s.jobOf b % 4096) ++ leBytes 2 0 ++
    leBytes 4 runs.length ++ leBytes 4 0 ++ leBytes 8 c.base ++ leBytes 8 c.len ++ leBytes 8 c.ctxLen ++ leBytes 24 0
  [{ made := head, va := 0, len := 0, area := false }] ++
  runs.flatMap (fun g => (List.range (g.2 / 2 ^ 16)).map fun i =>
    { made := if i == 0 then leBytes 8 g.1 ++ leBytes 8 g.2 else [], va := g.1 + 2 ^ 16 * i, len := 2 ^ 16, area := false }) ++
  (List.range ((c.ctxLen + 2 ^ 16 - 1) / 2 ^ 16)).map fun i =>
    { made := [], va := base + 2 ^ 16 * i, len := Nat.min (2 ^ 16) (c.ctxLen - 2 ^ 16 * i), area := true }

/-- The chunk that begins at a byte of the stream. -/
def chunkAt : Nat → List CkptChunk → Option CkptChunk
  | _, [] => none
  | n, k :: ks => if n == 0 then some k else if k.size ≤ n then chunkAt (n - k.size) ks else none

/-- The bytes of a chunk. -/
def State.chunkBytes (s : State) (b : Block) (h : Handle) (k : CkptChunk) : Got :=
  Got.join (.ok k.made) (if k.area then .ok (s.peekJob (s.jobOf b) k.va k.len) else s.engRead b h k.va k.len)

/-- A checkpoint when its header is formed: CTXLEN is the save area's USED (R214). -/
def State.ckptOpen (s : State) (b : Block) (c : CkptOp) : CkptOp :=
  if c.done == 0 && c.ctx && (s.saveArea (s.jobOf b)).isSome then { c with ctxLen := (s.job (s.jobOf b)).used } else c

/-- More bytes of the stream, taken into the digest. -/
def CkptOp.take (c : CkptOp) (bs : List Byte) : CkptOp :=
  let all := c.tail ++ bs
  let whole := all.length / 128 * 128
  { c with done := c.done + bs.length, chain := shaChain c.chain (all.take whole), tail := all.drop whole }

/-- The handle's record of one lane's checkpoint. -/
def State.putCkpt (s : State) (b : Block) (h : Handle) (l : Nat) (c : CkptOp) : State :=
  s.updHandle b h fun h =>
    match h.op with
    | .ckpt cs => { h with op := .ckpt (cs.map fun e => if e.1 == l then (l, c) else e) }
    | _ => h

/-- One lane's next chunk, or its digest, written; what must be asked for. The result follows when all is acknowledged. -/
def State.ckptLane (b : Block) (h : Handle) (acc : State × List Need) (e : Nat × CkptOp) : State × List Need :=
  let s := acc.1
  let l := e.1
  let c := s.ckptOpen b e.2
  let ks := s.ckptChunks b c
  let total := (ks.map CkptChunk.size).foldl (· + ·) 64
  let fail (s : State) (f : Flaw) : State × List Need :=
    ((s.putCkpt b h l { c with ended := true }).engFail b h [(l, f)], acc.2)
  let put (bs : List Byte) (c : CkptOp) (k : State → State) : State × List Need :=
    match s.engWrites b h [(c.win + (c.done - bs.length), bs)] with
    | (s, some f) => fail s f
    | (s, none) => (k (s.putCkpt b h l c), acc.2)
  if c.ended then acc
  else if c.cap < total then fail s ⟨0x41, 0, c.desc⟩
  else
    match chunkAt c.done ks with
    | some k =>
      match s.chunkBytes b h k with
      | .away ls => (s, acc.2 ++ ls)
      | .flaw f => fail s f
      | .ok bs => put bs (c.take bs) fun s => if k.area then s else s.engTouch b h false k.va k.len
    | none =>
      let digest := shaFinish c.chain c.tail c.done
      put digest { c with done := c.done + 64, ended := true } fun s =>
        s.updHandle b h fun h =>
          { h with last := h.last ++ segmentBytes l [(c.res, leBytes 8 (c.done + 64) ++ digest)] }

/-- Every lane's stream is written, or has failed. -/
def EngOp.streamed : EngOp → Bool
  | .ckpt cs => cs.all fun c => c.2.ended
  | _ => true

def execCkptComplete (blk slot : Nat) (s : State) : Result :=
  .next (s.withEngine blk slot fun b h =>
    let t := s.updHandle b h fun h => { h with tags := [] }
    match h.op with
    | .ckpt cs =>
      if h.op.streamed then t.engGoOn b h
      else
        match cs.foldl (State.ckptLane b h) (t, []) with
        | (t, []) =>
          let t := t.updHandle b h fun h => { h with replies := [] }
          if (t.handleNow blk slot h.gen).any fun x => x.2.op.streamed then State.engStep blk slot h.gen 4 t else t
        | (_, ls) => (s.updHandle b h fun h => { h with tags := [] }).engAsk b h ls
    | _ => s)

end Sys2Proof.Machine
end

