-- ==== Sys2Proof/Machine/Float.lean ====
section
/-! DEFINITION. Floating-point and narrow-format vector instructions: the FP, FPX, FCMP, PACK, DBL, CVT and QNT majors and
the floating-point short forms (R309 to R326). -/

namespace Sys2Proof.Machine

open Sys2Proof

/-! ## Forms -/

/-- A result word with its flags. -/
def Out.fp (r : Nat) (x : Nat × FpFlags) : Out := { words := [(r, BitVec.ofNat 32 x.1)], flags := x.2 }

/-- A result pair with its flags. -/
def Out.fp2 (r : Nat) (x : Nat × FpFlags) : Out :=
  { words := [(r, BitVec.ofNat 32 x.1), (r + 1, BitVec.ofNat 32 (x.1 / 2 ^ 32))], flags := x.2 }

/-- Source a with its modifiers (R267). -/
def Strand.fpA (st : Strand) (v : Adverb) (a : BitVec 7) (l : Nat) : Nat :=
  signMod (modOf v).nega (modOf v).absa 31 (st.word l (aReg v a)).toNat

def Strand.fpB (st : Strand) (v : Adverb) (b : BitVec 7) (l : Nat) : Nat :=
  signMod (modOf v).negb (modOf v).absb 31 (st.word l (bReg v b)).toNat

def Strand.fpC (st : Strand) (v : Adverb) (d : BitVec 7) (l : Nat) : Nat :=
  (st.word l (cReg v (dReg v d))).toNat

/-- An f32 function of two sources in the lane's context (R313). -/
def State.fp2 (s : State) (v : Adverb) (d a b : BitVec 7) (f : Ctx → Nat → Nat → Nat × FpFlags) : Result :=
  s.compute (usesR v d a b) fun st _ l => Out.fp (dReg v d) (f (st.ctx v l) (st.fpA v a l) (st.fpB v b l))

/-- An f32 function of one source. -/
def State.fp1 (s : State) (v : Adverb) (d a : BitVec 7) (f : Ctx → Nat → Nat × FpFlags) : Result :=
  s.compute (usesR1 v d a) fun st _ l => Out.fp (dReg v d) (f (st.ctx v l) (st.fpA v a l))

/-- The constants of the short form (Table 12-2). -/
def shortConsts : List Word :=
  [0x00000000, 0x3F800000, 0x40000000, 0x40400000, 0x40800000, 0x40A00000, 0x40C00000, 0x40E00000,
   0x41000000, 0x41200000, 0x41800000, 0x3F000000, 0x3E800000, 0x3E000000, 0x3FC00000, 0xBF800000,
   0xC0000000, 0xBF000000, 0x80000000, 0x40490FDB, 0x3EA2F983, 0x3F317218, 0x3FB8AA3B, 0x40549A78,
   0x3FB504F3, 0x3F3504F3, 0x402DF854, 0x7F800000, 0xFF800000, 0x7F7FFFFF, 0x00800000, 0x34000000]

/-- A floating-point short form (R261): the lane's fmode, no adverb. -/
def State.fpShort (s : State) (i : Bool) (x d : BitVec 5) (f : Ctx → Nat → Nat → Nat × FpFlags) : Result :=
  s.compute (usesShort i x d) fun st _ l =>
    let y := if i then shortConsts.getD x.toNat 0 else st.word l x.toNat
    Out.fp d.toNat (f (st.ctx .none l) (st.word l d.toNat).toNat y.toNat)

/-- A comparison of two f32 sources (R316). -/
def State.fpCmp (s : State) (v : Adverb) (d a b : BitVec 7) (k : FCond) : Result :=
  s.fp2 v d a b fun c x y =>
    let r := Fmt.f32.compare c.ftz k x y
    (ofFlag r.1, r.2)

/-- Both modifiers of a packed source act on both halves (R267). -/
def packMod (neg abs : Bool) (x : Nat) : Nat := signMod neg abs 31 (signMod neg abs 15 x)

def Strand.packA (st : Strand) (v : Adverb) (a : BitVec 7) (l : Nat) : Nat :=
  packMod (modOf v).nega (modOf v).absa (st.word l (aReg v a)).toNat

def Strand.packB (st : Strand) (v : Adverb) (b : BitVec 7) (l : Nat) : Nat :=
  packMod (modOf v).negb (modOf v).absb (st.word l (bReg v b)).toNat

/-- Two halves computed separately, their flags together (R317). -/
def halves (f : Nat → Nat → Nat → Nat × FpFlags) (x y z : Nat) : Nat × FpFlags :=
  let p := f (bits x 0 16) (bits y 0 16) (bits z 0 16)
  let q := f (bits x 16 16) (bits y 16 16) (bits z 16 16)
  (p.1 + q.1 * 2 ^ 16, p.2 ||| q.2)

def State.pack2 (s : State) (v : Adverb) (d a b : BitVec 7) (f : Ctx → Nat → Nat → Nat × FpFlags) : Result :=
  s.compute (usesR v d a b) fun st _ l =>
    Out.fp (dReg v d) (halves (fun x y _ => f (st.ctx v l) x y) (st.packA v a l) (st.packB v b l) 0)

def State.pack3 (s : State) (v : Adverb) (d a b : BitVec 7) (f : Ctx → Nat → Nat → Nat → Nat × FpFlags) : Result :=
  s.compute (usesR4 v d a b) fun st _ l =>
    Out.fp (dReg v d) (halves (f (st.ctx v l)) (st.packA v a l) (st.packB v b l) (st.fpC v d l))

/-- The dot product of two halves and an f32 addend, rounded once (R318). -/
def dot2 (t : Fmt) (c : Ctx) (x y z : Nat) : Nat × FpFlags :=
  let a0 := t.read c.ftz (bits x 0 16)
  let a1 := t.read c.ftz (bits x 16 16)
  let b0 := t.read c.ftz (bits y 0 16)
  let b1 := t.read c.ftz (bits y 16 16)
  let w := Fmt.f32.read c.ftz z
  let p := a0.mul b0
  let q := a1.mul b1
  let r := sumVals c.rnd [p.1, q.1, w]
  Fmt.f32.finish c (r.1, r.2 ||| p.2 ||| q.2 ||| signals [a0, a1, b0, b1, w])

def State.packDot (s : State) (t : Fmt) (v : Adverb) (d a b : BitVec 7) : Result :=
  s.compute (usesR4 v d a b) fun st _ l =>
    Out.fp (dReg v d) (dot2 t (st.ctx v l) (st.packA v a l) (st.packB v b l) (st.fpC v d l))

/-- Pair sources of DBL with their modifiers (R267). -/
def Strand.dblA (st : Strand) (v : Adverb) (a : BitVec 7) (l : Nat) : Nat :=
  signMod (modOf v).nega (modOf v).absa 63 (st.pair l (aReg v a)).toNat

def Strand.dblB (st : Strand) (v : Adverb) (b : BitVec 7) (l : Nat) : Nat :=
  signMod (modOf v).negb (modOf v).absb 63 (st.pair l (bReg v b)).toNat

def State.dbl2 (s : State) (v : Adverb) (d a b : BitVec 7) (f : Ctx → Nat → Nat → Nat × FpFlags) : Result :=
  s.compute { srcs := [(srcA v a).pair, (srcB v b).pair], dsts := [(dstD v d).pair] } fun st _ l =>
    Out.fp2 (dReg v d) (f (st.ctx v l) (st.dblA v a l) (st.dblB v b l))

def State.dblCmp (s : State) (v : Adverb) (d a b : BitVec 7) (k : FCond) : Result :=
  s.compute { srcs := [(srcA v a).pair, (srcB v b).pair], dsts := [dstD v d] } fun st _ l =>
    let r := Fmt.f64.compare (st.ctx v l).ftz k (st.dblA v a l) (st.dblB v b l)
    Out.fp (dReg v d) (ofFlag r.1, r.2)

/-! ## Functions of single instructions -/

/-- FCPYS: |x| with the sign of y (Table 14-2). -/
def copySign (c : Ctx) (x y : Nat) : Nat × FpFlags :=
  let a := Fmt.f32.read c.ftz x
  if a.isNan then (Fmt.f32.nan, signals [a])
  else
    let m := (Fmt.f32.round .rne false false a).1 % 2 ^ 31
    (m + y / 2 ^ 31 % 2 * 2 ^ 31, 0)

/-- FLDEXP: x × 2^sext(y, 32), rounded once (R314). -/
def scaleExp (c : Ctx) (x : Nat) (y : Int) : Nat × FpFlags :=
  match Fmt.f32.read c.ftz x with
  | .nan q => (Fmt.f32.nan, invalid q)
  | .inf neg => (Fmt.f32.infinity neg, 0)
  | .fin neg m e more => Fmt.f32.finish c (.fin neg m (e + y) more, 0)

/-- Integer part of a finite value in the mode, sign kept (R315, FRND). -/
def roundIntegral (c : Ctx) (x : Nat) : Nat × FpFlags :=
  match Fmt.f32.read c.ftz x with
  | .nan q => (Fmt.f32.nan, invalid q)
  | .inf neg => (Fmt.f32.infinity neg, 0)
  | .fin neg m e more =>
    if 0 ≤ e then ((Fmt.f32.round c.rnd false false (.fin neg m e more)).1, 0)
    else ((Fmt.f32.round c.rnd false false (.fin neg (roundShift c.rnd neg m (-e).toNat more).1 0 false)).1, 0)

/-- x − floor(x), held below 1 (R315, FFRACT). -/
def fraction (c : Ctx) (x : Nat) : Nat × FpFlags :=
  match Fmt.f32.read c.ftz x with
  | .nan q => (Fmt.f32.nan, invalid q)
  | .inf _ => (Fmt.f32.nan, FpFlags.nv)
  | .fin neg m e _ =>
    if 0 ≤ e then (0, 0)
    else
      let k := (-e).toNat
      let f := m % 2 ^ k
      let f := if neg && f != 0 then 2 ^ k - f else f
      let r := Fmt.f32.finish c (.fin false f e false, 0)
      if r.1 == 0x3F800000 then (0x3F7FFFFF, r.2) else r

/-- The class mask of Table 14-3. -/
def classMask (x : Nat) : Nat :=
  match Fmt.f32.value x with
  | .nan q => if q then 2 ^ 8 else 2 ^ 9
  | .inf neg => if neg then 1 else 2 ^ 7
  | .fin neg m _ _ =>
    if m == 0 then (if neg then 2 ^ 3 else 2 ^ 4)
    else if m < 2 ^ 23 then (if neg then 2 ^ 2 else 2 ^ 5)
    else (if neg then 2 else 2 ^ 6)

def State.fpx (s : State) (v : Adverb) (d a : BitVec 7) (f : Fpx) : Result :=
  s.fp1 v d a fun c x => f.eval c.ftz (Fmt.f32.read c.ftz x)

/-- The quotient of two f32 encodings rounded once into a narrow format (R322, R324). -/
def quotTo (t : Fmt) (c : Ctx) (sat : Bool) (x y : Nat) : Nat × FpFlags :=
  let a := Fmt.f32.read c.ftz x
  let b := Fmt.f32.read c.ftz y
  let q := a.div b
  let r := t.round c.rnd sat c.ftz q.1
  (r.1, r.2 ||| q.2 ||| signals [a, b])

/-- Results placed side by side, their flags together. -/
def joinFields (w : Nat) : List (Nat × FpFlags) → Nat × FpFlags
  | [] => (0, 0)
  | x :: xs =>
    let r := joinFields w xs
    (x.1 % 2 ^ w + r.1 * 2 ^ w, x.2 ||| r.2)

/-- QPACK4, QPACK8E4, QPACK8E5 (R322): `n` sources from A on. -/
def State.qpack (s : State) (t : Fmt) (n w : Nat) (v : Adverb) (d a b : BitVec 7) : Result :=
  s.compute { srcs := [(srcA v a).group n, srcB v b], dsts := [dstD v d] } fun st _ l =>
    let y := (st.word l (bReg v b)).toNat
    Out.fp (dReg v d) (joinFields w ((List.range n).map fun i =>
      quotTo t (st.ctx v l) (modOf v).sat (st.word l (aReg v a + i)).toNat y))

/-- The greatest magnitude of f32 encodings; a NaN, a signalling one first, wins (R324). -/
def greatestMag (xs : List Nat) : Nat :=
  let ms := xs.map fun x => x % 2 ^ 31
  match ms.find? fun x => (Fmt.f32.value x).isSignalling with
  | some x => x
  | none =>
    match ms.find? fun x => (Fmt.f32.value x).isNan with
    | some x => x
    | none => ms.foldl max 0

/-- One scaled partial of SCACC and MSCALE (R182): the exact product, and NV. -/
def scaledTerm (p : Int) (sa sb : Nat) (ba bb : Val) : Val × FpFlags :=
  let x : Val := .fin (decide (p < 0)) p.natAbs (-2) false
  let a := x.mul (Fmt.e3m5.value sa)
  let b := a.1.mul (Fmt.e3m5.value sb)
  let c := b.1.mul ba
  let d := c.1.mul bb
  (d.1, a.2 ||| b.2 ||| c.2 ||| d.2)

/-- acc + Σ P × sa × sb × ba × bb, rounded once (R182). `ftz` flushes acc and the result (R325). -/
def scaleSum (ftz : Bool) (acc : Nat) (terms : List (Int × Nat × Nat)) (ba bb : Nat) : Nat × FpFlags :=
  let x := Fmt.bf16.value ba
  let y := Fmt.bf16.value bb
  let z := Fmt.f32.read ftz acc
  let ts := terms.map fun t => scaledTerm t.1 t.2.1 t.2.2 x y
  let r := sumVals .rne (z :: ts.map fun t => t.1)
  let nv := ts.foldl (fun f t => f ||| t.2) (r.2 ||| signals [x, y, z])
  Fmt.f32.finish ⟨.rne, ftz⟩ (r.1, nv)


/-! ## Short forms (R261) -/

def execFaddShort (i : Bool) (x d : BitVec 5) (s : State) : Result := s.fpShort i x d Fmt.f32.add

def execFsubShort (i : Bool) (x d : BitVec 5) (s : State) : Result := s.fpShort i x d Fmt.f32.sub

def execFmulShort (i : Bool) (x d : BitVec 5) (s : State) : Result := s.fpShort i x d Fmt.f32.mul

def execFmaxShort (i : Bool) (x d : BitVec 5) (s : State) : Result :=
  s.fpShort i x d fun c => Fmt.f32.pick c Val.more

/-! ## FP (Table 14-2) -/

def execFadd (d a b : BitVec 7) (v : Adverb) (s : State) : Result := s.fp2 v d a b Fmt.f32.add

def execFsub (d a b : BitVec 7) (v : Adverb) (s : State) : Result := s.fp2 v d a b Fmt.f32.sub

def execFmul (d a b : BitVec 7) (v : Adverb) (s : State) : Result := s.fp2 v d a b Fmt.f32.mul

def execFfma (d a b : BitVec 7) (v : Adverb) (s : State) : Result :=
  s.compute (usesR4 v d a b) fun st _ l =>
    Out.fp (dReg v d) (Fmt.f32.fma (st.ctx v l) (st.fpA v a l) (st.fpB v b l) (st.fpC v d l))

def execFmin (d a b : BitVec 7) (v : Adverb) (s : State) : Result := s.fp2 v d a b fun c => Fmt.f32.pick c Val.less

def execFmax (d a b : BitVec 7) (v : Adverb) (s : State) : Result := s.fp2 v d a b fun c => Fmt.f32.pick c Val.more

def execFminnum (d a b : BitVec 7) (v : Adverb) (s : State) : Result := s.fp2 v d a b fun c => Fmt.f32.pickNum c Val.less

def execFmaxnum (d a b : BitVec 7) (v : Adverb) (s : State) : Result := s.fp2 v d a b fun c => Fmt.f32.pickNum c Val.more

def execFdiv (d a b : BitVec 7) (v : Adverb) (s : State) : Result := s.fp2 v d a b Fmt.f32.div

def execFcpys (d a b : BitVec 7) (v : Adverb) (s : State) : Result := s.fp2 v d a b copySign

def execFldexp (d a b : BitVec 7) (v : Adverb) (s : State) : Result :=
  s.compute (usesR v d a b) fun st _ l =>
    Out.fp (dReg v d) (scaleExp (st.ctx v l) (st.fpA v a l) (st.word l (bReg v b)).toInt)

/-! ## FPX (R315) -/

def execFsqrt (d a : BitVec 7) (v : Adverb) (s : State) : Result := s.fpx v d a .sqrt

def execFrcp (d a : BitVec 7) (v : Adverb) (s : State) : Result := s.fpx v d a .rcp

def execFrsq (d a : BitVec 7) (v : Adverb) (s : State) : Result := s.fpx v d a .rsq

def execFexp2 (d a : BitVec 7) (v : Adverb) (s : State) : Result := s.fpx v d a .exp2

def execFlog2 (d a : BitVec 7) (v : Adverb) (s : State) : Result := s.fpx v d a .log2

def execFsinpi (d a : BitVec 7) (v : Adverb) (s : State) : Result := s.fpx v d a .sinpi

def execFcospi (d a : BitVec 7) (v : Adverb) (s : State) : Result := s.fpx v d a .cospi

def execFtanh (d a : BitVec 7) (v : Adverb) (s : State) : Result := s.fpx v d a .tanh

def execFfract (d a : BitVec 7) (v : Adverb) (s : State) : Result := s.fp1 v d a fraction

def execFrnd (d a : BitVec 7) (v : Adverb) (s : State) : Result := s.fp1 v d a roundIntegral

def execFclass (d a : BitVec 7) (v : Adverb) (s : State) : Result := s.fp1 v d a fun _ x => (classMask x, 0)

/-! ## FCMP (R316) -/

def execFcmpEq (d a b : BitVec 7) (v : Adverb) (s : State) : Result := s.fpCmp v d a b .eq

def execFcmpNe (d a b : BitVec 7) (v : Adverb) (s : State) : Result := s.fpCmp v d a b .ne

def execFcmpLt (d a b : BitVec 7) (v : Adverb) (s : State) : Result := s.fpCmp v d a b .lt

def execFcmpLe (d a b : BitVec 7) (v : Adverb) (s : State) : Result := s.fpCmp v d a b .le

def execFcmpGt (d a b : BitVec 7) (v : Adverb) (s : State) : Result := s.fpCmp v d a b .gt

def execFcmpGe (d a b : BitVec 7) (v : Adverb) (s : State) : Result := s.fpCmp v d a b .ge

def execFcmpUn (d a b : BitVec 7) (v : Adverb) (s : State) : Result := s.fpCmp v d a b .un

def execFcmpOrd (d a b : BitVec 7) (v : Adverb) (s : State) : Result := s.fpCmp v d a b .ord

/-! ## PACK (R317, R318) -/

def execHadd2 (d a b : BitVec 7) (v : Adverb) (s : State) : Result := s.pack2 v d a b Fmt.f16.add

def execHsub2 (d a b : BitVec 7) (v : Adverb) (s : State) : Result := s.pack2 v d a b Fmt.f16.sub

def execHmul2 (d a b : BitVec 7) (v : Adverb) (s : State) : Result := s.pack2 v d a b Fmt.f16.mul

def execHfma2 (d a b : BitVec 7) (v : Adverb) (s : State) : Result := s.pack3 v d a b Fmt.f16.fma

def execHmin2 (d a b : BitVec 7) (v : Adverb) (s : State) : Result := s.pack2 v d a b fun c => Fmt.f16.pick c Val.less

def execHmax2 (d a b : BitVec 7) (v : Adverb) (s : State) : Result := s.pack2 v d a b fun c => Fmt.f16.pick c Val.more

def execHdot2 (d a b : BitVec 7) (v : Adverb) (s : State) : Result := s.packDot .f16 v d a b

def execBadd2 (d a b : BitVec 7) (v : Adverb) (s : State) : Result := s.pack2 v d a b Fmt.bf16.add

def execBsub2 (d a b : BitVec 7) (v : Adverb) (s : State) : Result := s.pack2 v d a b Fmt.bf16.sub

def execBmul2 (d a b : BitVec 7) (v : Adverb) (s : State) : Result := s.pack2 v d a b Fmt.bf16.mul

def execBfma2 (d a b : BitVec 7) (v : Adverb) (s : State) : Result := s.pack3 v d a b Fmt.bf16.fma

def execBmin2 (d a b : BitVec 7) (v : Adverb) (s : State) : Result := s.pack2 v d a b fun c => Fmt.bf16.pick c Val.less

def execBmax2 (d a b : BitVec 7) (v : Adverb) (s : State) : Result := s.pack2 v d a b fun c => Fmt.bf16.pick c Val.more

def execBdot2 (d a b : BitVec 7) (v : Adverb) (s : State) : Result := s.packDot .bf16 v d a b

/-! ## DBL (R319) -/

def execDadd (d a b : BitVec 7) (v : Adverb) (s : State) : Result := s.dbl2 v d a b Fmt.f64.add

def execDsub (d a b : BitVec 7) (v : Adverb) (s : State) : Result := s.dbl2 v d a b Fmt.f64.sub

def execDmul (d a b : BitVec 7) (v : Adverb) (s : State) : Result := s.dbl2 v d a b Fmt.f64.mul

def execDdiv (d a b : BitVec 7) (v : Adverb) (s : State) : Result := s.dbl2 v d a b Fmt.f64.div

def execDfma (d a b : BitVec 7) (v : Adverb) (s : State) : Result :=
  s.compute { srcs := [(srcA v a).pair, (srcB v b).pair, (srcC v (dReg v d)).pair], dsts := [(dstD v d).pair] }
    fun st _ l =>
      Out.fp2 (dReg v d) (Fmt.f64.fma (st.ctx v l) (st.dblA v a l) (st.dblB v b l)
        (st.pair l (cReg v (dReg v d))).toNat)

def execDsqrt (d a : BitVec 7) (v : Adverb) (s : State) : Result :=
  s.compute { srcs := [(srcA v a).pair], dsts := [(dstD v d).pair] } fun st _ l =>
    Out.fp2 (dReg v d) (Fmt.f64.sqrt (st.ctx v l) (st.dblA v a l))

def execDmin (d a b : BitVec 7) (v : Adverb) (s : State) : Result := s.dbl2 v d a b fun c => Fmt.f64.pick c Val.less

def execDmax (d a b : BitVec 7) (v : Adverb) (s : State) : Result := s.dbl2 v d a b fun c => Fmt.f64.pick c Val.more

def execDcmpEq (d a b : BitVec 7) (v : Adverb) (s : State) : Result := s.dblCmp v d a b .eq

def execDcmpLt (d a b : BitVec 7) (v : Adverb) (s : State) : Result := s.dblCmp v d a b .lt

def execDcmpLe (d a b : BitVec 7) (v : Adverb) (s : State) : Result := s.dblCmp v d a b .le

def execDcmpUn (d a b : BitVec 7) (v : Adverb) (s : State) : Result := s.dblCmp v d a b .un

/-! ## CVT (R320, R321) -/

/-- The register image of a narrow result: i8 and i16 sign-extended, the rest with zeros above (R320). -/
def widenResult (t : NumType) (x : Nat) : Nat :=
  match t with
  | .i8 => wrap 32 (sext x 8)
  | .i16 => wrap 32 (sext x 16)
  | .i32 | .i64 | .n8 | .n16 | .n32 | .n64 | .f16 | .bf16 | .f32 | .f64 | .f8e4 | .f8e5 | .f4 | .e3m5 => x

def execCvt (y x : NumType) (d a : BitVec 7) (v : Adverb) (s : State) : Result :=
  let src := if NumType.width x == 64 then (srcA v a).pair else srcA v a
  let dst := if NumType.width y == 64 then (dstD v d).pair else dstD v d
  s.compute { srcs := [src], dsts := [dst] } fun st _ l =>
    let raw := if NumType.width x == 64 then (st.pair l (aReg v a)).toNat else (st.word l (aReg v a)).toNat
    let m := modOf v
    let r := convert y x (st.ctx v l) m.sat m.nega m.absa raw
    if NumType.width y == 64 then Out.fp2 (dReg v d) r else Out.fp (dReg v d) (widenResult y r.1, r.2)

/-! ## QNT (R322 to R326) -/

def execQpack4 (d a b : BitVec 7) (v : Adverb) (s : State) : Result := s.qpack .f4 8 4 v d a b

def execQpack8e4 (d a b : BitVec 7) (v : Adverb) (s : State) : Result := s.qpack .f8e4 4 8 v d a b

def execQpack8e5 (d a b : BitVec 7) (v : Adverb) (s : State) : Result := s.qpack .f8e5 4 8 v d a b

def execQunpk4 (d a b : BitVec 7) (v : Adverb) (s : State) : Result :=
  s.compute { srcs := [srcA v a, srcB v b], dsts := [(dstD v d).group 8] } fun st _ l =>
    let c := st.ctx v l
    let w := (st.word l (aReg v a)).toNat
    let y := Fmt.f32.read c.ftz (st.word l (bReg v b)).toNat
    let rs := (List.range 8).map fun i =>
      let p := (Fmt.f4.value (bits w (4 * i) 4)).mul y
      (dReg v d + i, Fmt.f32.finish c (p.1, p.2 ||| signals [y]))
    { words := rs.map fun r => (r.1, BitVec.ofNat 32 r.2.1), flags := rs.foldl (fun f r => f ||| r.2.2) 0 }

/-- The sources of SCACC (R325): the scales fault on poison (R428). -/
def usesScacc (v : Adverb) (d a b : BitVec 7) : Uses :=
  { srcs := [(srcA v a).group 4, ((srcB v b).group 4).clean, { reg := dReg v d, field := 0 }] ++
      (match v with | .mod m => [{ reg := m.c.toNat, field := 3, poison := true }] | .none => [] | .imm _ => []),
    dsts := [dstD v d] }

def execScacc (d a b : BitVec 7) (v : Adverb) (s : State) : Result :=
  s.compute (usesScacc v d a b) fun st _ l =>
    let byte (r k : Nat) : Nat := bits (st.word l (bReg v b + r + k / 4)).toNat (8 * (k % 4)) 8
    let terms := (List.range 8).map fun k =>
      (sext (bits (st.word l (aReg v a + k / 2)).toNat (16 * (k % 2)) 16) 16, byte 0 k, byte 2 k)
    let band := match v with
      | .mod m => (st.word l m.c.toNat).toNat
      | .none => 0x3F803F80
      | .imm _ => 0x3F803F80
    Out.fp (dReg v d) (scaleSum (st.ctx v l).ftz (st.word l (dReg v d)).toNat terms (bits band 0 16) (bits band 16 16))

def execScamax (d a b : BitVec 7) (v : Adverb) (s : State) : Result :=
  s.compute { srcs := [(srcA v a).group 8, srcB v b], dsts := [dstD v d] } fun st _ l =>
    let m := greatestMag ((List.range 8).map fun i => (st.word l (aReg v a + i)).toNat)
    Out.fp (dReg v d) (quotTo .e3m5 ⟨.rup, (st.ctx v l).ftz⟩ (modOf v).sat m (st.word l (bReg v b)).toNat)

def execQalign (d a b : BitVec 7) (v : Adverb) (s : State) : Result :=
  s.compute { srcs := [srcA v a, srcB v b], dsts := [(dstD v d).pair] } fun st _ l =>
    let y := (st.word l (bReg v b)).toNat
    let e := max (-149) (min 127 (sext y 16))
    let r := qalign (st.ctx v l).ftz (st.word l (aReg v a)).toNat e (Nat.min 30 (bits y 16 5))
    { words := [(dReg v d, loWord r.1), (dReg v d + 1, hiWord r.1)], flags := r.2 }

end Sys2Proof.Machine
end

