-- ==== Sys2Proof/Machine/Mat.lean ====
section
/-! DEFINITION. The matrix engine: gangs, the rendezvous latch, operands, acceptance, and the execution of an accepted
instruction (R178 to R182, R327 to R340, R424 to R426). -/

namespace Sys2Proof.Machine

open Sys2Proof

/-! ## Gangs (R328) -/

/-- The strands of the gang of strand `i`, ascending; the strand itself when its gang register is 0. -/
def State.members (s : State) (b : Block) (i : Nat) : List Nat :=
  let m := (b.strand i).gang.toNat
  let nc := ((s.grid? b.grid).map fun g => g.launch.ncopy).getD 0
  if m == 0 then [i] else (bitsOf m 16).map fun k => nc + k

/-- The mask of an MGANG breaks R328 (Table 20-2, SUB 2). -/
def State.badGang (s : State) (b : Block) (i mask : Nat) : Bool :=
  let g := s.grid? b.grid
  let nc := (g.map fun g => g.launch.ncopy).getD 0
  let nm := (g.map fun g => g.launch.nmat).getD 0
  let n := popcount 16 mask
  mask != 0 && (decide (n < 2) || decide (6 < n) || !bit mask (i - nc) || decide (2 ^ nm ≤ mask))

def execMgang (a : BitVec 7) (v : Adverb) (s : State) : Result :=
  let low := s.cur.lanes.headD 0
  let u : Uses := { srcs := [{ (srcA v a).clean with once := true }], roles := [.matrix], low := low }
  let mask (st : Strand) : Nat := bits (st.word low (aReg v a)).toNat 0 16
  let late : Late := fun s b st ls =>
    if ls.isEmpty || (st.reg low (aReg v a)).poison || !s.badGang b s.cur.strand (mask st) then []
    else s.cur.lanes.map fun l => { lane := l, cls := 8, sub := 2, addr := 0, info := mask st, info2 := 0 }
  match s.gate u late with
  | .stop s => .next s
  | .go s b st ls =>
    let s := (s.settle u b st ls).updStrand b.key s.cur.strand fun x =>
      { x with gang := BitVec.ofNat 16 (mask st), arrivals := 0, arrived := none }
    .next (s.retire ls)

/-! ## Operands (R327, R330, R332, R333) -/

/-- Where a matrix operand comes from. -/
inductive MatForm where
  | none | regs | pad
deriving DecidableEq, Repr

/-- A matrix instruction: its function, its control field and its register fields. -/
structure MatAsk where
  fn : MatFn
  ctl : MatCtl
  a : BitVec 7
  b : BitVec 7
deriving DecidableEq, Repr

def MatAsk.formA (q : MatAsk) : MatForm :=
  match q.fn with
  | .scale | .load | .store | .storePart => .pad
  | .zero => .none
  | _ => if q.ctl.asp then .pad else .regs

def MatAsk.formB (q : MatAsk) : MatForm :=
  match q.fn with
  | .scale => .pad
  | .load | .store | .storePart | .zero => .none
  | _ => if q.ctl.bsp then .pad else .regs

/-- Words of a register-sourced operand: NW. -/
def MatFn.operandWords : MatFn → Nat
  | .f4 => 512
  | _ => 1024

/-- Registers of every lane that hold a register-sourced operand of a gang with `lanes` lanes. -/
def MatFn.operandRegs (f : MatFn) (lanes : Nat) : Nat := (f.operandWords + lanes - 1) / lanes

/-- Multiple that the base and the row pitch of a scratchpad operand must be of. -/
def MatFn.unit : MatFn → Nat
  | .scale => 8
  | _ => 16

/-- The sources that the issuing strand reads for an operand, and the registers that it only names. -/
def matOperand (form : MatForm) (x : Src) (n : Nat) (first : Bool) : List Src × List Dst :=
  match form with
  | .none => ([], [])
  | .regs => ([{ x with n := n, poison := true, wait := false }], [])
  | .pad =>
    if first then ([{ x.pair.clean with once := true, wait := false }], [])
    else ([], [{ reg := x.reg, n := 2, align := 2, field := x.field }])

/-- The band-scale register of MSCALE, if there is one (R336). -/
def bandReg (q : MatAsk) (v : Adverb) : Option Nat :=
  match q.fn, v with
  | .scale, .mod m => some m.c.toNat
  | _, _ => none

def bandOperand (q : MatAsk) (v : Adverb) (first : Bool) : List Src × List Dst :=
  match bandReg q v with
  | none => ([], [])
  | some r =>
    if first then ([{ reg := r, field := 3, poison := true, once := true, wait := false }], [])
    else ([], [{ reg := r, field := 3 }])

/-- The operands of a matrix instruction that strand `i` issues. A failed product is reported here (R426). -/
def State.usesMat (s : State) (b : Block) (i : Nat) (q : MatAsk) (v : Adverb) : Uses :=
  let ms := s.members b i
  let first := ms.headD i == i
  let n := q.fn.operandRegs (ms.length * (b.strand i).width)
  let x := matOperand q.formA (srcA v q.a) n first
  let y := matOperand q.formB (srcB v q.b) n first
  let z := bandOperand q v first
  let srcs := x.1 ++ y.1 ++ z.1
  let regs := srcs.flatMap Src.regs
  { srcs := srcs, also := x.2 ++ y.2 ++ z.2, roles := [.matrix], low := s.cur.lanes.headD 0,
    report := fun d => d.cls == 9 || d.words.any fun k => regs.contains (k % 256) }

/-- The empty words that the instruction reads in its active lanes. -/
def Uses.emptyKeys (u : Uses) (st : Strand) (ls : List Nat) : List Nat :=
  (ls.flatMap fun l => (u.srcsOf l).flatMap fun x => x.regs.map (regKey l)).filter fun k => !st.full k

/-- The scratchpad operand whose pair is in register `r` of lane `l` (R333). -/
def Strand.padOperand (st : Strand) (l r : Nat) : MatSrc :=
  let w := (st.word l (r + 1)).toNat
  .pad (st.word l r).toNat (bits w 0 16) (bits w 16 16)

/-- The first fault of a scratchpad operand: class, SUB, address (Table 21-1). -/
def State.padFlaw (s : State) (b : Block) (f : MatFn) (x : MatSrc) : Option (Nat × Nat × Nat) :=
  match x with
  | .pad base pitch _ =>
    let size := (if bit base 22 then (s.partner? b).map Block.padBytes else some b.padBytes)
    if base % f.unit != 0 || pitch % f.unit != 0 then some (0x12, 3, base)
    else if 2 ^ 23 ≤ base then some (0x13, 2, base)
    else
      match size with
      | none => some (0x13, 1, base)
      | some n =>
        let edge := base / 2 ^ 22 * 2 ^ 22 + n
        (leastBy id ((x.rows.filter fun r => decide (edge < r + f.rowBytes)).map fun r => max r edge)).map fun a =>
          (0x13, 4, a)
  | _ => none

/-- The scratchpad operands that member 0 gives. -/
def padOperands (q : MatAsk) (v : Adverb) (st : Strand) (l : Nat) : List MatSrc :=
  (if q.formA == .pad then [st.padOperand l (aReg v q.a)] else []) ++
  (if q.formB == .pad then [st.padOperand l (bReg v q.b)] else [])

/-- Faults of a rendezvous (Table 20-2), and those of member 0's scratchpad operands. -/
def lateMat (u : Uses) (q : MatAsk) (v : Adverb) : Late := fun s b st ls =>
  let i := s.cur.strand
  let every (c sub addr info info2 : Nat) : List LaneFault := s.cur.lanes.map fun l =>
    { lane := l, cls := c, sub := sub, addr := addr, info := info, info2 := info2 }
  let poison := ls.any fun l => (u.srcsOf l).any fun x => x.poison && x.regs.any fun r => (st.reg l r).poison
  if !(u.emptyKeys st ls).isEmpty || poison then []
  else
    let ms := s.members b i
    let others := ms.filter fun k => k != i
    let gone (k : Nat) : Bool := !(b.strand k).lanes.any fun l => l.status == .live
    match others.find? fun k => (b.strand k).gang != st.gang with
    | some k => every 8 1 0 st.gang.toNat (b.strand k).gang.toNat
    | none =>
      match others.find? gone with
      | some k => every 8 3 0 s.cur.word.toNat k
      | none =>
        let differs (k : Nat) : Bool :=
          match (b.strand k).arrived with
          | some a => (b.strand k).arrivals == st.arrivals + 1 && a != (s.cur.word, s.cur.adverb)
          | none => false
        match others.find? differs with
        | some k => every 8 0 0 s.cur.word.toNat (((b.strand k).arrived.map fun a => a.1.toNat).getD 0)
        | none =>
          if ms.headD i != i then []
          else
            let size := q.fn.rowBytes % 256 + (if q.fn.storesRows then 256 else 0)
            (padOperands q v st (s.cur.lanes.headD 0)).flatMap fun x =>
              match s.padFlaw b q.fn x with
              | some (c, sub, a) => every c sub a size 0
              | none => []

/-! ## The latch (R329, R330, R338) -/

/-- The words of a register-sourced operand whose first register is `r` (R332). -/
def Block.gangWords (b : Block) (ms : List Nat) (f : MatFn) (r : Nat) : List Word :=
  let w := ((ms.head?.map b.strand).getD Strand.absent).width
  let n := ms.length * w
  (List.range f.operandWords).map fun k =>
    let st := b.strand (ms.getD (k % n / w) 0)
    let l := k % n % w
    if (st.lane l).status == .live then st.word l (r + k / n) else 0

/-- The operand as the engine holds it. `l` is the lowest active lane of member 0. -/
def Block.operand (b : Block) (ms : List Nat) (f : MatFn) (form : MatForm) (l r : Nat) : MatSrc :=
  match form with
  | .none => .none
  | .regs => .regs (b.gangWords ms f r)
  | .pad => (b.strand (ms.headD 0)).padOperand l r

/-- The instruction that the engine accepts at a rendezvous. -/
def State.matOp (s : State) (b : Block) (ms : List Nat) (q : MatAsk) (v : Adverb) : MatOp :=
  let st := b.strand (ms.headD 0)
  let low := if ms.headD 0 == s.cur.strand then s.cur.lanes.headD 0 else
    ((List.range st.lanes.length).find? fun l => (st.lane l).park == .latch).getD 0
  { fn := q.fn, ctl := q.ctl, a := b.operand ms q.fn q.formA low (aReg v q.a),
    b := b.operand ms q.fn q.formB low (bReg v q.b),
    bands := ((bandReg q v).map fun r => st.word low r).getD 0x3F803F80, members := ms, pc := s.cur.pc }

/-- Bytes of the unit in progress. -/
def Issue.size (c : Issue) : Nat := if c.adverb.isSome then 8 else 4

/-- The other members' lanes at the latch go on. -/
def Strand.leaveLatch (st : Strand) (size : Nat) : Strand :=
  { st with
    arrived := none
    lanes := st.lanes.map fun ln => if ln.park == .latch then ln.retire (ln.pc + BitVec.ofNat 64 size) else ln }

/-- An instruction that stores to the partner's scratchpad has an effect outside its view (R139). -/
def MatOp.outside (op : MatOp) : Bool := op.fn.storesRows && op.a.rows.any fun r => bit r 22

/-- The rendezvous is complete: the engine accepts the instruction once, and every member goes on. -/
def State.acceptMat (s : State) (u : Uses) (b : Block) (st : Strand) (ls ms : List Nat) (q : MatAsk) (v : Adverb) : State :=
  let op := s.matOp b ms q v
  let i := s.cur.strand
  let s := s.settle u b st ls
  let s := s.updBlock b.key fun k => { k with mat := k.mat.map fun m => { m with queue := m.queue ++ [op] } }
  let s := (ms.filter fun k => k != i).foldl (fun s k =>
    s.updStrand b.key k fun x => x.leaveLatch s.cur.size) s
  let s := s.updStrand b.key i fun x => { x with arrivals := x.arrivals + 1, arrived := none }
  (s.markOutside b.key op.outside).retire ls

/-- The arrival of the issuing strand. -/
def State.arrive (s : State) (u : Uses) (b : Block) (st : Strand) (ls : List Nat) (q : MatAsk) (v : Adverb) : State :=
  let i := s.cur.strand
  let ms := s.members b i
  let here (k : Nat) : Bool :=
    k == i || ((b.strand k).arrived.isSome && (b.strand k).arrivals == st.arrivals + 1)
  if ms.all here then
    match b.mat with
    | some m =>
      if 16 ≤ m.queue.length then s.park ls (.matQueue (m.executed + 1)) else s.acceptMat u b st ls ms q v
    | none => s.acceptMat u b st ls ms q v
  else
    let s := (s.settle u b st ls).updStrand b.key i fun x =>
      { x with arrivals := x.arrivals + 1, arrived := some (s.cur.word, s.cur.adverb) }
    s.park ls .latch

/-- A matrix instruction other than MGANG. -/
def State.matInstr (s : State) (q : MatAsk) (v : Adverb) : Result :=
  match s.block? s.cur.blk with
  | none => .next s
  | some blk =>
    let u := s.usesMat blk s.cur.strand q v
    match s.gate u (lateMat u q v) with
    | .stop s => .next s
    | .go s b st ls =>
      match u.emptyKeys st ls with
      | [] => .next (s.arrive u b st ls q v)
      | k :: ks => .next (s.park ls (.matWords (k :: ks)))

def execMmaF64 (c : MatCtl) (a b : BitVec 7) (v : Adverb) (s : State) : Result := s.matInstr ⟨.f64, c, a, b⟩ v

def execMmaF32 (c : MatCtl) (a b : BitVec 7) (v : Adverb) (s : State) : Result := s.matInstr ⟨.f32, c, a, b⟩ v

def execMmaBf16 (c : MatCtl) (a b : BitVec 7) (v : Adverb) (s : State) : Result := s.matInstr ⟨.bf16, c, a, b⟩ v

def execMmaF16 (c : MatCtl) (a b : BitVec 7) (v : Adverb) (s : State) : Result := s.matInstr ⟨.f16, c, a, b⟩ v

def execMmaF8e4 (c : MatCtl) (a b : BitVec 7) (v : Adverb) (s : State) : Result := s.matInstr ⟨.f8e4, c, a, b⟩ v

def execMmaF8e5 (c : MatCtl) (a b : BitVec 7) (v : Adverb) (s : State) : Result := s.matInstr ⟨.f8e5, c, a, b⟩ v

def execMmaF4 (c : MatCtl) (a b : BitVec 7) (v : Adverb) (s : State) : Result := s.matInstr ⟨.f4, c, a, b⟩ v

def execMmaI8 (c : MatCtl) (a b : BitVec 7) (v : Adverb) (s : State) : Result := s.matInstr ⟨.i8, c, a, b⟩ v

def execMscale (c : MatCtl) (a b : BitVec 7) (v : Adverb) (s : State) : Result := s.matInstr ⟨.scale, c, a, b⟩ v

def execAccz (c : MatCtl) (v : Adverb) (s : State) : Result := s.matInstr ⟨.zero, c, 0, 0⟩ v

def execAccld (c : MatCtl) (a : BitVec 7) (v : Adverb) (s : State) : Result := s.matInstr ⟨.load, c, a, 0⟩ v

def execAccst (c : MatCtl) (a : BitVec 7) (v : Adverb) (s : State) : Result := s.matInstr ⟨.store, c, a, 0⟩ v

def execAccsp (c : MatCtl) (a : BitVec 7) (v : Adverb) (s : State) : Result := s.matInstr ⟨.storePart, c, a, 0⟩ v

/-! ## Tiles and the partial bank -/

/-- A table with the `n` entries from key `k` on replaced. -/
def cellsSpan {α : Type} [DecidableEq α] (dflt : α) (k : Nat) (vs : List α) (c : Cells α) : Cells α :=
  (c.filter fun e => decide (e.1 < k)) ++
  ((vs.mapIdx fun i v => (k + i, v)).filter fun e => e.2 != dflt) ++
  (c.filter fun e => decide (k + vs.length ≤ e.1))

/-- Words of a tile, row by row. -/
def MatCtx.tile (m : MatCtx) (t : Nat) : List Word := (List.range 4096).map fun x => cellsGet 0 (t * 4096 + x) m.tiles

def MatCtx.setTile (m : MatCtx) (t : Nat) (ws : List Word) : MatCtx :=
  { m with tiles := cellsSpan 0 (t * 4096) ws m.tiles }

/-! ## Numbers (R178 to R182, R334 to R336) -/

/-- Element type, group size and width in bits of a product's operands (Table 14-7). -/
def MatFn.element : MatFn → NumType × Nat × Nat
  | .f64 => (.f64, 1, 64)
  | .f32 => (.f32, 4, 32)
  | .bf16 => (.bf16, 8, 16)
  | .f16 => (.f16, 8, 16)
  | .f8e4 => (.f8e4, 8, 8)
  | .f8e5 => (.f8e5, 8, 8)
  | .f4 => (.f4, 8, 4)
  | .i8 => (.i8, 8, 8)
  | _ => (.f32, 4, 32)

/-- The elements of a row of `n` bytes. -/
def rowElements (width : Nat) (bs : List Byte) : List Nat :=
  let x := leNat bs
  (List.range (8 * bs.length / width)).map fun k => bits x (k * width) width

/-- A list cut into groups of `n`; the first number bounds them. -/
def groupsOf {α : Type} (n : Nat) : Nat → List α → List (List α)
  | 0, _ => []
  | k + 1, xs => if xs.isEmpty then [] else xs.take n :: groupsOf n k (xs.drop n)

/-- One step of the engine: the accumulator plus the exact sum of a group's products, rounded once. -/
def stepSum (t : Fmt) (acc : Nat) (as bs : List Val) : Nat :=
  let ps := List.zipWith (fun x y => (Val.mul x y).1) as bs
  (t.round .rne false false (sumVals .rne (t.value acc :: ps)).1).1

/-- One element of an MMA: groups ascending. -/
def chainSum (t : Fmt) (n acc : Nat) (as bs : List Val) : Nat :=
  (List.zip (groupsOf n 64 as) (groupsOf n 64 bs)).foldl (fun acc g => stepSum t acc g.1 g.2) acc

/-- One element of MMA.I8, modulo 2^32. -/
def intSum (acc : Nat) (as bs : List Nat) : Nat :=
  wrap 32 (acc + sumInts (List.zipWith (fun x y => sext x 8 * sext y 8) as bs))

/-- Partials of one element of MMA.F4, in units of 2^−2. -/
def f4Partials (as bs : List Val) : List (BitVec 16) :=
  (List.zip (groupsOf 8 8 as) (groupsOf 8 8 bs)).map fun g =>
    BitVec.ofInt 16 (sumInts (List.zipWith (fun x y => Val.scaled (-2) (Val.mul x y).1) g.1 g.2))

/-- A function of row `i` of A and row `j` of Bᵀ, for every element, row by row. -/
def outer {α β : Type} (f : Nat → α → α → β) (as bs : List α) : List β :=
  (as.mapIdx fun i x => bs.mapIdx fun j y => f (64 * i + j) x y).flatten

/-- The result of a product or a scaling in the context. -/
def MatCtx.product (m : MatCtx) (op : MatOp) (as bs : List (List Byte)) : MatCtx :=
  let (ty, n, width) := op.fn.element
  let t := op.ctl.tile.toNat
  let old (k : Nat) : List Word := if op.ctl.zf then [] else m.tile k
  let ea := as.map (rowElements width)
  let eb := bs.map (rowElements width)
  let val (r : List Nat) : List Val := r.map fun x => (NumType.fmt ty).value x
  match op.fn with
  | .i8 =>
    let w := old t
    m.setTile t (outer (fun x p q => BitVec.ofNat 32 (intSum (w.getD x 0).toNat p q)) ea eb)
  | .f64 =>
    let lo := old t
    let hi := old (t + 1)
    let rs := outer (fun x p q =>
      BitVec.ofNat 64 (chainSum .f64 n (pairOf (lo.getD x 0) (hi.getD x 0)).toNat p q)) (ea.map val) (eb.map val)
    (m.setTile t (rs.map loWord)).setTile (t + 1) (rs.map hiWord)
  | .f4 => { m with bank := cellsSpan 0 0 (outer (fun _ p q => f4Partials p q) (ea.map val) (eb.map val)).flatten m.bank }
  | .scale =>
    let w := old t
    let ba := bits op.bands.toNat 0 16
    let bb := bits op.bands.toNat 16 16
    let scales (r : List Byte) : List Nat := r.map BitVec.toNat
    m.setTile t (outer (fun x p q =>
      let ps := (List.range 8).map fun k => (cellsGet 0 (8 * x + k) m.bank).toInt
      let terms := List.zipWith (fun y z => (y, z)) ps (List.zip p q)
      BitVec.ofNat 32 (scaleSum false (w.getD x 0).toNat (terms.map fun y => (y.1, y.2.1, y.2.2)) ba bb).1)
      (as.map scales) (bs.map scales))
  | .f32 | .bf16 | .f16 | .f8e4 | .f8e5 =>
    let w := old t
    m.setTile t (outer (fun x p q => BitVec.ofNat 32 (chainSum .f32 n (w.getD x 0).toNat p q)) (ea.map val) (eb.map val))
  | .zero | .load | .store | .storePart => m

/-! ## Execution (R337 to R339, R425, R426) -/

/-- The rows of an operand: from its captured words, or from scratchpad. -/
def State.operandRows (s : State) (b : Block) (f : MatFn) (x : MatSrc) : List (List Byte) :=
  match x with
  | .none => []
  | .regs ws => groupsOf f.rowBytes 64 (ws.flatMap fun w => leBytes 4 w.toNat)
  | .pad _ _ _ => x.rows.map fun r =>
      let (k, off) := s.padByte b r
      s.homeBytes 0 ⟨.scratch k off, none⟩ f.rowBytes

/-- The chunks that the instruction's scratchpad rows touch. -/
def State.matChunks (s : State) (b : Block) (op : MatOp) : List (Nat × Nat) :=
  (op.a.rows ++ op.b.rows).flatMap fun r =>
    let (k, off) := s.padByte b r
    s.absentAt (.scratch k off) op.fn.rowBytes

/-- A row that the instruction reads holds a poisoned unit of scratchpad, which counts as an uncorrectable word of the
engine's operand buffer (DEDUCED, log 65). -/
def State.matPoison (s : State) (b : Block) (op : MatOp) : Bool :=
  !op.fn.storesRows && (op.a.rows ++ op.b.rows).any fun r =>
    let (k, off) := s.padByte b r
    (s.poisonIn 0 ⟨.scratch k off, none⟩ op.fn.rowBytes).isSome

/-- The rows that ACCST and ACCSP store. -/
def MatCtx.storedRows (m : MatCtx) (op : MatOp) : List (List Byte) :=
  let t := op.ctl.tile.toNat
  match op.fn with
  | .store => groupsOf 256 64 ((m.tile t).flatMap fun w => leBytes 4 w.toNat)
  | .storePart => (List.range 64).map fun i => (List.range 64).flatMap fun j =>
      leBytes 2 (cellsGet 0 ((64 * i + j) * 8 + t) m.bank).toNat
  | _ => []

/-- The instruction's function code (Table 14-7, R336, R337). -/
def MatFn.code : MatFn → Nat
  | .f64 => 1
  | .f32 => 2
  | .bf16 => 3
  | .f16 => 4
  | .f8e4 => 5
  | .f8e5 => 6
  | .f4 => 7
  | .i8 => 8
  | .scale => 9
  | .zero => 10
  | .load => 11
  | .store => 12
  | .storePart => 13

/-- MMA, MMA.F4 and MSCALE carry the checks of R425. -/
def MatFn.checked : MatFn → Bool
  | .zero | .load | .store | .storePart => false
  | _ => true

/-- The effect of an accepted instruction. -/
def State.runMat (s : State) (b : Block) (m : MatCtx) (op : MatOp) : State :=
  let t := op.ctl.tile.toNat
  let keep (m : MatCtx) : State := s.updBlock b.key fun k => { k with mat := some m }
  match op.fn with
  | .zero => keep (m.setTile t (List.replicate 4096 0))
  | .load =>
    let ws := (s.operandRows b op.fn op.a).flatMap fun r =>
      (List.range 64).map fun j => BitVec.ofNat 32 (leNat ((r.drop (4 * j)).take 4))
    keep (m.setTile t ws)
  | .store | .storePart =>
    (List.zip op.a.rows (m.storedRows op)).foldl (fun s r =>
      let (k, off) := s.padByte b r.1
      (s.padWrite k off r.2).clearResv (.scratch k off) r.2.length fun _ _ _ => false) s
  | _ => keep (m.product op (s.operandRows b op.fn op.a) (s.operandRows b op.fn op.b))

/-- A product whose rerun mismatched too: counted, and handed to the gang's lanes as a deferred fault (R426). -/
def State.failMat (s : State) (b : Block) (op : MatOp) (word : Bool) : State :=
  let s := (s.updDie (dieOf b.core) fun d => { d with mxfail := d.mxfail + 1 }).wearCore b.core Wear.fail
  let d : Deferred :=
    { cls := 9, sub := ofFlag word, addr := 0, info := loWord op.pc,
      info2 := BitVec.ofNat 32 (op.ctl.tile.toNat + op.fn.code * 16), handle := none, words := [], now := false }
  let live (k : Nat) : List Nat :=
    (List.range (b.strand k).lanes.length).filter fun l => ((b.strand k).lane l).status == .live
  let some' := op.members.filter fun k => !(live k).isEmpty
  if some'.isEmpty then s.deferTo b.key (op.members.headD 0) [(0, d)]
  else some'.foldl (fun s k => s.deferTo b.key k ((live k).map fun l => (l, d))) s

def execMatrixExecute (blk : Nat) (fate : MatFate) (s : State) : Result :=
  match s.block? blk with
  | none => .next s
  | some b =>
    let here := match b.state with | .saved _ _ | .ended => false | .running | .stopping _ | .overflow _ => true
    match b.mat with
    | none => .next s
    | some m =>
      match m.queue with
      | [] => .next s
      | op :: rest =>
        if !here || !s.clocksRun || !(s.matChunks b op).isEmpty then .next s
        else
          let bad := s.matPoison b op
          let s := s.runMat b m op
          let s := s.updBlock blk fun k =>
            { k with mat := k.mat.map fun m => { m with queue := rest, executed := m.executed + 1 } }
          let b := (s.block? blk).getD b
          if bad then .next (s.failMat b op true)
          else if op.fn.checked then
            match fate with
            | .sound => .next s
            | .rerun =>
              .next ((s.updDie (dieOf b.core) fun d => { d with mxrerun := d.mxrerun + 1 }).wearCore b.core Wear.rerun)
            | .mismatch w => .next (s.failMat b op w)
          else .next s

end Sys2Proof.Machine
end

