-- ==== Sys2Proof/Machine/Kernel.lean ====
section
/-! DEFINITION. Launch and fork records, the reading of a container's header and kernel entry, and their checks (R57,
R275, R276, R418, R438, Tables 3-1, 6-1, 12-10, 12-12). -/

namespace Sys2Proof.Machine

open Sys2Proof

/-! ## Records -/

/-- The fields that a launch record and a fork record share. -/
def recordCommon (x : Nat) : LaunchRec :=
  { lid := 0, cont := bits x 64 64, entry := bits x 128 32, nblk := 0, cb := BitVec.ofNat 64 (bits x 192 64),
    wcode := bits x 256 2, rcode := bits x 258 3, det := bit x 261, teamed := bit x 262, nstream := bits x 263 5, npre := 0,
    job := 0, threads := bits x 288 11 + 1, nstrand := bits x 299 8 + 1, rows := bits x 307 13, ncopy := bits x 320 8,
    nmat := bits x 328 8, done := 0, pre := [] }

/-- Table 3-1. -/
def launchRec (x : Nat) : LaunchRec :=
  { recordCommon x with
    lid := BitVec.ofNat 64 (bits x 0 64), nblk := bits x 160 32 + 1, npre := bits x 268 3, job := bits x 272 12,
    done := bits x 384 64,
    pre := (List.range (Nat.min 4 (bits x 268 3))).map fun i => BitVec.ofNat 64 (bits x (512 + 64 * i) 64) }

/-- Table 6-1, with the child count of the count register. -/
def forkRec (x count : Nat) : LaunchRec := { recordCommon x with nblk := count }

/-- NRES of a fork record. -/
def forkReserve (x : Nat) : Nat := bits x 352 32

/-- Strand width of a WCODE, registers of an RCODE. -/
def widthOf (wcode : Nat) : Nat := 8 * 2 ^ wcode

def regsOf (rcode : Nat) : Nat := 16 * 2 ^ rcode

/-- A field lies outside its range, or the fields break R28 or R57. -/
def LaunchRec.bad (r : LaunchRec) : Bool :=
  let w := widthOf r.wcode
  decide (4 < r.rcode) || decide (16 < r.nstream) || decide (16 < r.nmat) || decide (1600 < r.rows) ||
  decide (r.nstrand < r.ncopy + r.nmat) || (r.teamed && r.nblk % 2 != 0) || decide (r.nstrand * w < r.threads) ||
  decide (2048 < r.nstrand * w) || decide (r.threads ≤ (r.nstrand - 1) * w)

/-- Fields of a launch record alone. -/
def LaunchRec.badLaunch (r : LaunchRec) : Bool := r.bad || decide (4 < r.npre) || decide (2 ^ 57 ≤ r.cont)

/-! ## The kernel entry -/

/-- What the scheduler takes from a kernel entry (R276). -/
structure KernelInfo where
  pc0 : Nat
  nres : Nat
  spoff : Nat
  nsafe : Nat
deriving DecidableEq, Repr

/-- Bytes read as an access of a job in its root view, from memory or from answers held. -/
def State.jobRead1 (s : State) (job : Nat) (rs : List Reply) (va n : Nat) : Got :=
  match s.placeJob noCore job va .read with
  | .error f => .flaw f
  | .ok p =>
    match p.loc with
    | .remote _ _ | .host _ _ =>
      let parts := (p.loc.lines n).map fun l => (l, answerIn rs l.1 l.2 false)
      let missing := (parts.filter fun x => x.2.isNone).map fun x => x.1
      if !missing.isEmpty then .away (missing.map fun l => (l.1, l.2, none))
      else if parts.any fun x => (x.2.map fun r => r.2).getD false then .flaw ⟨0x1A, 0, va⟩
      else .ok (parts.flatMap fun x => (x.2.map fun r => r.1).getD [])
    | _ =>
      match s.poisonIn job p n with
      | some d => .flaw ⟨0x1A, 0, va + d⟩
      | none => if p.viewed then .ok (s.viewBytes job .root va n) else .ok (s.homeBytes job p n)

def State.jobRead (s : State) (job : Nat) (rs : List Reply) (va n : Nat) : Got :=
  ((segmentsOf (va % 2 ^ 64) n).map fun p => s.jobRead1 job rs p.1 p.2).foldl Got.join (.ok [])

/-- What reading a container gives. -/
inductive KernelRead where
  | good (k : KernelInfo)
  /-- MAGIC, VERS, ENTRY or OFF is wrong -/
  | bad
  | flaw (f : Flaw)
  | away (ls : List Need)

/-- The container header at CONT, then kernel entry ENTRY, then their checks. -/
def State.readKernel (s : State) (job : Nat) (rs : List Reply) (r : LaunchRec) : KernelRead :=
  match s.jobRead job rs r.cont 64 with
  | .flaw f => .flaw f
  | .away ls => .away ls
  | .ok hd =>
    let x := leNat hd
    match s.jobRead job rs (r.cont + bits x 192 64 + 64 * r.entry) 64 with
    | .flaw f => .flaw f
    | .away ls => .away ls
    | .ok en =>
      let e := leNat en
      let off := bits e 64 64
      if bits x 0 32 != 0x48475545 || bits x 32 16 != 1 || decide (bits x 96 32 ≤ r.entry) || off % 2 != 0 ||
          decide (bits x 320 64 < off) then .bad
      else .good ⟨(r.cont + off) % 2 ^ 64, bits e 192 32, bits e 256 64, bits e 224 32⟩

/-! ## Grids -/

/-- The identifier of a new child grid (Table 4-2): bit 63 set, and unlike every other grid's. -/
def State.pickGrid (s : State) (k : Nat) : Dword :=
  let used := sortBy id ((s.grids.filter fun g => g.gid.getLsbD 63).map fun g => g.gid.toNat - 2 ^ 63)
  BitVec.ofNat 64 (2 ^ 63 + nthFree ((Config.freeGrid k).toNat % 2 ^ 62) used)

/-- A grid with nothing dispatched. -/
def Grid.fresh (key : Nat) (gid : Dword) (r : LaunchRec) : Grid :=
  { key := key, gid := gid, launch := r, port := 0, queue := 0, prio := 0, recAddr := 0, age := key, state := .active,
    pc0 := 0, nres := 0, spoff := 0, nsafe := 0, fork := none, parent := none,
    streams := List.replicate r.nstream Stream.fresh, passing := [], started := [], ended := [], requeued := [],
    aborted := false,
    replies := [], tags := [] }

def Grid.withKernel (g : Grid) (k : KernelInfo) : Grid :=
  { g with pc0 := BitVec.ofNat 64 k.pc0, nres := k.nres, spoff := k.spoff, nsafe := k.nsafe }

/-- A fork with nothing written. -/
def Fork.fresh (dev key job grid nres children depth : Nat) (parent : View) : Fork :=
  { key := key, job := job, parent := parent, depth := depth, grid := grid, nres := nres, children := children,
    dev := dev, name := key, outside := [], away := [], owner := none, folded := 0, joined := false, twins := [], copies := [], poisoned := [], conflict := none,
    reported := false, after := [], age := key }

end Sys2Proof.Machine
end

