-- ==== Sys2Proof/Machine/Sync.lean ====
section
/-! DEFINITION. Barriers, fences, sync objects and PUBLISH (R153, R154, R156, R157, R167, R237, R354 to R356, R358,
Table 7-3). -/

namespace Sys2Proof.Machine

open Sys2Proof

/-! ## Barriers (R354) -/

/-- The lane has arrived at a barrier of the kind that `p` tells; its next address. -/
def atBar : Park → Option Dword
  | .bar n => some n
  | _ => none

def atTbar : Park → Option Dword
  | .tbar n => some n
  | _ => none

/-- Every live lane of the blocks has arrived, and one lane at least. -/
def allArrived (at' : Park → Option Dword) (bs : List Block) : Bool :=
  let live := bs.flatMap fun b => b.strands.flatMap fun st => st.lanes.filter fun l => l.status == .live
  !live.isEmpty && live.all fun l => (at' l.park).isSome

/-- The arrived lanes of a block go on. -/
def Block.passBar (at' : Park → Option Dword) (b : Block) : Block :=
  { b with strands := b.strands.map fun st =>
      { st with lanes := st.lanes.map fun l =>
          if l.status == .live then match at' l.park with | some n => l.retire n | none => l else l } }

/-- The block's barrier completes if the last live thread has arrived. -/
def State.tryBar (s : State) (key : Nat) : State :=
  match s.block? key with
  | none => s
  | some b => if allArrived atBar [b] then s.updBlock key (Block.passBar atBar) else s

/-- The team's barrier completes if the last live thread of both blocks has arrived: team-scope acquires on their
cores. -/
def State.tryTbar (s : State) (key : Nat) : State :=
  match s.block? key with
  | none => s
  | some b =>
    let bs := b :: (s.partner? b).toList
    if allArrived atTbar bs then
      bs.foldl (fun s b => (s.acquireSet b.core 3 none).updBlock b.key (Block.passBar atTbar)) s
    else s

def execBar (v : Adverb) (s : State) : Result :=
  let _ := v
  match s.gate { report := reportsStores } Late.none with
  | .stop s => .next s
  | .go s b _ ls =>
    match b.matDrain s.cur.strand with
    | some g => .next (s.park ls (.barEngine g))
    | none => .next ((s.park ls (.bar s.cur.next)).tryBar b.key)

def execTbar (v : Adverb) (s : State) : Result :=
  let _ := v
  match s.gate { report := reportsStores } Late.none with
  | .stop s => .next s
  | .go s b _ ls =>
    match b.matDrain s.cur.strand, s.release b s.cur.strand 3 none with
    | some g, _ => .next (s.park ls (.barEngine g))
    | none, (s, some p) => .next (s.park ls p)
    | none, (s, none) => .next ((s.park ls (.tbar s.cur.next)).tryTbar b.key)

/-! ## Fences (R355) -/

/-- The release action, then the acquire action, on all memory at a scope. At any scope the core's write-combining entries
drain (R231); from team scope on the release awaits them. -/
def State.fence (s : State) (scope : Nat) : Result :=
  match s.gate { report := reportsStores } Late.none with
  | .stop s => .next s
  | .go s b _ ls =>
    match s.release b s.cur.strand scope none with
    | (s, some p) => .next (s.park ls p)
    | (s, none) => .next (((s.drainWhere b.core fun _ => true).acquireSet b.core scope none).retire ls)

/-- Steps stand in one order, which is the SC order of every FENCE.SC of the module (R156). -/
def execFenceSc (v : Adverb) (s : State) : Result := s.fence (syncScope v)

def execFenceAr (v : Adverb) (s : State) : Result := s.fence (syncScope v)

/-! ## Sync objects (R153, R356) -/

/-- The byte ranges that a sync object guards (Table 7-5): none for all memory. An NRANGE above 8 guards all (DESIGN
CHOICE, log 59). -/
def guardRanges (o : Nat) (bs : List Byte) : Option (List (Nat × Nat)) :=
  let x := leNat bs
  let n := bits x 64 4
  if n == 0 || decide (8 < n) then none
  else some ((List.range n).map fun i =>
    (((o : Int) + 16 * sext (bits x (128 + 48 * i) 32) 32).toNat, 16 * bits x (160 + 48 * i) 16))

/-- The guarded set as lines of the core's L1. -/
def State.guardSet (s : State) (b : Block) (o : Nat) (bs : List Byte) : ByteSet :=
  (guardRanges o bs).map fun rs => rs.flatMap fun r => s.keyRanges b.core (s.jobOf b) 20 r.1 r.2

def objAcc (st : Strand) (a : BitVec 7) (v : Adverb) (n : Nat) (way : Way) (acq l : Nat) : Acc :=
  { lane := l, va := (st.pair l (aReg v a)).toNat, n := n, pad := false, way := way, acq := acq }

def execAcq (d a : BitVec 7) (v : Adverb) (s : State) : Result :=
  let scope := syncScope v
  let i := s.cur.strand
  let u : Uses := { srcs := [(srcA v a).pair.clean], dsts := [(dstD v d).pair] }
  let late : Late := fun s b st ls => ls.flatMap fun l => s.objFlaws b st i false (objAcc st a v 64 .read scope l)
  match s.gate u late with
  | .stop s => .next s
  | .go s b st ls =>
    let as := s.reach b (ls.map (objAcc st a v 64 .read scope))
    let (s, got, tags) := as.foldl (State.loadLane b i (u.tainted st)) (s, [], [])
    if tags.isEmpty then
      let s := s.meetScope b i scope (as.map fun x => x.2.loc)
      let s := got.foldl (fun s g =>
        s.acquireSet b.core scope (s.guardSet b (st.pair g.1 (aReg v a)).toNat g.2)) s
      let outs := got.flatMap fun g =>
        let w := BitVec.ofNat 64 (leNat (g.2.take 8))
        u.outs st ls g.1 [(dReg v d, loWord w), (dReg v d + 1, hiWord w)]
      .next (((s.settle u b st ls).writes outs).retire ls)
    else .next (s.park ls (.reply tags))

/-- One lane's release action after those before it. -/
def State.releaseLane (b : Block) (st : Strand) (v : Adverb) (a : BitVec 7) (scope : Nat) (acc : State × List Nat)
    (g : Nat × List Byte) : State × List Nat :=
  let (s, tags) := acc.1.releaseSet b.core scope (acc.1.guardSet b (st.pair g.1 (aReg v a)).toNat g.2)
  (s, acc.2 ++ tags)

def execRel (a b : BitVec 7) (v : Adverb) (s : State) : Result :=
  let scope := syncScope v
  let i := s.cur.strand
  let u : Uses := { srcs := [(srcA v a).pair.clean, (srcB v b).pair.clean], report := reportsStores }
  let late : Late := fun s blk st ls => ls.flatMap fun l =>
    match s.objFlaws blk st i false (objAcc st a v 64 .read 0 l) with
    | [] => s.objFlaws blk st i false (objAcc st a v 8 .write 0 l)
    | fs => fs
  match s.gate u late with
  | .stop s => .next s
  | .go s blk st ls =>
    match blk.matDrain i with
    | some g => .next (s.park ls (.engine g))
    | none =>
      let rd := s.reach blk (ls.map (objAcc st a v 64 .read 0))
      let (s, got, tags) := rd.foldl (State.loadLane blk i (u.tainted st)) (s, [], [])
      if !tags.isEmpty then .next (s.park ls (.reply tags))
      else
        let (s, tags) := got.foldl (State.releaseLane blk st v a scope) (s, [])
        if !tags.isEmpty then .next (s.park ls (.reply tags))
        else
          let as := s.reach blk (ls.map (objAcc st a v 8 .write 0))
          match s.wcbRoom blk (as.map fun x => x.2) with
          | (s, some p) => .next (s.park ls p)
          | (s, none) =>
            let s := as.foldl (fun s x =>
              ((s.store (s.ask blk i (s.jobOf blk) x.1) x.2 (leBytes 8 (st.pair x.1.lane (bReg v b)).toNat) true).1).setScope
                blk i scope x.2.loc) s
            .next (((s.markOutside blk.key true).settle u blk st ls).retire ls)

/-! ## PUBLISH (R167, R237, R358) -/

/-- A flushing read of a port waits for its completion. -/
def State.flushing (s : State) (p : Nat) : Option Nat :=
  (s.hostReads.find? fun r => r.port == p && r.bytes == 0).map fun r => r.tag

/-- Step 2 of R237 for a publication on port `p`: the flushing read of the other port that it waits for, if any. -/
def State.flushOther (s : State) (p : Nat) : State × Option Nat :=
  let q := 1 - p
  match s.flushing q with
  | some t => (s, some t)
  | none =>
    if (s.host q).dirty && !s.portGone q then
      let tag := s.freshTag
      let s := s.updHost q fun h => { h with dirty := false }
      let s := { s with hostReads := s.hostReads ++ [HostRead.mk tag q 0 0 .core (s.coreClock 0)] }
      (s.send (.flushRead q), some tag)
    else (s, none)

/-- Steps 3 and 4 of R237: the next counter value, written to the host, and the vector. -/
def State.publish (s : State) (p : Nat) : State :=
  let h := s.host p
  let n := h.pubval + 1
  let s := s.updHost p fun h => { h with pubval := n }
  if s.portGone p then s.updHost p fun h => { h with hwdrop := h.hwdrop + 1 }
  else
    let s := s.send (.write p h.pubadr (leBytes 8 n.toNat) false)
    if h.pubirq then s.msix p h.pubvec else s

def execPublish (v : Adverb) (s : State) : Result :=
  let _ := v
  match s.gate { report := reportsStores } Late.none with
  | .stop s => .next s
  | .go s b _ ls =>
    match s.release b s.cur.strand 6 none with
    | (s, some p) => .next (s.park ls p)
    | (s, none) =>
      let port := ((s.gridOf b).map fun g => g.port).getD 0
      match s.flushOther port with
      | (s, some t) => .next (s.park ls (.reply [t]))
      | (s, none) =>
        let s := s.publish port
        .next ((s.markOutside b.key true).retire ls)

end Sys2Proof.Machine
end

