-- ==== Sys2Proof/Machine/View.lean ====
section
/-! DEFINITION. FORK, JOIN, VIEWQ, and the folding of children (R123 to R141, R363 to R365, R437, R438, R440, R441). -/

namespace Sys2Proof.Machine

open Sys2Proof

/-! ## FORK (R123, R363, R438) -/

def usesFork (d a b : BitVec 7) (v : Adverb) : Uses :=
  { report := reportsStores, srcs := [(srcA v a).pair.clean, (srcB v b).clean], dsts := [dstD v d] }

def forkAcc (st : Strand) (a : BitVec 7) (v : Adverb) (l : Nat) : Acc :=
  { lane := l, va := (st.pair l (aReg v a)).toNat, n := 128, pad := false, way := .read, acq := 0 }

/-- The bytes of a lane's access, if they can be read at once. -/
def State.peek (s : State) (b : Block) (i : Nat) (a : Acc) : Option (List Byte) :=
  match s.load (s.ask b i (s.jobOf b) a) (s.placeOf b a) a.n false false with
  | .got bs _ _ => some bs
  | .wait _ _ => none

/-- A lane's fork record and count, once its record can be read. -/
def State.forkRecord (s : State) (b : Block) (i : Nat) (a : Acc) (count : Nat) : Option (LaunchRec × Nat) :=
  (s.peek b i a).map fun bs =>
    ({ forkRec (leNat bs) count with job := s.jobOf b }, forkReserve (leNat bs))

/-- The first failure of one lane's fork (R438). -/
def State.forkFlaw (s : State) (b : Block) (st : Strand) (i : Nat) (a : Acc) (count : Nat) : List LaneFault :=
  let f (c sub addr : Nat) : LaneFault := { lane := a.lane, cls := c, sub := sub, addr := addr, info := count, info2 := 0 }
  if 8 ≤ b.view.depth s then [f 0x01 12 a.va]
  else if 65536 < count then [f 0x01 13 a.va]
  else
    match s.accChecks b st i 128 1 false a with
    | x :: _ => [{ x with info := count }]
    | [] =>
      match s.forkRecord b i a count with
      | none => []
      | some (r, _) =>
        if r.bad then [f 0x01 10 a.va]
        else
          match s.readKernel r.job (st.lane a.lane).replies r with
          | .flaw x => [f x.cls x.sub x.addr]
          | .bad => [f 0x01 11 a.va]
          | .good _ | .away _ => []

/-- Of the lanes that meet one class, the lowest gives the record its fields (R438). -/
def lowestLane (fs : List LaneFault) : List LaneFault :=
  fs.map fun f =>
    let low := (leastBy LaneFault.lane (fs.filter fun g => g.cls == f.cls)).getD f
    { low with lane := f.lane }

/-- Reserves taken from the pool, with rollbacks while it is short (R138, R139); the number bounds them. -/
def State.takeReserve (s : State) (die need : Nat) : Nat → State × Bool
  | 0 => (s, false)
  | n + 1 =>
    if need == 0 || decide (need ≤ s.freeSlots) then (s, true)
    else
      match s.rollbackChoice with
      | some (g, d) => (s.rollback die g d).takeReserve die need n
      | none => (s, false)

/-- One lane's fork. -/
structure ForkAsk where
  lane : Nat
  launch : LaunchRec
  nres : Nat
  kernel : KernelInfo
deriving DecidableEq, Repr

/-- A child grid and its fork, or nothing for a count of 0 (R124): the key of the fork, if there is one. -/
def State.newFork (s : State) (b : Block) (i : Nat) (after : List Nat) (q : ForkAsk) : Option Nat × State :=
  if q.launch.nblk == 0 then (none, s)
  else
    let (k, s) := s.fresh
    let (gk, s) := s.fresh
    let (n, s) := s.draw
    let p := (s.grid? b.grid).getD (Grid.fresh 0 0 q.launch)
    let gid := s.pickGrid n
    let g := ((Grid.fresh gk gid { q.launch with lid := gid }).withKernel q.kernel)
    let g := { g with port := p.port, queue := p.queue, prio := p.prio, recAddr := p.recAddr, fork := some k,
                      parent := some b.grid, nres := q.nres }
    let f := Fork.fresh s.mgmt.dev k (s.jobOf b) gk q.nres q.launch.nblk (b.view.depth s) b.view
    let f := { f with owner := some (b.key, i, q.lane), after := after }
    (some k, { s with grids := s.grids ++ [g], forks := s.forks ++ [f] })

/-- One lane's fork after those of lower lanes; the keys made so far. -/
def State.forkLane (u : Uses) (b : Block) (st : Strand) (ls : List Nat) (reg : Nat) (acc : State × List Nat)
    (q : ForkAsk) : State × List Nat :=
  let i := acc.1.cur.strand
  let (k, s) := acc.1.newFork b i acc.2 q
  let h : NewHandle := { kind := 6, op := (k.map EngOp.fork).getD .idle, done := k.isNone }
  let (w, r, s) := s.newHandle b i h [regKey q.lane reg]
  let keep (o : RegOut) : Bool := o.lane == q.lane
  let outs := (ls.flatMap fun l => u.outs st ls l [(reg, w)]).filter keep
  let s := s.updStrand b.key i fun x =>
    outs.foldl (fun x o => x.setReg o.lane o.reg ⟨o.val, k.isNone, o.taint, o.poison⟩) x
  (s.noteIssued [q.lane] r, acc.2 ++ k.toList)

def execFork (d a b : BitVec 7) (v : Adverb) (s : State) : Result :=
  let u := usesFork d a b v
  let i := s.cur.strand
  let count (st : Strand) (l : Nat) : Nat := (st.word l (bReg v b)).toNat
  let late : Late := fun s blk st ls => lowestLane ((u.cleanLanes st ls).flatMap fun l =>
    s.forkFlaw blk st i (forkAcc st a v l) (count st l))
  match s.gate u late with
  | .stop s => .next s
  | .go s blk st ls =>
    let as := s.reach blk (ls.map (forkAcc st a v))
    match s.accHold blk i as with
    | some p => .next (s.park ls p)
    | none =>
      let (s, _, tags) := as.foldl (State.loadLane blk i (u.tainted st)) (s, [], [])
      if !tags.isEmpty then .next (s.park ls (.reply tags))
      else
        let recs := ls.filterMap fun l => (s.forkRecord blk i (forkAcc st a v l) (count st l)).map fun r => (l, r)
        let kernels := recs.map fun r => (r, s.readKernel r.2.1.job (st.lane r.1).replies r.2.1)
        let away := kernels.filterMap fun k => match k.2 with | .away x => some (k.1.1, x) | _ => none
        if !away.isEmpty then
          let (s, tags) := away.foldl (fun acc x =>
            let (s, t) := acc.1.askFor blk.core (acc.1.jobOf blk) (.lane blk.key i x.1) x.2
            (s, acc.2 ++ t)) (s, [])
          .next (s.park ls (.reply tags))
        else
          let qs : List ForkAsk := kernels.filterMap fun k =>
            match k.2 with | .good n => some ⟨k.1.1, k.1.2.1, k.1.2.2, n⟩ | _ => none
          if !s.slotGrant blk ls.length then .next (s.park ls (.slot ls.length))
          else
            let need := if s.viewedHome (s.jobOf blk) then
              ((qs.filter fun q => q.launch.nblk != 0).map fun q => 2 * q.nres).foldl (· + ·) 0 else 0
            match s.takeReserve (dieOf blk.core) need 70000 with
            | (s, false) => .next (s.park ls (.reserve need))
            | (s, true) =>
              if (s.block? blk.key).isNone then .next s
              else
                match s.release blk i 5 none with
                | (s, some p) => .next (s.park ls p)
                | (s, none) =>
                  let s := s.settle u blk st ls
                  let (s, _) := qs.foldl (State.forkLane u blk st ls (dReg v d)) (s, [])
                  .next (s.retire ls)

/-! ## The end of a hold on a view (R130, R132) -/

/-- Host writes held on a job's root view take effect in arrival order once nothing freezes it, as class 6 (R130). -/
def State.releaseHeld (s : State) (job : Nat) : State :=
  if s.frozen job .root || s.heldWrites.isEmpty then s
  else
    let mine := s.heldWrites.filter fun w => w.job == job
    let s := { s with heldWrites := s.heldWrites.filter fun w => w.job != job }
    mine.foldl (fun s w =>
      (s.charge (((s.keyPa job w.va).map dieOfAddr).getD 0) 6 w.data.length).viewWrites (w.data.length + 1) .root job w.va w.data) s

/-- A child has made an effect outside its view, in a block that has ended (R139). -/
def State.noteOutside (s : State) (fork child : Nat) : State :=
  s.updFork fork fun f => { f with outside := if f.outside.contains child then f.outside else f.outside ++ [child] }

/-- The first JOIN on a fork (R132): its twins and reserve go, its child grid with them, and its hold on the view; the
joining core's L1 drops its clean bytes, viewed ones among them. -/
def State.joinFork (s : State) (core : Option Nat) (k : Nat) : State :=
  match s.fork? k with
  | none => s
  | some f =>
    let s := { s with forks := s.forks.filter fun g => g.key != k
                      grids := s.grids.filter fun g => g.key != f.grid || f.owner.isNone }
    let s := match f.parent with
      | .child p c => if f.outside.isEmpty then s else s.noteOutside p c
      | .root => s
    let s := match core with
      | some c => s.acquireSet c 5 none
      | none => s
    s.releaseHeld f.job

/-! ## JOIN (R364, R440) -/

/-- The fork whose conflict the JOIN of a handle value must report. -/
def State.conflictOf (s : State) (b : Block) (w : Word) : Option (Nat × Conflict) :=
  (b.named w).bind fun h =>
    match h.op with
    | .fork k => (s.fork? k).bind fun f => if f.reported then none else f.conflict.map fun c => (k, c)
    | _ => none

/-- The die whose merge engine folds the granule of an address: its page's home die (R129). -/
def State.foldDie (s : State) (job key : Nat) : Nat := ((s.keyPa job key).map dieOfAddr).getD 0

/-- The record of conflicts of several lanes' forks (R440). -/
def conflictFaults (die : Nat → Nat) (cs : List (Nat × Nat × Conflict)) : List LaneFault :=
  let total := ((dedupe (cs.map fun c => (c.2.1, c.2.2.count))).map fun c => c.2).foldl (· + ·) 0
  cs.map fun c =>
    { lane := c.1, cls := 0x15, sub := Nat.min 255 total, addr := c.2.2.addr, info := c.2.2.first,
      info2 := c.2.2.info2.toNat, kind := 1, child := some c.2.2.second, die := some (die c.2.2.addr) }

/-- A fork's children are all folded, as the handle in a lane's word tells: the first JOIN on it joins. -/
def State.joinLane (b : Block) (acc : State) (w : Word) : State :=
  match (acc.block? b.key).bind fun k => k.named w with
  | none => acc
  | some h =>
    if h.kind == 6 && !h.joined then
      let s := match h.op with
        | .fork k => acc.joinFork (some b.core) k
        | _ => acc
      s.updBlock b.key fun k => k.updHandle h.slot h.gen fun h => { h with joined := true }
    else acc

/-- The lane's handle names a fork with children that are not folded. -/
def Block.joinWaits (b : Block) (w : Word) : Option (Nat × Nat) :=
  (b.named w).bind fun h => if h.kind == 6 && !h.done then some (h.slot, h.gen) else none

/-- Lanes that wait for the empty word of a fork's own handle wait at the JOIN (R125, R364; DEDUCED, log 56). -/
def State.atJoin (s : State) (r : Nat) : State :=
  match s.block? s.cur.blk with
  | none => s
  | some b =>
    s.updCur s.cur.lanes fun l ln =>
      match ln.park, b.named ((b.strand s.cur.strand).word l r) with
      | .words _, some h => if h.kind == 6 && !h.done then { ln with park := .join h.slot h.gen } else ln
      | _, _ => ln

def execJoin (a : BitVec 7) (v : Adverb) (s : State) : Result :=
  let u : Uses := { srcs := [(srcA v a).clean] }
  match s.gate u Late.none with
  | .stop s => .next (s.atJoin (aReg v a))
  | .go s b st ls =>
    let s := s.atJoin (aReg v a)
    let val (l : Nat) : Word := st.word l (aReg v a)
    let waits := ls.filterMap fun l => (b.joinWaits (val l)).map fun h => (l, h)
    let go := ls.filter fun l => (b.joinWaits (val l)).isNone
    let s := waits.foldl (fun s w => s.park [w.1] (.join w.2.1 w.2.2)) s
    let cs := go.filterMap fun l => (s.conflictOf b (val l)).map fun c => (l, c)
    if !cs.isEmpty then
      let s := cs.foldl (fun s c => s.updFork c.2.1 fun f => { f with reported := true }) s
      .next (s.raise (conflictFaults (s.foldDie (s.jobOf b)) cs))
    else
      let s := go.foldl (fun s l => s.joinLane b (val l)) s
      .next ((s.settle u b st go).retire go)

/-! ## VIEWQ (R365) -/

/-- Table 15-8 for an address of a thread of block `b`. -/
def State.viewq (s : State) (b : Block) (va : Nat) : Word :=
  let job := s.jobOf b
  let page :=
    if 2 ^ 57 ≤ va || windowBase ≤ va then 0
    else
      match s.leaf? b.core job va with
      | none => 0
      | some lf =>
        let mine := match b.view with
          | .child f c => if lf.view then (s.fork? f).map fun k => (k, c) else none
          | .root => none
        let home := lf.home == s.mgmt.dev
        let there := granule (lf.addr + (va - lf.base))
        let copy (m : Fork × Nat) : Bool :=
          if home then (copyOf m.1 m.2 (granule va)).isSome else m.1.away.contains (some m.2, lf.home, there)
        let twin (m : Fork × Nat) : Bool :=
          if home then (twinOf m.1 (granule va)).isSome else m.1.away.contains (none, lf.home, there)
        let copy := (mine.map copy).getD false
        let twin := (mine.map twin).getD false
        ofFlag lf.view + 2 * ofFlag copy + 4 * ofFlag twin + 16 * lf.rop.toNat + 256 * lf.rtype.toNat
  BitVec.ofNat 32 (page + 8 * ofFlag (s.frozen job b.view) + 4096 * b.view.depth s)

def execViewq (d a : BitVec 7) (v : Adverb) (s : State) : Result :=
  let u : Uses := { srcs := [(srcA v a).pair.clean], dsts := [dstD v d] }
  match s.gate u Late.none with
  | .stop s => .next s
  | .go s b st ls =>
    let out (l : Nat) : Word := s.viewq b (st.pair l (aReg v a)).toNat
    let s := s.settle u b st ls
    .next ((s.writes (ls.flatMap fun l => u.outs st ls l [(dReg v d, out l)])).retire ls)

/-! ## Folding (R132 to R136, R440) -/

/-- What the merge of an element gives: no change, bytes for the parent, or a conflict of children with their values. -/
inductive Merged where
  | same
  | set (bs : List Byte)
  | clash (first second : Nat) (t x y : Byte)
deriving DecidableEq, Repr

/-- An element of `n` bytes at offset `o` of a granule: the twin's bytes and the copies, children ascending (R133). -/
def mergeElement (rop : Nat) (ty : NumType) (o n : Nat) (twin : List Byte) (copies : List (Nat × List Byte)) : Merged :=
  let part (bs : List Byte) : List Byte := (bs.drop o).take n
  let t := part twin
  let cs := copies.filter fun c => part c.2 != t
  match cs with
  | [] => .same
  | [c] => .set (part c.2)
  | c :: d :: _ =>
    if rop == 0 then .clash c.1 d.1 (t.headD 0) ((part c.2).headD 0) ((part d.2).headD 0)
    else .set (leBytes n (foldElement rop ty (leNat t) (cs.map fun c => leNat (part c.2))))

/-- Operator and element size of the granule's page; a reserved combination folds byte by byte (R134). -/
def State.granuleRule (s : State) (job g : Nat) : Nat × NumType × Nat :=
  match s.walkKey job g with
  | none => (0, .n8, 1)
  | some lf =>
    if lf.rop != 0 && ropAccepts lf.rop.toNat lf.rtype.toNat then
      let ty := numTypeOf lf.rtype.toNat
      (lf.rop.toNat, ty, NumType.width ty / 8)
    else (0, .n8, 1)

/-- The merge of one granule of a fork: pieces for the parent's view, and conflicts. -/
def State.mergeGranule (s : State) (f : Fork) (g : Nat) : List (Nat × List Byte) × List (Nat × Merged) :=
  let (rop, ty, n) := s.granuleRule f.job g
  let twin := (twinOf f g).getD (List.replicate 128 0)
  let copies := sortBy (fun c : Nat × List Byte => c.1)
    ((f.copies.filter fun c => c.2.1 == g).map fun c => (c.1, c.2.2))
  let rs := (List.range (128 / n)).map fun j => (g + n * j, mergeElement rop ty (n * j) n twin copies)
  (rs.filterMap fun r => match r.2 with | .set bs => some (r.1, bs) | _ => none,
   rs.filter fun r => match r.2 with | .clash _ _ _ _ _ => true | _ => false)

/-- The granules of a fork that some child wrote, ascending. -/
def Fork.granules (f : Fork) : List Nat := sortBy id (dedupe (f.copies.map fun c => c.2.1))

/-- The conflicts found, as the record of R440 needs them. -/
def conflictFrom (cs : List (Nat × Merged)) : Option Conflict :=
  match cs with
  | (a, .clash x y t p q) :: _ =>
    some { count := cs.length, addr := a, first := x, second := y,
           info2 := BitVec.ofNat 32 (t.toNat + p.toNat * 2 ^ 8 + q.toNat * 2 ^ 16) }
  | _ => none

/-- The merged values written into the parent's view, with the marks of poisoned copies (R132, R436). -/
def State.setParent (s : State) (f : Fork) (parts : List (Nat × List Byte)) : State :=
  let s := parts.foldl (fun s p => s.viewWrites 2 f.parent f.job p.1 p.2) s
  let bad := dedupe (f.poisoned.map fun p => p.2)
  bad.foldl (fun s g =>
    if !parts.any fun p => granule p.1 == g then s
    else
      match f.parent with
      | .child k c => s.updFork k fun h => { h with poisoned := h.poisoned ++ [(some c, g)] }
      | .root =>
        match s.keyPa f.job g with
        | some pa => { s with poison := s.poison ++ ((List.range 4).map fun j => pa / 32 + j) }
        | none => s) s

/-- Every child of the fork is folded, here and at the other modules that home granules that its children wrote (R129,
R132). -/
def Fork.full (f : Fork) : Bool := f.folded == f.children && f.away.all fun t => t.1.isNone

/-- The owner's handle of a full fork completes. -/
def State.fullFork (s : State) (k : Nat) : State :=
  match s.fork? k with
  | none => s
  | some f =>
    if !f.full then s
    else
      match f.owner with
      | none => s
      | some (blk, _, _) =>
        match (s.block? blk).bind fun b => b.handles.find? fun h => h.op == .fork f.key with
        | some h => s.completeHandle blk h.slot h.gen
        | none => s

/-- Two conflicts of one fork as one: the counts together, the rest of the one at the lower address (R440). -/
def Conflict.join (x y : Option Conflict) : Option Conflict :=
  match x, y with
  | some c, some d =>
    let low := if c.addr ≤ d.addr then c else d
    some { low with count := c.count + d.count }
  | some c, none => some c
  | none, d => d

/-- The merge of all granules, once the last child is folded: pieces, slots of the outer fork, the parent's new values,
the conflict, the handle. Nothing happens while the outer fork's pool is short. Its traffic is of class 2 (R136). -/
def State.mergeFork (s : State) (f : Fork) : State :=
  let ms := f.granules.map fun g => s.mergeGranule f g
  let parts := ms.flatMap fun m => m.1
  let clashes := ms.flatMap fun m => m.2
  let slots : State × Pool :=
    match f.parent with
    | .root => (s, .open)
    | .child k c =>
      let need := (dedupe (parts.map fun p => granule p.1)).map fun g => (k, c, g)
      s.takeSlots 0 k c (s.slotsFor need) 70000
  match slots with
  | (s, .open) =>
    let s := s.setParent f parts
    let s := f.granules.foldl (fun s g => s.charge (s.foldDie f.job g) 2 128) s
    let s := s.updFork f.key fun h => { h with folded := h.children, conflict := Conflict.join h.conflict (conflictFrom clashes) }
    s.fullFork f.key
  | (s, _) => s

/-- Another module has merged what it homes of a fork: granules that it wrote to the parent's view stand there, and what is
left is twins, until the join. -/
def State.mergedAway (s : State) (fork dev : Nat) (granules : List Nat) (conflict : Option Conflict) : State :=
  match s.fork? fork with
  | none => s
  | some f =>
    if f.dev != s.mgmt.dev || f.folded != f.children || !f.away.any fun t => t.1.isSome && t.2.1 == dev then s
    else
      let s := s.updFork fork fun h =>
        { h with away := h.away.filter fun t => t.1.isNone || t.2.1 != dev, conflict := Conflict.join h.conflict conflict }
      let s := match f.parent with
        | .child k c => granules.foldl (fun (s : State) g => s.noteAway (some (k, c)) dev g) s
        | .root => s
      s.fullFork fork

/-- A block of the grid has ended; in a grid that an answer has ended, one that never ran counts too (R413). -/
def State.childEnded (s : State) (g : Grid) (i : Nat) : Bool :=
  g.ended.contains i ||
  (g.aborted && !s.blocks.any fun b => b.grid == g.key && b.index == i && b.state != .ended)

/-- The lowest child of a fork that is not folded has ended, and the forks of lower lanes of the same FORK are folded
(R132, R363). -/
def State.foldOpen (s : State) (f : Fork) (child : Nat) : Bool :=
  s.clocksRun && child == f.folded && decide (child < f.children) &&
  (((s.grid? f.grid).map fun g => s.childEnded g child).getD false) &&
  f.after.all fun k => ((s.fork? k).map Fork.full).getD true

/-- The poisoned copies and twins that the fold of a child reads (R437). -/
def Fork.poisonFor (f : Fork) (child : Nat) : Option Nat :=
  leastBy id ((f.poisoned.filter fun p =>
    p.1 == some child || (p.1 == none && (copyOf f child p.2).isSome)).map fun p => p.2)

def execChildFold (fork child : Nat) (s : State) : Result :=
  match s.fork? fork with
  | none => .next s
  | some f =>
    if !s.foldOpen f child then .next s
    else .next (s.underCredit 2 (f.granules.map (s.foldDie f.job)) fun s =>
      let next := if child + 1 < f.children then s.updFork fork fun h => { h with folded := child + 1 } else s.mergeFork f
      match f.poisonFor child with
      | none => next
      | some g =>
        if ((next.fork? fork).map fun h => h.folded) == some f.folded then next
        else next.informJob 0x1A 2 f.job fun r =>
          { r with addr := BitVec.ofNat 64 g, child := BitVec.ofNat 32 child, die := s.foldDie f.job g })

/-! ## Forks of other modules (R129, R132) -/

/-- The lowest child of another module's fork that is not folded is folded there; with the last one the granules that this
module homes are merged. -/
def State.foldAway (s : State) (dev name child : Nat) : State :=
  match s.awayFork dev name with
  | none => s
  | some f =>
    if child != f.folded || f.children ≤ child then s
    else if child + 1 < f.children then s.updFork f.key fun h => { h with folded := child + 1 }
    else s.mergeFork f

/-- Another module's fork is joined: its twins and its hold on the view end here too. -/
def State.joinAway (s : State) (dev name : Nat) : State :=
  match s.awayFork dev name with
  | none => s
  | some f => if f.folded == f.children then s.joinFork none f.key else s

end Sys2Proof.Machine
end

