-- ==== Sys2Proof/Machine/End.lean ====
section
/-! DEFINITION. EXIT, the end of a block, and the retirement of a launch (R60, R132, R161, R305, R306, R424, R440,
R441). -/

namespace Sys2Proof.Machine

open Sys2Proof

/-! ## EXIT (R305, R161) -/

/-- Live lanes of a block: strand and lane. -/
def Block.liveLanes (b : Block) : List (Nat × Nat) :=
  (List.range b.strands.length).flatMap fun i =>
    ((List.range (b.strand i).lanes.length).filter fun l => ((b.strand i).lane l).status == .live).map fun l => (i, l)

/-- The strand that waits at the latch for strand `i`, whose lanes `ls` are the last that live (Table 20-2, SUB 3). -/
def State.waitsFor (s : State) (b : Block) (i : Nat) (ls : List Nat) : Option Nat :=
  let last := b.liveLanes.all fun x => x.1 != i || ls.contains x.2
  if !last then none
  else (List.range b.strands.length).find? fun k =>
    k != i && (b.strand k).arrived.isSome && (s.members b k).contains i

/-- A lane that waits for words of the lanes `ls` waits for them no longer: a shuffle that names one returns 0 (R305). -/
def Park.leave (ls : List Nat) : Park → Park
  | .words ks => .words (ks.filter fun k => !ls.contains (k / 256))
  | .matWords ks => .matWords (ks.filter fun k => !ls.contains (k / 256))
  | p => p

/-- The register words of the lanes are left behind: their handles wait for them no longer, and no lane does. -/
def Block.leave (b : Block) (i : Nat) (ls : List Nat) : Block :=
  let free (st : Strand) : Strand := { st with lanes := st.lanes.map fun ln => { ln with park := ln.park.leave ls } }
  let b := { b with strands := b.strands.modify i free }
  if b.handles.isEmpty then b
  else
    let left (h : Handle) : Handle := { h with words := h.words.filter fun w => !(w.1 == i && ls.contains (w.2 / 256)) }
    ({ b with handles := b.handles.map left }).freeHandles

/-- Instructions that the matrix engine has still to execute for a block that passes its streams. -/
def Block.queueDrain (b : Block) : Option Nat :=
  b.mat.bind fun m => if m.queue.isEmpty then none else some (m.executed + m.queue.length)

def execExit (s : State) : Result :=
  let late : Late := fun s b _ ls =>
    match s.waitsFor b s.cur.strand ls with
    | some k => ls.map fun l =>
        { lane := l, cls := 8, sub := 3, addr := 0,
          info := (((b.strand k).arrived.map fun a => a.1.toNat).getD 0), info2 := s.cur.strand }
    | none => []
  match s.gate { report := fun _ => true } late with
  | .stop s => .next s
  | .go s b _ ls =>
    let i := s.cur.strand
    let last := b.liveLanes.all fun x => x.1 == i && ls.contains x.2
    let todo := s.unpassed b
    match if last && !todo.isEmpty then b.queueDrain else none with
    | some g => .next (s.park ls (.engine g))
    | none =>
      let s := (s.updCur ls fun _ l => l.exit).updBlock b.key fun b =>
        { (b.leave i ls) with last := if last then ls.head?.map fun l => (i, l) else b.last }
      let s := if last then todo.foldl (fun s k => s.passStream b.key k) s else s
      .next ((s.tryBar b.key).tryTbar b.key)

/-! ## The end of a block (R306, R440, R441) -/

/-- The unjoined forks of a block. -/
def State.forksOf (s : State) (key : Nat) : List Fork :=
  s.forks.filter fun f => !f.joined && (f.owner.map fun o => o.1 == key).getD false

/-- The record of a conflict that no JOIN reports: of a block that an answer has ended, or of a launched grid (R441). -/
def State.conflictRecord (s : State) (f : Fork) (c : Conflict) (blk : Nat) (stop : Option StopReach) : State :=
  let (id, s) := s.fresh
  let g := (s.grid? f.grid)
  let owner := f.owner.bind fun o => s.block? o.1
  let gid := match owner with
    | some b => ((s.grid? b.grid).map fun g => g.gid).getD 0
    | none => (g.map fun g => g.gid).getD 0
  let r : FaultRec :=
    { FaultRec.async id 0x15 (Nat.min 255 c.count) f.job s.mgmt.dev with
      kind := 1, die := s.foldDie f.job c.addr, addr := BitVec.ofNat 64 c.addr, grid := gid,
      blk := BitVec.ofNat 32 blk, core := (owner.map fun b => b.core).getD 0,
      child := BitVec.ofNat 32 c.second, info := BitVec.ofNat 32 c.first, info2 := c.info2 }
  let s := match stop with
    | some x => { s with stops := s.stops ++ [Stop.mk id none x] }
    | none => s
  s.note r

/-- The joins that a block leaves to its end. -/
def State.joinAll (s : State) (core : Option Nat) (fs : List Fork) : State :=
  fs.foldl (fun s f => s.joinFork core f.key) s

/-- The block leaves its grid. Its rows stay while the other block of its team has not ended (R97); those of a block that has
ended off its core take their place beside the other block's when that one resumes. -/
def State.dropBlock (s : State) (b : Block) : State :=
  let s := s.updGrid b.grid fun g =>
    { g with ended := if g.ended.contains b.index then g.ended else g.ended ++ [b.index] }
  let s := match b.view with
    | .child f c => if b.outside then s.noteOutside f c else s
    | .root => s
  match s.partner? b with
  | some p =>
    if p.state == .ended then
      { s with blocks := s.blocks.filter fun x => x.key != b.key && x.key != p.key
               padPoison := s.padPoison.filter fun u => u.1 != b.key && u.1 != p.key }
    else s.updBlock b.key fun x =>
      { x with state := .ended, mat := none, handles := [], strands := [], regs := 0,
               core := if b.resident then b.core else noCore }
  | none =>
    { s with blocks := s.blocks.filter fun x => x.key != b.key
             padPoison := s.padPoison.filter fun u => u.1 != b.key }

/-- Every thread has exited, and every handle is complete. -/
def Block.spent (b : Block) : Bool := b.liveLanes.isEmpty && b.handles.all fun h => h.done

/-- The block may end: on its core, and not stopped; or after an answer that ends it (R413). -/
def Block.mayEnd (b : Block) : Bool :=
  match b.state with
  | .running | .stopping .preempt | .stopping .victim | .stopping .halt | .stopping .frontier | .stopping .squall
  | .stopping .hold | .stopping .spare | .stopping .joinWait | .stopping .abort | .stopping .partner => b.stops.isEmpty
  | .saved .abort _ => true
  | _ => false

def Block.aborted (b : Block) : Bool :=
  match b.state with
  | .saved .abort _ | .stopping .abort => true
  | _ => false

/-- Every thread has exited, and nothing is left that the block's end waits for (R132, R306). -/
def State.mayFinish (s : State) (b : Block) : Bool := b.spent && (s.forksOf b.key).all Fork.full

def execBlockEnd (blk : Nat) (s : State) : Result :=
  match s.block? blk with
  | none => .next s
  | some b =>
    let fs := s.forksOf blk
    if !(s.clocksRun && b.mayEnd && s.mayFinish b) then .next s
    else
      let clash := fs.filterMap fun f => if f.reported then none else f.conflict.map fun c => (f, c)
      let told := fun (s : State) => clash.foldl (fun s c => s.updFork c.1.key fun f => { f with reported := true }) s
      match clash, b.last, b.aborted with
      | _ :: _, some (i, l), false =>
        let st := b.strand i
        let s := (told s).updLane blk i l fun ln => { ln with status := .live }
        .next (s.raiseAt blk i (st.lane l).pc
          (conflictFaults (s.foldDie (s.jobOf b)) (clash.map fun c => (l, c.1.key, c.2))))
      | _, _, _ =>
        let s := clash.foldl (fun s c => s.conflictRecord c.1 c.2 b.index none) (told s)
        let child := ((s.grid? b.grid).map fun g => g.fork.isSome).getD false
        let (s, tags) := if child then s.releaseSet b.core 5 none else (s, [])
        if !tags.isEmpty then .next s
        else
          let s := s.joinAll (some b.core) fs
          let s := (s.dropBlock b).haltRecord (s.jobOf b)
          .next (s.settleAnswers s.stops.length)

/-! ## Retirement (R60, R131, R441) -/

/-- Every block of the grid has ended, or an answer has ended the grid and none is left. -/
def State.gridDone (s : State) (g : Grid) : Bool :=
  if g.aborted then !s.blocks.any fun b => b.grid == g.key && b.state != .ended
  else g.ended.length == g.launch.nblk

/-- Release at system scope of every core's writes; what is still awaited. -/
def State.releaseAll (s : State) (scope : Nat) : State × List Nat :=
  (List.range s.cores.length).foldl (fun acc c =>
    let (s, tags) := acc.1.releaseSet c scope none
    (s, acc.2 ++ tags)) (s, [])

/-- The completion word's fault, or its place (R60). -/
def State.donePlace (s : State) (g : Grid) : Except Flaw Place :=
  if g.launch.done % 8 != 0 then .error ⟨0x12, 0, g.launch.done⟩
  else s.placeJob noCore g.launch.job g.launch.done .write

/-- The completion word written, or the record of why not; with the tag of a write to another module. -/
def State.writeDone (s : State) (g : Grid) : State × Option Nat :=
  let bs := leBytes 8 g.launch.lid.toNat
  match s.donePlace g with
  | .error f => (s.inform f.cls f.sub fun r => { r with addr := BitVec.ofNat 64 g.launch.done, grid := g.launch.lid }, none)
  | .ok p =>
    match p.loc with
    | .phys pa => (s.pokePhys pa bs, none)
    | .host w off => (s.windowWrite w off bs, none)
    | .reg d off => (s.writeWindow d off bs, none)
    | .remote dev a =>
      let o := a % 128
      let data := List.replicate o 0 ++ bs ++ List.replicate (120 - o) 0
      let mask := maskOf ((List.range 8).map fun j => o + j)
      let (t, s) := s.request 0 g.launch.job dev (.launch g.key) g.launch.done 128 (.remote dev (a - o)) .write
        (.write (a - o) (BitVec.ofNat 128 mask) data)
      (s, some t)
    | _ => (s, none)

/-- The join of a launched DET grid, which completes before the grid retires (R131). -/
def State.joinLaunch (s : State) (g : Grid) : State :=
  match g.fork with
  | some k => (s.joinFork none k).updGrid g.key fun g => { g with fork := none }
  | none => s

/-- The launch is gone. -/
def State.dropLaunch (s : State) (g : Grid) : State :=
  { s with grids := s.grids.filter fun x => x.key != g.key
           blocks := s.blocks.filter fun b => b.grid != g.key }

/-- The fork of a launched DET grid, once every child is folded, and its conflict if it has an unreported one. -/
def State.launchFold (s : State) (g : Grid) : Bool × Option (Fork × Conflict) :=
  match g.fork.bind s.fork? with
  | none => (true, none)
  | some f => (f.full, if f.reported then none else f.conflict.map fun c => (f, c))

def execLaunchRetire (grid : Nat) (s : State) : Result :=
  match s.grid? grid with
  | none => .next s
  | some g =>
    let (folded, clash) := s.launchFold g
    if g.parent.isSome || !(g.state == .active || g.state == .retired) || !s.clocksRun || !s.gridDone g || !(folded || g.started.isEmpty) then .next s
    else
      match clash with
      | some (f, c) =>
        let s := s.updFork f.key fun f => { f with reported := true }
        let s := s.updGrid grid fun g => { g with state := .stopped }
        .next (s.conflictRecord f c c.second (some (.grid grid)))
      | none =>
        match s.releaseAll 6 with
        | (s, _ :: _) => .next s
        | (s, []) =>
          let (s, tags) :=
            if g.state == .active then
              let (s, t) := (s.joinLaunch g).writeDone g
              (s.updGrid grid fun g => { g with state := .retired, tags := t.toList }, t.toList)
            else (s, g.tags)
          if tags.any s.outstanding then .next s
          else
            match s.flushOther g.port with
            | (s, some _) => .next s
            | (s, none) => .next ((s.dropLaunch g).publish g.port)

end Sys2Proof.Machine
end

