-- ==== Sys2Proof/Machine/Sys.lean ====
section
/-! DEFINITION. SRD, SWR, TRAP, FLUSH, INVAL, RANGE, EVT and HALT (R90, R366 to R372). -/

namespace Sys2Proof.Machine

open Sys2Proof

/-! ## Special registers (R90, R367, Table 4-2) -/

/-- The 64-bit selectors. -/
def wideSel (sel : Nat) : Bool := sel == 5 || sel == 6 || sel == 11 || sel == 12 || sel == 20

/-- The value of a special register as lane `l` of strand `i` of block `b` sees it. -/
def State.special (s : State) (b : Block) (i l sel : Nat) : Nat :=
  let st := b.strand i
  let g := s.grid? b.grid
  match sel with
  | 0 => l
  | 1 => quadOf l
  | 2 => i
  | 3 => st.width
  | 4 => b.index
  | 5 => (g.map fun g => g.launch.nblk).getD 0
  | 6 => (g.map fun g => g.gid.toNat).getD 0
  | 7 => b.core
  | 8 => dieOf b.core
  | 9 => s.mgmt.dev
  | 10 => teamOf b.core
  | 11 => (g.map fun g => g.launch.cb.toNat).getD 0
  | 12 => (s.die (dieOf b.core)).clock.toNat
  | 13 => 1
  | 14 => s.childOf b
  | 15 => b.view.depth s
  | 16 => (st.lane l).fmode.toNat
  | 17 => (st.lane l).fstat.toNat
  | 18 => st.role.code
  | 19 => st.gang.toNat
  | 20 => b.faultinfo.toNat
  | _ => 0

def execSrd (d : BitVec 7) (sel : BitVec 10) (v : Adverb) (s : State) : Result :=
  let wide := wideSel sel.toNat
  let r := dReg v d
  let u : Uses := { dsts := [if wide then (dstD v d).pair else dstD v d] }
  match s.gate u Late.none with
  | .stop s => .next s
  | .go s b st ls =>
    let outs := ls.flatMap fun l =>
      let x := BitVec.ofNat 64 (s.special b s.cur.strand l sel.toNat)
      u.outs st ls l (if wide then [(r, loWord x), (r + 1, hiWord x)] else [(r, loWord x)])
    .next (((s.settle u b st ls).writes outs).retire ls)

/-- What an SWR of `x` leaves in a lane. -/
def Lane.setSpecial (ln : Lane) (sel : Nat) (x : Word) : Lane :=
  match sel with
  | 16 => { ln with fmode := fmodeOf x.toNat }
  | 17 => { ln with fstat := BitVec.ofNat 5 x.toNat }
  | _ => ln

def execSwr (d : BitVec 7) (sel : BitVec 10) (v : Adverb) (s : State) : Result :=
  let u : Uses := { srcs := [(srcD v d).clean] }
  match s.gate u Late.none with
  | .stop s => .next s
  | .go s b st ls =>
    let s := (s.settle u b st ls).updCur ls fun l ln => ln.setSpecial sel.toNat (st.word l (dReg v d))
    .next (s.retire ls)

/-! ## TRAP (R368, R408, R428) -/

def execTrap (d : BitVec 7) (sel : BitVec 10) (v : Adverb) (s : State) : Result :=
  let u : Uses := { srcs := [srcD v d] }
  match s.gate u Late.none with
  | .stop s => .next s
  | .go s b st ls =>
    let low := st.reg (ls.headD 0) (dReg v d)
    let s := (s.settle u b st ls).retire ls
    .next (s.raise (ls.map fun l =>
      { lane := l, cls := 0x30, sub := 0, addr := 0, info := sel.toNat + ofFlag low.poison * 2 ^ 31,
        info2 := low.val.toNat }))

/-! ## FLUSH, INVAL, RANGE (R369, R370) -/

/-- The lines that a lane names, outside the scratchpad windows: first byte and bytes. -/
def lineSpan (x : Dword) (sel : Nat) : Nat × Nat :=
  let lo := x.toNat / 128 * 128
  (lo, Nat.min (128 * (sel + 1)) (windowBase - lo))

/-- The L1 keys of the lines that the lanes name. -/
def State.lineSet (s : State) (b : Block) (st : Strand) (ls : List Nat) (r sel : Nat) : ByteSet :=
  some (ls.flatMap fun l =>
    let p := lineSpan (st.pair l r) sel
    s.keyRanges b.core (s.jobOf b) 4 p.1 p.2)

def usesLines (d : BitVec 7) (v : Adverb) : Uses := { srcs := [(srcD v d).pair.clean] }

def execFlush (d : BitVec 7) (sel : BitVec 10) (v : Adverb) (s : State) : Result :=
  let u := usesLines d v
  match s.gate u Late.none with
  | .stop s => .next s
  | .go s b st ls =>
    let set := s.lineSet b st ls (dReg v d) sel.toNat
    let s := (s.writeBack b.core set).drainWhere b.core fun e => set.meets e.key 128
    let tags := s.unacked b.core fun e => set.meets e.key 128
    if tags.isEmpty then .next ((s.settle u b st ls).retire ls) else .next (s.park ls (.reply tags))

def execInval (d : BitVec 7) (sel : BitVec 10) (v : Adverb) (s : State) : Result :=
  let u := usesLines d v
  match s.gate u Late.none with
  | .stop s => .next s
  | .go s b st ls =>
    let set := s.lineSet b st ls (dReg v d) sel.toNat
    .next (((s.discard b.core set).settle u b st ls).retire ls)

/-- The lines of a RANGE fetched into the die's L2, retained where R111 marks them. The first number bounds them. -/
def State.fetchLines (s : State) (core job : Nat) : Nat → Nat → State
  | 0, _ => s
  | n + 1, va =>
    let s := match if va < windowBase then s.leaf? core job va else none with
      | some lf =>
        let pa := lf.addr + (va - lf.base)
        if lf.home == s.mgmt.dev && isDram pa && (s.die (dieOf core)).credited 0 then
          (s.fillTlb core job va).traffic (dieOf core) 0 pa 128 false (s.retainedIn core job va)
        else s
      | none => s
    s.fetchLines core job n (va + 128)

/-- RANGE raises no 0x04 (R370, Table 20-4): the words of registers D and D + 1 are its address, whatever D is. Lines that
find no credit are not fetched. -/
def execRange (d : BitVec 7) (sel : BitVec 10) (v : Adverb) (s : State) : Result :=
  let u : Uses := { srcs := [{ srcD v d with n := 2 }] }
  match s.gate u Late.none with
  | .stop s => .next s
  | .go s b st ls =>
    let r := dReg v d
    let sound := ls.filter fun l => !((st.reg l r).poison || (st.reg l (r + 1)).poison)
    let s := sound.foldl (fun s l =>
      s.fetchLines b.core (s.jobOf b) (sel.toNat + 1) ((st.pair l r).toNat / 128 * 128)) s
    .next ((s.settle u b st ls).retire ls)

/-! ## EVT (R371) -/

def execEvt (d : BitVec 7) (sel : BitVec 6) (v : Adverb) (s : State) : Result :=
  let u : Uses := { srcs := [(srcD v d).clean] }
  match s.gate u Late.none with
  | .stop s => .next s
  | .go s b st ls =>
    let total := (ls.map fun l => (st.word l (dReg v d)).toNat).foldl (· + ·) 0
    let s := s.updDie (dieOf b.core) fun x =>
      { x with evcnt := x.evcnt.modify sel.toNat fun c => c + BitVec.ofNat 64 total }
    .next (((s.markOutside b.key true).settle u b st ls).retire ls)

/-! ## HALT (R372) -/

def execHalt (s : State) : Result :=
  match s.gate {} Late.none with
  | .stop s => .next s
  | .go s b _ ls =>
    let job := s.jobOf b
    let s := s.updCur ls fun _ ln => { ln.retire s.cur.next with stopped := some 2 }
    let gid := ((s.grid? b.grid).map fun g => g.gid).getD 0
    let here := (gid, b.index, s.cur.strand, s.cur.pc, BitVec.ofNat 64 (maskOf ls), b.core)
    let s := s.updJob job fun j => { j with halting := j.halting.or (some here) }
    .next (s.stopJob job .halt)

/-- A HALT that another module has issued stops the job here too; its record names no issue (R372). -/
def State.haltAway (s : State) (job : Nat) : State :=
  if s.grids.any fun g => g.launch.job == job && g.state != .held then
    (s.updJob job fun j => { j with halting := j.halting.or (some (0, 0, 0xFFFF, 0, 0, 0)) }).stopJob job .halt
  else s

end Sys2Proof.Machine
end

