-- ==== Sys2Proof/Machine/Place.lean ====
section
/-! DEFINITION. Where blocks fit (R61, R88, R89): buddy allocation of the partitions' register files, scratchpad rows,
matrix contexts, and compaction. -/

namespace Sys2Proof.Machine

open Sys2Proof

/-! ## The buddy allocator (R88) -/

/-- An allocation: partition, first offset, offsets. -/
structure Alloc where
  part : Nat
  off : Nat
  len : Nat
deriving DecidableEq, Repr

/-- Free blocks of a partition as coalescing leaves them, from the block at `off` of 16 × 2^k offsets down. -/
def freeBlocks (used : List Alloc) : Nat → Nat → List (Nat × Nat)
  | 0, off => if used.any fun a => decide (a.off < off + 16) && decide (off < a.off + a.len) then [] else [(off, 16)]
  | k + 1, off =>
    let len := 16 * 2 ^ (k + 1)
    if used.any fun a => decide (a.off < off + len) && decide (off < a.off + a.len) then
      freeBlocks used k off ++ freeBlocks used k (off + len / 2)
    else [(off, len)]

/-- The place of `n` offsets: the lowest free block of that size, else the low part of the smallest larger one. -/
def buddyPlace (used : List Alloc) (n : Nat) : Option Nat :=
  (leastBy (fun b : Nat × Nat => b.2 * 1024 + b.1) ((freeBlocks used 6 0).filter fun b => decide (n ≤ b.2))).map fun b => b.1

/-- Strands of one partition at most. -/
def partitionStrands : Nat := 16

/-- A strand of `n` offsets in a partition that has room, of those the one with the fewest strands (R31; the choice among
them is a DESIGN CHOICE, log 40). -/
def placeStrand (used : List Alloc) (n : Nat) : Option Alloc :=
  let spots : List (Nat × Alloc) := (List.range 16).filterMap fun p =>
    let mine := used.filter fun a => a.part == p
    if partitionStrands ≤ mine.length then none else (buddyPlace mine n).map fun o => (mine.length * 16 + p, ⟨p, o, n⟩)
  (leastBy (fun x : Nat × Alloc => x.1) spots).map fun x => x.2

/-- Places for `k` strands of `n` offsets each. -/
def placeStrands (n : Nat) : Nat → List Alloc → Option (List Alloc)
  | 0, _ => some []
  | k + 1, used =>
    match placeStrand used n with
    | none => none
    | some a => (placeStrands n k (used ++ [a])).map fun r => a :: r

/-- Offsets of a strand of width `w` with `n` registers per lane. -/
def offsetsOf (w n : Nat) : Nat := if w == 64 then 2 * n else n

/-! ## Cores -/

def State.residents (s : State) (core : Nat) : List Block := s.blocks.filter fun b => b.core == core && b.resident

/-- Live allocations of blocks, with block and strand. -/
def allocsOf (bs : List Block) : List (Nat × Nat × Alloc) :=
  bs.flatMap fun b => b.strands.mapIdx fun i st => (b.key, i, ⟨st.partition, st.offset, offsetsOf st.width b.regs⟩)

def State.allocs (s : State) (core : Nat) : List (Nat × Nat × Alloc) := allocsOf (s.residents core)

/-- Rows free on a core of 1,600 (Table 1-1). -/
def State.rowsFree (s : State) (core : Nat) : Nat :=
  1600 - ((s.blocks.filter fun b => b.core == core && b.onCore).map fun b => b.rows).foldl (· + ·) 0

/-- Matrix contexts taken on a core. -/
def State.matUsed (s : State) (core : Nat) : Nat := ((s.residents core).filter fun b => b.mat.isSome).length

/-- The block of a launch finds its rows and its matrix context on the core, which is not being spared (R256). -/
def State.roomBeside (s : State) (core : Nat) (r : LaunchRec) : Bool :=
  decide (r.rows ≤ s.rowsFree core) && !s.mgmt.sparing.contains core && (r.nmat == 0 || decide (s.matUsed core < 2))

/-- Places of the strands of a block of a launch among the allocations that a core holds. -/
def placeBlock (used : List Alloc) (r : LaunchRec) : Option (List Alloc) :=
  placeStrands (offsetsOf (widthOf r.wcode) (regsOf r.rcode)) r.nstrand used

/-- The places of the strands of a block of the launch on a core, as the allocations stand. -/
def State.fit (s : State) (core : Nat) (r : LaunchRec) : Option (List Alloc) :=
  if s.roomBeside core r then placeBlock ((s.allocs core).map fun a => a.2.2) r else none

/-! ## Compaction (R89) -/

/-- The place of `n` offsets in the lowest free block that holds them. -/
def lowestPlace (used : List Alloc) (n : Nat) : Option Nat :=
  leastBy id (((freeBlocks used 6 0).filter fun b => decide (n ≤ b.2)).map fun b => b.1)

/-- The lowest free block of any partition that takes the allocation, below where it stands. -/
def lowerPlace (others : List Alloc) (a : Alloc) : Option Alloc :=
  let spots := (List.range 16).filterMap fun p =>
    let mine := others.filter fun x => x.part == p
    if partitionStrands ≤ mine.length then none else (lowestPlace mine a.len).map fun o => ⟨p, o, a.len⟩
  (leastBy (fun x : Alloc => x.off * 16 + x.part) spots).bind fun x => if x.off < a.off then some x else none

/-- Live allocations moved, highest offset first, until `done` holds of them. The list holds those still to be moved. -/
def compactInto (done : List Alloc → Bool) : List (Nat × Nat × Alloc) → List (Nat × Nat × Alloc) → List (Nat × Nat × Alloc)
  | [], all => all
  | x :: xs, all =>
    if done (all.map fun a => a.2.2) then all
    else
      let others := (all.filter fun a => !(a.1 == x.1 && a.2.1 == x.2.1)).map fun a => a.2.2
      match lowerPlace others x.2.2 with
      | none => compactInto done xs all
      | some y =>
        compactInto done xs (all.map fun a => if a.1 == x.1 && a.2.1 == x.2.1 then (a.1, a.2.1, y) else a)

/-- The allocations of a core once compacted for a block of a launch. -/
def State.compacted (s : State) (core : Nat) (r : LaunchRec) : List (Nat × Nat × Alloc) :=
  let all := s.allocs core
  compactInto (fun used => (placeBlock used r).isSome) (sortBy (fun a => 1024 - a.2.2.off) all) all

/-- The block fits the core once the core is compacted (R61). -/
def State.fitsCompacted (s : State) (core : Nat) (r : LaunchRec) : Bool :=
  s.roomBeside core r && (placeBlock ((s.compacted core r).map fun a => a.2.2) r).isSome

/-- Logical cores of the module. -/
def allCores : List Nat := List.range 128

/-- A core, or a team's two cores, fits a block, or team, of the launch as the allocations stand. -/
def State.fitsAt (s : State) (core : Nat) (r : LaunchRec) : Bool :=
  (s.fit core r).isSome && (!r.teamed || (s.fit (core ^^^ 1) r).isSome)

def State.fitsSome (s : State) (r : LaunchRec) : Bool := allCores.any fun c => s.fitsAt c r

/-- Allocations of a core set to the places that compaction gave them. -/
def State.moveAllocs (s : State) (ms : List (Nat × Nat × Alloc)) : State :=
  ms.foldl (fun s m => s.updStrand m.1 m.2.1 fun st => { st with partition := m.2.2.part, offset := m.2.2.off }) s

end Sys2Proof.Machine
end

