-- ==== Sys2Proof/Machine/Frame.lean ====
section
/-! DEFINITION. Saving a block's frame, and the return from an exception or a pre-emption, which reads it (R51 to R54,
R72 to R75, R92, R93, R408, R413, R475 to R477, Tables 3-6 to 3-8, 4-5, 4-6). -/

namespace Sys2Proof.Machine

open Sys2Proof

/-! ## When a block has stopped (R52, R73, R408) -/

/-- A wait that is withdrawn at a stop and executed again on resume. -/
def Park.withdrawn : Park → Bool
  | .bar _ | .tbar _ | .barEngine _ | .ticket _ _ | .refused true _ _ | .stage _ _ _ _ | .rally _ | .join _ _ | .latch => true
  | _ => false

/-- The lane has stopped. -/
def Lane.atRest (ln : Lane) (now : Bool) : Bool :=
  ln.status != .live ||
  (if now then !ln.park.midway else ln.stopped.isSome || (ln.park.withdrawn && ln.safe.isSome))

/-- The operation of a handle lets the block be saved: copies complete, collectives and checkpoints stand at a chunk
boundary (R73). -/
def Handle.suspended (s : State) (h : Handle) : Bool :=
  h.done ||
  match h.op with
  | .lanes _ _ | .tile _ | .pack _ | .expand _ | .stopped _ => false
  | .coll _ | .ckpt _ => h.rest.isEmpty && !h.tags.any s.outstanding
  | .batch _ | .fork _ | .idle => true

/-- Every thread of the block has stopped, its copies are complete, and its matrix queue is empty. A block that can end is
not saved (R404). -/
def State.blockStopped (s : State) (b : Block) : Bool :=
  match b.state with
  | .stopping why =>
    (b.strands.all fun st => st.lanes.all fun ln => ln.atRest why.atOnce) &&
    (b.handles.all fun h => h.suspended s) && ((b.mat.map fun m => m.queue.isEmpty).getD true) &&
    !(b.mayEnd && s.mayFinish b)
  | .saved _ _ | .ended | .overflow _ => true
  | .running => false

/-! ## Writing a frame -/

/-- Bytes of a number of bits. -/
def bytesOf (n x : Nat) : List Byte := leBytes n x

/-- LSTATE and PC of a lane (Table 4-6). -/
def Lane.entryState (ln : Lane) : Nat × Nat :=
  match ln.status with
  | .never => (0, 0)
  | .exited => (1, 0)
  | .live => (match ln.stopped with | some k => k | none => if ln.park.withdrawn then 3 else 2, ln.pc.toNat)

def Lane.entryBytes (ln : Lane) : List Byte :=
  leBytes 8 ln.entryState.2 ++ leBytes 8 (ln.entryState.1 + ln.fstat.toNat * 2 ^ 2 + ln.fmode.toNat * 2 ^ 7)

/-- A register record: the words of every lane, then the full, taint and poison vectors (R92). -/
def Strand.regRecord (st : Strand) (r : Nat) : List Byte :=
  let ls := List.range st.width
  let vec (p : RegWord → Bool) : List Byte := leBytes 8 (maskOf (ls.filter fun l => p (st.reg l r)))
  (ls.flatMap fun l => leBytes 4 (st.word l r).toNat) ++
  vec (fun w => w.full) ++ vec (fun w => w.taint) ++ vec (fun w => w.poison)

/-- A strand context: header, lane table, register records (Table 4-5). -/
def Strand.context (st : Strand) (i wcode rcode : Nat) (live : List Nat) : List Byte :=
  leBytes 64 (i % 2 ^ 16 + wcode * 2 ^ 16 + rcode * 2 ^ 18 + st.role.code * 2 ^ 21 + st.gang.toNat * 2 ^ 23 +
    live.length * 2 ^ 64 + maskOf live * 2 ^ 256) ++
  st.lanes.flatMap Lane.entryBytes ++ live.flatMap st.regRecord

/-- The matrix context in a frame: tiles 0 to 7, then the partial bank. -/
def MatCtx.bytes (m : MatCtx) : List Byte :=
  ((List.range 8).flatMap fun t => (m.tile t).flatMap fun w => leBytes 4 w.toNat) ++
  (List.range 32768).flatMap fun k => leBytes 2 (cellsGet 0 k m.bank).toNat

/-- A record padded to a multiple of 16 bytes. -/
def padded (bs : List Byte) : List Byte := bs ++ List.replicate ((16 - bs.length % 16) % 16) 0

/-- An operation record: head and image (Table 3-8). -/
def opRecord (kind up down done : Nat) (image : List Byte) : List Byte :=
  padded (leBytes 4 (32 + image.length) ++ leBytes 4 kind ++ leBytes 4 up ++ leBytes 4 down ++ leBytes 8 done ++ List.replicate 8 0 ++ image)

/-- The operation records of a pending handle, one for each lane's collective or checkpoint (DEDUCED, log 73). -/
def Handle.records (h : Handle) (order : List Handle) : List (List Byte) :=
  if h.done then []
  else
    match h.op with
    | .coll cs => cs.map fun c => opRecord 3 c.2.upNext c.2.dnNext 0 c.2.block
    | .ckpt cs => cs.map fun c =>
        opRecord 4 0 0 c.2.done ((c.2.chain.map BitVec.toNat).flatMap (beBytes 8) ++
          (c.2.tail ++ List.replicate 128 0).take 128 ++ c.2.block)
    | .batch g =>
      let pend := (List.range order.length).filter fun k =>
        match order[k]? with
        | some x => !x.done && g.contains (x.slot, x.gen)
        | none => false
      if pend.isEmpty then [] else [opRecord 5 0 0 0 (pend.flatMap fun k => leBytes 4 k)]
    | _ => []

/-- The handle entries and operation records of a frame; `at'` is the offset of the first record (Table 3-7). -/
def handleArea (order : List Handle) : Nat → List Handle → List Byte × List (List Byte)
  | _, [] => ([], [])
  | off, h :: hs =>
    let rs := h.records order
    let rest := handleArea order (off + (rs.map List.length).foldl (· + ·) 0) hs
    let entry := leBytes 4 (handleValue h.slot h.kind h.gen).toNat ++ leBytes 4 (ofFlag h.done) ++
      leBytes 4 (if rs.isEmpty then 0 else off) ++ leBytes 4 0
    (entry ++ rest.1, rs ++ rest.2)

/-- The frame of a block, with the registers that each strand saves. -/
def Block.frame (b : Block) (g : Grid) (live : List (List Nat)) : List Byte :=
  let ctx := (b.strands.mapIdx fun i st => st.context i g.launch.wcode g.launch.rcode (live.getD i [])).flatten
  let rows := (List.range (b.rows * 2032)).map fun k => cellsGet 0 k b.scratch
  let mat := (b.mat.map MatCtx.bytes).getD []
  let order := sortBy (fun h : Handle => h.slot) b.handles
  let start := 64 + ctx.length + rows.length + mat.length + 16 * order.length
  let area := handleArea order start order
  let size := start + (area.2.map List.length).foldl (· + ·) 0
  leBytes 64 (g.launch.lid.toNat + b.index * 2 ^ 64 + size * 2 ^ 96 + b.strands.length * 2 ^ 128 + b.rows * 2 ^ 144 +
    order.length * 2 ^ 160 + b.hcount % 2 ^ 16 * 2 ^ 176 + area.2.length * 2 ^ 192 + ofFlag b.mat.isSome * 2 ^ 208 +
    ofFlag b.faulted * 2 ^ 209) ++
  ctx ++ rows ++ mat ++ area.1 ++ area.2.flatten

/-! ## What a frame saves (R53, R92) -/

/-- The lane counts as stopped where every allocated register is live. -/
def Lane.savesAll (ln : Lane) (now : Bool) : Bool := ln.status == .live && (now || ln.safe.isNone)

/-- The safe-point entries at which the strand's live lanes stopped. -/
def Strand.entries (st : Strand) : List Nat :=
  dedupe ((st.lanes.filter fun ln => ln.status == .live).filterMap fun ln => ln.safe)

/-- The entry of the kernel's safe-point table (R50). -/
def State.safeEntry (s : State) (g : Grid) (k : Nat) : Got :=
  s.jobRead g.launch.job g.replies (g.launch.cont + g.spoff + 32 * k) 32

/-- The registers that a strand saves; an entry that cannot be read marks all of them live (DESIGN CHOICE, log 99). -/
def State.liveRegs (s : State) (b : Block) (g : Grid) (st : Strand) (now : Bool) : List Nat :=
  let mask (k : Nat) : Nat := match s.safeEntry g k with | .ok bs => leNat bs | _ => 2 ^ 256 - 1
  if now || st.lanes.any fun ln => ln.savesAll now then List.range b.regs
  else bitsOf ((st.entries.map mask).foldl (· ||| ·) 0) b.regs

/-- The places of safe-point entries in another module or host that must be asked. -/
def State.entriesAway (s : State) (b : Block) (g : Grid) (now : Bool) : List Need :=
  b.strands.flatMap fun st =>
    if now || st.lanes.any fun ln => ln.savesAll now then []
    else st.entries.flatMap fun k => match s.safeEntry g k with | .away ls => ls | _ => []

/-! ## BLOCK_SAVE -/

/-- The arrival of a lane or strand at a wait is withdrawn; nothing of the strand stays on the core (R53). -/
def Block.shelve (b : Block) (why : StopWhy) (off : Nat) : Block :=
  { b with
    state := .saved why off
    mat := none
    absent := []
    faultAt := none
    strands := b.strands.map fun st =>
      { st with
        regs := []
        arrived := none
        arrivals := 0
        run := none
        replay := none
        fair := Fair.zero
        quads := []
        promoted := false
        waited := 0
        history := 0
        lanes := st.lanes.map fun ln => { ln with resv := none, replies := [], count := 0 } } }

/-- The frame written at USED, or its block held on its core because the frame does not fit (R476, R477). -/
def State.writeFrame (s : State) (b : Block) (g : Grid) (why : StopWhy) : State :=
  let job := g.launch.job
  let live := b.strands.map fun st => s.liveRegs b g st why.atOnce
  let bs := b.frame g live
  let (base, size) := (s.saveArea job).getD (0, 0)
  let used := max 64 (s.job job).used
  if used + bs.length ≤ size then
    let s := s.pokeJob job (base + used) bs
    let s := s.updJob job fun j =>
      { j with nframe := j.nframe + 1, used := used + bs.length, frames := j.frames ++ [(used, bs.length)] }
    let s := (((s.updBlock b.key fun k => k.shelve why used).saveHeader job)).haltRecord job
    s.settleAnswers s.stops.length
  else
    let (id, s) := s.fresh
    let s := { s with stops := s.stops ++ [Stop.mk id none (.overflow b.key)] }
    let s := s.updBlock b.key fun k => { k with state := .overflow why }
    s.note { FaultRec.async id 0x1B 0 job s.mgmt.dev with
      die := dieOf b.core, addr := BitVec.ofNat 64 (base + used), grid := g.gid, blk := BitVec.ofNat 32 b.index,
      core := b.core, info := BitVec.ofNat 32 bs.length,
      child := BitVec.ofNat 32 (s.childOf b) }

/-- Both blocks of a team have stopped (R97). -/
def State.teamStopped (s : State) (b : Block) : Bool :=
  s.blockStopped b && ((s.partner? b).map fun p => s.blockStopped p).getD true

def execBlockSave (blk : Nat) (s : State) : Result :=
  match s.block? blk with
  | none => .next s
  | some b =>
    match b.state, s.grid? b.grid with
    | .stopping why, some g =>
      if !s.teamStopped b || !(s.mgmt.boot == 3 && !s.mgmt.frozen && !s.mgmt.trip) || g.tags.any s.outstanding then .next s
      else
        match s.entriesAway b g why.atOnce with
        | l :: ls =>
          let (s, tags) := s.askFor b.core g.launch.job (.launch g.key) (l :: ls)
          .next (s.updGrid g.key fun g => { g with tags := g.tags ++ tags })
        | [] =>
          let (s, tags) := s.releaseSet b.core 5 none
          if tags.isEmpty || (s.job g.launch.job).switching then .next (s.writeFrame b g why) else .next s
    | _, _ => .next s

/-! ## Reading a frame: the return (R74, R93, R413) -/

/-- Bytes of the job's save area from an offset, as a number. -/
def State.frameNat (s : State) (job at' n : Nat) : Nat :=
  leNat (s.peekJob job (((s.saveArea job).getD (0, 0)).1 + at') n)

/-- A lane as the edited lane table gives it (R413). `old` is the lane at its stop. -/
def State.readLane (s : State) (job at' : Nat) (launched : Bool) (old : Lane) : Lane :=
  let pc := BitVec.ofNat 64 (s.frameNat job at' 8)
  let x := s.frameNat job (at' + 8) 8
  let state := bits x 0 2
  let status : LaneStatus := if !launched then .never else if state ≤ 1 then .exited else .live
  { old with
    status := status
    pc := pc
    park := .none
    stopped := none
    fstat := BitVec.ofNat 5 (bits x 2 5)
    fmode := fmodeOf (bits x 7 4)
    resv := none
    count := 0
    safe := if pc == old.pc then old.safe else none
    replies := [] }

/-- The registers of a context: those saved, and free values in the live lanes for those that are not (R53). Their state
bits, which R53 leaves undefined with them, are those of block start: full, untainted, unpoisoned (DESIGN CHOICE, log 44).
`k` is the first index of the free values. -/
def State.readRegs (s : State) (job at' w n k : Nat) (saved : List Nat) (live : List Nat) : Cells RegWord :=
  let size := 4 * w + 24
  let put (c : Cells RegWord) (i r : Nat) : Cells RegWord :=
    let o := at' + i * size
    let full := s.frameNat job (o + 4 * w) 8
    let taint := s.frameNat job (o + 4 * w + 8) 8
    let poison := s.frameNat job (o + 4 * w + 16) 8
    (List.range w).foldl (fun c l =>
      cellsPut RegWord.zero (regKey l r)
        ⟨BitVec.ofNat 32 (s.frameNat job (o + 4 * l) 4), bit full l, bit taint l, bit poison l⟩ c) c
  let c := (List.range saved.length).foldl (fun c i => put c i (saved.getD i 0)) []
  let rest := (List.range n).filter fun r => !saved.contains r
  live.foldl (fun c l => rest.foldl (fun c r =>
    cellsPut RegWord.zero (regKey l r) ⟨Config.freeWord (k + regKey l r), true, false, false⟩ c) c) c

/-- One strand context; the strand, and the offset of what follows it. -/
def State.readStrand (s : State) (job threads at' i n k : Nat) (st : Strand) : Strand × Nat :=
  let h := s.frameNat job at' 64
  let w := st.width
  let saved := (bitsOf (bits h 256 256) 256).take (bits h 64 9)
  let lanes := (List.range w).map fun l =>
    s.readLane job (at' + 64 + 16 * l) (decide (i * w + l < threads)) (st.lane l)
  let live := (List.range w).filter fun l => ((lanes.getD l Lane.never).status == .live)
  let regs := s.readRegs job (at' + 64 + 16 * w) w n k saved live
  ({ st with lanes := lanes, regs := regs, gang := BitVec.ofNat 16 (bits h 23 16), arrivals := 0, arrived := none,
             run := none, replay := none, fair := Fair.zero, quads := [], promoted := false, waited := 0 },
   at' + 64 + 16 * w + saved.length * (4 * w + 24))

/-- The strand contexts of a frame, in order. -/
def State.readStrands (s : State) (job threads n : Nat) : Nat → Nat → Nat → List Strand → List Strand × Nat
  | at', _, _, [] => ([], at')
  | at', i, k, st :: sts =>
    let x := s.readStrand job threads at' i n k st
    let r := s.readStrands job threads n x.2 (i + 1) (k + 2 ^ 14) sts
    (x.1 :: r.1, r.2)

/-- The matrix context of a frame. -/
def State.readMat (s : State) (job at' : Nat) : MatCtx :=
  { tiles := cellsSpan 0 0 ((List.range 32768).map fun k => BitVec.ofNat 32 (s.frameNat job (at' + 4 * k) 4)) []
    bank := cellsSpan 0 0 ((List.range 32768).map fun k => BitVec.ofNat 16 (s.frameNat job (at' + 131072 + 2 * k) 2)) []
    queue := [], executed := 0 }

/-- The operation of a handle entry with DONE 0 whose record lies at offset `rec'` of the save area; none counts as
complete (R93). `old` is the handle at the stop, if it is one of the block's; `entries` are the frame's handles. What no record holds (a lane's failure, the chunks in its INBOX, the length
of the context that its header announced) is kept from the stop (DESIGN CHOICE, log 73). -/
def State.readOp (s : State) (job rec' kind : Nat) (old : Option Handle) (entries : List (Nat × Nat × Bool)) : Option EngOp :=
  let image (o n : Nat) : List Byte := s.peekJob job (((s.saveArea job).getD (0, 0)).1 + rec' + o) n
  let has := rec' != 0
  let oldOp : Option EngOp := old.map fun h => h.op
  match kind, oldOp with
  | 3, some (.coll cs) =>
    if !has then none
    else some (.coll (cs.foldl (fun (acc : List (Nat × CollOp) × Nat) c =>
      let at' := rec' + acc.2
      let size := s.frameNat job at' 4
      let c' := (collOf c.2.desc (image (acc.2 + 32) (size - 32))).1
      (acc.1 ++ [(c.1, { c' with upNext := s.frameNat job (at' + 8) 4, dnNext := s.frameNat job (at' + 12) 4,
                                 inbox := c.2.inbox, failed := c.2.failed })], acc.2 + (size + 15) / 16 * 16)) ([], 0)).1)
  | 4, some (.ckpt cs) =>
    if !has then none
    else some (.ckpt (cs.foldl (fun (acc : List (Nat × CkptOp) × Nat) c =>
      let at' := rec' + acc.2
      let size := s.frameNat job at' 4
      let done := s.frameNat job (at' + 16) 8
      let chain := (List.range 8).map fun j => BitVec.ofNat 64 (beNat (image (acc.2 + 32 + 8 * j) 8))
      let tail := (image (acc.2 + 96) 128).take (done % 128)
      let c' := { ckptDesc c.2.desc (leNat (image (acc.2 + 224) 64)) with ctxLen := c.2.ctxLen, ended := c.2.ended }
      (acc.1 ++ [(c.1, { c' with done := done, chain := chain, tail := tail })], acc.2 + (size + 15) / 16 * 16)) ([], 0)).1)
  | 5, _ =>
    if !has then none
    else
      let n := (s.frameNat job rec' 4 - 32) / 4
      some (.batch ((List.range n).filterMap fun j =>
        (entries[s.frameNat job (rec' + 32 + 4 * j) 4]?).map fun e => (e.1, e.2.1)))
  | 6, some (.fork k) => some (.fork k)
  | _, _ => none

/-- The empty words of the strands that hold a value: strand and key. -/
def emptyWords (sts : List Strand) (v : Word) : List (Nat × Nat) :=
  (sts.mapIdx fun i st => (st.regs.filter fun e => !e.2.full && e.2.val == v).map fun e => (i, e.1)).flatten

/-- A handle entry of the frame at `at'` as a slot of the new core; none for an operation that the frame no longer holds, which
takes no slot (R93). A full fork handle names its fork until a JOIN (R132). -/
def State.readHandle (s : State) (job frame at' : Nat) (b : Block) (sts : List Strand) (entries : List (Nat × Nat × Bool)) :
    Option Handle :=
  let v := BitVec.ofNat 32 (s.frameNat job at' 4)
  let slot := v.toNat % 4096
  let kind := v.toNat / 4096 % 16
  let gen := v.toNat / 65536
  let off := s.frameNat job (at' + 8) 4
  let old := b.handle? slot gen
  let done := bit (s.frameNat job (at' + 4) 4) 0 || (old.map fun h => h.done).getD false
  let op := if done then none else s.readOp job (if off == 0 then 0 else frame + off) kind old entries
  let still : EngOp := if kind == 6 then (old.map fun h => h.op).getD .idle else .idle
  let words := dedupe ((old.map fun h => h.words).getD [] ++ emptyWords sts v)
  if !done && op.isNone then none
  else some
    { slot := slot, kind := kind, gen := gen, done := done, strand := (old.map fun h => h.strand).getD 0, words := words,
      op := op.getD still, entries := if done then 0 else (old.map fun h => h.entries).getD 0, shared := 0, cleared := [],
      guarded := (old.map fun h => h.guarded).getD false, joined := (old.map fun h => h.joined).getD false,
      replies := (old.map fun h => h.replies).getD [], tags := [], rest := [], last := (old.map fun h => h.last).getD [],
      written := (old.map fun h => h.written).getD false }

/-- An empty word that no pending handle of the frame names is full (R93). -/
def Strand.fillOrphans (st : Strand) (vs : List Word) : Strand :=
  { st with regs := st.regs.foldl (fun c e =>
      if !e.2.full && !vs.contains e.2.val then cellsPut RegWord.zero e.1 { e.2 with full := true } c else c) st.regs }

/-- The block as its frame at offset `off` restores it on a core, with places for its strands. -/
def State.restore (s : State) (b : Block) (g : Grid) (off core : Nat) (places : List Alloc) : Block :=
  let job := g.launch.job
  let h := s.frameNat job off 64
  let (sts, at') := s.readStrands job g.launch.threads b.regs (off + 64) 0 s.free b.strands
  let sts : List Strand := sts.mapIdx fun i st =>
    let p := places.getD i ⟨0, 0, 0⟩
    { st with partition := p.part, offset := p.off }
  let rows := s.peekJob job (((s.saveArea job).getD (0, 0)).1 + at') (b.rows * 2032)
  let matAt := at' + b.rows * 2032
  let mat := bit h 208
  let hAt := matAt + (if mat then 196608 else 0)
  let n := bits h 160 16
  let entries := (List.range n).map fun k =>
    let v := s.frameNat job (hAt + 16 * k) 4
    (v % 4096, v / 65536, bit (s.frameNat job (hAt + 16 * k + 4) 4) 0)
  let hs := (List.range n).filterMap fun k => s.readHandle job off (hAt + 16 * k) b sts entries
  let pend := (hs.filter fun h => !h.done).map fun h => handleValue h.slot h.kind h.gen
  ({ b with
     core := core
     state := .running
     strands := sts.map (Strand.fillOrphans · pend)
     scratch := padPuts [] 0 rows
     absent := []
     handles := hs.filter fun h => !(h.done && h.kind ≤ 5 && h.words.isEmpty)
     hcount := bits h 176 16
     faultAt := none
     mat := if mat then some (s.readMat job matAt) else none }).freeHandles

/-- The lowest faulted index of a DET grid; of a team, the lower index of the two (R446). -/
def State.frontierOf (s : State) (g : Grid) : Option Nat :=
  if !g.launch.det then none
  else (leastBy id ((s.blocks.filter fun b => b.grid == g.key && b.faulted).map fun b => b.index)).map fun f =>
    if g.launch.teamed then f / 2 * 2 else f

/-- The block lies above its grid's fault frontier. -/
def State.beyond (s : State) (g : Grid) (index : Nat) : Bool :=
  match s.frontierOf g with
  | none => false
  | some f => if g.launch.teamed then decide (f + 1 < index) else decide (f < index)

/-- Blocks of the job may be made resident: clocks, hold, squall, HALT (R74, R77, R474). -/
def State.jobOpen (s : State) (job : Nat) : Bool :=
  let j := s.job job
  s.clocksRun && !s.mgmt.hold && !j.stopped && !j.switching && !j.out && !j.loss

/-- The saved block may be resumed: no fault holds it or its team, and every JOIN that it waits at can return (R74,
R97, R125, R413, R447). -/
def State.resumable (s : State) (b : Block) : Bool :=
  match b.state, s.grid? b.grid with
  | .saved why _, some g =>
    let joins := why != .joinWait || b.strands.all fun st => st.lanes.all fun ln =>
      match ln.park with
      | .join slot gen => ((b.handle? slot gen).map fun h => h.done).getD true
      | _ => true
    why != .abort && b.stops.isEmpty && ((s.partner? b).map fun p => p.stops.isEmpty).getD true && !g.aborted &&
    s.jobOpen g.launch.job && !s.beyond g b.index && joins
  | _, _ => false

/-- Queue entries that the pending operations of a resumed block hold on its core, in the order of their slots, and how many of
them are shared ones (R194). -/
def State.takeEntries (s : State) (key core : Nat) : State :=
  match s.block? key with
  | none => s
  | some b => (sortBy (fun h : Handle => h.slot) b.handles).foldl (fun s h =>
      let free := (s.entriesFree core (b.strand h.strand).role).1
      s.updBlock key fun b => b.updHandle h.slot h.gen fun h => { h with shared := Nat.min h.entries free }) s

/-- One block made resident again from its frame. An ended block of its team holds its rows beside it (R97). -/
def State.resumeBlock (s : State) (b : Block) (core : Nat) : State :=
  match b.state, s.grid? b.grid with
  | .saved _ off, some g =>
    match s.fit core g.launch with
    | none => s
    | some ps =>
      let k := s.restore b g off core ps
      let s : State := (s.updBlock b.key fun _ => k).takeEntries b.key core
      let s : State := match s.partner? b with
        | some p => if p.state == BlockState.ended then s.updBlock p.key fun x => { x with core := core ^^^ 1 } else s
        | none => s
      let s := { s with free := s.free + 2 ^ 14 * b.strands.length }
      (s.killFrame g.launch.job off).acquireSet core 5 none
  | _, _ => s

/-- Slots that the frames of the blocks need on a core (R196). -/
def State.slotsFit (s : State) (b : Block) (core : Nat) : Bool := decide (s.slotsUsed core + b.handles.length ≤ 4096)

/-- The core's copy engine has an entry for each one that the block's pending operations hold (R194). -/
def State.entriesFit (s : State) (b : Block) (core : Nat) : Bool :=
  let start : Nat × Nat × Nat :=
    ((s.entriesFree core .copy).1, (s.entriesFree core .copy).2, (s.entriesFree core .general).2)
  let serve (f : Bool × Nat × Nat × Nat) (h : Handle) : Bool × Nat × Nat × Nat :=
    let r := serveEntries f.2 (b.strand h.strand).role (if h.done then 0 else h.entries)
    (f.1 && r.1, r.2)
  ((sortBy (fun h : Handle => h.slot) b.handles).foldl serve (true, start)).1

/-- The rows of an ended block of the block's team fit the other core of the pair (R97). -/
def State.teamRows (s : State) (b : Block) (core : Nat) : Bool :=
  match s.partner? b with
  | some p => p.state != .ended || p.core == core ^^^ 1 || decide (p.rows ≤ s.rowsFree (core ^^^ 1))
  | none => true

/-- The saved block fits the core as the allocations stand (R61, R74, R97, R194, R196). -/
def State.resumeFits (s : State) (b : Block) (r : LaunchRec) (core : Nat) : Bool :=
  (s.fit core r).isSome && s.slotsFit b core && s.entriesFit b core && s.teamRows b core

end Sys2Proof.Machine
end

