-- ==== Sys2Proof/Machine/Launch.lean ====
section
/-! DEFINITION. Doorbells, the reading and admission of launch records, dispatch, compaction for a waiting block, and the
choice of victims (R55 to R64, R72, R89, R97, R125, R131, R236, R240, R245, R418, R478). -/

namespace Sys2Proof.Machine

open Sys2Proof

/-! ## Doorbells and the heads of queues (R55, R56, R240, R245) -/

def State.queue (s : State) (p q : Nat) : Queue := (s.host p).queues.getD q Queue.reset

def State.updQueue (s : State) (p q : Nat) (f : Queue → Queue) : State :=
  s.updHost p fun h => { h with queues := h.queues.modify q f }

/-- Records that a queue holds, as its indices say. -/
def Queue.pending (q : Queue) : Nat := (q.prod - q.cons).toNat

/-- Entries of a queue. -/
def Queue.size (q : Queue) : Nat := 2 ^ q.log2n

/-- The records that a doorbell covers for the first time take the doorbell's place in the arrival order; within a queue
they stand in ring order. -/
def Queue.ring (q : Queue) (prod : Word) (stamp : Nat) : Queue :=
  let q := { q with prod := prod }
  let n := Nat.min q.pending q.size
  { q with stamps := q.stamps.take n ++ List.replicate (n - q.stamps.length) stamp }

/-- The place of a doorbell in the arrival order (R56): its cycle, then port 0 first, then ascending queue number. Cycles
are those of die 0's clock (DESIGN CHOICE, log 37). -/
def State.doorbellPlace (s : State) (port queue : Nat) : Nat := (s.die 0).clock.toNat * 128 + port * 64 + queue

/-- A write of LQDOOR; ignored until the module runs (R240). -/
def State.doorbell (s : State) (port queue : Nat) (prod : Word) : State :=
  if s.mgmt.boot != 3 || s.portGone port || 2 ≤ port || 64 ≤ queue then s
  else s.updQueue port queue fun q => q.ring prod (s.doorbellPlace port queue)

def execLqdoor (port queue : Nat) (prod : Word) (s : State) : Result := .next (s.doorbell port queue prod)

/-- Physical address of the record with an index (R245). -/
def Queue.recordAt (q : Queue) (index : Nat) : Nat := q.base + 128 * (index % q.size)

/-- A launch of this queue has been read and not admitted (R56). -/
def State.heldHead (s : State) (p q : Nat) : Bool :=
  s.grids.any fun g => g.state == .held && g.port == p && g.queue == q

/-- The record of a head that cannot be read (R478). -/
def State.lostRecord (s : State) (p q cls sub addr : Nat) : State :=
  s.inform cls sub fun r => { r with addr := BitVec.ofNat 64 addr, info2 := BitVec.ofNat 32 (q % 64 + p % 2 * 256) }

/-- Writes that the port has received are still on their way to another module (R236). -/
def State.posting (s : State) (port : Nat) : Bool :=
  (s.fabric.reqs.any fun r => r.who == .post port) || s.posted.any fun w => w.port == port

/-- The scheduler reads the head of a queue whole and advances LQCONS, once the writes that its port had received have taken
effect (R236). -/
def execLaunchRecordRead (port queue : Nat) (s : State) : Result :=
  let q := s.queue port queue
  match q.stamps with
  | [] => .next s
  | stamp :: rest =>
    if !s.clocksRun || s.portGone port || 2 ≤ port || 64 ≤ queue || s.heldHead port queue || s.posting port then .next s
    else
      let pa := q.recordAt q.cons.toNat
      let s := s.updQueue port queue fun q => { q with cons := q.cons + 1, stamps := rest }
      if !(isDram pa && isDram (pa + 127)) then .next (s.lostRecord port queue 0x10 2 pa)
      else if (s.poisonAt pa 128).isSome then .next (s.lostRecord port queue 0x1A 0 pa)
      else
        let r := launchRec (memNat s.mem pa 128)
        let (key, s) := s.fresh
        let g := { Grid.fresh key r.lid r with port := port, queue := queue, prio := q.prio, recAddr := pa, age := stamp,
                                               state := .held }
        .next { s with grids := s.grids ++ [g] }

/-! ## Admission (R58, R59, R418) -/

/-- LIDs of the records that wait in the queues. -/
def State.pendingLids (s : State) : List Dword :=
  s.hosts.flatMap fun h => h.queues.flatMap fun q =>
    (List.range q.stamps.length).filterMap fun i =>
      let pa := q.recordAt (q.cons.toNat + i)
      if isDram pa && isDram (pa + 127) && (s.poisonAt pa 128).isNone
      then some (BitVec.ofNat 64 (memNat s.mem pa 8)) else none

/-- The module holds the launch that a prerequisite names. -/
def State.holdsLaunch (s : State) (lid : Dword) : Bool :=
  (s.grids.any fun g => g.parent.isNone && g.launch.lid == lid) || s.pendingLids.contains lid

/-- The head may be admitted: its prerequisites are met, and nothing stops its job's launches. -/
def State.eligibleHead (s : State) (g : Grid) : Bool :=
  g.state == .held && s.jobOpen g.launch.job && !(s.job g.launch.job).resuming &&
  g.launch.pre.all fun p => !s.holdsLaunch p

/-- Launches that are admitted and not retired. -/
def State.admittedCount (s : State) : Nat := (s.grids.filter fun g => g.parent.isNone && g.state != .held).length

/-- The eligible head of highest priority, the oldest of equals. -/
def State.nextHead (s : State) : Option Grid :=
  leastBy (fun g : Grid => (7 - g.prio) * 2 ^ 80 + g.age) (s.grids.filter s.eligibleHead)

/-- A launch that fails its checks counts as stopped until its record is answered (R418). -/
def State.failLaunch (s : State) (g : Grid) (cls sub addr : Nat) : State :=
  let (id, s) := s.fresh
  let s := { s with stops := s.stops ++ [Stop.mk id none (.grid g.key)] }
  let s := s.updGrid g.key fun g => { g with state := .stopped }
  s.note { FaultRec.async id cls sub g.launch.job s.mgmt.dev with
    kind := 0, addr := BitVec.ofNat 64 addr, pc := BitVec.ofNat 64 g.launch.cont, grid := g.gid,
    info2 := BitVec.ofNat 32 (g.queue % 64 + g.port % 2 * 256) }

/-- The scheduler admits a head and makes the checks of R418. -/
def execLaunchAdmit (s : State) : Result :=
  if !s.clocksRun || 128 ≤ s.admittedCount then .next s
  else
    match s.nextHead with
    | none => .next s
    | some g =>
      if g.tags.any s.outstanding then .next s
      else
        let entered (s : State) : State := { s with mgmt := { s.mgmt with admitted := true } }
        if g.launch.badLaunch then .next ((entered s).failLaunch g 0x01 9 g.recAddr)
        else
          match s.readKernel g.launch.job g.replies g.launch with
          | .flaw f => .next ((entered s).failLaunch g f.cls f.sub f.addr)
          | .bad => .next ((entered s).failLaunch g 0x01 8 g.recAddr)
          | .away ls =>
            let (s, tags) := s.askFor 0 g.launch.job (.launch g.key) ls
            .next (s.updGrid g.key fun g => { g with tags := tags })
          | .good k =>
            let (age, s) := s.fresh
            .next ((entered s).updGrid g.key fun g => { (g.withKernel k) with age := age, state := .active, tags := [] })

/-! ## What waits for a place (R63, R66, R74, R125) -/

/-- Place of a block in the order of dispatch: priority, then age. -/
def State.dispatchRank (s : State) (g : Grid) (index : Nat) : Nat :=
  let above := ((g.fork.bind s.fork?).bind fun f => f.owner.bind fun o => s.block? o.1).map (s.agePath 10)
  let path := above.getD [] ++ [g.age, index + 1]
  ((path ++ List.replicate (20 - path.length) 0).foldl (fun n x => n * 2 ^ 64 + x) 0) + (7 - g.prio) * 2 ^ 1300

/-- Blocks of the grid may be dispatched (R59, R77, R413, R474). -/
def State.dispatches (s : State) (g : Grid) : Bool :=
  g.state == .active && !g.aborted && s.jobOpen g.launch.job

/-- Saved blocks of the grid that wait to be resumed. -/
def State.toResume (s : State) (g : Grid) : List Nat :=
  (s.blocks.filter fun b => b.grid == g.key && s.resumable b).map fun b => b.index

/-- The index of the lowest block that has not been dispatched; of a team its even one. -/
def Grid.nextIndex (g : Grid) : Option Nat :=
  let k := leastFree g.started g.started.length 0
  if k < g.launch.nblk then some k else none

/-- The block of the grid that is made resident next: while a squall of its job resumes, one of its saved blocks alone
(R80). -/
def State.nextBlock (s : State) (g : Grid) : Option Nat :=
  if !s.dispatches g then none
  else
    match leastBy id (s.toResume g) with
    | some k => some k
    | none =>
      if (s.job g.launch.job).resuming then none else g.nextIndex.bind fun k => if s.beyond g k then none else some k

/-- Victims that were selected and are not yet saved. -/
def State.victimsPending (s : State) : Bool :=
  s.blocks.any fun b => match b.state with
    | .stopping .victim | .stopping .joinWait | .overflow .victim | .overflow .joinWait => true
    | _ => false

/-- A grid that stands before `g` in the order of dispatch has a block that fits some core now, or waits while victims are
stopped: what they free is not for others (R63, R72). -/
def State.outranked (s : State) (g : Grid) (index : Nat) : Bool :=
  s.grids.any fun h => h.key != g.key &&
    match s.nextBlock h with
    | some k => decide (s.dispatchRank h k < s.dispatchRank g index) && (s.victimsPending || s.fitsSome h.launch)
    | none => false

/-! ## Dispatch (R29, R31, R57, R61 to R63, R83, R131) -/

/-- Role of a strand by its index (R57). -/
def LaunchRec.roleOf (r : LaunchRec) (i : Nat) : Role :=
  if i < r.ncopy then .copy else if i < r.ncopy + r.nmat then .matrix else .general

/-- A strand at block start. -/
def Strand.start (r : LaunchRec) (pc0 : Dword) (i : Nat) (a : Alloc) : Strand :=
  let w := widthOf r.wcode
  { Strand.absent with
    width := w
    role := r.roleOf i
    partition := a.part
    offset := a.off
    lanes := (List.range w).map fun l =>
      if i * w + l < r.threads then { Lane.never with status := .live, pc := pc0 } else Lane.never }

/-- A block at block start, on a core. -/
def Block.start (g : Grid) (key index core : Nat) (view : View) (places : List Alloc) : Block :=
  { key := key, grid := g.key, index := index, core := core, state := .running, view := view,
    regs := regsOf g.launch.rcode, strands := places.mapIdx fun i a => Strand.start g.launch g.pc0 i a,
    rows := g.launch.rows, scratch := [], absent := [], handles := [], hcount := 0, passed := [], guards := [],
    mat := if g.launch.nmat == 0 then none else some ⟨[], [], [], 0⟩, outside := false,
    faultinfo := BitVec.allOnes 64, stops := [], faultAt := none, last := none, age := key }

/-- The fork of a launched DET grid, made before its first dispatch; none while the pool lacks its reserve (R131). -/
def State.launchFork (s : State) (g : Grid) (die : Nat) : State × Bool :=
  if !g.launch.det || g.fork.isSome then (s, true)
  else
    match s.takeReserve die (if s.viewedHome g.launch.job then 2 * g.nres else 0) 70000 with
    | (s, false) => (s, false)
    | (s, true) =>
      let (k, s) := s.fresh
      let s := { s with forks := s.forks ++ [Fork.fresh s.mgmt.dev k g.launch.job g.key g.nres g.launch.nblk 0 .root] }
      (s.updGrid g.key fun g => { g with fork := some k }, true)

/-- One block made resident at block start. -/
def State.startBlock (s : State) (key index core : Nat) : State :=
  match s.grid? key with
  | none => s
  | some g =>
    match s.fit core g.launch with
    | none => s
    | some ps =>
      let view := match g.fork with | some k => View.child k index | none => .root
      let (k, s) := s.fresh
      let s := { s with blocks := s.blocks ++ [Block.start g k index core view ps] }
      let s := s.updGrid key fun g =>
        { g with started := g.started ++ [index], requeued := g.requeued.filter fun i => i != index }
      s.acquireSet core (if g.parent.isSome then 5 else 4) none

/-- The block may be dispatched next: in index order in a DET grid, after its grid's resumable blocks, and not ahead of a
child of lower index that was rolled back (R140). -/
def State.mayStart (s : State) (g : Grid) (blk : Nat) : Bool :=
  s.dispatches g && !(s.job g.launch.job).resuming && (s.toResume g).isEmpty && decide (blk < g.launch.nblk) && !g.started.contains blk &&
  (!g.launch.det || g.nextIndex == some blk) && !s.beyond g blk && (!g.launch.teamed || blk % 2 == 0) &&
  g.requeued.all fun i => decide (blk ≤ i)

def execBlockDispatch (grid blk core : Nat) (s : State) : Result :=
  match s.grid? grid with
  | none => .next s
  | some g =>
    if core < 128 && s.mayStart g blk && s.fitsAt core g.launch && !s.outranked g blk then
      match s.launchFork g (dieOf core) with
      | (s, false) => .next s
      | (s, true) =>
        let s := s.startBlock grid blk core
        .next (if g.launch.teamed then s.startBlock grid (blk + 1) (core ^^^ 1) else s)
    else .next s

/-- The rest of a block's team that resumes with it. -/
def State.teamBack (s : State) (b : Block) (g : Grid) : List Block :=
  if g.launch.teamed then (s.partner? b).toList.filter fun p => p.state != .ended else []

/-- The core takes the saved block, and the team's other core the rest of its team. -/
def State.resumeRoom (s : State) (b : Block) (g : Grid) (core : Nat) : Bool :=
  s.resumeFits b g.launch core && (s.teamBack b g).all fun p => s.resumeFits p g.launch (core ^^^ 1) && s.resumable p

/-- RETURN FROM AN EXCEPTION OR A STOP (R74, R413): the block, with the other block of its team, resumes on the core from
its frame. No block of its grid with a lower index waits to be resumed, and no block of a more urgent grid fits. -/
def execBlockResume (blk core : Nat) (s : State) : Result :=
  match s.block? blk with
  | none => .next s
  | some b =>
    match s.grid? b.grid with
    | none => .next s
    | some g =>
      let lower := s.blocks.any fun x => x.grid == b.grid && decide (x.index < b.index) && s.resumable x &&
        !(g.launch.teamed && x.index / 2 == b.index / 2)
      if core < 128 && s.resumable b && !lower && !s.outranked g b.index && s.resumeRoom b g core then
        .next ((s.teamBack b g).foldl (fun s p => s.resumeBlock p (core ^^^ 1)) (s.resumeBlock b core))
      else .next s

/-! ## Compaction for a waiting block (R64, R89) -/

/-- A core, or a team's two, takes the block once compacted. -/
def State.fitsOnceCompacted (s : State) (core : Nat) (r : LaunchRec) : Bool :=
  s.fitsCompacted core r && (!r.teamed || s.fitsCompacted (core ^^^ 1) r)

/-- The most urgent block that fits no core as the allocations stand. -/
def State.stuckGrid (s : State) (p : Grid → Bool) : Option Grid :=
  (leastBy (fun x : Nat × Grid => x.1) (s.grids.filterMap fun g =>
    match s.nextBlock g with
    | some k => if p g && !s.fitsSome g.launch then some (s.dispatchRank g k, g) else none
    | none => none)).map fun x => x.2

def execRegisterCompaction (core : Nat) (s : State) : Result :=
  match s.stuckGrid fun g => s.fitsOnceCompacted core g.launch with
  | none => .next s
  | some g =>
    if core < 128 && (s.fit core g.launch).isNone then .next (s.moveAllocs (s.compacted core g.launch)) else .next s

/-! ## Victims (R72, R97, R125) -/

/-- Some core takes the block as it stands or once compacted. -/
def State.fitsEver (s : State) (r : LaunchRec) : Bool :=
  s.fitsSome r || allCores.any fun c => s.fitsOnceCompacted c r

/-- The state as it would be were the blocks gone. -/
def State.without (s : State) (vs : List Block) : State :=
  { s with blocks := s.blocks.filter fun b => !(vs.any fun v => v.key == b.key) }

/-- A block with the other of its team. -/
def State.withTeam (s : State) (b : Block) : List Block :=
  b :: ((s.partner? b).toList.filter Block.resident)

/-- The lowest-index unfinished block of a DET grid. -/
def Grid.lowestOpen (g : Grid) : Option Nat :=
  let k := leastFree g.ended g.ended.length 0
  if g.launch.det && k < g.launch.nblk then some k else none

/-- The block stays: it is the lowest unfinished one of its DET grid, or of its team, and others are resident. -/
def State.sheltered (s : State) (g : Grid) (b : Block) : Bool :=
  let team := (s.withTeam b).map fun x => x.key
  match g.lowestOpen with
  | none => false
  | some k =>
    ((s.withTeam b).any fun x => x.index == k) &&
    s.blocks.any fun x => x.grid == g.key && x.resident && !team.contains x.key

/-- Blocks that may give way to a launch of priority `prio`, in the order in which they are taken. -/
def State.victimOrder (s : State) (prio : Nat) : List Block :=
  let all := s.blocks.filterMap fun b =>
    match s.grid? b.grid with
    | some g =>
      if b.state == .running && g.state == .active && decide (g.prio < prio) && !s.sheltered g b
      then some (g.prio * 2 ^ 1300 + (2 ^ 1290 - s.dispatchRank { g with prio := 7 } b.index), b) else none
    | none => none
  (sortBy (fun x : Nat × Block => x.1) all).map fun x => x.2

/-- Every live thread of the block waits at a JOIN that follows a SAFEPT and cannot return yet (R52, R125). -/
def State.joinStopped (s : State) (b : Block) : Bool :=
  b.state == .running && (b.strands.any fun st => st.lanes.any fun ln => ln.status == .live) &&
  (List.range b.strands.length).all fun i =>
    let st := b.strand i
    st.lanes.all fun ln => ln.status != .live ||
      (match ln.park with
       | .join slot gen => ln.safe.isSome && s.waits b st i (.join slot gen)
       | _ => false)

/-- Blocks that may give way to a child block, youngest first. -/
def State.joinOrder (s : State) : List Block :=
  sortBy (fun b => 2 ^ 1400 - s.ageOf b 0) (s.blocks.filter fun b => (s.withTeam b).all s.joinStopped)

/-- The shortest run of victims, in order, that makes the block fit. A block that its DET grid shelters is not in the order,
so that where only a set with it would make room nothing is selected (DESIGN CHOICE, log 39). -/
def State.takeVictims (s : State) (r : LaunchRec) : List Block → List Block → Option (List Block)
  | _, [] => none
  | done, b :: bs =>
    let done := done ++ s.withTeam b
    if (s.without done).fitsEver r then some done else s.takeVictims r done bs

def State.stopBlocks (s : State) (vs : List Block) (why : StopWhy) : State :=
  { s with blocks := s.blocks.map fun b => if vs.any fun v => v.key == b.key then b.stopFor why else b }

def execPreemptForPriority (grid : Nat) (s : State) : Result :=
  match s.grid? grid with
  | none => .next s
  | some g =>
    if (s.nextBlock g).isNone || s.fitsEver g.launch || s.victimsPending then .next s
    else
      match if g.parent.isSome then s.takeVictims g.launch [] s.joinOrder else none with
      | some vs => .next (s.stopBlocks vs .joinWait)
      | none =>
        match s.takeVictims g.launch [] (s.victimOrder g.prio) with
        | some vs => .next (s.stopBlocks vs .victim)
        | none => .next s

/-! ## System software's pre-emption of a job (R72, R410) -/

/-- A record of a HALT or of a job's fault is not answered, or a HALT's record is not yet written. -/
def State.jobHeld (s : State) (job : Nat) : Bool :=
  (s.job job).halting.isSome || s.stops.any fun x => x.reach == .job job true || x.reach == .job job false

/-- The resume of a job's launches; what a record stops stays stopped. -/
def State.resumeJob (s : State) (job : Nat) : State := s.updJob job fun j => { j with stopped := s.jobHeld job }

end Sys2Proof.Machine
end

