-- ==== Sys2Proof/Machine/House.lean ====
section
/-! DEFINITION. Budgets, write-back timers, TLB invalidation, migration, scrubbing, sparing, power and temperature,
freeze and scan, attestation, boot and reset, host links, and the fault ring's registers (R70, R108, R119 to R122, R238 to
R240, R250 to R256, R411, R427, R429, R436, R449, R450, R466, R471 to R474). -/

namespace Sys2Proof.Machine

open Sys2Proof

/-! ## Budgets (R70, R71) -/

/-- The 2,048-cycle period of a die's clock. -/
def Die.now (d : Die) : Nat := d.clock.toNat / 2048

/-- A period has begun: budgets written since take effect, credits are set to them, and what was held is held no longer. -/
def Die.renew (d : Die) : Die :=
  { d with budget := d.budgetNext, credit := d.budgetNext.map fun b => creditOf b.1.toNat, held := 0, period := d.now }

def execBudgetPeriod (die : Nat) (s : State) : Result :=
  if s.clocksRun && (s.die die).now != (s.die die).period then .next (s.updDie die Die.renew) else .next s

/-! ## Caches and TLBs (R107, R108, R118, R119) -/

/-- A line that has been dirty for 2,048 cycles writes back its dirty bytes. -/
def execL1DirtyWriteback (core line : Nat) (s : State) : Result :=
  if s.clocksRun && (s.agedLines core).contains line then .next (s.writeBack core (l1Line line)) else .next s

def execTlbiPage (die job : Nat) (s : State) : Result := .next (if s.clocksRun then s.tlbi die job 1 else s)

def execTlbiJob (die job : Nat) (s : State) : Result := .next (if s.clocksRun then s.tlbi die job 2 else s)

def execTlbiAll (die : Nat) (s : State) : Result := .next (if s.clocksRun then s.tlbi die 0 3 else s)

/-- BUSY ends once every access that used a removed entry has completed (R119). -/
def execTlbiDone (die : Nat) (s : State) : Result :=
  if (s.die die).tlbiWait.isEmpty then .next (s.updDie die fun d => { d with tlbiBusy := false }) else .next s

/-! ## Migration (R120 to R122) -/

/-- An address of the old frame carried to the new one. -/
def shiftPa (old new n pa : Nat) : Nat := if old ≤ pa && pa < old + n then new + (pa - old) else pa

/-- Poison marks of the old frame's units carried to the new frame, which loses its own. -/
def shiftMarks (old new n : Nat) (us : List Nat) : List Nat :=
  let kept := us.filter fun u => !(new ≤ u * 32 && u * 32 < new + n)
  kept.map fun u => shiftPa old new n (u * 32) / 32

def shiftLoc (old new n : Nat) : Loc → Loc
  | .phys pa => .phys (shiftPa old new n pa)
  | l => l

/-- Scope records of the old frame's lines carried to the new frame (R109). -/
def shiftScopes (old new n : Nat) (rs : List (Loc × ScopeRec)) : List (Loc × ScopeRec) :=
  (rs.filter fun r => match r.1 with | .phys pa => !(decide (new ≤ pa) && decide (pa < new + n)) | _ => true).map fun r =>
    (shiftLoc old new n r.1, r.2)

/-- Reservations follow their words (R37, R351). -/
def State.shiftResv (s : State) (old new n : Nat) : State :=
  let lane (ln : Lane) : Lane := { ln with resv := ln.resv.map fun r => { r with loc := shiftLoc old new n r.loc } }
  let strand (st : Strand) : Strand := { st with lanes := st.lanes.map lane }
  let away (r : AwayResv) : AwayResv := { r with loc := shiftLoc old new n r.loc }
  { s with blocks := s.blocks.map fun b => { b with strands := b.strands.map strand }
           awayResv := s.awayResv.map away }

/-- Every TLB forgets the page of an address. -/
def State.forgetPage (s : State) (job va : Nat) : State :=
  let keep (e : TlbEntry) : Bool := !e.hits job va
  { s with cores := s.cores.map fun c => { c with tlb := c.tlb.filter keep }
           dies := s.dies.map fun d => { d with l2tlb := d.l2tlb.filter keep } }

/-- What every core's L1 and every die's L2 hold of a frame, written back and dropped. -/
def State.emptyFrame (s : State) (pa n : Nat) : State :=
  let s := (List.range s.cores.length).foldl (fun s c =>
    (s.writeBack c (some [(pa, n)])).updCore c fun k => k.dropClean pa n) s
  let away (x : L2Line) : Bool := !(decide (pa ≤ x.line * 128) && decide (x.line * 128 < pa + n))
  { s with dies := s.dies.map fun d => { d with l2 := d.l2.filter away } }

/-- The page may migrate (R120): 64 KiB or 2 MiB, not pinned, homed here, to a frame of another stack that holds nothing. -/
def State.mayMigrate (s : State) (lf : Leaf) (stack new : Nat) : Bool :=
  decide (lf.bytes ≤ 2 ^ 21) && !lf.pin && lf.home == s.mgmt.dev && isDram lf.addr &&
  decide (stack < 8) && new / 2 ^ 37 == stack && lf.addr / 2 ^ 37 != stack && isDram new && isDram (new + lf.bytes - 1) &&
  (s.mem.filter fun c => decide (new ≤ c.1) && decide (c.1 < new + lf.bytes)).isEmpty &&
  !s.migrations.any fun m => decide (m.new < new + lf.bytes) && decide (new < m.new + m.bytes)

/-- Bytes of the old frame copied to the new one, from `pa` on. -/
def State.carry (s : State) (m : Migration) (pa n : Nat) : State :=
  { s with mem := memPuts s.mem (m.new + (pa - m.old)) ((List.range n).map fun j => memGet s.mem (pa + j)) }

/-- The recorded lines copied again, and their records cleared. -/
def State.recopy (s : State) (m : Migration) : State :=
  let s := m.written.foldl (fun s l => s.carry m (l * 128) 128) s
  { s with migrations := s.migrations.map fun x => if x.new == m.new then { x with written := [] } else x }

def State.endMigration (s : State) (m : Migration) : State :=
  { s with migrations := s.migrations.filter fun x => x.new != m.new }

/-- A frame is free: its bytes and its marks are gone. -/
def State.freeFrame (s : State) (pa n : Nat) : State :=
  let out (x : Nat) : Bool := !(decide (pa ≤ x) && decide (x < pa + n))
  { s with mem := s.mem.filter fun c => out c.1, poison := s.poison.filter fun u => out (u * 32) }

/-- Phase 1: the frame is taken and every line copied. -/
def State.startMigration (s : State) (job va new : Nat) (lf : Leaf) : State :=
  let m : Migration := ⟨job, va, lf.addr, new, lf.bytes, []⟩
  let s := s.emptyFrame lf.addr lf.bytes
  let cells := s.mem.filter fun c => decide (lf.addr ≤ c.1) && decide (c.1 < lf.addr + lf.bytes)
  { s with mem := cells.foldl (fun mem c => memPut mem (new + (c.1 - lf.addr)) c.2) s.mem
           migrations := s.migrations ++ [m] }

/-- Phases 3 and 4, between two instructions, so that no write is held: the last recorded lines copied, the new ADDR in the
entry, every TLB without the page, and the old frame free (DEDUCED, log 24). -/
def State.finishMigration (s : State) (m : Migration) (entry : Nat) : State :=
  let s := (s.recopy m).endMigration m
  let s := { s with
    mem := memPuts s.mem (entry + 8) (leBytes 8 m.new)
    poison := shiftMarks m.old m.new m.bytes s.poison
    scopes := shiftScopes m.old m.new m.bytes s.scopes }
  ((s.shiftResv m.old m.new m.bytes).forgetPage m.job m.va).freeFrame m.old m.bytes

/-- Phases 2 to 4 of a migration whose old frame has just left every cache. A page that has been mapped elsewhere ends its
migration. -/
def State.goMigrate (s : State) (m : Migration) (lf : Leaf) (entry : Nat) : State :=
  if lf.addr != m.old || lf.bytes != m.bytes then (s.endMigration m).freeFrame m.new m.bytes
  else if 32 < m.written.length then s.recopy m
  else s.finishMigration m entry

/-- The migration of the page of `va` to frame `frame` of a stack, one phase at a time under class 3 credit (R120, R121). -/
def execMigration (job va stack frame : Nat) (s : State) : Result :=
  match s.walkJob job va, (s.jobEntry job 8 8).bind fun root => walkEntry s.mem va 4 root with
  | some lf, some entry =>
    let new := stack * 2 ^ 37 + frame * lf.bytes
    let paid (dst n : Nat) (go : State → State) : State :=
      s.underCredit 3 [dieOfAddr lf.addr, dieOfAddr dst] fun s =>
        go ((s.charge (dieOfAddr lf.addr) 3 n).charge (dieOfAddr dst) 3 n)
    let mine (s : State) : Option Migration := s.migrations.find? fun m => m.job == job && m.va / lf.bytes == va / lf.bytes
    if !s.clocksRun then .next s
    else
      match mine s with
      | none => .next (if s.mayMigrate lf stack new then paid new lf.bytes fun s => s.startMigration job va new lf else s)
      | some m =>
        .next (paid m.new (128 * m.written.length) fun s =>
          let s := s.emptyFrame m.old m.bytes
          s.goMigrate ((mine s).getD m) lf entry)
  | _, _ => .next s

/-! ## Scrubbing (R427, R429, R436, R437) -/

/-- A register word that the scrubber of its partition reads, among those allocated to its strand: a corrected error, or one
that poisons the word. -/
def execRegisterScrub (blk strand word : Nat) (fate : EccFate) (s : State) : Result :=
  match s.block? blk with
  | none => .next s
  | some b =>
    if !s.clocksRun || !b.resident || b.strands.length ≤ strand || (b.strand strand).width ≤ word / 256 || b.regs ≤ word % 256
    then .next s
    else
      let d := dieOf b.core
      match fate with
      | .corrected =>
        .next ((s.updDie d fun x => { x with regce := x.regce + 1 }).wearCore b.core Wear.correct)
      | .uncorrectable =>
        let s := s.updStrand blk strand fun st =>
          let w := cellsGet RegWord.zero word st.regs
          { st with regs := cellsPut RegWord.zero word { w with full := true, poison := true } st.regs }
        .next ((s.updDie d fun x => { x with regue := x.regue + 1 }).wearCore b.core Wear.fail)

/-- A free value of 64 bits. -/
def State.drawPair (s : State) : Dword × State :=
  let (a, s) := s.draw
  let (b, s) := s.draw
  (pairOf (Config.freeWord a) (Config.freeWord b), s)

/-- A unit that the patrol scrubber marks, and the record of it; `addr` is the physical address. -/
def State.scrubMark (s : State) (d : Nat) (addr : Dword) : State :=
  (s.updDie d fun x => { x with memue := x.memue + 1 }).inform 0x1A 1 fun r => { r with die := d, addr := addr }

/-- A unit of a die found damaged: corrected or refetched, and counted with its place (Table 21-9, R449). -/
def State.mended (s : State) (d kind unit : Nat) : State :=
  s.updDie d fun x => { x.wearOut kind unit Wear.correct with memce := x.memce + 1 }

/-- A unit that the patrol scrubber reads. A damaged unit of a clean line of an L2 is refetched, one of a dirty line is lost.
The address that the record gives for a scratchpad word, which has no physical address, is a free value. -/
def execPatrolScrub (unit : EccUnit) (fate : EccFate) (s : State) : Result :=
  if !s.clocksRun then .next s
  else
    let mark (s : State) (d kind unit addr : Nat) : State :=
      let u := addr / 32
      let s := { s with poison := if s.poison.contains u then s.poison else s.poison ++ [u] }
      (s.updDie d fun x => x.wearOut kind unit Wear.fail).scrubMark d (BitVec.ofNat 64 addr)
    match unit with
    | .l2 d a =>
      match (s.die d).l2.find? fun x => x.line == a / 128, fate with
      | none, _ => .next s
      | some _, .corrected => .next (s.mended d 2 (sliceOf a))
      | some x, .uncorrectable => .next (if x.dirty then mark s d 2 (sliceOf a) a else s.mended d 2 (sliceOf a))
    | .dram a =>
      match fate with
      | .corrected => .next (s.mended (dieOfAddr a) 3 (channelOf a))
      | .uncorrectable => .next (mark s (dieOfAddr a) 3 (channelOf a) a)
    | .scratch k off =>
      match s.block? k with
      | none => .next s
      | some b =>
        let d := dieOf b.core
        let bank := b.core % 32 * 128 + bankOf off
        match fate with
        | .corrected => .next (s.mended d 1 bank)
        | .uncorrectable =>
          let u := (k, off / 8)
          let s := { s with padPoison := if s.padPoison.contains u then s.padPoison else s.padPoison ++ [u] }
          let (x, s) := s.drawPair
          .next ((s.updDie d fun x => x.wearOut 1 bank Wear.fail).scrubMark d x)

/-! ## Sparing (R12, R13, R16, R20, R102, R255, R256, R449, R450, R466) -/

/-- A spare enters service on a die. -/
def State.countSpare (s : State) (d k : Nat) : State :=
  let s := s.updDie d fun x => { x with spares := x.spares.modify k fun n => n + 1 }
  { s with mgmt := { s.mgmt with spareBusy := true } }

/-- Blocks on two cores of a team asked to leave them, and none taken there until they have (R256). -/
def State.clearCores (s : State) (cores : List Nat) : State :=
  { s with
    blocks := s.blocks.map fun b => if cores.contains b.core && b.resident then b.stopFor .spare else b
    mgmt := { s.mgmt with sparing := cores } }

/-- The map of logical to physical channels of a die's stack: how many spares it has taken. -/
def Die.channelsUsed (d : Die) (stack : Nat) : Nat :=
  ((d.channels.filter fun c => c.1 / 512 == stack).map fun c => c.2 - 511).foldl Nat.max 0

/-- The port that replaces a fabric port: the lowest of `among` that is trained to the same peer and not in service. -/
def State.sparePort (s : State) (p : Nat) (among : List Nat) : Option Nat :=
  among.find? fun q => q != p && (s.port q).trained && !(s.port q).insvc && !(s.port q).marked &&
    (s.port q).peer == (s.port p).peer

/-- A slice that leaves service writes its dirty lines back. -/
def Die.cleanSlice (d : Die) (slice : Nat) : Die :=
  { d with l2 := d.l2.map fun x => if sliceOf (x.line * 128) == slice then { x with dirty := false } else x }

/-- The sparing action of a unit, if its kind has a spare left (Table 11-1, Table 1-2); `ports` are those among which a
port's spare is looked for. Of a die's two spare pairs, 16 is taken before 17, and a UNIT out of range finds no spare (DESIGN
CHOICE, log 26). -/
def State.spare (s : State) (kind d unit : Nat) (ports : List Nat) : Option State :=
  let x := s.die d
  match kind with
  | 0 =>
    let used := x.spares.getD 0 0
    if 16 ≤ unit || 2 ≤ used then none
    else
      let s := s.updDie d fun x => { x with pairs := x.pairs.set unit (16 + used) }
      some ((s.countSpare d 0).clearCores [32 * d + 2 * unit, 32 * d + 2 * unit + 1])
  | 1 =>
    let core := 32 * d + unit / 128
    if 32 ≤ unit / 128 || 127 ≤ unit % 128 || (s.core core).banks.contains 127 then none
    else some ((s.updCore core fun c => { c with banks := c.banks.set (unit % 128) 127 }).countSpare d 1)
  | 2 =>
    if 32 ≤ unit || x.slices.contains 32 then none
    else some ((s.updDie d fun x => { x with slices := x.slices.set unit 32 }).countSpare d 2 |>.updDie d (Die.cleanSlice · unit))
  | 3 =>
    let used := x.channelsUsed (unit / 512)
    if 1024 ≤ unit || 32 ≤ used then none
    else
      let put (x : Die) : Die := { x with channels := cellsPut (unit % 512) unit (512 + used) x.channels }
      some ((s.updDie d put).countSpare d 3)
  | 4 =>
    let p := 6 * d + unit
    match if unit < 6 then s.sparePort p ports else none with
    | none => none
    | some q => some ((s.updPort q fun x => { x with marked := true }).countSpare (q / 6) 4)
  | _ => none

def State.noSpare (s : State) : State := { s with mgmt := { s.mgmt with spareNone := true } }

/-- A command of SPARECMD (R255): ignored while one is in progress, or of a reserved kind. -/
def State.spareCommand (s : State) (kind d unit : Nat) : State :=
  if s.mgmt.spareBusy || 5 ≤ kind || 4 ≤ d then s
  else (s.spare kind d unit ((List.range 6).map fun i => 6 * d + i)).getD s.noSpare

/-- The primary host's write of SPARECMD. -/
def State.hostSpare (s : State) (kind d unit : Nat) : State := if s.hostSpeaks then s.spareCommand kind d unit else s

def execSpareCorePair (die unit : Nat) (s : State) : Result := .next (s.hostSpare 0 die unit)

def execSpareScratchpadBank (die unit : Nat) (s : State) : Result := .next (s.hostSpare 1 die unit)

def execSpareL2Slice (die unit : Nat) (s : State) : Result := .next (s.hostSpare 2 die unit)

def execSparePseudoChannel (die unit : Nat) (s : State) : Result := .next (s.hostSpare 3 die unit)

def execSpareFabricPort (die unit : Nat) (s : State) : Result := .next (s.hostSpare 4 die unit)

/-- The action completes once no block is left on the cores that it clears. -/
def execSpareDone (s : State) : Result :=
  if s.blocks.any fun b => b.resident && s.mgmt.sparing.contains b.core then .next s
  else .next { s with mgmt := { s.mgmt with spareBusy := false, sparing := [] } }

/-- The port meets a trigger of R466, on which the controller has not acted. -/
def FabPort.worn (q : FabPort) : Bool :=
  (q.down || decide (1024 ≤ q.linkWindow) || decide (256 ≤ q.authWindow)) && !q.replaced

/-- The units that meet a trigger: kind, die, number (R449, R466, Table 21-10). -/
def State.wornUnits (s : State) : List (Nat × Nat × Nat) :=
  ((List.range 4).flatMap fun d => ((s.die d).wear.filter Wear.due).map fun x => (x.kind, d, x.place)) ++
  ((List.range 24).filter fun p => (s.port p).worn).map fun p => (4, p / 6, p % 6)

/-- The controller has acted on what a unit showed. -/
def State.forgetWear (s : State) (kind die unit : Nat) : State :=
  if kind == 4 then
    s.updPort (6 * die + unit) fun q => { q with replaced := q.down, linkWindow := 0, authWindow := 0 }
  else s.updDie die fun d => { d with wear := d.wear.filter fun x => !(x.kind == kind && x.place == unit) }

/-- The controller spares a unit that meets a trigger, once no other action is in progress. A port's spare is the lowest of
the module (R449, R450, R466). -/
def execAutoSpare (kind die unit : Nat) (s : State) : Result :=
  if !s.clocksRun || s.mgmt.spareBusy || !s.wornUnits.contains (kind, die, unit) then .next s
  else
    let s := s.forgetWear kind die unit
    let value := BitVec.ofNat 32 (kind + die * 2 ^ 3 + unit * 2 ^ 5)
    match s.spare kind die unit (List.range 24) with
    | some s => .next (s.inform 0x1A 3 fun r => { r with info := value })
    | none => .next (s.noSpare.inform 0x1A 4 fun r => r)

/-! ## Power and temperature (R252, R474) -/

/-- An MSI-X message of THEVT, to the primary's port. -/
def State.thermalIrq (s : State) : State := if s.mgmt.thIrq then s.msix s.mgmt.primary s.mgmt.thVec else s

/-- A budget below `b`, of which `x` chooses one: the spec does not say by how much a budget is lowered (DESIGN
CHOICE, log 30). A budget of
0 is unlimited, and one unit is the least. -/
def lowerBudget (b : BitVec 24 × Bool) (x : Nat) : BitVec 24 × Bool :=
  let top := if b.1 == 0 then 2 ^ 24 else b.1.toNat
  if top == 1 then b else (BitVec.ofNat 24 (1 + x % (top - 1)), b.2)

/-- The budgets of classes 1 to 6 of a die lowered. -/
def State.lowerDie (s : State) (d : Nat) : State :=
  let s := s.updDie d fun x => { x with lowered := x.budgetNext :: x.lowered }
  (List.range 6).foldl (fun s c =>
    let (k, s) := s.draw
    s.updDie d fun x => { x with budgetNext := x.budgetNext.modify (c + 1) fun b => lowerBudget b (Config.freeWord k).toNat }) s

/-- One step of a die's lowered budgets restored. -/
def Die.restore (d : Die) : Die :=
  match d.lowered with
  | [] => d
  | b :: bs => { d with budgetNext := b, lowered := bs }

/-- The limits of R252 do not hold, or hold with their margins of 5 %. -/
def overLimits (watts junction : Nat) : Bool := decide (2400 < watts) || decide (95 < junction)
def withinMargins (watts junction : Nat) : Bool := decide (watts * 100 ≤ 2400 * 95) && decide (junction * 100 ≤ 95 * 95)

/-- What the millisecond's readings come to (R252, R474): how long each condition has held. -/
def Mgmt.sense (m : Mgmt) (watts junction inlet : Nat) : Mgmt :=
  { m with
    watts := watts
    tj := junction
    tin := inlet
    hot := if 105 ≤ junction then m.hot + 1 else 0
    strained := if decide (2400 < watts) && decide (Config.lowestStep ≤ m.clockSteps) then m.strained + 1 else 0
    calm := if withinMargins watts junction then m.calm + 1 else 0 }

/-- The millisecond's check (R252): beyond a limit the clock and the budgets of classes 1 to 6 go down a step; after 100 ms
within the margins they come back, a step at a time. -/
def execPowerThermalCheck (watts junction inlet : Nat) (s : State) : Result :=
  let m := s.mgmt.sense watts junction inlet
  if overLimits watts junction then
    let m := { m with clockSteps := Nat.min (Nat.max Config.lowestStep m.clockSteps) (m.clockSteps + 1), throttled := true }
    .next ((List.range 4).foldl State.lowerDie { s with mgmt := m })
  else if 100 ≤ m.calm && m.throttled then
    let ds := s.dies.map Die.restore
    let m := { m with clockSteps := m.clockSteps - 1, throttled := decide (1 < m.clockSteps) || ds.any fun d => !d.lowered.isEmpty }
    .next { s with dies := ds, mgmt := m }
  else .next { s with mgmt := m }

/-- A hold begins (R474): the junction has been at 105 °C for 10 ms, or the draw above its limit for 100 ms at the lowest
clock. -/
def execThermalHold (s : State) : Result :=
  if s.mgmt.hold || !(decide (10 ≤ s.mgmt.hot) || decide (100 ≤ s.mgmt.strained)) then .next s
  else
    let m := { s.mgmt with hold := true, holdSeen := true }
    .next ({ s with mgmt := m, blocks := s.blocks.map (Block.stopFor · .hold) }).thermalIrq

/-- One second within the margins ends the hold. -/
def execThermalHoldRelease (s : State) : Result :=
  if 1000 ≤ s.mgmt.calm then .next { s with mgmt := { s.mgmt with hold := false } } else .next s

/-- 115 °C at the junction, or 45 °C at the inlet, freezes the module. -/
def execThermalTrip (s : State) : Result :=
  if s.mgmt.trip || !(decide (115 ≤ s.mgmt.tj) || decide (45 ≤ s.mgmt.tin)) then .next s
  else .next ({ s with mgmt := { s.mgmt with trip := true, frozen := true } }).thermalIrq

/-! ## Freeze and scan (R253, R254) -/

def State.freeze (s : State) : State := { s with mgmt := { s.mgmt with frozen := true } }

def execFreeze (s : State) : Result := .next (if s.hostSpeaks then s.freeze else s)

/-- A host's read of SCANDATA, which advances SCANADDR: 0 unless the module is frozen; a scan word is a free value, since each
firmware lays the chains out in its own way. -/
def execScanRead (port : Nat) (s : State) : Result :=
  if !s.portReads port then .next s
  else
    let (x, s) := if s.mgmt.frozen then s.drawPair else (0, s)
    let s := s.send (.completion port (leBytes 8 x.toNat))
    .next { s with mgmt := { s.mgmt with scanaddr := s.mgmt.scanaddr + 1 } }

/-! ## Attestation (R250, R473) -/

def padTo (n : Nat) (bs : List Byte) : List Byte := (bs ++ List.replicate n 0).take n

/-- A nonce write: the report is built anew, or, without an identity key, not at all. -/
def State.newNonce (s : State) (nonce : List Byte) : State :=
  let m := { s.mgmt with nonce := padTo 32 nonce, attReady := false }
  { s with mgmt := if Config.keyReadable then { m with attBusy := true } else { m with attBusy := false, attErr := true } }

def execAttestationRequest (nonce : List Byte) (s : State) : Result := .next (if s.hostSpeaks then s.newNonce nonce else s)

/-- The report (Table 11-10). -/
def State.attReport (s : State) : List Byte :=
  let spares := s.dies.flatMap fun d => (List.range 5).map fun k => BitVec.ofNat 8 (d.spares.getD k 0)
  let head := [0x41, 0x54, 1, 1] ++ padTo 16 Config.serial ++ padTo 64 Config.romDigest ++
    sha512 s.mgmt.flash.body ++ spares ++ s.mgmt.nonce
  head ++ padTo 512 (Config.signature (sha512 head))

def execAttestationReady (s : State) : Result :=
  if s.mgmt.attBusy then
    .next { s with mgmt := { s.mgmt with attBusy := false, attReady := true, report := s.attReport } }
  else .next s

/-! ## Reset and boot (R238 to R240, R473) -/

/-- The whole module at reset. What lies outside the reset stays: the flash image and the fused digest, and port 1's PERST#
(R238, R239). The spare maps return to their first values, since the spec does not say that they outlive a reset (DESIGN
CHOICE, log 4). The model's own record of its output, and its counters, go on. -/
def State.resetModule (s : State) : State :=
  let p := (s.host 1).perst
  { State.reset with
    mgmt := { Mgmt.reset with flash := s.mgmt.flash, fused := s.mgmt.fused }
    hosts := State.reset.hosts.modify 1 fun h => { h with perst := p, gone := p }
    hostOut := s.hostOut
    stamp := s.stamp
    free := s.free
    agenda := s.agenda }

/-- PERST# on port 0 is asserted. -/
def execModuleReset (s : State) : Result :=
  let t := s.resetModule
  .next { t with mgmt := { t.mgmt with perst0 := true }, hosts := t.hosts.modify 0 fun h => { h with perst := true } }

/-- A port is lost (R471): the primary moves to the other one. -/
def State.losePort (s : State) (p : Nat) : State :=
  let s := s.updHost p fun h => { h with up := false, lost := true, gone := true }
  let s := if s.mgmt.primary == p then { s with mgmt := { s.mgmt with primary := 1 - p } } else s
  s.inform 0x31 0 fun r => { r with info := BitVec.ofNat 32 p }

def execHostLinkDown (port : Nat) (s : State) : Result :=
  if 2 ≤ port || (s.host port).gone then .next s else .next (s.losePort port)

/-- The function of a port at reset: its aperture, but not what the management block holds of the port. -/
def HostPort.freshFunction (h : HostPort) : HostPort := { h with apbase := 0, apjob := 0, apen := false }

/-- A lost port trains again: its queue registers keep their values. -/
def execHostLinkUp (port : Nat) (s : State) : Result :=
  if 2 ≤ port || (s.host port).perst then .next s
  else
    let lost := (s.host port).gone
    .next ((s.updHost port fun h => if lost then { h.freshFunction with up := true, gone := false }
      else { h with up := true }).drainRecords)

/-- PERST# on port 1 is asserted: its function and its queues are reset, with heads not yet admitted, and it is lost. -/
def execPort1Reset (s : State) : Result :=
  let s := s.updHost 1 fun h => { h.freshFunction with perst := true, queues := List.replicate 64 Queue.reset }
  let s := { s with grids := s.grids.filter fun g => !(g.state == .held && g.port == 1) }
  .next (if (s.host 1).gone then s else s.losePort 1)

/-- PERST# is released; on port 0 the boot ROM of a module that stands at its reset begins. -/
def execPerstDeassertion (port : Nat) (s : State) : Result :=
  if 2 ≤ port then .next s
  else
    let s := s.updHost port fun h => { h with perst := false }
    if port == 0 && s.mgmt.boot == 0 then .next { s with mgmt := { s.mgmt with perst0 := false, boot := 1 } } else .next s

/-- `b ^ e mod n`, where `bits` are those of `e`, the most significant first. -/
def powMod (b n : Nat) (bits : List Bool) : Nat :=
  bits.foldl (fun x e => (x * x % n) * (if e then b else 1) % n) (1 % n)

/-- The bits of bytes, the most significant first. -/
def beBits (bs : List Byte) : List Bool := bs.flatMap fun b => (List.range 8).map fun i => b.getLsbD (7 - i)

/-- MGF1 of PKCS #1 with SHA-512: `n` blocks of 64 bytes. -/
def mgf1 (seed : List Byte) (n : Nat) : List Byte := (List.range n).flatMap fun i => sha512 (seed ++ beBytes 4 i)

def xorBytes (xs ys : List Byte) : List Byte := List.zipWith (· ^^^ ·) xs ys

/-- EMSA-PSS-VERIFY of PKCS #1 v2.2 for a modulus of 4,096 bits, SHA-512 and a salt of 64 bytes (the salt's length is a DESIGN
CHOICE, log 29): `em` holds 512 bytes, of which 447 are the masked data block and 64 the hash. -/
def pssVerify (digest em : List Byte) : Bool :=
  let masked := em.take 447
  let h := (em.drop 447).take 64
  let db := xorBytes masked ((mgf1 h 7).take 447)
  let db := db.modify 0 fun b => b &&& 0x7F
  let salt := db.drop 383
  em.length == 512 && em.getLast? == some 0xBC && decide ((em.getD 0 0).toNat < 128) &&
  db.take 382 == List.replicate 382 0 && db.getD 382 0 == 1 && sha512 (List.replicate 8 0 ++ digest ++ salt) == h

/-- The image's RSA-4096 signature verifies under its key: 512 bytes of modulus, then the exponent. -/
def FlashImage.signed (x : FlashImage) : Bool :=
  let n := beNat (x.key.take 512)
  let sig := beNat x.signature
  x.signature.length == 512 && decide (sig < n) &&
  pssVerify (sha512 x.body) (beBytes 512 (powMod sig n (beBits (x.key.drop 512))))

/-- The cause that BOOTERR gives, 0 where every check passes (R239, Table 23-5): a flash read error, which is an input; a key
that is not the fused one; a signature that does not verify. -/
def State.bootCheck (s : State) (readError : Bool) : Nat :=
  if readError then 1
  else if sha512 s.mgmt.flash.key != s.mgmt.fused then 2
  else if !s.mgmt.flash.signed then 3
  else 0

/-- The boot ROM's next step (R239): it verifies the image, and then loads it into the four slices. `reason` 1 says that
the flash could not be read. -/
def execBootComplete (reason : Nat) (s : State) : Result :=
  if s.mgmt.perst0 then .next s
  else if s.mgmt.boot == 1 then
    let why := s.bootCheck (reason == 1)
    .next { s with mgmt := { s.mgmt with boot := if why == 0 then 2 else 4, bootReason := why } }
  else if s.mgmt.boot == 2 then .next { s with mgmt := { s.mgmt with boot := 3 } }
  else .next s

/-! ## The fault ring and JOBABORT (R411, R472) -/

/-- The handler has consumed records: held ones may be written. -/
def State.consumeRecords (s : State) (cons : Dword) : State :=
  ({ s with mgmt := { s.mgmt with frcons := cons } }).drainRecords

def execFaultRingConsume (cons : Dword) (s : State) : Result := .next (if s.hostSpeaks then s.consumeRecords cons else s)

/-- LOG2N as a write sets it (Table 19-3). -/
def ringLog (n : Nat) : Nat := if n == 0 then 0 else if n < 4 then 4 else if 20 < n then 20 else n

def State.setRingLog (s : State) (n : Nat) : State :=
  ({ s with mgmt := { s.mgmt with frlog2n := ringLog (n % 32) } }).drainRecords

def execFaultRingEnable (log2n : Nat) (s : State) : Result := .next (if s.hostSpeaks then s.setRingLog log2n else s)

def State.setRingBase (s : State) (base : Nat) : State :=
  ({ s with mgmt := { s.mgmt with frbase := bits base 6 46 * 64 } }).drainRecords

def execFaultRingBase (base : Nat) (s : State) : Result := .next (if s.hostSpeaks then s.setRingBase base else s)

/-- The host stops a job: a record names it, and its answer takes every grid of the job (R472). -/
def State.abortJob (s : State) (job : Nat) : State :=
  let (id, s) := s.fresh
  let s := { s with stops := s.stops ++ [Stop.mk id none (.job job true)] }
  (s.note (FaultRec.async id 0x31 2 job s.mgmt.dev)).stopJob job .halt

def execJobabort (job : Nat) (s : State) : Result := .next (if s.hostSpeaks then s.abortJob job else s)

end Sys2Proof.Machine
end

