-- ==== Sys2Proof/Machine/Net.lean ====
section
/-! DEFINITION. Receiving on the fabric: the checks of a flit, the link sequence, late packets, relaying, requests served at
their home, responses, refusals (R219 to R231, R459 to R468). -/

namespace Sys2Proof.Machine

open Sys2Proof

/-! ## Packets as a save area holds them (R79, Table 10-3) -/

/-- A packet's 256 bytes in a packet region (R79). -/
def flitRecord (f : Flit) : List Byte :=
  flitHeader f ++ flitPayload f ++ leBytes 16 (f.port % 256 + f.vc % 256 * 256)

/-! ## Late packets (R468) -/

/-- A packet of a job, as distinct from a link-local flit. -/
def isPacket (f : Flit) : Bool := !linkLocal f.typ

/-- Packet `f` is late: its job is switched out here, or the peer's squall marker for the job has arrived before it on its
channel. -/
def State.isLate (s : State) (f : Flit) : Bool :=
  isPacket f && ((s.job f.job).out ||
    (((s.port f.port).vcs.getD f.vc Channel.reset).squalls.any fun m => m.1 == f.job))

/-- The packet region has room for one more record. -/
def State.roomForPacket (s : State) (job : Nat) : Bool :=
  match s.saveArea job with
  | some (_, size) => decide ((s.job job).used + 256 ≤ size)
  | none => false

/-- One record appended to a job's packet region (R79, R476). -/
def State.putPacket (s : State) (f : Flit) : State :=
  let j := s.job f.job
  let s := match s.saveArea f.job with
    | some (base, _) => s.pokeJob f.job (base + j.used) (flitRecord f)
    | none => s
  (s.updJob f.job fun j =>
    { j with pktoff := if j.pktoff == 0 then j.used else j.pktoff, npkt := j.npkt + 1, used := j.used + 256 }).putHeader
    f.job

/-- A packet that finds no room is dropped, which the job's resume will show (R468). -/
def State.losePacket (s : State) (f : Flit) : State :=
  (s.updJob f.job fun j => { j with loss := true }).informJob 0x21 1 f.job id

/-- A late packet joins the region behind every swept packet; while the sweep is still to come it waits for it. -/
def State.keepLate (s : State) (f : Flit) : State :=
  let swept := (s.job f.job).out
  if swept && !s.roomForPacket f.job then s.losePacket f
  else
    let s := s.updJob f.job fun j => { j with late := j.late ++ [f] }
    (if swept then s.putPacket f else s).informJob 0x21 0 f.job id

/-! ## Requests served at their home (R228, R229) -/

/-- What a request reaches: the place of its domain address, seen in the requester's view, and its leaf (R117, R129, R228). -/
structure Served where
  loc : Loc
  leaf : Leaf
deriving DecidableEq, Repr

/-- The place of a domain address for a request, when a leaf of the job's domain table gives one and permits the access. The
leaf's KEY stands for the encryption of the DRAM, which no value shows. -/
def State.domainPlace (s : State) (f : Flit) (v : View) (a : Nat) (need : List Perm) : Option Served :=
  match (s.jobEntry f.job 16 8).bind fun root => walk s.mem a 4 root with
  | none => none
  | some lf =>
    if lf.home == s.mgmt.dev && lf.job == f.job && lf.cache != 3 && need.all fun p => lf.perm.getLsbD p.ix then
      match physPlace (lf.addr + (a - lf.base)) a, v with
      | .ok (.phys pa), .child k c => some ⟨if lf.view then .view k c (awayBase + a) else .phys pa, lf⟩
      | .ok l, _ => some ⟨l, lf⟩
      | .error _, _ => none
    else none

/-- The response to a request. -/
def State.reply (s : State) (f : Flit) (typ : FlitType) (p : Payload) : State :=
  s.respond
    { f with port := 0, vc := 2, typ := typ, dst := f.src, src := s.mgmt.dev, via := f.src, gen := s.fabric.cur,
             seq := 0, counter := 0, verdict := .ok, payload := p }

/-- A request that the target cannot perform (R229). -/
def State.turnAway (s : State) (f : Flit) : State := s.reply f .notReady .notReady

/-- A request that must wait at its home: for the release of a frozen view (R130), for slots of the twin pool (R139), for
credit (R71), or behind an earlier one of its flow that does (R225). -/
def State.keepWaiting (s : State) (f : Flit) : State :=
  { s with fabric := { s.fabric with waiting := s.fabric.waiting ++ [f] } }

/-- The line that a request asks for. -/
def flitLine (f : Flit) : Nat :=
  match f.payload with
  | .readReq a _ | .write a _ _ | .atomic a _ _ _ => a / 128
  | _ => 0

/-- An earlier request of the same flow waits here. -/
def State.behindWaiting (s : State) (f : Flit) : Bool :=
  s.fabric.waiting.any fun g => g.src == f.src && g.score == f.score && g.job == f.job && flitLine g == flitLine f

/-- A write or an atomic in the root view reaches a viewed page while that view is frozen (R130). -/
def State.frozenHome (s : State) (f : Flit) (p : Served) : Bool :=
  p.leaf.view && (match p.loc with | .phys _ => true | _ => false) && s.frozen f.job .root

/-- A request served at its home in its requester's view: in its turn, with class 0 credit at the home die, whose L2 it
passes (R15, R71). -/
def State.serveAt (s : State) (f : Flit) (a n : Nat) (need : List Perm) (go : State → Served → State) : State :=
  if s.behindWaiting f then s.keepWaiting f
  else
    match (s.viewOf f).bind fun v => s.domainPlace f v a need with
    | none => s.turnAway f
    | some p =>
      let writes := need.contains .write
      if writes && s.frozenHome f p then s.keepWaiting f
      else
        match p.loc with
        | .phys pa =>
          let d := dieOfAddr pa
          if (s.die d).credited 0 then go (s.traffic d 0 pa n writes none) p else (s.holdClass d 0).keepWaiting f
        | .view k c va =>
          if !writes then go s p
          else
            match s.takeSlots (s.foldDie f.job va) k c (s.slotsFor [(k, c, granule va)]) 70000 with
            | (s, .open) => go s p
            | (s, .spent) => s.turnAway f
            | (s, _) => s.keepWaiting f
        | _ => go s p

/-- The host is asked on behalf of another module's request. -/
def State.askHostFor (s : State) (f : Flit) (w off n : Nat) : State :=
  let t := s.freshTag
  let s := { s with hostReads := s.hostReads ++ [HostRead.mk t w off n (.served f) (s.coreClock 0)] }
  s.send (.read w ((s.host w).hwbase + off) n t)

def State.serveRead (s : State) (f : Flit) (a n : Nat) : State :=
  s.serveAt f a n [.read] fun s p =>
    match p.loc with
    | .phys pa => s.reply f .readResp (.readResp (s.rootBytes f.job pa n))
    | .view k c va => s.reply f .readResp (.readResp (s.viewBytes f.job (.child k c) va n))
    | .reg d o => s.reply f .readResp (.readResp (s.readWindow d o n))
    | .host w o => s.askHostFor f w o n
    | _ => s.turnAway f

/-- The runs of set bits of a byte mask: first byte and length. The first number counts the bits that are left. -/
def maskRuns (m : BitVec 128) : Nat → Nat → Nat → List (Nat × Nat)
  | 0, p, n => if n == 0 then [] else [(p - n, n)]
  | k + 1, p, n =>
    if m.getLsbD p then maskRuns m k (p + 1) (n + 1)
    else (if n == 0 then [] else [(p - n, n)]) ++ maskRuns m k (p + 1) 0

/-- The masked bytes of a line written at its home. -/
def State.serveWrite (s : State) (f : Flit) (a : Nat) (mask : BitVec 128) (data : List Byte) : State :=
  s.serveAt f (a / 128 * 128) 128 [.write] fun s p =>
    let put (s : State) (r : Nat × Nat) : State :=
      let bs := (data.drop r.1).take r.2
      match p.loc with
      | .phys pa => s.pokePhys (pa + r.1) bs
      | .view k c va => s.viewPoke k c (va + r.1) bs
      | .reg d o => s.writeWindow d (o + r.1) bs
      | .host w o => s.windowWrite w (o + r.1) bs
      | _ => s
    ((maskRuns mask 128 0 0).foldl put s).reply f .writeAck .writeAck

/-- The word at a served place. -/
def State.servedWord (s : State) (f : Flit) : Loc → Word
  | .phys pa => BitVec.ofNat 32 (leNat (s.rootBytes f.job pa 4))
  | .view k c va => BitVec.ofNat 32 (leNat (s.viewBytes f.job (.child k c) va 4))
  | .reg d o => BitVec.ofNat 32 (leNat (s.readWindow d o 4))
  | _ => 0

def State.putServed (s : State) (loc : Loc) (w : Word) : State :=
  let bs := leBytes 4 w.toNat
  match loc with
  | .phys pa => s.pokePhys pa bs
  | .view k c va => s.viewPoke k c va bs
  | .reg d o => s.writeWindow d o bs
  | _ => s

/-- What an atomic of another module returns, with the word written (R349, R351). A reservation is held for the requester's
lane, which `cmp` names; a register word takes none. -/
def State.serveAtom (s : State) (f : Flit) (loc : Loc) (g : AtomFn) (y cmp : Word) : Word × State :=
  let old := s.servedWord f loc
  let mine (r : AwayResv) : Bool := r.src == f.src && r.core == f.score && r.id == cmp.toNat
  let drop (s : State) : State := { s with awayResv := s.awayResv.filter fun r => !mine r }
  let plain := match loc with | .phys _ | .view _ _ _ => true | _ => false
  match g with
  | .ldres =>
    let s := drop s
    (old, if plain then { s with awayResv := s.awayResv ++ [⟨f.src, f.score, cmp.toNat, loc⟩] } else s)
  | .stcond =>
    if s.awayResv.any fun r => mine r && r.loc == loc then (1, drop (s.putServed loc y)) else (0, drop s)
  | g => (old, s.putServed loc (g.new old y cmp))

def State.serveAtomic (s : State) (f : Flit) (a fn : Nat) (y cmp : Word) : State :=
  match AtomFn.ofCode fn with
  | none => s.turnAway f
  | some g => s.serveAt f a 4 [.read, .write] fun s p =>
    match p.loc with
    | .host w o => s.askHostFor f w o 4
    | loc =>
      let (w, s) := s.serveAtom f loc g y cmp
      s.reply f .atomicResp (.atomicResp w)

/-! ## Responses (R227, R230, R460) -/

/-- The lane waits for the answer of this request. -/
def Lane.awaits (l : Lane) (tag : Nat) : Bool :=
  match l.park with
  | .reply ts | .claim ts => ts.contains tag
  | _ => false

/-- The answer of a request or host read handed to whoever waits for it. -/
def State.handOver (s : State) (who : Asker) (tag : Nat) (x : Reply) : State :=
  match who with
  | .lane k i l => s.updLane k i l fun ln => if ln.awaits tag then { ln with replies := ln.replies ++ [x] } else ln
  | .engine k slot gen => s.updBlock k fun b => b.updHandle slot gen fun h =>
      { h with replies := h.replies ++ [x], tags := h.tags.filter fun t => t != tag }
  | .launch g => s.updGrid g fun g => { g with replies := g.replies ++ [x], tags := g.tags.filter fun t => t != tag }
  | .bar id => { s with barReads := s.barReads.map fun r =>
      if r.id == id then { r with replies := r.replies ++ [x], tags := r.tags.filter fun t => t != tag } else r }
  | .core | .post _ | .served _ => s

/-- The completion of a host's read through BAR2 once every byte is here (R246). -/
def State.finishBar (s : State) (id : Nat) : State :=
  match s.barReads.find? fun r => r.id == id && r.tags.isEmpty with
  | none => s
  | some r =>
    let s := { s with barReads := s.barReads.filter fun q => q.id != id }
    match s.jobRead r.job r.replies r.va r.bytes with
    | .ok bs => s.send (.completion r.port bs)
    | .flaw _ | .away _ => s.send (.unsupported r.port)

/-- What follows an answer: passes that waited for it, and a host's read. -/
def State.afterReply (s : State) (who : Asker) : State :=
  let s := s.settlePasses
  match who with
  | .bar id => s.finishBar id
  | _ => s

/-- A line that a load asked for fills the core's L1 under a lease, unless an acquire or a store to it has come since (R107,
R151, R227). -/
def State.fillRemote (s : State) (r : RemoteReq) (data : List Byte) : State :=
  match r.loc with
  | .remote d a =>
    if r.fills && data.length == 128 then
      (s.updCore r.core fun c => c.fillLine (((d + 1) * 2 ^ 52 + a) / 128) (s.coreClock r.core) data).trimL1 r.core
    else s
  | _ => s

/-- The line of a performed write or atomic leaves the requesting core's L1, with what is on its way there, so that its own
threads read no older byte (R151, R346). -/
def State.dropWritten (s : State) (r : RemoteReq) : State :=
  match r.loc with
  | .remote d a => s.discard r.core (l1Line (((d + 1) * 2 ^ 52 + a) / 128))
  | _ => s

/-- The request on its way that a response answers, by source core and TAG (R218). -/
def State.asked (s : State) (f : Flit) (typ : FlitType) : Option RemoteReq :=
  s.fabric.reqs.find? fun r =>
    r.core == f.score && r.flit.tag == f.tag && r.phase == .flying && r.flit.dst == f.src && r.flit.typ == typ

def State.takeRead (s : State) (f : Flit) (data : List Byte) : State :=
  match s.asked f .readReq with
  | none => s
  | some r =>
    let s := (s.fillRemote r data).handOver r.who r.tag ⟨r.loc, data, false, false⟩
    (s.finishReq r.tag).afterReply r.who

def State.takeAck (s : State) (f : Flit) : State :=
  match s.asked f .write with
  | none => s
  | some r =>
    let s := match r.who with
      | .core => s.updCore r.core fun c => { c with wcb := c.wcb.filter fun e => e.sent != some r.tag }
      | .engine k slot gen => s.updBlock k fun b => b.updHandle slot gen fun h =>
          { h with tags := h.tags.filter fun t => t != r.tag }
      | _ => s
    ((s.dropWritten r).finishReq r.tag).afterReply r.who

def State.takeAtomic (s : State) (f : Flit) (old : Word) : State :=
  match s.asked f .atomic with
  | none => s
  | some r =>
    let s := (s.dropWritten r).handOver r.who r.tag ⟨r.loc, leBytes 4 old.toNat, false, true⟩
    (s.finishReq r.tag).afterReply r.who

/-! ## Refusals (R229, R467, R470) -/

/-- The source and destination ranges of each lane's part of an operation. -/
def EngOp.ranges : EngOp → List (Nat × Nat × Nat)
  | .lanes n ms => ms.flatMap fun m => [(m.1, m.2.2, n), (m.1, m.2.1, n)]
  | .tile ds => ds.flatMap fun d => (d.2.srcRows ++ d.2.dstRows).map fun r => (d.1, r.1, r.2)
  | .pack ds => ds.flatMap fun d => [(d.1, d.2.src, d.2.count * 8), (d.1, d.2.dst, d.2.dcap), (d.1, d.2.res, 16)]
  | .expand ds => ds.flatMap fun d => [(d.1, d.2.src, d.2.dcap), (d.1, d.2.dst, d.2.count * 8), (d.1, d.2.res, 16)]
  | .coll cs => cs.map fun c => (c.1, c.2.src, c.2.count * 8)
  | .ckpt cs => cs.map fun c => (c.1, c.2.base, c.2.len)
  | .stopped rs => rs.map fun r => (0, r.1, r.2)
  | .batch _ | .fork _ | .idle => []

/-- The lane of an operation whose part lies on a line of another module, and the address of that line in it. -/
def State.partOn (s : State) (b : Block) (h : Handle) (loc : Loc) : Nat × Nat :=
  let hit (r : Nat × Nat × Nat) : Option (Nat × Nat) :=
    (segmentsOf r.2.1 r.2.2).findSome? fun p =>
      match s.place b (s.jobOf b) p.1 1 .read with
      | .ok q => if q.loc.overlaps p.2 loc 128 then some (r.1, p.1) else none
      | .error _ => none
  (h.op.ranges.findSome? hit).getD (((h.op.ranges.map fun r => r.1).head?).getD 0, 0)

/-- A collective whose rank has failed sends nothing further (R435). -/
def EngOp.fail : EngOp → EngOp
  | .coll cs => .coll (cs.map fun c => (c.1, { c.2 with failed := true }))
  | o => o

/-- An operation of an engine whose request was refused for good ends as a faulting one does (R434, R467). -/
def State.refuseEngine (s : State) (r : RemoteReq) (k slot gen : Nat) : State :=
  match (s.block? k).bind fun b => (b.handle? slot gen).map fun h => (b, h) with
  | none => s
  | some (b, h) =>
    let (l, va) := s.partOn b h r.loc
    let s := s.engFail b h [(l, ⟨0x20, 0, if r.va == 0 then va else r.va⟩)]
    let s := s.updBlock k fun b => b.updHandle slot gen fun h => { h with op := h.op.fail }
    s.cancelOp k h

/-- The deferred failure of a refused access. -/
def RemoteReq.refusal (r : RemoteReq) (now : Bool) : Deferred :=
  { cls := 0x20, sub := 0, addr := BitVec.ofNat 64 r.va, info := BitVec.ofNat 32 r.flit.dst,
    info2 := BitVec.ofNat 32 r.tries, handle := none, words := [], now := now }

/-- Lanes that wait for the request issue again. -/
def Strand.wake (st : Strand) (p : Nat → Lane → Bool) : Strand :=
  { st with lanes := st.lanes.mapIdx fun l ln => if p l ln then { ln with park := .none } else ln }

/-- The lanes of a strand that stand at a refused load with lane `l`. -/
def Strand.atLoad (st : Strand) (l : Nat) (ln : Lane) : Bool :=
  ln.status == .live && ln.pc == (st.lane l).pc && match ln.park with | .reply _ | .claim _ => true | _ => false

/-- A request whose retries have run out (R467): a load or an atomic faults in its lane at once, a store in the lanes that
wrote its line at their next reporting point, an engine's operation ends, a launch finds unreadable bytes, and a host's
access fails. -/
def State.refuse (s : State) (r : RemoteReq) : State :=
  let kept := s.updReq r.tag fun r => { r with phase := .refused }
  let failed (s : State) (port va : Nat) : State :=
    s.informJob 0x31 3 r.flit.job fun q => { q with addr := BitVec.ofNat 64 va, info := BitVec.ofNat 32 port }
  match r.who with
  | .lane k i l =>
    let waits := ((s.block? k).map fun b => ((b.strand i).lane l).awaits r.tag).getD false
    if !waits then s.finishReq r.tag
    else
      kept.updStrand k i fun st =>
        (st.wake fun j ln => j == l || (r.flit.typ == .readReq && st.atLoad l ln)).updLane l fun ln =>
          { ln with due := ln.due ++ [r.refusal true] }
  | .core =>
    let e := (s.core r.core).wcb.find? fun e => e.sent == some r.tag
    let live (w : Nat × Nat × Nat) : Bool := ((s.block? w.1).map fun b => b.state != .ended).getD false
    let ws := ((e.map fun e => e.writers).getD []).filter live
    if ws.isEmpty then
      (s.updCore r.core fun c => { c with wcb := c.wcb.filter fun e => e.sent != some r.tag }).finishReq r.tag
    else
      ws.foldl (fun s w =>
        (s.updStrand w.1 w.2.1 fun st => st.wake fun l ln => l == w.2.2 && ln.awaits r.tag).deferTo w.1 w.2.1
          [(w.2.2, r.refusal false)]) kept
  | .engine k slot gen => (s.finishReq r.tag).refuseEngine r k slot gen
  | .launch _ => (s.handOver r.who r.tag ⟨r.loc, List.replicate r.bytes 0, true, false⟩).finishReq r.tag
  | .bar id =>
    let s := s.finishReq r.tag
    match s.barReads.find? fun q => q.id == id with
    | none => s
    | some q =>
      let s := { s with barReads := s.barReads.filter fun x => x.id != id }
      failed (s.send (.unsupported q.port)) q.port q.va
  | .post port => failed (s.finishReq r.tag) port r.va
  | .served _ => s.finishReq r.tag

def State.takeRefusal (s : State) (f : Flit) : State :=
  match s.fabric.reqs.find? fun r =>
    r.core == f.score && r.flit.tag == f.tag && r.phase == .flying && r.flit.dst == f.src with
  | none => s
  | some r =>
    if s.fabric.rnrlim ≤ r.tries then s.refuse r
    else s.updReq r.tag fun r => { r with phase := .backoff (s.coreClock r.core) }

/-! ## A packet for this module, for another one, and the receiver (R459) -/

/-- A packet that has reached its destination takes effect. -/
def State.serve (s : State) (f : Flit) : State :=
  match f.typ, f.payload with
  | .readReq, .readReq a n => s.serveRead f a n
  | .write, .write a m d => s.serveWrite f a m d
  | .atomic, .atomic a fn y c => s.serveAtomic f a fn y c
  | .readResp, .readResp d => s.takeRead f d
  | .writeAck, _ => s.takeAck f
  | .atomicResp, .atomicResp w => s.takeAtomic f w
  | .notReady, _ => s.takeRefusal f
  | _, _ => s

/-- Requests that wait at their home are tried again, in their order. -/
def State.retryHeld (s : State) : State :=
  let old := s.fabric.waiting
  old.foldl State.serve { s with fabric := { s.fabric with waiting := [] } }

/-- The buffer of a delivered flit is free again (R224). -/
def State.freeFlit (s : State) (p vc : Nat) : State :=
  s.updPort p fun q => { q with vcs := q.vcs.modify vc fun c => { c with freed := c.freed + 1 } }

/-- A packet of the relay leaves on its second hop, with class 5 credit at the die of its port (R70, R223). -/
def State.hop (s : State) (f : Flit) : Option State :=
  match s.shallowest (s.directPorts f.gen f.dst) with
  | some p => if (s.die (p / 6)).credited 5 then (s.relayOut f).map fun s => s.charge (p / 6) 5 256 else none
  | none => none

/-- HELD of class 5, where a packet of the relay waits for credit alone. -/
def State.holdRelay (s : State) (f : Flit) : State :=
  match s.shallowest (s.directPorts f.gen f.dst) with
  | some p => if (s.die (p / 6)).credited 5 then s else s.holdClass (p / 6) 5
  | none => s

/-- A packet that names this module as its relay leaves at once, or waits in the relay queue: for a port, or for the end of
its job's squall (R77, R223). -/
def State.relay (s : State) (f : Flit) : State :=
  let queued (s : State) : State := { s with fabric := { s.fabric with relay := s.fabric.relay ++ [f] } }
  let ahead := s.fabric.relay.any fun g => g.port == f.port && g.vc == f.vc
  if (s.job f.job).marked || ahead then queued s
  else
    match s.hop f with
    | some s => s.freeFlit f.port f.vc
    | none => queued (s.holdRelay f)

/-- A packet delivered in sequence. -/
def State.accept (s : State) (f : Flit) : State :=
  if s.isLate f then (s.freeFlit f.port f.vc).keepLate f
  else if f.dst == s.mgmt.dev then (s.freeFlit f.port f.vc).serve f
  else if f.via == s.mgmt.dev then s.relay f
  else s.freeFlit f.port f.vc

/-- A counter that stays at its greatest value. -/
def satInc {n : Nat} (x : BitVec n) : BitVec n := if x == BitVec.allOnes n then x else x + 1

/-- A port's counts of a new window of 2^34 cycles begin at 0 (R461). -/
def FabPort.inWindow (q : FabPort) (epoch : Nat) : FabPort :=
  if q.authEpoch == epoch then q else { q with linkWindow := 0, authWindow := 0, authEpoch := epoch }

/-- The window of a port's counts. -/
def State.epoch (s : State) (p : Nat) : Nat := (s.die (p / 6)).clock.toNat / 2 ^ 34

/-- A link error (R459, R461). -/
def State.linkError (s : State) (p : Nat) : State :=
  let e := s.epoch p
  s.updPort p fun q =>
    let q := q.inWindow e
    { q with linkerr := satInc q.linkerr, linkWindow := q.linkWindow + 1 }

/-- An authentication failure (R459, R461): every sixteenth of a window of 2^34 cycles is reported. -/
def State.authFailure (s : State) (p : Nat) : State :=
  let e := s.epoch p
  let n := ((s.port p).inWindow e).authWindow + 1
  let s := s.updPort p fun q =>
    let q := q.inWindow e
    { q with authfail := satInc q.authfail, authWindow := n }
  if n % 16 == 0 then s.inform 0x22 0 fun r => { r with info := BitVec.ofNat 32 p } else s

def State.updChannel (s : State) (p vc : Nat) (f : Channel → Channel) : State :=
  s.updPort p fun q => { q with vcs := q.vcs.modify vc f }

/-- The flit's tag verifies under the receive slot that its KSLOT names, which is loaded (R232, R459). -/
def FabPort.authentic (q : FabPort) (f : Flit) : Bool :=
  q.rxval.getLsbD (slotIx f.kslot) && f.mac == (q.rx.getD (slotIx f.kslot) KeySlot.zero).mac f

/-- The receiver of a port (R459): a flit that fails is discarded and counted; one that stands outside the link sequence
acts; of a channel's other flits the one with the next SEQ is delivered, one delivered before is discarded, and any
other is discarded until its turn. -/
def State.receive (s : State) (f : Flit) (act : State → State) : State :=
  let q := s.port f.port
  let ch := q.vcs.getD f.vc Channel.reset
  let wait (s : State) : State :=
    if unsequenced f.typ then s else s.updChannel f.port f.vc fun c => { c with nak := true }
  if !s.clocksRun || 24 ≤ f.port || 4 ≤ f.vc || !q.trained || q.down then s
  else if f.verdict == .linkError then wait (s.linkError f.port)
  else if !q.authentic f then wait (s.authFailure f.port)
  else if unsequenced f.typ then act s
  else if f.seq == ch.rxNext then
    act (s.updChannel f.port f.vc fun c => { c with rxNext := c.rxNext + 1, nak := false })
  else if (f.seq - ch.rxNext).toNat < 2 ^ 31 then wait s
  else s

/-- A packet's arrival, for an event that names its type. -/
def State.arrival (s : State) (f : Flit) (typ : FlitType) : State :=
  if f.typ == typ then s.receive f fun s => s.accept f else s

/-! ## The events -/

def execReadRequest (f : Flit) (s : State) : Result := .next (s.arrival f .readReq)

def execReadResponse (f : Flit) (s : State) : Result := .next (s.arrival f .readResp)

def execRemoteWrite (f : Flit) (s : State) : Result := .next (s.arrival f .write)

def execWriteAcknowledgement (f : Flit) (s : State) : Result := .next (s.arrival f .writeAck)

def execRemoteAtomic (f : Flit) (s : State) : Result := .next (s.arrival f .atomic)

def execAtomicResponse (f : Flit) (s : State) : Result := .next (s.arrival f .atomicResp)

def execReceiverNotReady (f : Flit) (s : State) : Result := .next (s.arrival f .notReady)

/-- A late packet (R468); any other flit is no late packet. -/
def execLatePacket (f : Flit) (s : State) : Result :=
  .next (if s.isLate f then s.receive f fun s => (s.freeFlit f.port f.vc).keepLate f else s)

/-- A packet of the relay queue leaves (R223), the first of its channel, unless its job's squall has sent its markers. -/
def State.relayNext (s : State) (f : Flit) : State :=
  let ahead := s.fabric.relay.takeWhile fun g => g != f
  if (s.job f.job).marked || ahead.any fun g => g.port == f.port && g.vc == f.vc then s
  else
    match s.hop f with
    | some s =>
      let s := { s with fabric := { s.fabric with relay := eraseOne f s.fabric.relay } }
      (s.freeFlit f.port f.vc).retireGeneration
    | none => s.holdRelay f

/-- A packet that names this module as relay: one that arrives, or one of the relay queue. -/
def execRelayForward (f : Flit) (s : State) : Result :=
  .next (
    if !s.clocksRun then s
    else if s.fabric.relay.contains f then s.relayNext f
    else if isPacket f && f.via == s.mgmt.dev && f.dst != s.mgmt.dev then s.receive f fun s => s.accept f
    else s)

/-- The wait of a refused request is over: it is sent again (R229). -/
def State.mayRetry (s : State) (r : RemoteReq) : Bool :=
  s.clocksRun && (r.phase.turned.map fun t => decide (t + 2048 * 2 ^ r.tries ≤ s.coreClock r.core)).getD false

def execRnrRetry (tag : Nat) (s : State) : Result :=
  .next (
    if s.fabric.reqs.any fun r => r.tag == tag && s.mayRetry r then
      (s.updReq tag fun r => { r with tries := r.tries + 1 }).launchReq tag
    else s)

/-! ### Link-local flits -/

/-- The flits of a channel's retry buffer that the peer has not acknowledged. -/
def Channel.release (c : Channel) (ack : Word) : Channel :=
  { c with retry := c.retry.filter fun e => decide ((ack - e.1.seq).toNat ≥ 2 ^ 31) }

/-- The link of port `p` has lost its training: both ends stop sending, and a port in service retrains (R464). -/
def State.loseTraining (s : State) (p : Nat) : State :=
  s.updPort p fun q =>
    { q with trained := false, retraining := q.insvc, retrain := if q.insvc then satInc q.retrain else q.retrain }

/-- The unacknowledged flits of a channel sent again, in order and byte for byte; an eighth sending retrains the link
(R460, R464). A port that may not send (R217) sends nothing again. -/
def State.resend (s : State) (p vc : Nat) : State :=
  let ch := (s.port p).vcs.getD vc Channel.reset
  let now := (s.die (p / 6)).clock.toNat
  if !(s.port p).sending then s
  else
    let s := s.updChannel p vc fun c => { c with retry := c.retry.map fun e => (e.1, e.2 + 1), quiet := now }
    let s := { s with fabric := { s.fabric with sent := s.fabric.sent ++ ch.retry.map fun e => e.1 } }
    if ch.retry.any fun e => 7 ≤ e.2 then s.loseTraining p else s

/-- Undelivered flits have been acknowledged: requests that waited may find a shallower port, and drains may end. -/
def State.takeRelease (s : State) (p : Nat) (depth : List Byte) (ack : List Word) (nak : BitVec 4) : State :=
  let (now, s) := s.fresh
  let clock := (s.die (p / 6)).clock.toNat
  let s := s.updPort p fun q =>
    { q with
      heard := now
      depth := depth.map fun d => d.toNat
      vcs := q.vcs.mapIdx fun v c => match ack[v]? with | some a => { c.release a with quiet := clock } | none => c }
  (List.range 4).foldl (fun s v => if nak.getLsbD v then s.resend p v else s) s

def execBufferRelease (f : Flit) (s : State) : Result :=
  .next (match f.typ, f.payload with
    | .release, .release _ depth ack nak => s.receive f fun s => s.takeRelease f.port depth ack nak
    | _, _ => s)

/-- A key marker is delivered in its place in the sequence; each later flit names its own slot (R232, R233). -/
def execKeyMarker (f : Flit) (s : State) : Result :=
  .next (if f.typ == .keyMark then s.receive f fun s => s.freeFlit f.port f.vc else s)

def execDrainMarker (f : Flit) (s : State) : Result :=
  .next (match f.typ, f.payload with
    | .drain, .drain g => s.receive f fun s =>
        ((s.freeFlit f.port f.vc).updChannel f.port f.vc fun c => { c with drained := some g }).retireGeneration
    | _, _ => s)

def execIdleFlit (f : Flit) (s : State) : Result := .next (if f.typ == .idle then s.receive f id else s)

/-! ### Timers and the state of a link -/

/-- A port in service states its credits at least once in 256 cycles (R224). -/
def State.sendRelease (s : State) (p : Nat) : State :=
  let now := (s.die (p / 6)).clock.toNat
  if s.clocksRun && (s.port p).canSend then
    (s.sendLocal p 0 .release 0 (s.releasePayload p)).updPort p fun q => { q with stated := now }
  else s

/-- 256 cycles have passed since the port's last buffer release. -/
def State.releaseDue (s : State) (p : Nat) : Bool :=
  s.clocksRun && (s.port p).canSend && decide ((s.port p).stated + 256 ≤ (s.die (p / 6)).clock.toNat)

def execBufferReleaseTimer (port : Nat) (s : State) : Result := .next (s.sendRelease port)

/-- 4,096 cycles have passed on a channel without an acknowledgement (R460). -/
def State.linkSilent (s : State) (p vc : Nat) : Bool :=
  let c := (s.port p).vcs.getD vc Channel.reset
  s.clocksRun && (s.port p).sending && c.retry != [] && decide (c.quiet + 4096 ≤ (s.die (p / 6)).clock.toNat)

def execLinkRetryTimeout (port vc : Nat) (s : State) : Result :=
  .next (if s.linkSilent port vc then s.resend port vc else s)

/-- Responses that waited for a port leave. -/
def State.retryStuck (s : State) : State :=
  let old := s.fabric.stuck
  old.foldl State.respond { s with fabric := { s.fabric with stuck := [] } }

/-- A port's link has trained and reports its peer (R216, R217, R464). A port that had been in service sends a buffer
release and what the peer has not acknowledged. -/
def execLinkTrained (port peer : Nat) (s : State) : Result :=
  .next (
    let q := s.port port
    if !s.clocksRun || 24 ≤ port || 16 ≤ peer || q.trained || q.down then s
    else
      let again (c : Channel) : Channel := { c with retry := c.retry.map fun e => (e.1, 0) }
      let s := s.updPort port fun q => { q with trained := true, retraining := false, peer := peer, vcs := q.vcs.map again }
      let s := s.sendRelease port
      let s := if q.inService then (List.range 4).foldl (fun s v => s.resend port v) s else s
      s.retryRoutes.retryStuck)

def execLinkTrainingLost (port : Nat) (s : State) : Result :=
  .next (if (s.port port).trained then s.loseTraining port else s)

/-- A port whose retraining has failed: it leaves the routes; a job with a flit whose fate is unknown stops (R464). -/
def execPortDown (port : Nat) (s : State) : Result :=
  .next (
    let q := s.port port
    if !s.clocksRun || 24 ≤ port || !q.retraining then s
    else
      let jobs := dedupe ((q.vcs.flatMap fun c => c.retry).filterMap fun e => if isPacket e.1 then some e.1.job else none)
      let empty (c : Channel) : Channel := { c with retry := [] }
      let s := s.updPort port fun q =>
        { q with down := true, retraining := false, replaced := false, vcs := q.vcs.map empty }
      let s := jobs.foldl (fun s j => s.informJob 0x23 1 j fun r => { r with info := BitVec.ofNat 32 port }) s
      s.retryRoutes.retryStuck.retireGeneration)

/-- The request waits for a route to its destination. -/
def State.routeless (s : State) (x : RemoteReq) : Bool :=
  x.phase == .noRoute && decide (x.flit.tag < 4096) && !(s.job x.flit.job).out

/-- A request that has waited 2^26 cycles for a route: one record for its job and destination (R465). -/
def State.routeLost (s : State) (r : RemoteReq) : Bool :=
  let same (x : RemoteReq) : Bool := s.routeless x && x.flit.job == r.flit.job && x.flit.dst == r.flit.dst
  s.clocksRun && same r && decide (r.since + 2 ^ 26 ≤ s.coreClock r.core) && !s.fabric.reqs.any fun x => same x && x.reported

def execRouteWaitTimeout (tag : Nat) (s : State) : Result :=
  match s.fabric.reqs.find? fun r => r.tag == tag && s.routeLost r with
  | none => .next s
  | some r =>
    let addr := match r.loc with | .remote _ a => a | _ => 0
    .next ((s.updReq tag fun r => { r with reported := true }).informJob 0x23 2 r.flit.job fun q =>
      { q with addr := BitVec.ofNat 64 addr, info := BitVec.ofNat 32 r.flit.dst })

/-- System software writes RTGEN.CUR (R226). -/
def execRtgenSwitch (gen : Bool) (s : State) : Result := .next (if s.clocksRun then s.switchGeneration gen else s)

/-- LULL cycles after an entry was allocated it drains (R231). -/
def State.lullOver (s : State) (core : Nat) (e : WcbEntry) : Bool :=
  s.clocksRun && decide (e.since + s.fabric.lull ≤ s.coreClock core)

def execWcbLullExpiry (core line : Nat) (s : State) : Result :=
  .next (s.drainWhere core fun e => e.key / 128 == line && s.lullOver core e)

/-- System software sets SWREQ (R233). -/
def execKeySwitchRequest (port : Nat) (s : State) : Result :=
  .next (if port < 24 && s.clocksRun then s.switchKey port else s)

/-- The current slot's counter has reached KSWITCH (R233, R463). -/
def execKeySwitchCount (port : Nat) (s : State) : Result :=
  .next (if port < 24 && s.clocksRun then s.countKey port else s)

/-- The current slot's counter has reached 2^48: no new flit leaves, and the port leaves the routes (R463). -/
def execKeyCounterLimit (port : Nat) (s : State) : Result :=
  .next (
    let q := s.port port
    if 2 ^ 48 ≤ (q.tx.getD (slotIx q.txcur) KeySlot.zero).ctr.toNat then s.updPort port fun q => { q with klimit := true }
    else s)

/-- System software loads what it wrote to KEYDATAp,s (R233, R249). -/
def execKeyLoad (port slot : Nat) (s : State) : Result :=
  .next (if port < 24 && slot < 4 then (s.loadKey port slot).retryRoutes.retryStuck else s)

end Sys2Proof.Machine
end

