-- ==== Sys2Proof/Machine/Squall.lean ====
section
/-! DEFINITION. The squall: switching a job out with its blocks and packets, and back in (R75 to R80, R468, R476). -/

namespace Sys2Proof.Machine

open Sys2Proof

/-- Blocks of a job that are still on their cores. -/
def State.jobUnsaved (s : State) (job : Nat) : Bool := s.blocks.any fun b => s.jobOf b == job && b.resident

/-- Step 1 of R77: admission and dispatch stop, and every resident block is pre-empted. -/
def State.squallStart (s : State) (job : Nat) : State :=
  let pre (b : Block) : Block := if s.jobOf b == job then b.stopFor .squall else b
  (({ s with blocks := s.blocks.map pre }).updJob job fun j =>
    { j with switching := true, marked := false, loss := false }).saveHeader job

/-- Step 2: the job's entries drain from every write-combining buffer. -/
def State.squallDrain (s : State) (job : Nat) : State :=
  (List.range s.cores.length).foldl (fun s c => s.drainWhere c fun e => e.job == job) s

/-- A request of the job that is still to be injected. -/
def State.toInject (s : State) (job : Nat) : Bool :=
  s.fabric.reqs.any fun r => r.flit.job == job &&
    (r.phase.turned.isSome || r.phase == .behind || r.phase == .noRoute)

/-- Step 3: markers on every channel of every port in service, each with the highest number received there. -/
def State.squallMark (s : State) (job : Nat) : State :=
  let highest (p vc : Nat) : Word := ((s.port p).vcs.getD vc Channel.reset).rxNext - 1
  (s.markAll .squall job fun p vc => .squall (highest p vc)).updJob job fun j => { j with marked := true }

/-- The number that the peer's marker for the job reports on a channel. -/
def Channel.marker (c : Channel) (job : Nat) : Option Word := (c.squalls.find? fun m => m.1 == job).map fun m => m.2

/-- The port is clean (R78, R464). -/
def FabPort.clean (p : FabPort) (job : Nat) : Bool :=
  !p.insvc || p.down || !p.txval.getLsbD (slotIx p.txcur) || p.vcs.all fun c => (c.marker job).isSome

/-- The job's packets of one channel: those of its retry buffer that the peer had not received, then those of its relay
buffer and queue (R78, R79). -/
def State.sweepChannel (s : State) (job p vc : Nat) : List Flit :=
  let c := (s.port p).vcs.getD vc Channel.reset
  let after (f : Flit) : Bool :=
    match c.marker job with
    | some h => f.seq != h && decide ((f.seq - h).toNat < 2 ^ 31)
    | none => true
  let mine (f : Flit) : Bool := f.job == job && isPacket f
  ((c.retry.map fun e => e.1).filter fun f => mine f && after f) ++
  s.fabric.relay.filter fun f => f.job == job && f.port == p && f.vc == vc

/-- The packets swept, in the order of the packet region; responses that have not been injected come last (DESIGN
CHOICE, log 83). -/
def State.swept (s : State) (job : Nat) : List Flit :=
  ((List.range 24).flatMap fun p => (List.range 4).flatMap fun vc => s.sweepChannel job p vc) ++
  s.fabric.stuck.filter fun f => f.job == job

/-- The job's packets leave the places that are swept. -/
def State.dropSwept (s : State) (job : Nat) : State :=
  let keep (e : Flit × Nat) : Bool := !(e.1.job == job && isPacket e.1)
  let chan (c : Channel) : Channel := { c with retry := c.retry.filter keep }
  let port (p : FabPort) : FabPort := { p with vcs := p.vcs.map chan }
  { s with fabric := { s.fabric with
      ports := s.fabric.ports.map port
      relay := s.fabric.relay.filter fun f => f.job != job
      stuck := s.fabric.stuck.filter fun f => f.job != job } }

/-- Packets written to the region; one that finds no room is lost (R468). -/
def State.putPackets (s : State) (fs : List Flit) : State × List Flit :=
  fs.foldl (fun acc f =>
    if acc.1.roomForPacket f.job then (acc.1.putPacket f, acc.2 ++ [f]) else (acc.1.losePacket f, acc.2)) (s, [])

/-- The end of the switch-out: the sweep, late packets behind it, and STATE 2. -/
def State.squallSweep (s : State) (job : Nat) : State :=
  let packets := s.swept job
  let late := (s.job job).late
  let s := (s.dropSwept job).updJob job fun j => { j with pktoff := 0 }
  let (s, saved) := s.putPackets packets
  let (s, kept) := s.putPackets late
  ((s.updJob job fun j =>
    { j with packets := saved, late := kept, switching := false, marked := false, out := true }).saveHeader
    job).retireGeneration

/-- A switch-out goes as far as it can (R77, R78). -/
def State.squallOut (s : State) (job : Nat) : State :=
  let j := s.job job
  if !s.clocksRun || j.out || j.resuming then s
  else if !j.switching then s.squallStart job
  else if !j.marked then
    if s.jobUnsaved job then s
    else
      let s := s.squallDrain job
      if s.toInject job then s else s.squallMark job
  else if s.fabric.ports.all fun p => p.clean job then s.squallSweep job
  else s

def execSquallSwitchOut (job : Nat) (s : State) : Result := .next (s.squallOut job)

/-- A saved packet injected again (R80); one that this module is the end of takes effect. -/
def State.reinject (s : State) (f : Flit) : State := if f.dst == s.mgmt.dev then s.serve f else s.respond f

/-- A saved block of the job that can be made resident again fits on some core, as it stands or once compacted, or blocks
give way to one (R61, R72, R74). -/
def State.jobToResume (s : State) (job : Nat) : Bool :=
  s.blocks.any fun b => s.jobOf b == job && s.resumable b &&
    match s.grid? b.grid with
    | some g =>
      s.victimsPending || allCores.any (s.resumeRoom b g) ||
        (!s.fitsSome g.launch && allCores.any fun c => s.fitsOnceCompacted c g.launch)
    | none => false

/-- The job's squall markers are forgotten, so that the next squall's count. -/
def State.clearSqualls (s : State) (job : Nat) : State :=
  let chan (c : Channel) : Channel := { c with squalls := c.squalls.filter fun m => m.1 != job }
  let port (p : FabPort) : FabPort := { p with vcs := p.vcs.map chan }
  { s with fabric := { s.fabric with ports := s.fabric.ports.map port } }

/-- A resume goes as far as it can (R80): the blocks are restored and held; then the packets go out again, and strands and
dispatch are released. A switch-out that lost a packet leaves the blocks stopped (R468). -/
def State.squallIn (s : State) (job : Nat) : State :=
  let j := s.job job
  if !s.clocksRun then s
  else if j.out then ((s.clearSqualls job).updJob job fun j => { j with out := false, resuming := true }).saveHeader job
  else if !j.resuming || s.jobToResume job then s
  else
    let s := s.updJob job fun j => { j with packets := [], late := [] }
    let s := (j.packets ++ j.late).foldl State.reinject s
    ((s.updJob job fun j => { j with resuming := false }).saveHeader job).retryRoutes.retryStuck

def execSquallResume (job : Nat) (s : State) : Result := .next (s.squallIn job)

/-- The peer's squall marker (R77, R78). -/
def execSquallMarker (f : Flit) (s : State) : Result :=
  .next (match f.typ, f.payload with
    | .squall, .squall h => s.receive f fun s =>
        (s.freeFlit f.port f.vc).updChannel f.port f.vc fun c =>
          { c with squalls := (c.squalls.filter fun m => m.1 != f.job) ++ [(f.job, h)] }
    | _, _ => s)

end Sys2Proof.Machine
end

