-- ==== Sys2Proof/Machine/Host.lean ====
section
/-! DEFINITION. The hosts: BAR0's register map, the aperture of BAR2, and completions of reads of the host windows
(R234, R235, R240 to R250, R411, R413, R469 to R474, Tables 10-8, 11-1, 11-4 to 11-7, 11-10, 19-3, 23-4 to 23-6). -/

namespace Sys2Proof.Machine

open Sys2Proof

/-! ## Reading BAR0 -/

/-- A byte list's 8 bytes from `o` on. -/
def eightAt (bs : List Byte) (o : Nat) : Nat := leNat ((bs.drop o).take 8)

/-- SQSTAT (Table 11-7). -/
def State.squallStatus (s : State) : Nat :=
  let j := s.job s.mgmt.sqsel
  ofFlag (j.switching || j.resuming) + ofFlag j.out * 2 + ofFlag j.loss * 4

/-- The 8-byte unit at offset `o` of the management block. SCANDATA's value comes with its read (SCAN_READ). -/
def State.readMgmt (s : State) (o : Nat) : Nat :=
  let m := s.mgmt
  let h (p : Nat) : HostPort := s.host p
  if 0x100 ≤ o && o < 0x120 then eightAt m.nonce (o - 0x100)
  else if 0x200 ≤ o && o < 0x4C8 then eightAt m.report (o - 0x200)
  else if o == 0x00 then m.boot
  else if o == 0x08 then m.primary
  else if o == 0x10 then m.dev % 16 + m.dsize % 4 * 16
  else if o == 0x18 then m.frac
  else if o == 0x20 then m.jobbase
  else if o == 0x48 then ofFlag m.spareBusy + ofFlag m.spareNone * 2
  else if o == 0x68 then m.scanaddr.toNat
  else if o == 0x80 then m.tj % 256 + m.tin % 256 * 256
  else if o == 0x88 then m.watts % 4096
  else if o == 0x90 then
    ofFlag m.hold + ofFlag m.holdSeen * 2 + ofFlag m.trip * 4 + ofFlag m.thIrq * 8 + m.thVec % 64 * 16
  else if o == 0xC0 then m.frbase
  else if o == 0xC8 then m.frlog2n + m.frlost.toNat * 2 ^ 32
  else if o == 0xD0 then m.frprod.toNat
  else if o == 0xD8 then m.frcons.toNat
  else if o == 0xE0 then ofFlag m.irq0 + m.vec0 % 64 * 2 + ofFlag m.irq1 * 2 ^ 8 + m.vec1 % 64 * 2 ^ 9
  else if o == 0xF0 then m.bootReason % 16 + ofFlag m.attErr * 2 ^ 8
  else if o == 0xF8 then ofFlag m.attReady
  else if o == 0x140 then
    ofFlag (h 0).up + ofFlag (h 1).up * 2 + ofFlag (h 0).lost * 4 + ofFlag (h 1).lost * 8
  else if o == 0x150 then (h 0).hwdrop.toNat
  else if o == 0x158 then (h 1).hwdrop.toNat
  else if o == 0x160 then (h 0).hwbase
  else if o == 0x168 then (h 1).hwbase
  else if o == 0x188 then m.sqsel
  else if o == 0x190 then s.squallStatus
  else 0

/-- The 8-byte unit at offset `o` of a launch queue's registers (Table 11-5). -/
def Queue.read (q : Queue) (o : Nat) : Nat :=
  if o == 0x00 then q.base
  else if o == 0x08 then q.log2n + q.prio * 2 ^ 32
  else if o == 0x10 then q.prod.toNat
  else if o == 0x18 then q.cons.toNat
  else 0

/-- The 8-byte unit at offset `o` of BAR0 as port `p` presents it (Table 11-4). -/
def State.readBar0 (s : State) (p o : Nat) : Nat :=
  if 0x1000 ≤ o && o < 0x1800 then (s.queue p ((o - 0x1000) / 32)).read (o % 32)
  else if 0x3000 ≤ o && o < 0x3040 then
    let h := s.host ((o - 0x3000) / 32)
    if o % 32 == 0 then h.pubadr else if o % 32 == 8 then h.pubval.toNat
    else if o % 32 == 16 then ofFlag h.pubirq + h.pubvec % 64 * 2 else 0
  else if o == 0x3080 then (s.host p).apbase
  else if o == 0x3088 then (s.host p).apjob % 4096 + ofFlag (s.host p).apen * 2 ^ 12
  else if 0x800000 ≤ o && o < 0x801000 then s.readMgmt (o - 0x800000)
  else if 0x1000000 ≤ o && o < 0x1800000 then s.readReg ((o - 0x1000000) / 0x200000) (o % 0x200000)
  else 0

/-! ## Writing BAR0 -/

def State.updMgmt (s : State) (f : Mgmt → Mgmt) : State := { s with mgmt := f s.mgmt }

/-- A write to a launch queue's registers (R245): base, size and priority only while the queue is empty. -/
def State.writeQueue (s : State) (p q o v mask : Nat) : State :=
  let k := s.queue p q
  let w := overlay (k.read o) v mask
  let empty := k.prod == k.cons
  let size (n : Nat) : Nat := if n < 4 then 4 else if 12 < n then 12 else n
  if o == 0x00 then
    if empty then s.updQueue p q fun k => { k with base := bits w 7 45 * 128 } else s
  else if o == 0x08 then
    if empty then s.updQueue p q fun k => { k with log2n := size (w % 16), prio := bits w 32 3 } else s
  else if o == 0x10 then
    if mask % 16 == 0 then s else s.doorbell p q (BitVec.ofNat 32 w)
  else s

/-- A write to PUBCTR of port `p` (Table 10-8). -/
def State.writePub (s : State) (p o v mask : Nat) : State :=
  let h := s.host p
  if o == 0 then s.updHost p fun h => { h with pubadr := overlay h.pubadr v mask / 8 * 8 }
  else if o == 8 then s.updHost p fun k => { k with pubval := BitVec.ofNat 64 (overlay h.pubval.toNat v mask) }
  else if o == 16 then
    let w := overlay (ofFlag h.pubirq + h.pubvec % 64 * 2) v mask
    s.updHost p fun k => { k with pubirq := bit w 0, pubvec := bits w 1 6 }
  else s

/-- A write to APCTL of port `p` (Table 11-6). -/
def State.writeAperture (s : State) (p o v mask : Nat) : State :=
  let h := s.host p
  if o == 0 then s.updHost p fun k => { k with apbase := bits (overlay h.apbase v mask) 16 41 * 2 ^ 16 }
  else
    let w := overlay (h.apjob % 4096 + ofFlag h.apen * 2 ^ 12) v mask
    s.updHost p fun k => { k with apjob := bits w 0 12, apen := bit w 12 }

/-- A write to the nonce: the bytes written join the rest, and the report is asked for. -/
def State.writeNonce (s : State) (o v mask : Nat) : State :=
  let old := padTo 32 s.mgmt.nonce
  let w := overlay (eightAt old o) v mask
  s.newNonce (old.take o ++ leBytes 8 w ++ old.drop (o + 8))

/-- A write of SQCMD (R76). A switch-out while the job's resume is in progress, and a resume while its switch-out is, are
ignored: the spec does not say what they do (DESIGN CHOICE, log 83). -/
def State.squallCommand (s : State) (w : Nat) : State :=
  let job := bits w 0 12
  let s := s.updMgmt fun m => { m with sqsel := job }
  let j := s.job job
  match bits w 12 2 with
  | 1 => if j.switching then s else s.squallOut job
  | 2 => if j.out then s.squallIn job else s
  | _ => s

/-- The bytes that hold the fields of a WO register of the management block, as a mask (Tables 11-1, 11-7, 19-3, 23-4). -/
def commandBytes (o : Nat) : Nat :=
  if o == 0x40 then 7 else if o == 0x60 then 1 else if o == 0xE8 then 31 else if o == 0x148 then 3
  else if o == 0x180 then 3 else 255

/-- The management block: the bytes of `v` that `mask` names written at offset `o`. A write that touches none of a WO
register's fields is ignored (R7); of a command written in part the other bytes are 0 (DESIGN CHOICE, log 32). -/
def State.writeMgmt (s : State) (o v mask : Nat) : State :=
  let w := overlay (s.readMgmt o) v mask
  let x := overlay 0 v mask
  if mask &&& commandBytes o == 0 then s else
  if 0x100 ≤ o && o < 0x120 then s.writeNonce (o - 0x100) v mask
  else if o == 0x08 then s.updMgmt fun m => { m with primary := bits w 0 1 }
  else if o == 0x10 then
    if s.mgmt.admitted then s else s.updMgmt fun m => { m with dev := bits w 0 4, dsize := bits w 4 2 }
  else if o == 0x18 then
    if s.mgmt.admitted then s else s.updMgmt fun m => { m with frac := Nat.min 5 (bits w 0 3) }
  else if o == 0x20 then s.updMgmt fun m => { m with jobbase := bits w 18 34 * 2 ^ 18 }
  else if o == 0x40 then s.spareCommand (bits x 0 3) (bits x 3 2) (bits x 5 13)
  else if o == 0x48 then if bit x 1 then s.updMgmt fun m => { m with spareNone := false } else s
  else if o == 0x60 then if bit x 0 then s.freeze else s
  else if o == 0x68 then s.updMgmt fun m => { m with scanaddr := BitVec.ofNat 32 w }
  else if o == 0x90 then
    s.updMgmt fun m =>
      { m with holdSeen := m.holdSeen && !bit x 1, thIrq := bit w 3, thVec := bits w 4 6 }
  else if o == 0xC0 then s.setRingBase w
  else if o == 0xC8 then
    let s := s.updMgmt fun m => { m with frlost := m.frlost &&& ~~~(BitVec.ofNat 16 (bits x 32 16)) }
    if bit mask 0 then s.setRingLog (bits w 0 5) else s
  else if o == 0xD8 then s.consumeRecords (BitVec.ofNat 64 w)
  else if o == 0xE0 then
    s.updMgmt fun m => { m with irq0 := bit w 0, vec0 := bits w 1 6, irq1 := bit w 8, vec1 := bits w 9 6 }
  else if o == 0xE8 then s.answer (BitVec.ofNat 32 x) (bits x 32 2)
  else if o == 0xF0 then if bit x 8 then s.updMgmt fun m => { m with attErr := false } else s
  else if o == 0x140 then
    let s := if bit x 2 then s.updHost 0 fun h => { h with lost := false } else s
    if bit x 3 then s.updHost 1 fun h => { h with lost := false } else s
  else if o == 0x148 then s.abortJob (bits x 0 12)
  else if o == 0x150 then s.updHost 0 fun h => { h with hwdrop := BitVec.ofNat 64 w }
  else if o == 0x158 then s.updHost 1 fun h => { h with hwdrop := BitVec.ofNat 64 w }
  else if o == 0x160 then s.updHost 0 fun h => { h with hwbase := w / 4096 * 4096 }
  else if o == 0x168 then s.updHost 1 fun h => { h with hwbase := w / 4096 * 4096 }
  else if o == 0x180 then s.squallCommand x
  else if o == 0x188 then s.updMgmt fun m => { m with sqsel := bits w 0 12 }
  else s

/-- The bytes of `v` that `mask` names written to the 8-byte unit at offset `o` of port `p`'s BAR0. The management block
and the die windows take writes from the primary host alone, and so does the other port's PUBCTR (R234, R244). -/
def State.writeBar0 (s : State) (p o v mask : Nat) : State :=
  let primary := s.mgmt.primary == p
  if mask == 0 then s
  else if 0x1000 ≤ o && o < 0x1800 then s.writeQueue p ((o - 0x1000) / 32) (o % 32) v mask
  else if 0x3000 ≤ o && o < 0x3040 then
    if primary || (o - 0x3000) / 32 == p then s.writePub ((o - 0x3000) / 32) (o % 32) v mask else s
  else if o == 0x3080 || o == 0x3088 then s.writeAperture p (o % 16) v mask
  else if 0x800000 ≤ o && o < 0x801000 then if primary then s.writeMgmt (o - 0x800000) v mask else s
  else if 0x1000000 ≤ o && o < 0x1800000 then
    if primary then s.writeReg ((o - 0x1000000) / 0x200000) (o % 0x200000) v mask else s
  else s

/-- A host writes `bytes` bytes at an offset of its BAR0: one write for each 8-byte unit that they touch, in order. -/
def execRegisterWrite (port offset bytes : Nat) (value : BitVec 512) (s : State) : Result :=
  if s.portAnswers port && decide (bytes ≤ 64) then
    .next ((List.range 9).foldl (fun s u =>
      let o := offset / 8 * 8 + 8 * u
      let mine := (List.range 8).filter fun i => decide (offset ≤ o + i) && decide (o + i < offset + bytes)
      let at' (i : Nat) : Byte := BitVec.ofNat 8 (value.toNat / 256 ^ (o + i - offset))
      let v := leNat ((List.range 8).map fun i => if mine.contains i then at' i else 0)
      s.writeBar0 port o v (maskOf mine)) s)
  else .next s

/-! ## BAR2 (R234, R246, R470) -/

/-- The virtual address of a BAR2 access. -/
def HostPort.aperture (h : HostPort) (offset : Nat) : Nat := (h.apbase + offset) % 2 ^ 64

/-- The record of a failed access through BAR2. With EN 0 it names no job, and stops nothing. -/
def State.apertureFault (s : State) (p va : Nat) : State :=
  let h := s.host p
  let fields (r : FaultRec) : FaultRec := { r with addr := BitVec.ofNat 64 va, info := BitVec.ofNat 32 p }
  if h.apen then s.informJob 0x31 3 h.apjob fields else s.inform 0x31 3 fields

/-- The port accepts an access to memory through BAR2. -/
def State.apertureOpen (s : State) (p offset n : Nat) : Bool :=
  s.portAnswers p && s.mgmt.boot == 3 && !s.mgmt.frozen && decide (offset + n ≤ 64 * 2 ^ 30)

/-- The pieces of this module's DRAM among `n` bytes of a job, with their lengths. -/
def State.ownPieces (s : State) (job va n : Nat) : List (Nat × Nat) :=
  (segmentsOf va n).flatMap fun p =>
    match s.placeJob noCore job p.1 .read with
    | .ok q => match q.loc with
      | .phys pa => linesOf (p.2 / 128 + 2) pa p.2
      | _ => []
    | .error _ => []

/-- The host's requests at the home dies of some pieces, as class 6 (R15, R70). -/
def State.hostTraffic (s : State) (ps : List (Nat × Nat)) (write : Bool) : State :=
  ps.foldl (fun s p => s.traffic (dieOfAddr p.1) 6 p.1 p.2 write none) s

/-- The die at which pieces of DRAM wait for class 6 credit. -/
def State.hostShort (s : State) (ps : List (Nat × Nat)) : Option Nat := s.shortOf 6 (ps.map fun p => dieOfAddr p.1)

/-- A host's read through BAR2: completed at once, once other modules and hosts have answered, when class 6 has credit, or
as unsupported. -/
def State.barRead (s : State) (r : BarRead) : State :=
  match s.jobRead r.job r.replies r.va r.bytes with
  | .flaw _ => (s.send (.unsupported r.port)).apertureFault r.port r.va
  | .away ls =>
    let (s, tags) := s.askFor noCore r.job (.bar r.id) ls
    { s with barReads := s.barReads ++ [{ r with tags := tags }] }
  | .ok bs =>
    let ps := s.ownPieces r.job r.va r.bytes
    match s.hostShort ps with
    | some d => let s := s.holdClass d 6; { s with barReads := s.barReads ++ [r] }
    | none => (s.hostTraffic ps false).send (.completion r.port bs)

def execBar2Read (port offset bytes : Nat) (s : State) : Result :=
  if !s.apertureOpen port offset bytes then .next s
  else
    let h := s.host port
    let va := h.aperture offset
    if !h.apen then .next ((s.send (.unsupported port)).apertureFault port va)
    else
      let (id, s) := s.fresh
      .next (s.barRead ⟨id, port, h.apjob, va, bytes, [], []⟩)

/-- One page's piece of a host's write: held while it would change a frozen view that this module homes (R130), and behind
what waits for class 6 credit. -/
def State.aperturePiece (s : State) (port job va : Nat) (p : Place) (bs : List Byte) : State :=
  let n := bs.length
  match p.loc with
  | .phys pa =>
    if p.viewed && s.frozen job .root then { s with heldWrites := s.heldWrites ++ [⟨job, va, bs⟩] }
    else (s.hostTraffic (linesOf (n / 128 + 2) pa n) true).pokePhys pa bs
  | .reg d off => s.writeWindow d off bs
  | .host w off => s.windowWrite w off bs
  | .remote dev x =>
    (linesOf (n / 128 + 2) x n).foldl (fun s l =>
      let o := l.1 % 128
      let data := List.replicate o 0 ++ (bs.drop (l.1 - x)).take l.2 ++ List.replicate (128 - o - l.2) 0
      let mask := maskOf ((List.range l.2).map fun j => o + j)
      (s.request noCore job dev (.post port) (va + (l.1 - x)) 128 (.remote dev (l.1 - o)) .write
        (.write (l.1 - o) (BitVec.ofNat 128 mask) data)).2) s
  | .scratch _ _ | .view _ _ _ => s

/-- One page's piece of a host's write takes its place in its port's order (R236): it waits behind writes that other modules
have not acknowledged, and for class 6 credit (R71). -/
def State.hostWrite (s : State) (w : Posted) : State :=
  let kept (s : State) : State := { s with posted := s.posted ++ [w] }
  if s.posting w.port then kept s
  else
    match s.hostShort (s.ownPieces w.write.job w.write.va w.write.data.length) with
    | some d => kept (s.holdClass d 6)
    | none =>
      match s.placeJob noCore w.write.job w.write.va .write with
      | .ok p => s.aperturePiece w.port w.write.job w.write.va p w.write.data
      | .error _ => s.apertureFault w.port w.write.va

/-- A host's write through BAR2: dropped as a whole, with a record, when any byte of it fails. -/
def execBar2Write (port offset : Nat) (data : List Byte) (s : State) : Result :=
  if !s.apertureOpen port offset data.length then .next s
  else
    let h := s.host port
    let va := h.aperture offset
    let parts := segmentsOf va data.length
    let bad := parts.any fun p => match s.placeJob noCore h.apjob p.1 .write with | .error _ => true | .ok _ => false
    if !h.apen || bad then .next (s.apertureFault port va)
    else
      .next (parts.foldl (fun s p => s.hostWrite ⟨port, h.apjob, p.1, (data.drop (p.1 - va)).take p.2⟩) s)

/-- Host accesses that wait are tried again, in their order. -/
def State.retryHosts (s : State) : State :=
  let ws := s.posted
  let rs := s.barReads.filter fun r => r.tags.isEmpty
  let s := ws.foldl State.hostWrite { s with posted := [] }
  rs.foldl State.barRead { s with barReads := s.barReads.filter fun r => !r.tags.isEmpty }

/-- Requests of other modules, and host accesses, that wait here are tried again. -/
def State.retryWaiting (s : State) : State := s.retryHeld.retryHosts

/-! ## Completions of reads of the host windows (R235, R469) -/

/-- The job in whose name a read was made. -/
def State.askerJob (s : State) : Asker → Nat
  | .lane k _ _ => ((s.block? k).map s.jobOf).getD 0xFFF
  | .engine k _ _ => ((s.block? k).map s.jobOf).getD 0xFFF
  | .launch g => ((s.grid? g).map fun g => g.launch.job).getD 0xFFF
  | .bar id => ((s.barReads.find? fun r => r.id == id).map fun r => r.job).getD 0xFFF
  | .served f => f.job
  | .core | .post _ => 0xFFF

/-- Another module's request that reached a host window is answered; an atomic's write follows its read. -/
def State.serveHost (s : State) (f : Flit) (w off : Nat) (bs : List Byte) : State :=
  let old := BitVec.ofNat 32 (leNat bs)
  match f.payload with
  | .atomic _ fn y cmp =>
    match AtomFn.ofCode fn with
    | some .ldres => s.reply f .atomicResp (.atomicResp old)
    | some .stcond => s.reply f .atomicResp (.atomicResp 0)
    | some g => (s.windowWrite w off (leBytes 4 (g.new old y cmp).toNat)).reply f .atomicResp (.atomicResp old)
    | none => s.turnAway f
  | _ => s.reply f .readResp (.readResp bs)

/-- The read with this tag ends with these bytes. -/
def State.endHostRead (s : State) (r : HostRead) (bs : List Byte) (bad : Bool) : State :=
  let s := { s with hostReads := s.hostReads.filter fun q => q.tag != r.tag }
  match r.who with
  | .served f => s.serveHost f r.port r.addr bs
  | _ => (s.handOver r.who r.tag ⟨.host r.port r.addr, bs, bad, false⟩).afterReply r.who

/-- A read that fails, or that nobody answers: every byte is 0xFF and poisoned, and a record names the job (R469). -/
def State.failHostRead (s : State) (r : HostRead) : State :=
  let addr := (r.port + 1) * 2 ^ 40 + r.addr
  let job := s.askerJob r.who
  let fields (q : FaultRec) : FaultRec := { q with addr := BitVec.ofNat 64 addr }
  let s := s.endHostRead r (List.replicate r.bytes 0xFF) true
  if job == 0xFFF then s.inform 0x31 1 fields else s.informJob 0x31 1 job fields

/-- A completion: the bytes read, or Unsupported Request or Completer Abort. -/
def execHostReadCompletion (tag : Nat) (data : Option (List Byte)) (s : State) : Result :=
  match s.hostReads.find? fun r => r.tag == tag && s.clocksRun, data with
  | none, _ => .next s
  | some r, none => .next (s.failHostRead r)
  | some r, some bs => .next (if bs.length == r.bytes then s.endHostRead r bs false else s)

/-- 2^26 cycles have passed without a completion (R469). -/
def State.hostSilent (s : State) (r : HostRead) : Bool := s.clocksRun && decide (r.since + 2 ^ 26 ≤ s.coreClock 0)

def execHostReadTimeout (tag : Nat) (s : State) : Result :=
  match s.hostReads.find? fun r => r.tag == tag && s.hostSilent r with
  | none => .next s
  | some r => .next (s.failHostRead r)

end Sys2Proof.Machine
end

