-- ==== Sys2Proof/Machine/Issue.lean ====
section
/-! DEFINITION. One issue opportunity of a strand: the gang, its unit, and the instruction that it stands for (R32 to R36,
R65 to R67, R257, R414); subjunctive runs and their resolution (R43 to R46); the timers of the issue logic. -/

namespace Sys2Proof.Machine

open Sys2Proof

/-! ## What a strand issues -/

/-- What an issue opportunity gives. -/
inductive Offer where
  /-- no gang may issue -/
  | idle
  /-- code that lies in another module or host has been asked for -/
  | wait (s : State)
  /-- the instruction to run; `s.cur` names its lanes, its unit and its addresses -/
  | run (i : Instr) (s : State)

/-- The unit at `pc` read for lanes `ls` of strand `i`. -/
noncomputable def State.fetchAt (s : State) (b : Block) (i : Nat) (ls : List Nat) (pc : Nat) : Offer :=
  let here (next : Nat) (w : BitVec 32) (adv : Option (BitVec 32)) : Issue :=
    { blk := b.key, strand := i, lanes := ls, pc := BitVec.ofNat 64 pc, next := BitVec.ofNat 64 next, word := w, adverb := adv }
  match s.fetchUnit b i ls pc with
  | .away va p =>
    let s := { s with cur := here pc 0 none }
    let (s, tags) := s.askCode b i ls va p
    .wait (s.park ls (.reply tags))
  | .bad f => .run (.illegalEncoding f.cls f.sub (BitVec.ofNat 64 f.addr)) { s with cur := here pc 0 none }
  | .unit x =>
    let ps := s.codePieces b pc x
    match s.codeShort b ps with
    | some d => .wait (({ s with cur := here pc 0 none }).park ls (.credit d))
    | none =>
      let s := s.noteFetch b ps
      match checkUnit x (pc % 8 == 0) with
      | some (c, sub) =>
        .run (.illegalEncoding c sub (BitVec.ofNat 64 (checkAddr c sub pc))) { s with cur := here pc 0 none }
      | none =>
        match decodeUnit x (pc % 8 == 0) with
        | .bad c sub =>
          .run (.illegalEncoding c sub (BitVec.ofNat 64 (checkAddr c sub pc))) { s with cur := here pc 0 none }
        | .instr k n =>
          let w := x.extractLsb' 0 32
          if n == 8 then .run k { s with cur := here (pc + n) (x.extractLsb' 32 32) (some w) }
          else .run k { s with cur := here (pc + n) w none }

/-- The pending lanes that issue a run's instructions again: until they are through, nothing else of the strand issues
(R45). -/
def Strand.replayers (st : Strand) (pend : List Nat) : List Nat :=
  match st.replay with
  | none => []
  | some r => pend.filter fun l => r.1.contains l && (st.lane l).pc != r.2

/-- The lanes that replay at the lowest address, as a gang. -/
def Strand.replayGang (st : Strand) (pend : List Nat) : Option (Nat × List Nat) :=
  let ls := st.replayers pend
  (leastBy id (ls.map st.pc)).map fun p => (p, ls.filter fun l => st.pc l == p)

/-- A replay whose lanes have all come to its end, or left it, is over. -/
def Strand.settleReplay (st : Strand) : Strand :=
  match st.replay with
  | none => st
  | some r => if r.1.any fun l => (st.lane l).status == .live && (st.lane l).pc != r.2 then st else { st with replay := none }

/-- The selected gang of a strand, its timers brought up to date (R33 to R35). -/
def State.gang (s : State) (b : Block) (i : Nat) : Option (Strand × Nat × List Nat) :=
  let pend := s.pending b i
  let st := (((b.strand i).settleReplay).settleFair pend).expire pend
  let g := match st.replayGang pend with
    | some g => some g
    | none => st.gangOf pend
  g.map fun g => (st.countIssue pend g.2, g.1, g.2)

/-- The strand takes its issue slot: its timers count, its promotion ends, and, where its partition has selected it, the
other candidates have been passed over. In the cycle of a fault of its block it issues once (R410). -/
def State.takeSlot (s : State) (b : Block) (i : Nat) (st : Strand) (selects : Bool) : State :=
  let s := if selects then s.passOver b i else s
  let s := s.updStrand b.key i fun _ => { st with promoted := false, waited := 0 }
  if s.inFaultCycle b i then s.updBlock b.key fun b => { b with faultAt := some (s.coreClock b.core, i) } else s

/-- The strand issues: its unit is read for its gang. -/
noncomputable def State.offer (s : State) (blk i : Nat) (selects : Bool := true) : Offer :=
  match s.block? blk with
  | none => .idle
  | some b =>
    if !s.mayIssue b then .idle
    else
      match s.gang b i with
      | none => .idle
      | some (st, pc, ls) => (s.takeSlot b i st selects).fetchAt b i ls pc

/-- A step's next state changed by `f`. -/
def nextMap (f : State → State) : Result → Result
  | .next s => .next (f s)
  | .fault r => .fault r
  | .refused r => .refused r

/-- The lane has only found that a source register is empty. -/
def Park.unready : Park → Bool
  | .words _ | .matWords _ => true
  | _ => false

/-- What an issue has come to. Where every lane of the gang has found an empty source register, and none has met a fault, the
strand was no candidate (R65): its lanes wait for the register, and the slot was not taken. -/
def State.afterIssue (s ran : State) (blk i : Nat) (ls : List Nat) : State :=
  let st := ((ran.block? blk).map fun b => b.strand i).getD Strand.absent
  let stops (x : State) : Option (List Nat) := (x.block? blk).map fun b => b.stops
  if stops ran == stops s && ls.all fun l => (st.lane l).park.unready then
    s.updStrand blk i fun x => x.updLanes ls fun l ln => { ln with park := (st.lane l).park }
  else ran

/-! ## Subjunctive runs (R43 to R46) -/

/-- The instruction is a branch that the front end predicts: its target, in a run at `pc` with next address `next`. -/
def Instr.predicted : Instr → Option (BitVec 15)
  | .bnz _ off _ => some off
  | .bz _ off _ => some off
  | _ => none

/-- The lanes of a gang for which the front end issues a path (R43): those predicted to go the way of the lowest one. With
them, whether that path is the taken one. -/
def Core.pathOf (c : Core) (st : Strand) (pc : Nat) (ls : List Nat) : Bool × List Nat :=
  let taken := c.predicts st pc ls
  let goes := ls.head?.any taken.contains
  (goes, ls.filter fun l => taken.contains l == goes)

/-- A run starts at the branch that the strand stands at, on the path that its partition's predictor chooses. -/
noncomputable def State.predict (s : State) (blk i : Nat) : State :=
  match s.block? blk with
  | none => s
  | some b =>
    let st := b.strand i
    match st.run, st.replay, s.offer blk i with
    | none, none, .run k t =>
      match Instr.predicted k with
      | none => s
      | some off =>
        let (taken, lanes) := (s.core b.core).pathOf st t.cur.pc.toNat t.cur.lanes
        let start := if taken then halfTarget t.cur.pc off.toInt else t.cur.next
        let r : SubjRun :=
          { branch := t.cur.pc, code := k, unit := t.cur, taken := taken, lanes := lanes, start := start, pc := start,
            mood := [], stats := lanes.map fun l => (l, (st.lane l).fstat), issued := 0 }
        s.updStrand blk i fun st => { st with run := some r }
    | _, _, _ => s

/-- An instruction that may run in the subjunctive: register arithmetic (majors 0 to 8 and 10 to 15), and relaxed loads
(R44, R311, R343). The front end takes no cross-lane instruction into a run, since its lanes are only predicted ones
(DESIGN CHOICE, log 62). -/
def Instr.mayRun (k : Instr) (word : BitVec 32) : Bool :=
  let major := (word.extractLsb' 2 5).toNat
  match k.code with
  | .event => false
  | .half _ => true
  | .word _ v => (major ≤ 15 && major != 9) || ((major == 18 || major == 20) && accScope v == 0)

/-- The loads of a run are hits: no address holds a tainted word, and the core's L1 serves every byte, or a scratchpad whose
chunks are present (R44, R158, R343). -/
def State.loadHits (s : State) (b : Block) (st : Strand) (k : Instr) (ls : List Nat) : Bool :=
  let hit (x : LoadKind) (a : BitVec 7) (off : BitVec 8) (v : Adverb) : Bool := ls.all fun l =>
    let acc := loadAcc x st a off v l
    let p := s.placeOf b acc
    !st.taintedAt a v x.pad l &&
    match p.loc with
    | .phys pa =>
      (p.leaf.map fun f => f.cache == 0).getD false && (s.core b.core).serves pa acc.n (s.coreClock b.core)
    | .scratch _ _ => (s.absentAt p.loc acc.n).isEmpty
    | .view _ _ _ | .remote _ _ | .host _ _ | .reg _ _ => false
  match k with
  | .ldI8 _ a off v | .ldN8 _ a off v => hit { n := 1 } a off v
  | .ldI16 _ a off v | .ldN16 _ a off v => hit { n := 2 } a off v
  | .ldB32 _ a off v => hit { n := 4 } a off v
  | .ldB64 _ a off v => hit { n := 8 } a off v
  | .ldB128 _ a off v => hit { n := 16 } a off v
  | .ldsI8 _ a off v | .ldsN8 _ a off v => hit { n := 1, pad := true } a off v
  | .ldsI16 _ a off v | .ldsN16 _ a off v => hit { n := 2, pad := true } a off v
  | .ldsB32 _ a off v => hit { n := 4, pad := true } a off v
  | .ldsB64 _ a off v => hit { n := 8, pad := true } a off v
  | .ldsB128 _ a off v => hit { n := 16, pad := true } a off v
  | .ldcon _ _ _ _ => false
  | _ => true

/-- Register words of the lanes that differ between two states of a strand, with what they held before. -/
def changedWords (x y : Strand) (ls : List Nat) : List MoodEntry :=
  let keys := dedupe ((x.regs.map fun e => e.1) ++ y.regs.map fun e => e.1)
  (keys.filter fun k => ls.contains (k / 256) &&
    cellsGet RegWord.zero k x.regs != cellsGet RegWord.zero k y.regs).map fun k => ⟨k, cellsGet RegWord.zero k x.regs⟩

/-- The next instruction of a run, as its own execution `ran` leaves the state: kept when it changed registers and flags
alone, and did not fault or wait (R44, R46); the mood buffer takes what it overwrote. -/
def State.keepRun (s ran : State) (blk i : Nat) (r : SubjRun) (next : Dword) : State :=
  match s.block? blk, ran.block? blk with
  | some b, some c =>
    let x := b.strand i
    let y := c.strand i
    let went (l : Nat) : Bool := (y.lane l).park == .none && (y.lane l).pc == next && (y.lane l).due == (x.lane l).due
    let only := c.handles == b.handles && c.state == b.state && c.stops == b.stops && c.scratch == b.scratch &&
      c.mat == b.mat
    if r.lanes.all went && only then
      let r := { r with pc := next, mood := r.mood ++ changedWords x y r.lanes, issued := r.issued + 1 }
      let keep (st : Strand) : Strand :=
        { (st.updLanes r.lanes fun l ln => { ln with fstat := (y.lane l).fstat }) with regs := y.regs, run := some r }
      s.updStrand blk i keep
    else s
  | _, _ => s

/-- The state in which the next instruction of a run executes: its lanes stand at it, with the counts that they would have
without prediction (R46, R422). -/
def State.inRun (s : State) (blk i : Nat) (r : SubjRun) : State :=
  s.updStrand blk i fun st => st.updLanes r.lanes fun _ ln => { ln with pc := r.pc, count := ln.count + 1 + r.issued }

/-- The next instruction of a strand's run, and its next address; none where the run has ended: after 8 instructions, or
where the branch, the run and one more issue would bring a timer past its bound (R35, R44). -/
noncomputable def State.runOffer (s : State) (blk i : Nat) : Option (SubjRun × Instr × State) :=
  match s.block? blk with
  | none => none
  | some b =>
    let st := b.strand i
    match st.run with
    | none => none
    | some r =>
      if 8 ≤ r.issued || decide (st.slotsLeft r.lanes < r.issued + 2) || !s.mayIssue b then none
      else
        match (s.inRun blk i r).fetchAt b i r.lanes r.pc.toNat with
        | .run k t =>
          if Instr.mayRun k t.cur.word && s.loadHits b st k r.lanes then some (r, k, t) else none
        | _ => none

/-- A run resolved, `s` holding its results and `done` the state after its branch executed without it for the lanes `gang`:
lanes that were predicted rightly keep their results and go on behind them, those of its path that were not predicted issue
its instructions again, and the rest are as they would be without the run (R45). Its issues count in the timers (R35). -/
def State.confirmRun (s done : State) (blk i : Nat) (gang : List Nat) : State :=
  match s.block? blk, done.block? blk with
  | some b, some d =>
    match (b.strand i).run with
    | none => done
    | some r =>
      let onPath (ls : List Nat) : List Nat := ls.filter fun l =>
        let ln := (d.strand i).lane l
        ln.status == .live && ln.park == .none && ln.pc == r.start
      let right := onPath (r.lanes.filter gang.contains)
      let again := onPath (gang.filter fun l => !r.lanes.contains l)
      let words := dedupe ((r.mood.map fun e => e.key).filter fun k => right.contains (k / 256))
      done.updStrand blk i fun st =>
        let regs := words.foldl (fun c k => cellsPut RegWord.zero k (cellsGet RegWord.zero k (b.strand i).regs) c) st.regs
        let st := ({ st with regs := regs, run := none }).updLanes right fun l ln =>
          { ln with pc := r.pc, count := ln.count + r.issued, fstat := ln.fstat ||| ((b.strand i).lane l).fstat }
        let st := if again.isEmpty || r.issued == 0 then st else { st with replay := some (again, r.pc) }
        if right.isEmpty then st else st.countIssues (done.pending d i) right r.issued
  | _, _ => done

/-- The branch of a run, executed for the strand's gang. -/
def execPredicted (k : Instr) (s : State) : Result :=
  match k with
  | .bnz p off v => execBnz p off v s
  | .bz p off v => execBz p off v s
  | _ => .next s

/-- The predicted branch resolves: it executes for the gang that stands at it (R45). Where no gang stands at it any more
the run ends without a trace. -/
def State.resolve (s : State) (blk i : Nat) : State :=
  match s.block? blk with
  | none => s
  | some b =>
    match (b.strand i).run with
    | none => s
    | some r =>
      let clean := s.updStrand blk i Strand.cancelRun
      match (clean.block? blk).bind fun b => (clean.gang b i).map fun g => (b, g) with
      | none => clean
      | some (b, st, pc, ls) =>
        if pc == r.branch.toNat && s.mayIssue b then
          match execPredicted r.code { clean.takeSlot b i st true with cur := { r.unit with lanes := ls } } with
          | .next done => s.confirmRun done blk i ls
          | _ => clean
        else clean

def execPredicateResolve (blk strand : Nat) (s : State) : Result := .next (s.resolve blk strand)

/-! ## Timers -/

/-- A fairness timer that has reached 64 forces the next pending path of a quad, or the next gang (R35). -/
def execFairnessTimerExpiry (blk strand : Nat) (quad : Option Nat) (s : State) : Result :=
  match s.block? blk with
  | none => .next s
  | some b =>
    let pend := s.pending b strand
    .next (s.updStrand blk strand fun st =>
      match quad with
      | some q => if 64 ≤ (st.quad q).count then st.forceQuad pend q else st
      | none => if 64 ≤ st.fair.count then st.forceGang pend else st)

/-- The program counters of the RALLYs whose first arrival lies 256 cycles back. -/
def Strand.spentRallies (st : Strand) (now : Nat) : List Nat :=
  ((List.range st.lanes.length).filter fun l =>
    (st.lane l).status == .live && ((st.lane l).park.rallied.map fun t => decide (t + 256 ≤ now)).getD false).map st.pc

/-- 256 cycles after the first arrival at a RALLY its lanes go on (R38); of several, the lanes at the lowest address. -/
def execRallyTimeout (blk strand : Nat) (s : State) : Result :=
  match s.block? blk with
  | none => .next s
  | some b =>
    match leastBy id ((b.strand strand).spentRallies (s.coreClock b.core)) with
    | none => .next s
    | some p =>
      if !s.mayIssue b || b.haltsNow then .next s
      else
        let at' := BitVec.ofNat 64 p
        .next (s.updStrand blk strand fun st => st.updLanes (st.atRally at') fun _ ln => ln.retire (at' + 4))

/-- A candidate that has waited 256 clocks ranks above all classes until it issues (R67). -/
def execCandidatePromotion (blk strand : Nat) (s : State) : Result :=
  match s.block? blk with
  | none => .next s
  | some b =>
    if s.mayIssue b && (b.strand strand).overdue then
      .next (s.updStrand blk strand fun st => { st with promoted := true })
    else .next s

/-- The lanes of the issue whose counts have reached 16,384 raise 0x07 (R422). -/
def execSafePointOverdue (s : State) : Result :=
  match s.block? s.cur.blk with
  | none => .next s
  | some b =>
    let st := b.strand s.cur.strand
    let spent := s.cur.lanes.filter fun l =>
      (st.lane l).status == .live && (st.lane l).pc == s.cur.pc && decide (16384 ≤ (st.lane l).count)
    .next (s.raise (spent.map fun l => { lane := l, cls := 7, sub := 0, addr := 0, info := 16384, info2 := 0 }))

end Sys2Proof.Machine
end

