-- ==== Sys2Proof/Machine/Xlane.lean ====
section
/-! DEFINITION. Cross-lane instructions (R293 to R296) and the gust generator (R366). -/

namespace Sys2Proof.Machine

open Sys2Proof

/-! ## Shuffles (R293) -/

inductive Shfl where
  | idx | up | dn | xor
deriving DecidableEq, Repr

/-- The source lane of lane `l` for index `y` in a strand of width `w`. -/
def Shfl.source (k : Shfl) (w l y : Nat) : Nat :=
  match k with
  | .idx => y % w
  | .up => if y ≤ l then l - y else l
  | .dn => if l + y < w then l + y else l
  | .xor => l ^^^ (y % w)

/-- The lane is live. -/
def Strand.isLive (st : Strand) (l : Nat) : Bool := (st.lane l).status == .live

def Strand.shflLane (st : Strand) (k : Shfl) (v : Adverb) (b : BitVec 7) (l : Nat) : Nat :=
  k.source st.width l (st.word l (bReg v b)).toNat

/-- The index word of the reading lane, and the word of a source lane that is live. -/
def usesShfl (k : Shfl) (v : Adverb) (d a b : BitVec 7) : Uses :=
  { srcs := [srcB v b], dsts := [dstD v d], also := [{ reg := aReg v a, field := 1 }],
    more := fun st l =>
      let x := st.shflLane k v b l
      if st.isLive x then [regKey x (aReg v a)] else [],
    moreTrap := (modOf v).tea }

def State.shuffle (s : State) (k : Shfl) (v : Adverb) (d a b : BitVec 7) : Result :=
  s.compute (usesShfl k v d a b) fun st _ l =>
    let x := st.shflLane k v b l
    Out.one (dReg v d) (if st.isLive x then st.word x (aReg v a) else 0)

def execShflIdx (d a b : BitVec 7) (v : Adverb) (s : State) : Result := s.shuffle .idx v d a b

def execShflUp (d a b : BitVec 7) (v : Adverb) (s : State) : Result := s.shuffle .up v d a b

def execShflDn (d a b : BitVec 7) (v : Adverb) (s : State) : Result := s.shuffle .dn v d a b

def execShflXor (d a b : BitVec 7) (v : Adverb) (s : State) : Result := s.shuffle .xor v d a b

/-! ## Votes, ballots, reductions (R295) -/

/-- The words of register `a` in the active lanes, with their lanes. -/
def Strand.column (st : Strand) (ls : List Nat) (r : Nat) : List (Nat × Word) := ls.map fun l => (l, st.word l r)

/-- Every active lane receives one word computed from all of them. -/
def State.gather (s : State) (v : Adverb) (d a : BitVec 7) (f : List Word → Word) : Result :=
  s.compute { usesR1 v d a with across := true } fun st ls _ =>
    Out.one (dReg v d) (f ((st.column ls (aReg v a)).map fun x => x.2))

/-- Bit j of the result is set when lane j is active and `p` holds of its word. -/
def laneMask (xs : List (Nat × Word)) (p : Word → Bool) : Dword :=
  BitVec.ofNat 64 (maskOf ((xs.filter fun x => p x.2).map fun x => x.1))

def State.gatherMask (s : State) (v : Adverb) (d a : BitVec 7) (p : Word → Word → Bool) : Result :=
  s.compute { usesR1 v d a with dsts := [(dstD v d).pair], across := true } fun st ls l =>
    Out.two (dReg v d) (laneMask (st.column ls (aReg v a)) (p (st.word l (aReg v a))))

/-- The reduction of a nonempty list. -/
def reduce (f : Word → Word → Word) : List Word → Word
  | [] => 0
  | x :: xs => xs.foldl f x

def execVoteAny (d a : BitVec 7) (v : Adverb) (s : State) : Result :=
  s.gather v d a fun xs => truth (xs.any fun x => x != 0)

def execVoteAll (d a : BitVec 7) (v : Adverb) (s : State) : Result :=
  s.gather v d a fun xs => truth (xs.all fun x => x != 0)

def execVoteEq (d a : BitVec 7) (v : Adverb) (s : State) : Result :=
  s.gather v d a fun xs => truth (xs.all fun x => some x == xs.head?)

def execBallot (d a : BitVec 7) (v : Adverb) (s : State) : Result := s.gatherMask v d a fun _ x => x != 0

def execReduxAdd (d a : BitVec 7) (v : Adverb) (s : State) : Result := s.gather v d a (reduce (· + ·))

def execReduxMin (d a : BitVec 7) (v : Adverb) (s : State) : Result := s.gather v d a (reduce minSigned)

def execReduxMax (d a : BitVec 7) (v : Adverb) (s : State) : Result := s.gather v d a (reduce maxSigned)

def execReduxMinn (d a : BitVec 7) (v : Adverb) (s : State) : Result := s.gather v d a (reduce minUnsigned)

def execReduxMaxn (d a : BitVec 7) (v : Adverb) (s : State) : Result := s.gather v d a (reduce maxUnsigned)

def execReduxAnd (d a : BitVec 7) (v : Adverb) (s : State) : Result := s.gather v d a (reduce (· &&& ·))

def execReduxOr (d a : BitVec 7) (v : Adverb) (s : State) : Result := s.gather v d a (reduce (· ||| ·))

def execMatchLanes (d a : BitVec 7) (v : Adverb) (s : State) : Result := s.gatherMask v d a fun y x => x == y

/-! ## Random numbers (R188, R189, R366) -/

/-- Four words as one number, the low word first. -/
def Strand.words128 (st : Strand) (l r : Nat) : BitVec 128 :=
  st.word l (r + 3) ++ st.word l (r + 2) ++ st.word l (r + 1) ++ st.word l r

/-- The words of a 128-bit counter written from register `r` on. -/
def quadWords (r : Nat) (x : BitVec 128) : List (Nat × Word) :=
  (List.range 4).map fun i => (r + i, x.extractLsb' (32 * i) 32)

def execRng (d a : BitVec 7) (v : Adverb) (s : State) : Result :=
  let g := aReg v a
  s.compute { srcs := [(srcA v a).group 8], dsts := [{ reg := g + 4, n := 4, field := 1 }, dstD v d] } fun st _ l =>
    let w (i : Nat) := st.word l (g + i)
    { words := quadWords (g + 4) (st.words128 l (g + 4) + 1) ++
        [(dReg v d, gust (w 0) (w 1) (w 2) (w 3) (w 4) (w 5) (w 6) (w 7))] }

def execRngsk (a b : BitVec 7) (v : Adverb) (s : State) : Result :=
  let g := aReg v a
  s.compute { srcs := [(srcA v a).group 8, (srcB v b).group 4], dsts := [{ reg := g + 4, n := 4, field := 1 }] }
    fun st _ l => { words := quadWords (g + 4) (st.words128 l (g + 4) + st.words128 l (bReg v b)) }

end Sys2Proof.Machine
end

