-- ==== Sys2Proof/Machine/Dispatch.lean ====
section
/-! DEFINITION. The dispatch: one arm for each constructor of `Instr`, each one direct call of its meaning. -/

namespace Sys2Proof.Machine

open Sys2Proof

def exec (i : Instr) (s : State) : Host.Outcome State Fault Refusal :=
  match i with
  | .nopHalfword => Sys2Proof.Machine.execNopHalfword s
  | .movShort im src d => Sys2Proof.Machine.execMovShort im src d s
  | .addShort im src d => Sys2Proof.Machine.execAddShort im src d s
  | .subShort im src d => Sys2Proof.Machine.execSubShort im src d s
  | .mulloShort im src d => Sys2Proof.Machine.execMulloShort im src d s
  | .andShort im src d => Sys2Proof.Machine.execAndShort im src d s
  | .orShort im src d => Sys2Proof.Machine.execOrShort im src d s
  | .xorShort im src d => Sys2Proof.Machine.execXorShort im src d s
  | .shlShort im src d => Sys2Proof.Machine.execShlShort im src d s
  | .shrShort im src d => Sys2Proof.Machine.execShrShort im src d s
  | .shaShort im src d => Sys2Proof.Machine.execShaShort im src d s
  | .minShort im src d => Sys2Proof.Machine.execMinShort im src d s
  | .maxShort im src d => Sys2Proof.Machine.execMaxShort im src d s
  | .faddShort im src d => Sys2Proof.Machine.execFaddShort im src d s
  | .fsubShort im src d => Sys2Proof.Machine.execFsubShort im src d s
  | .fmulShort im src d => Sys2Proof.Machine.execFmulShort im src d s
  | .fmaxShort im src d => Sys2Proof.Machine.execFmaxShort im src d s
  | .add d a b adv => Sys2Proof.Machine.execAdd d a b adv s
  | .sub d a b adv => Sys2Proof.Machine.execSub d a b adv s
  | .mullo d a b adv => Sys2Proof.Machine.execMullo d a b adv s
  | .mulhi d a b adv => Sys2Proof.Machine.execMulhi d a b adv s
  | .mulhin d a b adv => Sys2Proof.Machine.execMulhin d a b adv s
  | .min d a b adv => Sys2Proof.Machine.execMin d a b adv s
  | .max d a b adv => Sys2Proof.Machine.execMax d a b adv s
  | .minn d a b adv => Sys2Proof.Machine.execMinn d a b adv s
  | .maxn d a b adv => Sys2Proof.Machine.execMaxn d a b adv s
  | .and d a b adv => Sys2Proof.Machine.execAnd d a b adv s
  | .or d a b adv => Sys2Proof.Machine.execOr d a b adv s
  | .xor d a b adv => Sys2Proof.Machine.execXor d a b adv s
  | .andn d a b adv => Sys2Proof.Machine.execAndn d a b adv s
  | .shl d a b adv => Sys2Proof.Machine.execShl d a b adv s
  | .shr d a b adv => Sys2Proof.Machine.execShr d a b adv s
  | .sha d a b adv => Sys2Proof.Machine.execSha d a b adv s
  | .rotl d a b adv => Sys2Proof.Machine.execRotl d a b adv s
  | .rotr d a b adv => Sys2Proof.Machine.execRotr d a b adv s
  | .funl d a b adv => Sys2Proof.Machine.execFunl d a b adv s
  | .funr d a b adv => Sys2Proof.Machine.execFunr d a b adv s
  | .bfe d a b adv => Sys2Proof.Machine.execBfe d a b adv s
  | .bfen d a b adv => Sys2Proof.Machine.execBfen d a b adv s
  | .bfi d a b adv => Sys2Proof.Machine.execBfi d a b adv s
  | .popc d a adv => Sys2Proof.Machine.execPopc d a adv s
  | .clz d a adv => Sys2Proof.Machine.execClz d a adv s
  | .ctz d a adv => Sys2Proof.Machine.execCtz d a adv s
  | .brev d a adv => Sys2Proof.Machine.execBrev d a adv s
  | .permb d a b adv => Sys2Proof.Machine.execPermb d a b adv s
  | .abs d a adv => Sys2Proof.Machine.execAbs d a adv s
  | .sel d a b adv => Sys2Proof.Machine.execSel d a b adv s
  | .addi d a imm adv => Sys2Proof.Machine.execAddi d a imm adv s
  | .andi d a imm adv => Sys2Proof.Machine.execAndi d a imm adv s
  | .ori d a imm adv => Sys2Proof.Machine.execOri d a imm adv s
  | .xori d a imm adv => Sys2Proof.Machine.execXori d a imm adv s
  | .shli d a imm adv => Sys2Proof.Machine.execShli d a imm adv s
  | .shri d a imm adv => Sys2Proof.Machine.execShri d a imm adv s
  | .shai d a imm adv => Sys2Proof.Machine.execShai d a imm adv s
  | .muli d a imm adv => Sys2Proof.Machine.execMuli d a imm adv s
  | .cmpEq d a b adv => Sys2Proof.Machine.execCmpEq d a b adv s
  | .cmpNe d a b adv => Sys2Proof.Machine.execCmpNe d a b adv s
  | .cmpLt d a b adv => Sys2Proof.Machine.execCmpLt d a b adv s
  | .cmpLe d a b adv => Sys2Proof.Machine.execCmpLe d a b adv s
  | .cmpGt d a b adv => Sys2Proof.Machine.execCmpGt d a b adv s
  | .cmpGe d a b adv => Sys2Proof.Machine.execCmpGe d a b adv s
  | .cmpLtn d a b adv => Sys2Proof.Machine.execCmpLtn d a b adv s
  | .cmpLen d a b adv => Sys2Proof.Machine.execCmpLen d a b adv s
  | .cmpGtn d a b adv => Sys2Proof.Machine.execCmpGtn d a b adv s
  | .cmpGen d a b adv => Sys2Proof.Machine.execCmpGen d a b adv s
  | .cmpiEq d a imm adv => Sys2Proof.Machine.execCmpiEq d a imm adv s
  | .cmpiNe d a imm adv => Sys2Proof.Machine.execCmpiNe d a imm adv s
  | .cmpiLt d a imm adv => Sys2Proof.Machine.execCmpiLt d a imm adv s
  | .cmpiLe d a imm adv => Sys2Proof.Machine.execCmpiLe d a imm adv s
  | .cmpiGt d a imm adv => Sys2Proof.Machine.execCmpiGt d a imm adv s
  | .cmpiGe d a imm adv => Sys2Proof.Machine.execCmpiGe d a imm adv s
  | .cmpiLtn d a imm adv => Sys2Proof.Machine.execCmpiLtn d a imm adv s
  | .cmpiGen d a imm adv => Sys2Proof.Machine.execCmpiGen d a imm adv s
  | .addx d a b adv => Sys2Proof.Machine.execAddx d a b adv s
  | .subx d a b adv => Sys2Proof.Machine.execSubx d a b adv s
  | .mulx d a b adv => Sys2Proof.Machine.execMulx d a b adv s
  | .mulxn d a b adv => Sys2Proof.Machine.execMulxn d a b adv s
  | .shlx d a b adv => Sys2Proof.Machine.execShlx d a b adv s
  | .shrx d a b adv => Sys2Proof.Machine.execShrx d a b adv s
  | .shax d a b adv => Sys2Proof.Machine.execShax d a b adv s
  | .cmpxEq d a b adv => Sys2Proof.Machine.execCmpxEq d a b adv s
  | .cmpxLt d a b adv => Sys2Proof.Machine.execCmpxLt d a b adv s
  | .cmpxLtn d a b adv => Sys2Proof.Machine.execCmpxLtn d a b adv s
  | .div d a b adv => Sys2Proof.Machine.execDiv d a b adv s
  | .divn d a b adv => Sys2Proof.Machine.execDivn d a b adv s
  | .rem d a b adv => Sys2Proof.Machine.execRem d a b adv s
  | .remn d a b adv => Sys2Proof.Machine.execRemn d a b adv s
  | .movi d imm adv => Sys2Proof.Machine.execMovi d imm adv s
  | .lui d imm adv => Sys2Proof.Machine.execLui d imm adv s
  | .adr d imm adv => Sys2Proof.Machine.execAdr d imm adv s
  | .safept imm => Sys2Proof.Machine.execSafept imm s
  | .fadd d a b adv => Sys2Proof.Machine.execFadd d a b adv s
  | .fsub d a b adv => Sys2Proof.Machine.execFsub d a b adv s
  | .fmul d a b adv => Sys2Proof.Machine.execFmul d a b adv s
  | .ffma d a b adv => Sys2Proof.Machine.execFfma d a b adv s
  | .fmin d a b adv => Sys2Proof.Machine.execFmin d a b adv s
  | .fmax d a b adv => Sys2Proof.Machine.execFmax d a b adv s
  | .fminnum d a b adv => Sys2Proof.Machine.execFminnum d a b adv s
  | .fmaxnum d a b adv => Sys2Proof.Machine.execFmaxnum d a b adv s
  | .fdiv d a b adv => Sys2Proof.Machine.execFdiv d a b adv s
  | .fcpys d a b adv => Sys2Proof.Machine.execFcpys d a b adv s
  | .fldexp d a b adv => Sys2Proof.Machine.execFldexp d a b adv s
  | .fsqrt d a adv => Sys2Proof.Machine.execFsqrt d a adv s
  | .frcp d a adv => Sys2Proof.Machine.execFrcp d a adv s
  | .frsq d a adv => Sys2Proof.Machine.execFrsq d a adv s
  | .fexp2 d a adv => Sys2Proof.Machine.execFexp2 d a adv s
  | .flog2 d a adv => Sys2Proof.Machine.execFlog2 d a adv s
  | .fsinpi d a adv => Sys2Proof.Machine.execFsinpi d a adv s
  | .fcospi d a adv => Sys2Proof.Machine.execFcospi d a adv s
  | .ftanh d a adv => Sys2Proof.Machine.execFtanh d a adv s
  | .ffract d a adv => Sys2Proof.Machine.execFfract d a adv s
  | .frnd d a adv => Sys2Proof.Machine.execFrnd d a adv s
  | .fclass d a adv => Sys2Proof.Machine.execFclass d a adv s
  | .fcmpEq d a b adv => Sys2Proof.Machine.execFcmpEq d a b adv s
  | .fcmpNe d a b adv => Sys2Proof.Machine.execFcmpNe d a b adv s
  | .fcmpLt d a b adv => Sys2Proof.Machine.execFcmpLt d a b adv s
  | .fcmpLe d a b adv => Sys2Proof.Machine.execFcmpLe d a b adv s
  | .fcmpGt d a b adv => Sys2Proof.Machine.execFcmpGt d a b adv s
  | .fcmpGe d a b adv => Sys2Proof.Machine.execFcmpGe d a b adv s
  | .fcmpUn d a b adv => Sys2Proof.Machine.execFcmpUn d a b adv s
  | .fcmpOrd d a b adv => Sys2Proof.Machine.execFcmpOrd d a b adv s
  | .hadd2 d a b adv => Sys2Proof.Machine.execHadd2 d a b adv s
  | .hsub2 d a b adv => Sys2Proof.Machine.execHsub2 d a b adv s
  | .hmul2 d a b adv => Sys2Proof.Machine.execHmul2 d a b adv s
  | .hfma2 d a b adv => Sys2Proof.Machine.execHfma2 d a b adv s
  | .hmin2 d a b adv => Sys2Proof.Machine.execHmin2 d a b adv s
  | .hmax2 d a b adv => Sys2Proof.Machine.execHmax2 d a b adv s
  | .hdot2 d a b adv => Sys2Proof.Machine.execHdot2 d a b adv s
  | .badd2 d a b adv => Sys2Proof.Machine.execBadd2 d a b adv s
  | .bsub2 d a b adv => Sys2Proof.Machine.execBsub2 d a b adv s
  | .bmul2 d a b adv => Sys2Proof.Machine.execBmul2 d a b adv s
  | .bfma2 d a b adv => Sys2Proof.Machine.execBfma2 d a b adv s
  | .bmin2 d a b adv => Sys2Proof.Machine.execBmin2 d a b adv s
  | .bmax2 d a b adv => Sys2Proof.Machine.execBmax2 d a b adv s
  | .bdot2 d a b adv => Sys2Proof.Machine.execBdot2 d a b adv s
  | .dadd d a b adv => Sys2Proof.Machine.execDadd d a b adv s
  | .dsub d a b adv => Sys2Proof.Machine.execDsub d a b adv s
  | .dmul d a b adv => Sys2Proof.Machine.execDmul d a b adv s
  | .dfma d a b adv => Sys2Proof.Machine.execDfma d a b adv s
  | .ddiv d a b adv => Sys2Proof.Machine.execDdiv d a b adv s
  | .dsqrt d a adv => Sys2Proof.Machine.execDsqrt d a adv s
  | .dmin d a b adv => Sys2Proof.Machine.execDmin d a b adv s
  | .dmax d a b adv => Sys2Proof.Machine.execDmax d a b adv s
  | .dcmpEq d a b adv => Sys2Proof.Machine.execDcmpEq d a b adv s
  | .dcmpLt d a b adv => Sys2Proof.Machine.execDcmpLt d a b adv s
  | .dcmpLe d a b adv => Sys2Proof.Machine.execDcmpLe d a b adv s
  | .dcmpUn d a b adv => Sys2Proof.Machine.execDcmpUn d a b adv s
  | .cvt y x d a adv => Sys2Proof.Machine.execCvt y x d a adv s
  | .qpack4 d a b adv => Sys2Proof.Machine.execQpack4 d a b adv s
  | .qpack8e4 d a b adv => Sys2Proof.Machine.execQpack8e4 d a b adv s
  | .qpack8e5 d a b adv => Sys2Proof.Machine.execQpack8e5 d a b adv s
  | .qunpk4 d a b adv => Sys2Proof.Machine.execQunpk4 d a b adv s
  | .scacc d a b adv => Sys2Proof.Machine.execScacc d a b adv s
  | .scamax d a b adv => Sys2Proof.Machine.execScamax d a b adv s
  | .qalign d a b adv => Sys2Proof.Machine.execQalign d a b adv s
  | .shflIdx d a b adv => Sys2Proof.Machine.execShflIdx d a b adv s
  | .shflUp d a b adv => Sys2Proof.Machine.execShflUp d a b adv s
  | .shflDn d a b adv => Sys2Proof.Machine.execShflDn d a b adv s
  | .shflXor d a b adv => Sys2Proof.Machine.execShflXor d a b adv s
  | .voteAny d a adv => Sys2Proof.Machine.execVoteAny d a adv s
  | .voteAll d a adv => Sys2Proof.Machine.execVoteAll d a adv s
  | .voteEq d a adv => Sys2Proof.Machine.execVoteEq d a adv s
  | .ballot d a adv => Sys2Proof.Machine.execBallot d a adv s
  | .reduxAdd d a adv => Sys2Proof.Machine.execReduxAdd d a adv s
  | .reduxMin d a adv => Sys2Proof.Machine.execReduxMin d a adv s
  | .reduxMax d a adv => Sys2Proof.Machine.execReduxMax d a adv s
  | .reduxMinn d a adv => Sys2Proof.Machine.execReduxMinn d a adv s
  | .reduxMaxn d a adv => Sys2Proof.Machine.execReduxMaxn d a adv s
  | .reduxAnd d a adv => Sys2Proof.Machine.execReduxAnd d a adv s
  | .reduxOr d a adv => Sys2Proof.Machine.execReduxOr d a adv s
  | .matchLanes d a adv => Sys2Proof.Machine.execMatchLanes d a adv s
  | .ldI8 t a off adv => Sys2Proof.Machine.execLdI8 t a off adv s
  | .ldN8 t a off adv => Sys2Proof.Machine.execLdN8 t a off adv s
  | .ldI16 t a off adv => Sys2Proof.Machine.execLdI16 t a off adv s
  | .ldN16 t a off adv => Sys2Proof.Machine.execLdN16 t a off adv s
  | .ldB32 t a off adv => Sys2Proof.Machine.execLdB32 t a off adv s
  | .ldB64 t a off adv => Sys2Proof.Machine.execLdB64 t a off adv s
  | .ldB128 t a off adv => Sys2Proof.Machine.execLdB128 t a off adv s
  | .ldcon t a off adv => Sys2Proof.Machine.execLdcon t a off adv s
  | .stB8 t a off adv => Sys2Proof.Machine.execStB8 t a off adv s
  | .stB16 t a off adv => Sys2Proof.Machine.execStB16 t a off adv s
  | .stB32 t a off adv => Sys2Proof.Machine.execStB32 t a off adv s
  | .stB64 t a off adv => Sys2Proof.Machine.execStB64 t a off adv s
  | .stB128 t a off adv => Sys2Proof.Machine.execStB128 t a off adv s
  | .ldsI8 t a off adv => Sys2Proof.Machine.execLdsI8 t a off adv s
  | .ldsN8 t a off adv => Sys2Proof.Machine.execLdsN8 t a off adv s
  | .ldsI16 t a off adv => Sys2Proof.Machine.execLdsI16 t a off adv s
  | .ldsN16 t a off adv => Sys2Proof.Machine.execLdsN16 t a off adv s
  | .ldsB32 t a off adv => Sys2Proof.Machine.execLdsB32 t a off adv s
  | .ldsB64 t a off adv => Sys2Proof.Machine.execLdsB64 t a off adv s
  | .ldsB128 t a off adv => Sys2Proof.Machine.execLdsB128 t a off adv s
  | .stsB8 t a off adv => Sys2Proof.Machine.execStsB8 t a off adv s
  | .stsB16 t a off adv => Sys2Proof.Machine.execStsB16 t a off adv s
  | .stsB32 t a off adv => Sys2Proof.Machine.execStsB32 t a off adv s
  | .stsB64 t a off adv => Sys2Proof.Machine.execStsB64 t a off adv s
  | .stsB128 t a off adv => Sys2Proof.Machine.execStsB128 t a off adv s
  | .atomAdd d a b adv => Sys2Proof.Machine.execAtomAdd d a b adv s
  | .atomMin d a b adv => Sys2Proof.Machine.execAtomMin d a b adv s
  | .atomMax d a b adv => Sys2Proof.Machine.execAtomMax d a b adv s
  | .atomMinn d a b adv => Sys2Proof.Machine.execAtomMinn d a b adv s
  | .atomMaxn d a b adv => Sys2Proof.Machine.execAtomMaxn d a b adv s
  | .atomAnd d a b adv => Sys2Proof.Machine.execAtomAnd d a b adv s
  | .atomOr d a b adv => Sys2Proof.Machine.execAtomOr d a b adv s
  | .atomXor d a b adv => Sys2Proof.Machine.execAtomXor d a b adv s
  | .atomXchg d a b adv => Sys2Proof.Machine.execAtomXchg d a b adv s
  | .atomCas d a b adv => Sys2Proof.Machine.execAtomCas d a b adv s
  | .atomFadd d a b adv => Sys2Proof.Machine.execAtomFadd d a b adv s
  | .atomLdres d a adv => Sys2Proof.Machine.execAtomLdres d a adv s
  | .atomStcond d a b adv => Sys2Proof.Machine.execAtomStcond d a b adv s
  | .atomAappend d a b adv => Sys2Proof.Machine.execAtomAappend d a b adv s
  | .bar adv => Sys2Proof.Machine.execBar adv s
  | .tbar adv => Sys2Proof.Machine.execTbar adv s
  | .fenceSc adv => Sys2Proof.Machine.execFenceSc adv s
  | .fenceAr adv => Sys2Proof.Machine.execFenceAr adv s
  | .acq d a adv => Sys2Proof.Machine.execAcq d a adv s
  | .rel a b adv => Sys2Proof.Machine.execRel a b adv s
  | .ticketTake a adv => Sys2Proof.Machine.execTicketTake a adv s
  | .ticketWait a b adv => Sys2Proof.Machine.execTicketWait a b adv s
  | .ticketDecl a adv => Sys2Proof.Machine.execTicketDecl a adv s
  | .publish adv => Sys2Proof.Machine.execPublish adv s
  | .seal d adv => Sys2Proof.Machine.execSeal d adv s
  | .rally => Sys2Proof.Machine.execRally s
  | .yield => Sys2Proof.Machine.execYield s
  | .mgang a adv => Sys2Proof.Machine.execMgang a adv s
  | .mmaF64 ctl a b adv => Sys2Proof.Machine.execMmaF64 ctl a b adv s
  | .mmaF32 ctl a b adv => Sys2Proof.Machine.execMmaF32 ctl a b adv s
  | .mmaBf16 ctl a b adv => Sys2Proof.Machine.execMmaBf16 ctl a b adv s
  | .mmaF16 ctl a b adv => Sys2Proof.Machine.execMmaF16 ctl a b adv s
  | .mmaF8e4 ctl a b adv => Sys2Proof.Machine.execMmaF8e4 ctl a b adv s
  | .mmaF8e5 ctl a b adv => Sys2Proof.Machine.execMmaF8e5 ctl a b adv s
  | .mmaF4 ctl a b adv => Sys2Proof.Machine.execMmaF4 ctl a b adv s
  | .mmaI8 ctl a b adv => Sys2Proof.Machine.execMmaI8 ctl a b adv s
  | .mscale ctl a b adv => Sys2Proof.Machine.execMscale ctl a b adv s
  | .accz ctl adv => Sys2Proof.Machine.execAccz ctl adv s
  | .accld ctl a adv => Sys2Proof.Machine.execAccld ctl a adv s
  | .accst ctl a adv => Sys2Proof.Machine.execAccst ctl a adv s
  | .accsp ctl a adv => Sys2Proof.Machine.execAccsp ctl a adv s
  | .cpy4 d a b adv => Sys2Proof.Machine.execCpy4 d a b adv s
  | .cpy8 d a b adv => Sys2Proof.Machine.execCpy8 d a b adv s
  | .cpy16 d a b adv => Sys2Proof.Machine.execCpy16 d a b adv s
  | .cpyt d a adv => Sys2Proof.Machine.execCpyt d a adv s
  | .cpyz d a adv => Sys2Proof.Machine.execCpyz d a adv s
  | .cpyx d a adv => Sys2Proof.Machine.execCpyx d a adv s
  | .coll d a adv => Sys2Proof.Machine.execColl d a adv s
  | .htest d a adv => Sys2Proof.Machine.execHtest d a adv s
  | .hcancel a adv => Sys2Proof.Machine.execHcancel a adv s
  | .stgarm a b adv => Sys2Proof.Machine.execStgarm a b adv s
  | .stgwait a b adv => Sys2Proof.Machine.execStgwait a b adv s
  | .stgflip a b adv => Sys2Proof.Machine.execStgflip a b adv s
  | .ckpt d a adv => Sys2Proof.Machine.execCkpt d a adv s
  | .fork d a b adv => Sys2Proof.Machine.execFork d a b adv s
  | .join a adv => Sys2Proof.Machine.execJoin a adv s
  | .viewq d a adv => Sys2Proof.Machine.execViewq d a adv s
  | .rng d a adv => Sys2Proof.Machine.execRng d a adv s
  | .rngsk a b adv => Sys2Proof.Machine.execRngsk a b adv s
  | .bnz p off adv => Sys2Proof.Machine.execBnz p off adv s
  | .bz p off adv => Sys2Proof.Machine.execBz p off adv s
  | .bany p off adv => Sys2Proof.Machine.execBany p off adv s
  | .ball p off adv => Sys2Proof.Machine.execBall p off adv s
  | .bnone p off adv => Sys2Proof.Machine.execBnone p off adv s
  | .jmpl off => Sys2Proof.Machine.execJmpl off s
  | .calll off => Sys2Proof.Machine.execCalll off s
  | .srd d sel adv => Sys2Proof.Machine.execSrd d sel adv s
  | .swr d sel adv => Sys2Proof.Machine.execSwr d sel adv s
  | .jmpr d adv => Sys2Proof.Machine.execJmpr d adv s
  | .callr d adv => Sys2Proof.Machine.execCallr d adv s
  | .ret => Sys2Proof.Machine.execRet s
  | .brx d sel adv => Sys2Proof.Machine.execBrx d sel adv s
  | .exit => Sys2Proof.Machine.execExit s
  | .trap d sel adv => Sys2Proof.Machine.execTrap d sel adv s
  | .nop => Sys2Proof.Machine.execNop s
  | .flush d sel adv => Sys2Proof.Machine.execFlush d sel adv s
  | .inval d sel adv => Sys2Proof.Machine.execInval d sel adv s
  | .range d sel adv => Sys2Proof.Machine.execRange d sel adv s
  | .evt d sel adv => Sys2Proof.Machine.execEvt d sel adv s
  | .halt => Sys2Proof.Machine.execHalt s
  | .moduleReset => Sys2Proof.Machine.execModuleReset s
  | .port1Reset => Sys2Proof.Machine.execPort1Reset s
  | .hostLinkDown port => Sys2Proof.Machine.execHostLinkDown port s
  | .hostLinkUp port => Sys2Proof.Machine.execHostLinkUp port s
  | .lqdoor port queue prod => Sys2Proof.Machine.execLqdoor port queue prod s
  | .launchRecordRead port queue => Sys2Proof.Machine.execLaunchRecordRead port queue s
  | .launchAdmit => Sys2Proof.Machine.execLaunchAdmit s
  | .blockDispatch grid blk core => Sys2Proof.Machine.execBlockDispatch grid blk core s
  | .registerCompaction core => Sys2Proof.Machine.execRegisterCompaction core s
  | .preemptForPriority grid => Sys2Proof.Machine.execPreemptForPriority grid s
  | .blockSave blk => Sys2Proof.Machine.execBlockSave blk s
  | .blockResume blk core => Sys2Proof.Machine.execBlockResume blk core s
  | .blockEnd blk => Sys2Proof.Machine.execBlockEnd blk s
  | .launchRetire grid => Sys2Proof.Machine.execLaunchRetire grid s
  | .fairnessTimerExpiry blk strand quad => Sys2Proof.Machine.execFairnessTimerExpiry blk strand quad s
  | .rallyTimeout blk strand => Sys2Proof.Machine.execRallyTimeout blk strand s
  | .predicateResolve blk strand => Sys2Proof.Machine.execPredicateResolve blk strand s
  | .candidatePromotion blk strand => Sys2Proof.Machine.execCandidatePromotion blk strand s
  | .budgetPeriod die => Sys2Proof.Machine.execBudgetPeriod die s
  | .safePointOverdue => Sys2Proof.Machine.execSafePointOverdue s
  | .l1DirtyWriteback core line => Sys2Proof.Machine.execL1DirtyWriteback core line s
  | .tlbiPage die job => Sys2Proof.Machine.execTlbiPage die job s
  | .tlbiJob die job => Sys2Proof.Machine.execTlbiJob die job s
  | .tlbiAll die => Sys2Proof.Machine.execTlbiAll die s
  | .tlbiDone die => Sys2Proof.Machine.execTlbiDone die s
  | .migration job va stack frame => Sys2Proof.Machine.execMigration job va stack frame s
  | .childFold fork child => Sys2Proof.Machine.execChildFold fork child s
  | .copyComplete blk slot => Sys2Proof.Machine.execCopyComplete blk slot s
  | .multicastDelivery blk slot lane target => Sys2Proof.Machine.execMulticastDelivery blk slot lane target s
  | .compressComplete blk slot => Sys2Proof.Machine.execCompressComplete blk slot s
  | .collChunkReceive blk slot lane peer chunk data => Sys2Proof.Machine.execCollChunkReceive blk slot lane peer chunk data s
  | .ckptComplete blk slot => Sys2Proof.Machine.execCkptComplete blk slot s
  | .matrixExecute blk fate => Sys2Proof.Machine.execMatrixExecute blk fate s
  | .orderedRequestRelease blk strand => Sys2Proof.Machine.execOrderedRequestRelease blk strand s
  | .squallSwitchOut job => Sys2Proof.Machine.execSquallSwitchOut job s
  | .squallResume job => Sys2Proof.Machine.execSquallResume job s
  | .squallMarker flit => Sys2Proof.Machine.execSquallMarker flit s
  | .latePacket flit => Sys2Proof.Machine.execLatePacket flit s
  | .readRequest flit => Sys2Proof.Machine.execReadRequest flit s
  | .readResponse flit => Sys2Proof.Machine.execReadResponse flit s
  | .remoteWrite flit => Sys2Proof.Machine.execRemoteWrite flit s
  | .writeAcknowledgement flit => Sys2Proof.Machine.execWriteAcknowledgement flit s
  | .remoteAtomic flit => Sys2Proof.Machine.execRemoteAtomic flit s
  | .atomicResponse flit => Sys2Proof.Machine.execAtomicResponse flit s
  | .receiverNotReady flit => Sys2Proof.Machine.execReceiverNotReady flit s
  | .rnrRetry tag => Sys2Proof.Machine.execRnrRetry tag s
  | .bufferRelease flit => Sys2Proof.Machine.execBufferRelease flit s
  | .keyMarker flit => Sys2Proof.Machine.execKeyMarker flit s
  | .drainMarker flit => Sys2Proof.Machine.execDrainMarker flit s
  | .idleFlit flit => Sys2Proof.Machine.execIdleFlit flit s
  | .relayForward flit => Sys2Proof.Machine.execRelayForward flit s
  | .bufferReleaseTimer port => Sys2Proof.Machine.execBufferReleaseTimer port s
  | .linkRetryTimeout port vc => Sys2Proof.Machine.execLinkRetryTimeout port vc s
  | .linkTrained port peer => Sys2Proof.Machine.execLinkTrained port peer s
  | .linkTrainingLost port => Sys2Proof.Machine.execLinkTrainingLost port s
  | .portDown port => Sys2Proof.Machine.execPortDown port s
  | .routeWaitTimeout tag => Sys2Proof.Machine.execRouteWaitTimeout tag s
  | .rtgenSwitch gen => Sys2Proof.Machine.execRtgenSwitch gen s
  | .wcbLullExpiry core line => Sys2Proof.Machine.execWcbLullExpiry core line s
  | .keySwitchRequest port => Sys2Proof.Machine.execKeySwitchRequest port s
  | .keySwitchCount port => Sys2Proof.Machine.execKeySwitchCount port s
  | .keyCounterLimit port => Sys2Proof.Machine.execKeyCounterLimit port s
  | .keyLoad port slot => Sys2Proof.Machine.execKeyLoad port slot s
  | .bar2Read port offset bytes => Sys2Proof.Machine.execBar2Read port offset bytes s
  | .bar2Write port offset data => Sys2Proof.Machine.execBar2Write port offset data s
  | .hostReadCompletion tag data => Sys2Proof.Machine.execHostReadCompletion tag data s
  | .hostReadTimeout tag => Sys2Proof.Machine.execHostReadTimeout tag s
  | .spareCorePair die unit => Sys2Proof.Machine.execSpareCorePair die unit s
  | .spareScratchpadBank die unit => Sys2Proof.Machine.execSpareScratchpadBank die unit s
  | .spareL2Slice die unit => Sys2Proof.Machine.execSpareL2Slice die unit s
  | .sparePseudoChannel die unit => Sys2Proof.Machine.execSparePseudoChannel die unit s
  | .spareFabricPort die unit => Sys2Proof.Machine.execSpareFabricPort die unit s
  | .spareDone => Sys2Proof.Machine.execSpareDone s
  | .autoSpare kind die unit => Sys2Proof.Machine.execAutoSpare kind die unit s
  | .freeze => Sys2Proof.Machine.execFreeze s
  | .scanRead port => Sys2Proof.Machine.execScanRead port s
  | .attestationRequest nonce => Sys2Proof.Machine.execAttestationRequest nonce s
  | .attestationReady => Sys2Proof.Machine.execAttestationReady s
  | .powerThermalCheck watts junction inlet => Sys2Proof.Machine.execPowerThermalCheck watts junction inlet s
  | .thermalHold => Sys2Proof.Machine.execThermalHold s
  | .thermalHoldRelease => Sys2Proof.Machine.execThermalHoldRelease s
  | .thermalTrip => Sys2Proof.Machine.execThermalTrip s
  | .jobabort job => Sys2Proof.Machine.execJobabort job s
  | .faultAnswerResume seq => Sys2Proof.Machine.execFaultAnswerResume seq s
  | .faultAnswerAbortBlock seq => Sys2Proof.Machine.execFaultAnswerAbortBlock seq s
  | .faultAnswerAbortGrid seq => Sys2Proof.Machine.execFaultAnswerAbortGrid seq s
  | .faultRingConsume cons => Sys2Proof.Machine.execFaultRingConsume cons s
  | .faultRingEnable log2n => Sys2Proof.Machine.execFaultRingEnable log2n s
  | .faultRingBase base => Sys2Proof.Machine.execFaultRingBase base s
  | .registerScrub blk strand word fate => Sys2Proof.Machine.execRegisterScrub blk strand word fate s
  | .patrolScrub unit fate => Sys2Proof.Machine.execPatrolScrub unit fate s
  | .registerWrite port offset bytes value => Sys2Proof.Machine.execRegisterWrite port offset bytes value s
  | .illegalEncoding cls sub addr => Sys2Proof.Machine.execIllegalEncoding cls sub addr s
  | .perstDeassertion port => Sys2Proof.Machine.execPerstDeassertion port s
  | .bootComplete reason => Sys2Proof.Machine.execBootComplete reason s

end Sys2Proof.Machine
end

