-- ==== Sys2Proof/Machine/Sched.lean ====
section
/-! DEFINITION. What the module's agents do on their own, in one fixed order (DESIGN CHOICE, log 1), the passing of
time, and the small machine that `State.withFetchWord` sets up. -/

namespace Sys2Proof.Machine

open Sys2Proof

/-! ## Agents other than the strands -/

/-- The first step of a list that changes the state. -/
def firstChange (s : State) : List (State → Result) → Option State
  | [] => none
  | f :: fs =>
    match f s with
    | .next t => if t == s then firstChange s fs else some t
    | .fault _ | .refused _ => firstChange s fs

/-- The first of 128 cores that `p` holds of. -/
def firstCore (p : Nat → Bool) : Option Nat := (List.range 128).find? p

/-- Launch queues, admission and dispatch. -/
def State.launchTurns (s : State) : List (State → Result) :=
  ((List.range 2).flatMap fun p => (List.range 64).filterMap fun q =>
    if (s.queue p q).pending != 0 then some (execLaunchRecordRead p q) else none) ++
  [execLaunchAdmit] ++
  (s.blocks.filter s.resumable).filterMap (fun b =>
    match s.grid? b.grid with
    | some g => (firstCore fun c => s.resumeRoom b g c).map fun c => execBlockResume b.key c
    | none => none) ++
  (s.grids.filter s.dispatches).flatMap fun g =>
    match s.nextBlock g, firstCore fun c => s.fitsAt c g.launch with
    | some i, some c => [execBlockDispatch g.key i c]
    | some _, none => [execPreemptForPriority g.key]
    | none, _ => []

/-- Steps of the engines for one block. -/
def Block.engineTurns (b : Block) : List (State → Result) :=
  (b.handles.filter fun h => !h.done).flatMap (fun h =>
    match h.op with
    | .lanes _ _ | .coll _ | .stopped _ => [execCopyComplete b.key h.slot]
    | .tile ds => execCopyComplete b.key h.slot ::
        ds.flatMap fun d => d.2.targets.map fun t => execMulticastDelivery b.key h.slot d.1 t
    | .pack _ | .expand _ => [execCompressComplete b.key h.slot]
    | .ckpt _ => [execCkptComplete b.key h.slot]
    | .batch _ | .fork _ | .idle => []) ++
  (if b.mat.isSome then [execMatrixExecute b.key .sound] else []) ++
  (List.range b.strands.length).map fun i => execOrderedRequestRelease b.key i

/-- Chunks of collectives that ranks of this module have sent to one another. -/
def State.mailTurns (s : State) : List (State → Result) :=
  s.blocks.flatMap fun b => b.handles.flatMap fun h =>
    match h.op with
    | .coll cs => cs.flatMap fun c =>
        (s.mail.filter fun m => m.receiver == c.2.this).map fun m =>
          execCollChunkReceive b.key h.slot c.1 m.sender m.chunk m.data
    | _ => []

/-- Ends of blocks, folds and launches; saves. -/
def State.endTurns (s : State) : List (State → Result) :=
  (s.blocks.flatMap fun b => [execBlockSave b.key, execBlockEnd b.key]) ++
  (s.forks.map fun f => execChildFold f.key f.folded) ++
  s.grids.map fun g => execLaunchRetire g.key

/-- The fabric, squalls and housekeeping. -/
def State.careTurns (s : State) : List (State → Result) :=
  (s.fabric.relay.map execRelayForward) ++
  (s.jobs.filterMap fun j =>
    if j.switching then some (execSquallSwitchOut j.job) else if j.resuming then some (execSquallResume j.job) else none) ++
  (if s.mgmt.spareBusy then [execSpareDone] else []) ++
  ((List.range 4).filterMap fun d => if (s.die d).tlbiBusy then some (execTlbiDone d) else none) ++
  (if s.mgmt.attBusy then [execAttestationReady] else []) ++
  (if s.mgmt.spareBusy then [] else s.wornUnits.map fun u => execAutoSpare u.1 u.2.1 u.2.2) ++
  [execThermalTrip, execThermalHold] ++ (if s.mgmt.hold then [execThermalHoldRelease] else []) ++
  if s.fabric.waiting.isEmpty && s.posted.isEmpty && s.barReads.isEmpty then [] else [fun s => .next s.retryWaiting]

/-- What the passing of time has brought about: budget periods, lines dirty for too long, RALLYs, lull timers, retries,
resends, buffer releases, reads and routes waited for too long, and promotions that are due. -/
def State.dueTurns (s : State) : List (State → Result) :=
  (((List.range 4).filter fun d => (s.die d).now != (s.die d).period).map execBudgetPeriod) ++
  ((List.range s.cores.length).flatMap fun c => (s.agedLines c).map (execL1DirtyWriteback c)) ++
  (s.blocks.flatMap fun b => ((List.range b.strands.length).filter fun i =>
    !((b.strand i).spentRallies (s.coreClock b.core)).isEmpty).map fun i => execRallyTimeout b.key i) ++
  ((List.range s.cores.length).flatMap fun c =>
    ((s.core c).wcb.filter fun e => e.sent.isNone && s.lullOver c e).map fun e => execWcbLullExpiry c (e.key / 128)) ++
  ((s.fabric.reqs.filter s.mayRetry).map fun r => execRnrRetry r.tag) ++
  ((List.range 24).flatMap fun p => ((List.range 4).filter (s.linkSilent p)).map (execLinkRetryTimeout p)) ++
  (((List.range 24).filter s.releaseDue).map execBufferReleaseTimer) ++
  ((s.hostReads.filter s.hostSilent).map fun r => execHostReadTimeout r.tag) ++
  ((s.fabric.reqs.filter s.routeLost).map fun r => execRouteWaitTimeout r.tag) ++
  s.blocks.flatMap fun b => ((List.range b.strands.length).filter fun i => s.mayIssue b && (b.strand i).overdue).map
    fun i => execCandidatePromotion b.key i

/-- Everything that agents other than the strands have to do. -/
def State.ownTurns (s : State) : List (State → Result) :=
  s.dueTurns ++ s.endTurns ++ (s.blocks.flatMap Block.engineTurns) ++ s.mailTurns ++ s.careTurns ++ s.launchTurns

/-! ## Time -/

/-- `n` core cycles pass; the clocks of a frozen module stand (R253). -/
def State.tick (s : State) (n : Nat) : State :=
  if s.clocksRun then { s with dies := s.dies.map fun d => { d with clock := d.clock + BitVec.ofNat 64 n } } else s

/-- One die's clock runs ahead of the others (R25). -/
def State.drift (s : State) (die n : Nat) : State :=
  if s.clocksRun then s.updDie die fun d => { d with clock := d.clock + BitVec.ofNat 64 n } else s

/-- The next strand that issues, once the partitions' turns have come to its own; a clock passes when they begin anew. -/
def State.select (s : State) : Option (Nat × Nat × State) :=
  s.nextStrand.map fun c =>
    let t := if c.2.2 ≤ s.selected then s.tick 1 else s
    (c.1, c.2.1, { t with selected := c.2.2 })

/-- Strands that share the issue slot of strand `i` (R40, R41): of the same kernel, partition and role, each a single gang at
the same program counter. Up to four 8-wide or two 16-wide strands are packed; two 32-wide strands of at most four active
quads each are fused. -/
def State.mates (s : State) (b : Block) (i : Nat) : List (Nat × Nat) :=
  let single (c : Block) (j : Nat) : Option (Nat × List Nat) :=
    match (c.strand j).gangOf (s.pending c j) with
    | some g => if g.2.length == (s.pending c j).length then some g else none
    | none => none
  let kernel (c : Block) : Option (Nat × Nat) := (s.gridOf c).map fun g => (g.launch.cont, g.launch.entry)
  let thin (ls : List Nat) : Bool := decide ((dedupe (ls.map quadOf)).length ≤ 4)
  let w := (b.strand i).width
  match single b i with
  | none => []
  | some g =>
    let all := (s.blocks.filter fun c => c.core == b.core && s.mayIssue c && s.jobOf c == s.jobOf b && kernel c == kernel b).flatMap fun c =>
      (List.range c.strands.length).filterMap fun j =>
        let st := c.strand j
        if (c.key == b.key && j == i) || c.partOf j != b.partOf i || st.width != w || st.role != (b.strand i).role ||
          st.run.isSome || st.replay.isSome then none
        else
          match single c j with
          | some h => if h.1 == g.1 && (w != 32 || thin h.2) then some (c.key, j) else none
          | none => none
    if w == 8 then all.take 3 else if w == 16 then all.take 1 else if w == 32 && thin g.2 then all.take 1 else []

/-! ## Replacement of translations, and system software's requests -/

/-- The oldest translation of a core's TLB is replaced (R118). -/
def State.dropTlb (s : State) (core : Nat) : State := s.updCore core fun c => { c with tlb := c.tlb.dropLast }

def State.dropL2Tlb (s : State) (die : Nat) : State := s.updDie die fun d => { d with l2tlb := d.l2tlb.dropLast }

/-- System software pre-empts a job: its blocks stop at their safe points, and its dispatch stops (R72). -/
def State.preemptJob (s : State) (job : Nat) : State := s.stopJob job .preempt

/-! ## A small machine around one instruction -/

/-- Job tag of the machine that `State.withFetchWord` sets up, its pages, and the place of its instruction. -/
def probeJob : Nat := 1
def probePc : Nat := 2 ^ 30
def probeCode : Nat := 2 ^ 30
def probeData : Nat := 2 ^ 31
def probeTables : Nat := 2 ^ 20

/-- A page-table entry: a leaf with PERM `perm`, job `probeJob` and home `dev` at address `pa` (Table 5-5), or, with PERM 0,
a pointer to the next table. -/
def probeEntry (perm dev pa : Nat) : List Byte :=
  leBytes 16 (if perm == 0 then 1 + pa * 2 ^ 64
    else 3 + perm * 2 ^ 2 + probeJob * 2 ^ 20 + dev * 2 ^ 32 + pa * 2 ^ 64)

/-- The job-table entry and page tables: 1 GiB of data from address 0 on, and 1 GiB of code from `probePc` on. -/
def State.probeMap (s : State) : Memory :=
  let m := memPuts s.mem (s.mgmt.jobbase + 64 * probeJob) (leBytes 16 (1 + probeTables * 2 ^ 64) ++ leBytes 48 0)
  let m := memPuts m probeTables (probeEntry 0 0 (probeTables + 4096))
  let m := memPuts m (probeTables + 4096) (probeEntry 0 0 (probeTables + 8192))
  memPuts m (probeTables + 8192) (probeEntry 3 s.mgmt.dev probeData ++ probeEntry 5 s.mgmt.dev probeCode)

/-- The major opcode of the instruction that a unit holds (R257, R260). -/
def unitMajor (w : Nat) : Nat := bits (if w % 4 == 3 then w / 2 ^ 32 else w) 2 5

/-- The launch of one block: eight threads in one strand with 256 registers, one row of scratchpad, and a matrix context
where the instruction needs one. -/
def probeLaunch (mat : Bool) : LaunchRec :=
  { lid := 1, cont := 0, entry := 0, nblk := 1, cb := 0, wcode := 0, rcode := 4, det := false, teamed := false,
    nstream := 0, npre := 0, job := probeJob, threads := 8, nstrand := 1, rows := 1, ncopy := 0, nmat := ofFlag mat,
    done := 0, pre := [] }

def probeGrid (key : Nat) (mat : Bool) : Grid :=
  { key := key, gid := 0, launch := probeLaunch mat, port := 0, queue := 0, prio := 0, recAddr := 0, age := key,
    state := .active, pc0 := BitVec.ofNat 64 probePc, nres := 0, spoff := 0, nsafe := 2 ^ 18, fork := none, parent := none,
    streams := [], passing := [], started := [0], ended := [], requeued := [], aborted := false, replies := [], tags := [] }

/-- The module running, with one block of one strand on core 0 whose next unit is the 8 bytes of `w`. -/
def State.probe (s : State) (w : Nat) : State :=
  let mat := unitMajor w == 24
  let g := probeGrid s.stamp mat
  let b := Block.start g (s.stamp + 1) 0 0 .root [⟨0, 0, 256⟩]
  { s with
    mem := memPuts s.probeMap probeCode (leBytes 8 w)
    mgmt := { s.mgmt with boot := 3, perst0 := false, frozen := false, trip := false, hold := false }
    cores := s.cores.modify 0 fun c => { c with tlb := [] }
    dies := s.dies.modify 0 fun d => { d with l2tlb := [], budget := d.budget.set 0 (0, true) }
    jobs := s.jobs.filter fun j => j.job != probeJob
    grids := s.grids ++ [g]
    blocks := s.blocks ++ [b]
    stamp := s.stamp + 2
    agenda := [(1, .issue (s.stamp + 1) 0)] }

end Sys2Proof.Machine
end

