-- ==== Sys2Proof/Machine/Step.lean ====
section
/-! DEFINITION. One step of the module: the next turn of the agenda, or, with an empty agenda, what the module does next on
its own (DESIGN CHOICE of the order, log 1); and the placing of one instruction where the next step fetches it. -/

namespace Sys2Proof.Machine

open Sys2Proof

/-- A strand issues its selected gang; a strand with a subjunctive run resolves it first (R32 to R36, R45). -/
noncomputable def State.issue (s : State) (blk i : Nat) (selects : Bool := true) : Result :=
  if ((s.block? blk).map fun b => (b.strand i).run.isSome).getD false then .next (s.resolve blk i)
  else
    match s.offer blk i selects with
    | .idle => .next s
    | .wait t => .next t
    | .run k t => nextMap (fun ran => s.afterIssue ran blk i t.cur.lanes) (exec k t)

/-- The next instruction of a strand's subjunctive run (R43, R44). -/
noncomputable def State.runOne (s : State) (blk i : Nat) : Result :=
  match s.runOffer blk i with
  | none => .next s
  | some (r, k, t) =>
    match exec k t with
    | .next ran => .next (s.keepRun ran blk i r t.cur.next)
    | .fault _ | .refused _ => .next s

/-- One agent's turn. -/
noncomputable def State.turn (s : State) : Turn → Result
  | .issue blk i => s.issue blk i
  | .packed blk i => s.issue blk i false
  | .predict blk i => .next (s.predict blk i)
  | .subjunctive blk i => s.runOne blk i
  | .event e =>
    match e, e.code with
    | .illegalEncoding _ _ _, _ | .safePointOverdue, _ => .next s
    | _, .event => exec e s
    | _, _ => .next s
  | .dropLine core line => .next (s.dropLine core line)
  | .dropTlb core => .next (s.dropTlb core)
  | .dropL2Tlb die => .next (s.dropL2Tlb die)
  | .drift die n => .next (s.drift die n)
  | .dropL2 die line => .next (s.dropL2 die line)
  | .forkAway dev key job children nres parent => .next (s.forkAway dev key job children nres parent)
  | .foldAway dev key child => .next (s.foldAway dev key child)
  | .undoAway dev key child => .next (s.undoAway dev key child)
  | .joinAway dev key => .next (s.joinAway dev key)
  | .mergedAway fork dev granules conflict => .next (s.mergedAway fork dev granules conflict)
  | .rollbackFrom fork child => .next (s.rollbackFrom fork child)
  | .retryHeld => .next s.retryWaiting
  | .haltAway job => .next (s.haltAway job)
  | .preemptJob job => .next (s.preemptJob job)
  | .resumeJob job => .next (s.resumeJob job)

/-- The turn of a selected strand: its run goes on, or resolves; at a branch that the front end predicts a run begins; else
it issues, and the strands that share its slot after it (R40, R41, R43). -/
noncomputable def State.autoIssue (s : State) (blk i : Nat) : Result :=
  match s.block? blk with
  | none => .next s
  | some b =>
    if (b.strand i).run.isSome then
      match s.runOne blk i with
      | .next t => if t == s then s.issue blk i else .next t
      | r => r
    else
      let t := s.predict blk i
      if t != s then .next t
      else nextMap (fun t => { t with agenda := (s.mates b i).map fun m => (0, .packed m.1 m.2) }) (s.issue blk i)

/-- What the module does when nothing says whose turn it is: its agents' work, then an issue, then what time brings (the
model's choice of order: DESIGN CHOICE, log 1). -/
noncomputable def State.auto (s : State) : Result :=
  match firstChange s s.ownTurns with
  | some t => .next t
  | none =>
    match s.select with
    | some (blk, i, t) => t.autoIssue blk i
    | none => .next ((firstChange (s.tick 1) ((List.range 128).map execRegisterCompaction)).getD (s.tick 1))

noncomputable def step (s : State) : Result :=
  match s.agenda with
  | (n, t) :: rest => ({ s with agenda := rest }.tick n).turn t
  | [] => s.auto

/-- The instruction whose bits are `w`, placed where the next step fetches it: the module runs, and one block of one strand
on core 0 issues next. A program comes to run from reset through a launch queue, after boot (DEDUCED, log 2). -/
def State.withFetchWord (s : State) (nbits w : Nat) : State := s.probe (w % 2 ^ nbits % 2 ^ 64)

end Sys2Proof.Machine
end

