-- ==== Sys2Proof/Safety.lean ====
section
/-! DEFINITION. What the statements are written in: when an instruction meets no fault and no wait, what an instruction
that only computes registers changes, and the form of a sound state. -/

namespace Sys2Proof.Machine

open Sys2Proof

/-! ## An instruction that runs in every active lane -/

/-- Every register that the instruction names is aligned as its operand is, and lies in the allocation (R419, R420). -/
abbrev Uses.allocated (u : Uses) (regs : Nat) : Prop :=
  ∀ x ∈ u.spans, x.2.1 % x.2.2.2 = 0 ∧ x.2.2.1 < regs

/-- Lane `l` runs the instruction: the words that it reads and overwrites are full (R85, R86), no word that must be clean
is poisoned (R428), its count has not reached 16,384 (R422), and no deferred failure waits for it (R406). -/
abbrev Uses.laneRuns (u : Uses) (st : Strand) (l : Nat) : Prop :=
  (∀ x ∈ u.srcsOf l, x.wait = true ∨ x.trap = true → ∀ r ∈ x.regs, (st.reg l r).full = true) ∧
  (∀ k ∈ u.onceKeys l, st.full k = true) ∧
  (∀ k ∈ u.more st l, st.full k = true) ∧
  (∀ d ∈ u.dsts, ∀ r ∈ d.regs, (st.reg l r).full = true) ∧
  (∀ x ∈ u.srcsOf l, x.poison = true → ∀ r ∈ x.regs, ((st.reg l r).full && (st.reg l r).poison) = false) ∧
  (st.lane l).count < 16384 ∧ (st.lane l).due = []

/-- An issue is in progress in block `b`: its strand exists, and its lanes are lanes of the strand, at least one, none of
them twice (R30, R32). -/
abbrev State.issuing (s : State) (b : Block) : Prop :=
  s.block? s.cur.blk = some b ∧ s.cur.strand < b.strands.length ∧ s.cur.lanes ≠ [] ∧ s.cur.lanes.Nodup ∧
  ∀ l ∈ s.cur.lanes, l < (b.strand s.cur.strand).lanes.length

/-- The instruction with operands `u` meets no fault of its registers and no wait in any active lane of the issue in
progress: registers of its operands allocated and aligned, a role that may run it, and lanes that run it. -/
abbrev State.clearFor (s : State) (b : Block) (u : Uses) : Prop :=
  s.issuing b ∧ u.allocated b.regs ∧ (b.strand s.cur.strand).role ∈ u.roles ∧
  ∀ l ∈ s.cur.lanes, u.laneRuns (b.strand s.cur.strand) l

/-! ## What changes -/

/-- The last of the words written to register `r`. -/
def lastWord (ws : List (Nat × Word)) (r : Nat) : Option Word :=
  ((ws.filter fun w => w.1 == r).getLast?).map fun w => w.2

/-- Nothing changed but one block, and in it nothing but its strands and its handles. -/
def State.onlyBlock (s t : State) (b c : Block) : Prop :=
  t = { s with blocks := t.blocks } ∧
  (∀ k, k ≠ s.cur.blk → t.block? k = s.block? k) ∧
  t.block? s.cur.blk = some c ∧ c = { b with strands := c.strands, handles := c.handles }

/-- Nothing of the block's strands changed but registers and lanes of the strand in progress. -/
def State.onlyStrand (s : State) (b c : Block) : Prop :=
  (∀ j, j ≠ s.cur.strand → c.strand j = b.strand j) ∧
  c.strand s.cur.strand = { b.strand s.cur.strand with
    regs := (c.strand s.cur.strand).regs, lanes := (c.strand s.cur.strand).lanes }

/-- A lane that has completed the instruction in progress goes on at `pc`, with sticky flags `fl` set (R175). -/
def Lane.completed (ln : Lane) (pc : Dword) (fl : BitVec 5) : Lane :=
  { ln.retire pc with fstat := ln.fstat ||| fl }

/-- WHAT AN INSTRUCTION THAT ONLY COMPUTES REGISTERS DOES, AND ITS FRAME: every active lane `l` goes on at the next unit with
the flags `flags l` set; the registers that `words l` lists hold its words, full, with the taint and poison of the words
read (R84); every other register, lane, strand and block, and all the rest of the machine, memory and special registers
among it, is as before. -/
def State.computed (s t : State) (b : Block) (u : Uses) (words : Nat → List (Nat × Word)) (flags : Nat → BitVec 5) :
    Prop :=
  ∃ c, s.onlyBlock t b c ∧ s.onlyStrand b c ∧
    let st := b.strand s.cur.strand
    let now := c.strand s.cur.strand
    (∀ l, now.lane l = if l ∈ s.cur.lanes then (st.lane l).completed s.cur.next (flags l) else st.lane l) ∧
    (∀ l r, r < 256 → now.reg l r =
      match if l ∈ s.cur.lanes then lastWord (words l) r else none with
      | some w => ⟨w, true, u.marked st s.cur.lanes (fun x => x.taint) l, u.marked st s.cur.lanes (fun x => x.poison) l⟩
      | none => st.reg l r)

end Sys2Proof.Machine
end

