-- ==== Sys2Proof/Certificates/Slice0/Obligations.lean ====
section
/-! DEFINITION. The statements: what the instructions and events of the module do, from the rules of spec/. A rule of the spec
that a statement rests on is named beside it; where it rests on a choice of the model it says so and names the log. -/

/-! ## How the results of a register instruction are stated -/

namespace Sys2Proof.Spec

open Sys2Proof Sys2Proof.Machine

/-- Instruction `i`, with the operands `u`, answers a next state wherever nothing is wrong and nothing is waited for, for
every state and active lanes; each active lane writes the words that `words` lists and sets the flags that `flags` gives,
and nothing else changes (`State.computed`). -/
def ComputesWith (i : Instr) (u : Uses) (words : State → Strand → Nat → List (Nat × Word))
    (flags : State → Strand → Nat → BitVec 5) : Prop :=
  ∀ (s : State) (b : Block), s.clearFor b u →
    ∃ t, exec i s = .next t ∧
      s.computed t b u (words s (b.strand s.cur.strand)) (flags s (b.strand s.cur.strand))

/-- The same, with no flag set. -/
def Computes (i : Instr) (u : Uses) (words : State → Strand → Nat → List (Nat × Word)) : Prop :=
  ComputesWith i u words fun _ _ _ => 0

/-! ### One 32-bit word from 32-bit words; the results are exact integers, reduced modulo 2^32 -/

/-- R format, two sources: `D := f x y`. -/
def Word2 (i : BitVec 7 → BitVec 7 → BitVec 7 → Adverb → Instr) (f : Adverb → Word → Word → Int) : Prop :=
  ∀ d a b v, Computes (i d a b v) (usesR v d a b) fun _ st l =>
    [(dReg v d, BitVec.ofInt 32 (f v (st.word l (aReg v a)) (st.word l (bReg v b))))]

/-- R format, one source. -/
def Word1 (i : BitVec 7 → BitVec 7 → Adverb → Instr) (f : Adverb → Word → Int) : Prop :=
  ∀ d a v, Computes (i d a v) (usesR1 v d a) fun _ st l =>
    [(dReg v d, BitVec.ofInt 32 (f v (st.word l (aReg v a))))]

/-- R format, two sources and the fourth operand `z`: `C` with a MOD adverb, without one the old destination (R285). -/
def Word3 (i : BitVec 7 → BitVec 7 → BitVec 7 → Adverb → Instr) (f : Word → Word → Word → Int) : Prop :=
  ∀ d a b v, Computes (i d a b v) (usesR4 v d a b) fun _ st l =>
    [(dReg v d, BitVec.ofInt 32
      (f (st.word l (aReg v a)) (st.word l (bReg v b)) (st.word l (cReg v (dReg v d)))))]

/-- I format: `k` is the sign-extended imm8, or imm32 with an IMM adverb (R268, R286). -/
def WordI (i : BitVec 7 → BitVec 7 → BitVec 8 → Adverb → Instr) (f : Adverb → Word → Word → Int) : Prop :=
  ∀ d a imm v, Computes (i d a imm v) (usesR1 v d a) fun _ st l =>
    [(dReg v d, BitVec.ofInt 32 (f v (st.word l (aReg v a)) (BitVec.ofInt 32 (immOf v 8 imm.toNat))))]

/-- Short form: the destination is the first source; the second is a register, or sext(s, 5) with I = 1 (R261, R282). -/
def WordShort (i : Bool → BitVec 5 → BitVec 5 → Instr) (f : Word → Word → Int) : Prop :=
  ∀ im x d, Computes (i im x d) (usesShort im x d) fun _ st l =>
    [(d.toNat, BitVec.ofInt 32
      (f (st.word l d.toNat) (if im then BitVec.ofInt 32 x.toInt else st.word l x.toNat)))]

/-! ### The functions of Tables 13-2, 13-3 and 13-4 -/

/-- R284's clamp. -/
def clamp (z : Int) : Int := Max.max (-(2 ^ 31)) (Min.min (2 ^ 31 - 1) z)

def addOf (v : Adverb) (x y : Word) : Int := if (modOf v).sat then clamp (x.toInt + y.toInt) else x.toNat + y.toNat

def subOf (v : Adverb) (x y : Word) : Int := if (modOf v).sat then clamp (x.toInt - y.toInt) else x.toNat - y.toNat

def shlOf (x y : Word) : Int := x.toNat * 2 ^ (y.toNat % 32)

def shrOf (x y : Word) : Int := x.toNat / 2 ^ (y.toNat % 32)

def shaOf (x y : Word) : Int := x.toInt / 2 ^ (y.toNat % 32)

def rotOf (x : Word) (k : Nat) : Int := x.toNat * 2 ^ k + x.toNat / 2 ^ (32 - k)

/-- Field position and length of BFE, BFEN and BFI (R285). -/
def posOf (y : Word) : Nat := y.toNat % 32

def lenOf (y : Word) : Nat := Min.min (y.toNat / 2 ^ 8 % 2 ^ 6) (32 - posOf y)

/-- Byte `i` that PERMB writes. -/
def permByte (x y z : Word) (i : Nat) : Nat :=
  if y.toNat / 2 ^ (4 * i + 3) % 2 = 1 then 0
  else (z.toNat * 2 ^ 32 + x.toNat) / 256 ^ (y.toNat / 2 ^ (4 * i) % 8) % 256

/-- A condition as a number. -/
def held (p : Bool) : Int := if p then 1 else 0

end Sys2Proof.Spec

/-! ## Integer instructions -/

open Sys2Proof Sys2Proof.Machine Sys2Proof.Spec

/-- R283, R284, Table 13-2: the INT functions, for every register, adverb and active lanes. -/
def Obligations.IntegerFunctions : Prop :=
  Word2 .add addOf ∧
  Word2 .sub subOf ∧
  Word2 .mullo (fun _ x y => x.toNat * y.toNat) ∧
  Word2 .mulhi (fun _ x y => x.toInt * y.toInt / 2 ^ 32) ∧
  Word2 .mulhin (fun _ x y => x.toNat * y.toNat / 2 ^ 32) ∧
  Word2 .min (fun _ x y => Min.min x.toInt y.toInt) ∧
  Word2 .max (fun _ x y => Max.max x.toInt y.toInt) ∧
  Word2 .minn (fun _ x y => Min.min x.toNat y.toNat) ∧
  Word2 .maxn (fun _ x y => Max.max x.toNat y.toNat) ∧
  Word2 .and (fun _ x y => (x &&& y).toNat) ∧
  Word2 .or (fun _ x y => (x ||| y).toNat) ∧
  Word2 .xor (fun _ x y => (x ^^^ y).toNat) ∧
  Word2 .andn (fun _ x y => (x &&& ~~~y).toNat) ∧
  Word2 .shl (fun _ x y => shlOf x y) ∧
  Word2 .shr (fun _ x y => shrOf x y) ∧
  Word2 .sha (fun _ x y => shaOf x y)

/-- R285, Table 13-3: the BIT functions. -/
def Obligations.BitFunctions : Prop :=
  Word2 .rotl (fun _ x y => rotOf x (y.toNat % 32)) ∧
  Word2 .rotr (fun _ x y => rotOf x ((32 - y.toNat % 32) % 32)) ∧
  Word3 .funl (fun x y z => (x.toNat * 2 ^ 32 + y.toNat) * 2 ^ (z.toNat % 32) / 2 ^ 32) ∧
  Word3 .funr (fun x y z => (x.toNat * 2 ^ 32 + y.toNat) / 2 ^ (z.toNat % 32)) ∧
  Word2 .bfe (fun _ x y =>
    let f := x.toNat / 2 ^ posOf y % 2 ^ lenOf y;
    if lenOf y = 0 then 0 else if f < 2 ^ (lenOf y - 1) then f else f - 2 ^ lenOf y) ∧
  Word2 .bfen (fun _ x y => (x.toNat / 2 ^ posOf y % 2 ^ lenOf y : Nat)) ∧
  Word3 .bfi (fun x y z =>
    z.toNat - (z.toNat / 2 ^ posOf y % 2 ^ lenOf y) * 2 ^ posOf y + (x.toNat % 2 ^ lenOf y) * 2 ^ posOf y) ∧
  Word1 .popc (fun _ x => ((List.range 32).filter fun i => x.getLsbD i).length) ∧
  Word1 .clz (fun _ x => if x = 0 then 32 else 31 - x.toNat.log2) ∧
  Word1 .ctz (fun _ x => (((List.range 32).find? fun i => x.getLsbD i).getD 32 : Nat)) ∧
  Word1 .brev (fun _ x => x.reverse.toNat) ∧
  Word3 .permb (fun x y z => ((List.range 4).map fun i => permByte x y z i * 256 ^ i).sum) ∧
  Word1 .abs (fun v x => if (modOf v).sat then clamp x.toInt.natAbs else x.toInt.natAbs) ∧
  Word3 .sel (fun x y z => if z ≠ 0 then x.toNat else y.toNat)

/-- R286, R287 and R282: INTI, the comparisons and the integer short forms. -/
def Obligations.ImmediatesComparisonsAndShortForms : Prop :=
  (WordI .addi addOf ∧
   WordI .andi (fun _ x k => (x &&& k).toNat) ∧
   WordI .ori (fun _ x k => (x ||| k).toNat) ∧
   WordI .xori (fun _ x k => (x ^^^ k).toNat) ∧
   WordI .shli (fun _ x k => shlOf x k) ∧
   WordI .shri (fun _ x k => shrOf x k) ∧
   WordI .shai (fun _ x k => shaOf x k) ∧
   WordI .muli (fun _ x k => x.toNat * k.toNat)) ∧
  (Word2 .cmpEq (fun _ x y => held (x = y)) ∧
   Word2 .cmpNe (fun _ x y => held (x ≠ y)) ∧
   Word2 .cmpLt (fun _ x y => held (x.toInt < y.toInt)) ∧
   Word2 .cmpLe (fun _ x y => held (x.toInt ≤ y.toInt)) ∧
   Word2 .cmpGt (fun _ x y => held (x.toInt > y.toInt)) ∧
   Word2 .cmpGe (fun _ x y => held (x.toInt ≥ y.toInt)) ∧
   Word2 .cmpLtn (fun _ x y => held (x.toNat < y.toNat)) ∧
   Word2 .cmpLen (fun _ x y => held (x.toNat ≤ y.toNat)) ∧
   Word2 .cmpGtn (fun _ x y => held (x.toNat > y.toNat)) ∧
   Word2 .cmpGen (fun _ x y => held (x.toNat ≥ y.toNat))) ∧
  (WordI .cmpiEq (fun _ x k => held (x = k)) ∧
   WordI .cmpiNe (fun _ x k => held (x ≠ k)) ∧
   WordI .cmpiLt (fun _ x k => held (x.toInt < k.toInt)) ∧
   WordI .cmpiLe (fun _ x k => held (x.toInt ≤ k.toInt)) ∧
   WordI .cmpiGt (fun _ x k => held (x.toInt > k.toInt)) ∧
   WordI .cmpiGe (fun _ x k => held (x.toInt ≥ k.toInt)) ∧
   WordI .cmpiLtn (fun _ x k => held (x.toNat < k.toNat)) ∧
   WordI .cmpiGen (fun _ x k => held (x.toNat ≥ k.toNat))) ∧
  ((∀ im x d, Computes (.movShort im x d)
      { srcs := if im then [] else [{ reg := x.toNat, field := 2 }], dsts := [{ reg := d.toNat }] }
      fun _ st l => [(d.toNat, if im then BitVec.ofInt 32 x.toInt else st.word l x.toNat)]) ∧
   WordShort .addShort (fun x y => x.toNat + y.toNat) ∧
   WordShort .subShort (fun x y => x.toNat - y.toNat) ∧
   WordShort .mulloShort (fun x y => x.toNat * y.toNat) ∧
   WordShort .andShort (fun x y => (x &&& y).toNat) ∧
   WordShort .orShort (fun x y => (x ||| y).toNat) ∧
   WordShort .xorShort (fun x y => (x ^^^ y).toNat) ∧
   WordShort .shlShort shlOf ∧
   WordShort .shrShort shrOf ∧
   WordShort .shaShort shaOf ∧
   WordShort .minShort (fun x y => Min.min x.toInt y.toInt) ∧
   WordShort .maxShort (fun x y => Max.max x.toInt y.toInt))

namespace Sys2Proof.Spec

/-! ### Pairs -/

/-- The two words of a pair, the even register the low one (R82). -/
def pairWords (r : Nat) (z : Int) : List (Nat × Word) :=
  [(r, BitVec.ofInt 32 (z % 2 ^ 64)), (r + 1, BitVec.ofInt 32 (z % 2 ^ 64 / 2 ^ 32))]

/-- The value of a pair. -/
def pairAt (st : Strand) (l r : Nat) : BitVec 64 :=
  BitVec.ofNat 64 ((st.word l r).toNat + 2 ^ 32 * (st.word l (r + 1)).toNat)

/-- WIDE: pairs `X` and `Y`, a pair written, modulo 2^64 (R288, R290). -/
def Wide2 (i : BitVec 7 → BitVec 7 → BitVec 7 → Adverb → Instr) (f : BitVec 64 → BitVec 64 → Int) : Prop :=
  ∀ d a b v, Computes (i d a b v)
    { srcs := [(srcA v a).pair, (srcB v b).pair], dsts := [(dstD v d).pair] } fun _ st l =>
    pairWords (dReg v d) (f (pairAt st l (aReg v a)) (pairAt st l (bReg v b)))

/-- WIDE shifts: the count is a single register, modulo 64 (R288). -/
def WideShift (i : BitVec 7 → BitVec 7 → BitVec 7 → Adverb → Instr) (f : BitVec 64 → Nat → Int) : Prop :=
  ∀ d a b v, Computes (i d a b v)
    { srcs := [(srcA v a).pair, srcB v b], dsts := [(dstD v d).pair] } fun _ st l =>
    pairWords (dReg v d) (f (pairAt st l (aReg v a)) ((st.word l (bReg v b)).toNat % 64))

/-- WIDE comparisons write a single register (R289). -/
def WideCmp (i : BitVec 7 → BitVec 7 → BitVec 7 → Adverb → Instr) (p : BitVec 64 → BitVec 64 → Bool) : Prop :=
  ∀ d a b v, Computes (i d a b v)
    { srcs := [(srcA v a).pair, (srcB v b).pair], dsts := [dstD v d] } fun _ st l =>
    [(dReg v d, if p (pairAt st l (aReg v a)) (pairAt st l (bReg v b)) then 1 else 0)]

end Sys2Proof.Spec

/-- R288 to R292: 64-bit arithmetic on pairs with the borderline divisions, and MOVI, LUI and ADR. -/
def Obligations.WideFunctions : Prop :=
  (Wide2 .addx (fun x y => x.toNat + y.toNat) ∧
   Wide2 .subx (fun x y => x.toNat - y.toNat) ∧
   Wide2 .mulx (fun x y => x.toNat * y.toNat) ∧
   Wide2 .mulxn (fun x y => x.toNat * y.toNat / 2 ^ 64) ∧
   WideShift .shlx (fun x k => x.toNat * 2 ^ k) ∧
   WideShift .shrx (fun x k => x.toNat / 2 ^ k) ∧
   WideShift .shax (fun x k => x.toInt / 2 ^ k) ∧
   WideCmp .cmpxEq (fun x y => x = y) ∧
   WideCmp .cmpxLt (fun x y => x.toInt < y.toInt) ∧
   WideCmp .cmpxLtn (fun x y => x.toNat < y.toNat) ∧
   Wide2 .div (fun x y => if y = 0 then -1 else x.toInt.tdiv y.toInt) ∧
   Wide2 .divn (fun x y => if y = 0 then -1 else x.toNat / y.toNat) ∧
   Wide2 .rem (fun x y => if y = 0 then x.toInt else x.toInt.tmod y.toInt) ∧
   Wide2 .remn (fun x y => if y = 0 then x.toNat else x.toNat % y.toNat)) ∧
  (∀ d imm v, Computes (.movi d imm v) { dsts := [dstD v d] } fun _ _ _ =>
    [(dReg v d, BitVec.ofInt 32 (immOf v 18 imm.toNat))]) ∧
  (∀ d imm v, Computes (.lui d imm v) { dsts := [dstD v d] } fun _ _ _ =>
    [(dReg v d, BitVec.ofNat 32 (imm.toNat * 2 ^ 14))]) ∧
  (∀ d imm v, Computes (.adr d imm v) { dsts := [(dstD v d).pair] } fun s _ _ =>
    pairWords (dReg v d) (s.cur.pc.toNat + immOf v 18 imm.toNat * 2))


/-! ## Floating point: the instructions -/

namespace Sys2Proof.Spec

/-- NEG and ABS of R267 on the top bit: ABS clears it, NEG then inverts it. -/
def modified {n : Nat} (neg abs : Bool) (x : BitVec n) : BitVec n :=
  let top : BitVec n := 1#n <<< (n - 1)
  let y := if abs then x &&& ~~~top else x
  if neg then y ^^^ top else y

/-- The f32 sources with their modifiers. -/
def f32A (v : Adverb) (x : Word) : Nat := (modified (modOf v).nega (modOf v).absa x).toNat

def f32B (v : Adverb) (x : Word) : Nat := (modified (modOf v).negb (modOf v).absb x).toNat

/-- A result and its flags as one register, written by a lane. -/
def Float1 (i : BitVec 7 → BitVec 7 → Adverb → Instr) (f : Adverb → Ctx → Nat → Nat × FpFlags) : Prop :=
  ∀ d a v,
    let out (st : Strand) (l : Nat) := f v (st.ctx v l) (f32A v (st.word l (aReg v a)))
    ComputesWith (i d a v) (usesR1 v d a)
      (fun _ st l => [(dReg v d, BitVec.ofNat 32 (out st l).1)]) (fun _ st l => (out st l).2)

def Float2 (i : BitVec 7 → BitVec 7 → BitVec 7 → Adverb → Instr) (f : Ctx → Nat → Nat → Nat × FpFlags) : Prop :=
  ∀ d a b v,
    let out (st : Strand) (l : Nat) :=
      f (st.ctx v l) (f32A v (st.word l (aReg v a))) (f32B v (st.word l (bReg v b)))
    ComputesWith (i d a b v) (usesR v d a b)
      (fun _ st l => [(dReg v d, BitVec.ofNat 32 (out st l).1)]) (fun _ st l => (out st l).2)

/-- A comparison writes 1 or 0 (R309, R316). -/
def asNumber (r : Bool × FpFlags) : Nat × FpFlags := (if r.1 then 1 else 0, r.2)

/-- The f32 constants of the short form (Table 12-2). -/
def shortConstants : List Word :=
  [0x00000000, 0x3F800000, 0x40000000, 0x40400000, 0x40800000, 0x40A00000, 0x40C00000, 0x40E00000] ++
  [0x41000000, 0x41200000, 0x41800000, 0x3F000000, 0x3E800000, 0x3E000000, 0x3FC00000, 0xBF800000] ++
  [0xC0000000, 0xBF000000, 0x80000000, 0x40490FDB, 0x3EA2F983, 0x3F317218, 0x3FB8AA3B, 0x40549A78] ++
  [0x3FB504F3, 0x3F3504F3, 0x402DF854, 0x7F800000, 0xFF800000, 0x7F7FFFFF, 0x00800000, 0x34000000]

def FloatShort (i : Bool → BitVec 5 → BitVec 5 → Instr) (f : Ctx → Nat → Nat → Nat × FpFlags) : Prop :=
  ∀ im x d,
    let out (st : Strand) (l : Nat) :=
      f (st.ctx .none l) (st.word l d.toNat).toNat
        (if im then shortConstants.getD x.toNat 0 else st.word l x.toNat).toNat
    ComputesWith (i im x d) (usesShort im x d)
      (fun _ st l => [(d.toNat, BitVec.ofNat 32 (out st l).1)]) (fun _ st l => (out st l).2)

end Sys2Proof.Spec

/-- R309, R313 to R316 and R261: the f32 instructions, in the rounding mode and flushing of R91, with the modifiers of R267.
The functions are those of `Fmt`, `Fpx` and beside them, which the numeric statements below pin down. -/
def Obligations.FloatInstructions : Prop :=
  (Float2 .fadd Fmt.f32.add ∧
   Float2 .fsub Fmt.f32.sub ∧
   Float2 .fmul Fmt.f32.mul ∧
   (∀ d a b v,
     let out (st : Strand) (l : Nat) := Fmt.f32.fma (st.ctx v l) (f32A v (st.word l (aReg v a)))
       (f32B v (st.word l (bReg v b))) (st.word l (cReg v (dReg v d))).toNat
     ComputesWith (.ffma d a b v) (usesR4 v d a b)
       (fun _ st l => [(dReg v d, BitVec.ofNat 32 (out st l).1)]) (fun _ st l => (out st l).2)) ∧
   Float2 .fmin (fun c => Fmt.f32.pick c Val.less) ∧
   Float2 .fmax (fun c => Fmt.f32.pick c Val.more) ∧
   Float2 .fminnum (fun c => Fmt.f32.pickNum c Val.less) ∧
   Float2 .fmaxnum (fun c => Fmt.f32.pickNum c Val.more) ∧
   Float2 .fdiv Fmt.f32.div ∧
   Float2 .fcpys copySign ∧
   (∀ d a b v,
     let out (st : Strand) (l : Nat) :=
       scaleExp (st.ctx v l) (f32A v (st.word l (aReg v a))) (st.word l (bReg v b)).toInt
     ComputesWith (.fldexp d a b v) (usesR v d a b)
       (fun _ st l => [(dReg v d, BitVec.ofNat 32 (out st l).1)]) (fun _ st l => (out st l).2))) ∧
  (Float1 .fsqrt (fun _ c x => Fpx.sqrt.eval c.ftz (Fmt.f32.read c.ftz x)) ∧
   Float1 .frcp (fun _ c x => Fpx.rcp.eval c.ftz (Fmt.f32.read c.ftz x)) ∧
   Float1 .frsq (fun _ c x => Fpx.rsq.eval c.ftz (Fmt.f32.read c.ftz x)) ∧
   Float1 .fexp2 (fun _ c x => Fpx.exp2.eval c.ftz (Fmt.f32.read c.ftz x)) ∧
   Float1 .flog2 (fun _ c x => Fpx.log2.eval c.ftz (Fmt.f32.read c.ftz x)) ∧
   Float1 .fsinpi (fun _ c x => Fpx.sinpi.eval c.ftz (Fmt.f32.read c.ftz x)) ∧
   Float1 .fcospi (fun _ c x => Fpx.cospi.eval c.ftz (Fmt.f32.read c.ftz x)) ∧
   Float1 .ftanh (fun _ c x => Fpx.tanh.eval c.ftz (Fmt.f32.read c.ftz x)) ∧
   Float1 .ffract (fun _ c x => fraction c x) ∧
   Float1 .frnd (fun _ c x => roundIntegral c x) ∧
   Float1 .fclass (fun _ _ x => (classMask x, 0))) ∧
  (Float2 .fcmpEq (fun c x y => asNumber (Fmt.f32.compare c.ftz .eq x y)) ∧
   Float2 .fcmpNe (fun c x y => asNumber (Fmt.f32.compare c.ftz .ne x y)) ∧
   Float2 .fcmpLt (fun c x y => asNumber (Fmt.f32.compare c.ftz .lt x y)) ∧
   Float2 .fcmpLe (fun c x y => asNumber (Fmt.f32.compare c.ftz .le x y)) ∧
   Float2 .fcmpGt (fun c x y => asNumber (Fmt.f32.compare c.ftz .gt x y)) ∧
   Float2 .fcmpGe (fun c x y => asNumber (Fmt.f32.compare c.ftz .ge x y)) ∧
   Float2 .fcmpUn (fun c x y => asNumber (Fmt.f32.compare c.ftz .un x y)) ∧
   Float2 .fcmpOrd (fun c x y => asNumber (Fmt.f32.compare c.ftz .ord x y))) ∧
  (FloatShort .faddShort Fmt.f32.add ∧
   FloatShort .fsubShort Fmt.f32.sub ∧
   FloatShort .fmulShort Fmt.f32.mul ∧
   FloatShort .fmaxShort (fun c => Fmt.f32.pick c Val.more))

namespace Sys2Proof.Spec

/-- Half `i` of a word, with the modifiers of a packed source (R267). -/
def halfOf (neg abs : Bool) (x : Word) (i : Nat) : Nat := (modified neg abs (x.extractLsb' (16 * i) 16)).toNat

/-- The two halves of a result and their flags (R317). -/
def twoHalves (f : Nat → Nat × FpFlags) : Nat × FpFlags := ((f 0).1 + 2 ^ 16 * (f 1).1, (f 0).2 ||| (f 1).2)

def Packed2 (i : BitVec 7 → BitVec 7 → BitVec 7 → Adverb → Instr) (f : Ctx → Nat → Nat → Nat × FpFlags) : Prop :=
  ∀ d a b v,
    let out (st : Strand) (l : Nat) := twoHalves fun h =>
      f (st.ctx v l) (halfOf (modOf v).nega (modOf v).absa (st.word l (aReg v a)) h)
        (halfOf (modOf v).negb (modOf v).absb (st.word l (bReg v b)) h)
    ComputesWith (i d a b v) (usesR v d a b)
      (fun _ st l => [(dReg v d, BitVec.ofNat 32 (out st l).1)]) (fun _ st l => (out st l).2)

def Packed3 (i : BitVec 7 → BitVec 7 → BitVec 7 → Adverb → Instr) (f : Ctx → Nat → Nat → Nat → Nat × FpFlags) : Prop :=
  ∀ d a b v,
    let out (st : Strand) (l : Nat) := twoHalves fun h =>
      f (st.ctx v l) (halfOf (modOf v).nega (modOf v).absa (st.word l (aReg v a)) h)
        (halfOf (modOf v).negb (modOf v).absb (st.word l (bReg v b)) h)
        (halfOf false false (st.word l (cReg v (dReg v d))) h)
    ComputesWith (i d a b v) (usesR4 v d a b)
      (fun _ st l => [(dReg v d, BitVec.ofNat 32 (out st l).1)]) (fun _ st l => (out st l).2)

/-- a0 × b0 + a1 × b1 + z, exact, rounded once into f32, with NV for ∞ × 0, for infinities of both signs and for a
signalling NaN (R318). -/
def dotOf (t : Fmt) (c : Ctx) (x y : Nat → Nat) (z : Nat) : Nat × FpFlags :=
  let p := (t.read c.ftz (x 0)).mul (t.read c.ftz (y 0))
  let q := (t.read c.ftz (x 1)).mul (t.read c.ftz (y 1))
  let r := sumVals c.rnd [p.1, q.1, Fmt.f32.read c.ftz z]
  let o := Fmt.f32.round c.rnd false c.ftz r.1
  (o.1, o.2 ||| (r.2 ||| p.2 ||| q.2 ||| signals [t.read c.ftz (x 0), t.read c.ftz (x 1), t.read c.ftz (y 0),
    t.read c.ftz (y 1), Fmt.f32.read c.ftz z]))

def PackedDot (i : BitVec 7 → BitVec 7 → BitVec 7 → Adverb → Instr) (t : Fmt) : Prop :=
  ∀ d a b v,
    let out (st : Strand) (l : Nat) :=
      dotOf t (st.ctx v l) (halfOf (modOf v).nega (modOf v).absa (st.word l (aReg v a)))
        (halfOf (modOf v).negb (modOf v).absb (st.word l (bReg v b))) (st.word l (cReg v (dReg v d))).toNat
    ComputesWith (i d a b v) (usesR4 v d a b)
      (fun _ st l => [(dReg v d, BitVec.ofNat 32 (out st l).1)]) (fun _ st l => (out st l).2)

/-- The f64 sources with their modifiers, which act on bit 63 of the pair (R267). -/
def f64A (v : Adverb) (x : BitVec 64) : Nat := (modified (modOf v).nega (modOf v).absa x).toNat

def f64B (v : Adverb) (x : BitVec 64) : Nat := (modified (modOf v).negb (modOf v).absb x).toNat

def Double2 (i : BitVec 7 → BitVec 7 → BitVec 7 → Adverb → Instr) (f : Ctx → Nat → Nat → Nat × FpFlags) : Prop :=
  ∀ d a b v,
    let out (st : Strand) (l : Nat) :=
      f (st.ctx v l) (f64A v (pairAt st l (aReg v a))) (f64B v (pairAt st l (bReg v b)))
    ComputesWith (i d a b v) { srcs := [(srcA v a).pair, (srcB v b).pair], dsts := [(dstD v d).pair] }
      (fun _ st l => pairWords (dReg v d) (out st l).1) (fun _ st l => (out st l).2)

def DoubleCmp (i : BitVec 7 → BitVec 7 → BitVec 7 → Adverb → Instr) (k : FCond) : Prop :=
  ∀ d a b v,
    let out (st : Strand) (l : Nat) :=
      asNumber (Fmt.f64.compare (st.ctx v l).ftz k (f64A v (pairAt st l (aReg v a))) (f64B v (pairAt st l (bReg v b))))
    ComputesWith (i d a b v) { srcs := [(srcA v a).pair, (srcB v b).pair], dsts := [dstD v d] }
      (fun _ st l => [(dReg v d, BitVec.ofNat 32 (out st l).1)]) (fun _ st l => (out st l).2)

end Sys2Proof.Spec

/-- R317 to R319: packed halves, dot products and f64 on pairs. -/
def Obligations.PackedAndDoubleInstructions : Prop :=
  (Packed2 .hadd2 Fmt.f16.add ∧
   Packed2 .hsub2 Fmt.f16.sub ∧
   Packed2 .hmul2 Fmt.f16.mul ∧
   Packed3 .hfma2 Fmt.f16.fma ∧
   Packed2 .hmin2 (fun c => Fmt.f16.pick c Val.less) ∧
   Packed2 .hmax2 (fun c => Fmt.f16.pick c Val.more) ∧
   PackedDot .hdot2 .f16 ∧
   Packed2 .badd2 Fmt.bf16.add ∧
   Packed2 .bsub2 Fmt.bf16.sub ∧
   Packed2 .bmul2 Fmt.bf16.mul ∧
   Packed3 .bfma2 Fmt.bf16.fma ∧
   Packed2 .bmin2 (fun c => Fmt.bf16.pick c Val.less) ∧
   Packed2 .bmax2 (fun c => Fmt.bf16.pick c Val.more) ∧
   PackedDot .bdot2 .bf16) ∧
  (Double2 .dadd Fmt.f64.add ∧
   Double2 .dsub Fmt.f64.sub ∧
   Double2 .dmul Fmt.f64.mul ∧
   (∀ d a b v,
     let out (st : Strand) (l : Nat) :=
       Fmt.f64.fma (st.ctx v l) (f64A v (pairAt st l (aReg v a))) (f64B v (pairAt st l (bReg v b)))
         (pairAt st l (cReg v (dReg v d))).toNat
     ComputesWith (.dfma d a b v)
       { srcs := [(srcA v a).pair, (srcB v b).pair, (srcC v (dReg v d)).pair], dsts := [(dstD v d).pair] }
       (fun _ st l => pairWords (dReg v d) (out st l).1) (fun _ st l => (out st l).2)) ∧
   Double2 .ddiv Fmt.f64.div ∧
   (∀ d a v,
     let out (st : Strand) (l : Nat) := Fmt.f64.sqrt (st.ctx v l) (f64A v (pairAt st l (aReg v a)))
     ComputesWith (.dsqrt d a v) { srcs := [(srcA v a).pair], dsts := [(dstD v d).pair] }
       (fun _ st l => pairWords (dReg v d) (out st l).1) (fun _ st l => (out st l).2)) ∧
   Double2 .dmin (fun c => Fmt.f64.pick c Val.less) ∧
   Double2 .dmax (fun c => Fmt.f64.pick c Val.more) ∧
   DoubleCmp .dcmpEq .eq ∧
   DoubleCmp .dcmpLt .lt ∧
   DoubleCmp .dcmpLe .le ∧
   DoubleCmp .dcmpUn .un)

namespace Sys2Proof.Spec

/-- How a result of type `y` stands in the register: i8 and i16 sign-extended, the others with zeros above (R320). -/
def placed (y : NumType) (x : Nat) : Word :=
  match y with
  | .i8 => (BitVec.ofNat 8 x).signExtend 32
  | .i16 => (BitVec.ofNat 16 x).signExtend 32
  | .i32 | .i64 | .n8 | .n16 | .n32 | .n64 | .f16 | .bf16 | .f32 | .f64 | .f8e4 | .f8e5 | .f4 | .e3m5 => BitVec.ofNat 32 x

/-- Fields of `w` bits side by side, the first lowest, and all their flags. -/
def joined (w n : Nat) (f : Nat → Nat × FpFlags) : Nat × FpFlags :=
  (((List.range n).map fun i => (f i).1 % 2 ^ w * 2 ^ (w * i)).sum,
   (List.range n).foldl (fun g i => g ||| (f i).2) 0)

/-- `x / y` of two f32 encodings, exact, rounded once into `t` (R322, R324). -/
def quotient (t : Fmt) (r : Rnd) (ftz sat : Bool) (x y : Nat) : Nat × FpFlags :=
  let q := (Fmt.f32.read ftz x).div (Fmt.f32.read ftz y)
  let o := t.round r sat ftz q.1
  (o.1, o.2 ||| (q.2 ||| signals [Fmt.f32.read ftz x, Fmt.f32.read ftz y]))

/-- QPACK (R322): `n` sources from A on, one scale. -/
def Pack (i : BitVec 7 → BitVec 7 → BitVec 7 → Adverb → Instr) (t : Fmt) (n w : Nat) : Prop :=
  ∀ d a b v,
    let out (st : Strand) (l : Nat) := joined w n fun k =>
      quotient t (st.ctx v l).rnd (st.ctx v l).ftz (modOf v).sat (st.word l (aReg v a + k)).toNat
        (st.word l (bReg v b)).toNat
    ComputesWith (i d a b v) { srcs := [(srcA v a).group n, srcB v b], dsts := [dstD v d] }
      (fun _ st l => [(dReg v d, BitVec.ofNat 32 (out st l).1)]) (fun _ st l => (out st l).2)

end Sys2Proof.Spec

/-- R320 to R326: conversions between every two types, and the narrow packing, scaling and alignment instructions. -/
def Obligations.ConversionAndNarrowInstructions : Prop :=
  (∀ (y x : NumType) d a v,
    let src := if NumType.width x = 64 then (srcA v a).pair else srcA v a
    let dst := if NumType.width y = 64 then (dstD v d).pair else dstD v d
    let out (st : Strand) (l : Nat) :=
      convert y x (st.ctx v l) (modOf v).sat (modOf v).nega (modOf v).absa
        (if NumType.width x = 64 then (pairAt st l (aReg v a)).toNat else (st.word l (aReg v a)).toNat)
    ComputesWith (.cvt y x d a v) { srcs := [src], dsts := [dst] }
      (fun _ st l => if NumType.width y = 64 then pairWords (dReg v d) (out st l).1
        else [(dReg v d, placed y (out st l).1)])
      (fun _ st l => (out st l).2)) ∧
  Pack .qpack4 .f4 8 4 ∧
  Pack .qpack8e4 .f8e4 4 8 ∧
  Pack .qpack8e5 .f8e5 4 8 ∧
  (∀ d a b v,
    let out (st : Strand) (l i : Nat) :=
      let y := Fmt.f32.read (st.ctx v l).ftz (st.word l (bReg v b)).toNat
      let p := (Fmt.f4.value ((st.word l (aReg v a)).toNat / 16 ^ i % 16)).mul y
      let o := Fmt.f32.round (st.ctx v l).rnd false (st.ctx v l).ftz p.1
      (o.1, o.2 ||| (p.2 ||| signals [y]))
    ComputesWith (.qunpk4 d a b v) { srcs := [srcA v a, srcB v b], dsts := [(dstD v d).group 8] }
      (fun _ st l => (List.range 8).map fun i => (dReg v d + i, BitVec.ofNat 32 (out st l i).1))
      (fun _ st l => (List.range 8).foldl (fun g i => g ||| (out st l i).2) 0)) ∧
  (∀ d a b v,
    let part (st : Strand) (l k : Nat) : Int :=
      ((st.word l (aReg v a + k / 2)).extractLsb' (16 * (k % 2)) 16).toInt
    let scale (st : Strand) (l r k : Nat) : Nat :=
      ((st.word l (bReg v b + r + k / 4)).extractLsb' (8 * (k % 4)) 8).toNat
    let band (st : Strand) (l h : Nat) : Nat :=
      match v with
      | .mod m => ((st.word l m.c.toNat).extractLsb' (16 * h) 16).toNat
      | .none => 0x3F80
      | .imm _ => 0x3F80
    let out (st : Strand) (l : Nat) :=
      scaleSum (st.ctx v l).ftz (st.word l (dReg v d)).toNat
        ((List.range 8).map fun k => (part st l k, scale st l 0 k, scale st l 2 k)) (band st l 0) (band st l 1)
    ComputesWith (.scacc d a b v) (usesScacc v d a b)
      (fun _ st l => [(dReg v d, BitVec.ofNat 32 (out st l).1)]) (fun _ st l => (out st l).2)) ∧
  (∀ d a b v,
    let out (st : Strand) (l : Nat) :=
      quotient .e3m5 .rup (st.ctx v l).ftz (modOf v).sat
        (greatestMag ((List.range 8).map fun i => (st.word l (aReg v a + i)).toNat)) (st.word l (bReg v b)).toNat
    ComputesWith (.scamax d a b v) { srcs := [(srcA v a).group 8, srcB v b], dsts := [dstD v d] }
      (fun _ st l => [(dReg v d, BitVec.ofNat 32 (out st l).1)]) (fun _ st l => (out st l).2)) ∧
  (∀ d a b v,
    let out (st : Strand) (l : Nat) :=
      let y := st.word l (bReg v b)
      Machine.qalign (st.ctx v l).ftz (st.word l (aReg v a)).toNat
        (Max.max (-149) (Min.min 127 (y.extractLsb' 0 16).toInt)) (Min.min 30 (y.extractLsb' 16 5).toNat)
    ComputesWith (.qalign d a b v) { srcs := [srcA v a, srcB v b], dsts := [(dstD v d).pair] }
      (fun _ st l => pairWords (dReg v d) (out st l).1.toNat) (fun _ st l => (out st l).2))


/-! ## Floating point: the numbers -/

namespace Sys2Proof.Spec

/-- The real number that a finite value stands for, and with infinities the extended one. -/
noncomputable def realOf : Val → ℝ
  | .fin neg m e _ => (if neg then -1 else 1) * (m : ℝ) * (2 : ℝ) ^ e
  | .inf _ => 0
  | .nan _ => 0

noncomputable def extOf : Val → EReal
  | .fin neg m e more => ((realOf (.fin neg m e more) : ℝ) : EReal)
  | .inf neg => if neg then ⊥ else ⊤
  | .nan _ => 0

/-- A finite value, exactly. -/
def Exact (v : Val) : Prop := ∃ neg m e, v = .fin neg m e false

/-- The formats with infinities and NaNs as IEEE 754 has them that vector instructions compute in. -/
def vectorFmts : List Fmt := [.f64, .f32, .f16, .bf16]

/-- Spacing of the largest finite values of a format. -/
noncomputable def topSpacing (t : Fmt) : ℝ := (2 : ℝ) ^ ((2 ^ t.exp : ℕ) - 2 - (t.bias : ℤ) - t.man)

/-- Among the finite values `w` of the format, `v` is the one that the mode selects for `x` (R171); `even` says that `v`'s
encoding is even. -/
def Selected (t : Fmt) (r : Rnd) (x : ℝ) (v : Val) (even : Prop) : Prop :=
  ∀ c, Exact (t.value c) →
    let w := realOf (t.value c)
    let y := realOf v
    match r with
    | .rne => |x - y| ≤ |x - w| ∧ (|x - y| = |x - w| → w ≠ y → even)
    | .rna => |x - y| ≤ |x - w| ∧ (|x - y| = |x - w| → |w| ≤ |y|)
    | .rtz => |y| ≤ |x| ∧ (|w| ≤ |x| → |w| ≤ |y|)
    | .rup => x ≤ y ∧ (x ≤ w → y ≤ w)
    | .rdn => y ≤ x ∧ (w ≤ x → w ≤ y)

/-- `out` is `x`, which is not 0, rounded once into a vector format, with the flags OF, UF and NX (R171, R175): without an
overflow the selected value, with the sign of `x`; with one the infinity or the largest finite value that the mode gives. -/
def RoundsTo (t : Fmt) (r : Rnd) (x : ℝ) (out : Nat × FpFlags) : Prop :=
  if out.2 &&& FpFlags.of = 0 then
    Exact (t.value out.1) ∧ ((t.value out.1).isNeg = true ↔ x < 0) ∧
    Selected t r x (t.value out.1) (out.1 % 2 = 0) ∧
    out.2 &&& (FpFlags.nv ||| FpFlags.dz) = 0 ∧
    (out.2 &&& FpFlags.nx ≠ 0 ↔ realOf (t.value out.1) ≠ x) ∧
    (out.2 &&& FpFlags.uf ≠ 0 ↔ realOf (t.value out.1) ≠ x ∧ realOf (t.value out.1) ≠ 0 ∧
      |realOf (t.value out.1)| < (2 : ℝ) ^ (1 - (t.bias : ℤ)))
  else
    out.2 = FpFlags.of ||| FpFlags.nx ∧ realOf (t.value t.top) < |x| ∧
    (r = .rne ∨ r = .rna → realOf (t.value t.top) + topSpacing t / 2 ≤ |x|) ∧
    t.value out.1 =
      let neg := decide (x < 0)
      let largest := t.value (t.top + if neg then 2 ^ t.mag else 0)
      match r with
      | .rne | .rna => .inf neg
      | .rtz => largest
      | .rup => if neg then largest else .inf neg
      | .rdn => if neg then .inf neg else largest

end Sys2Proof.Spec

/-- R169, Table 8-1: what every encoding of every format stands for. -/
def Obligations.FormatValues : Prop :=
  ([(Fmt.f64, 11, 52, 1023, 0x7FF8000000000000, 0x7FEFFFFFFFFFFFFF), (.f32, 8, 23, 127, 0x7FC00000, 0x7F7FFFFF),
    (.f16, 5, 10, 15, 0x7E00, 0x7BFF), (.bf16, 8, 7, 127, 0x7FC0, 0x7F7F), (.f8e4, 4, 3, 7, 0x7F, 0x7E),
    (.f8e5, 5, 2, 15, 0x7E, 0x7B)].all fun (t, e, m, b, n, top) =>
      t.exp == e && t.man == m && t.bias == b && t.nan == n && t.top == top && t.signed) ∧
  (Fmt.f4.exp = 2 ∧ Fmt.f4.man = 1 ∧ Fmt.f4.bias = 1 ∧ Fmt.f4.signed) ∧
  (Fmt.e3m5.exp = 3 ∧ Fmt.e3m5.man = 5 ∧ Fmt.e3m5.bias = 3 ∧ Fmt.e3m5.nan = 0xFF ∧ Fmt.e3m5.signed = false) ∧
  ∀ (t : Fmt) (x : Nat), x < 2 ^ (t.exp + t.man + if t.signed then 1 else 0) →
    let neg := decide (2 ^ (t.exp + t.man) ≤ x)
    let e := x / 2 ^ t.man % 2 ^ t.exp
    let m := x % 2 ^ t.man
    let special := t = .f64 ∨ t = .f32 ∨ t = .f16 ∨ t = .bf16 ∨ t = .f8e5
    let oneNan := t = .f8e4 ∨ t = .e3m5
    (special → e = 2 ^ t.exp - 1 → m = 0 → t.value x = .inf neg) ∧
    (special → e = 2 ^ t.exp - 1 → m ≠ 0 → t.value x = .nan (decide (m < 2 ^ (t.man - 1)))) ∧
    (oneNan → e = 2 ^ t.exp - 1 → m = 2 ^ t.man - 1 → t.value x = .nan false) ∧
    (¬(special ∧ e = 2 ^ t.exp - 1) → ¬(oneNan ∧ e = 2 ^ t.exp - 1 ∧ m = 2 ^ t.man - 1) →
      Exact (t.value x) ∧ (t.value x).isNeg = neg ∧
      realOf (t.value x) = (if neg then -1 else 1) *
        (if e = 0 then (2 : ℝ) ^ (1 - (t.bias : ℤ)) * ((m : ℝ) / 2 ^ t.man)
         else (2 : ℝ) ^ ((e : ℤ) - t.bias) * (1 + (m : ℝ) / 2 ^ t.man)))

/-- R171, R175: rounding of an exact value, in every mode, with its flags, for the four vector formats. -/
def Obligations.RoundingIsCorrect : Prop :=
  ∀ t ∈ vectorFmts, ∀ (r : Rnd) (sat neg : Bool) (m : Nat) (e : Int), m ≠ 0 →
    RoundsTo t r (realOf (.fin neg m e false)) (t.round r sat false (.fin neg m e false)) ∧
    t.round r sat false (.fin neg 0 e false) = (if neg then 2 ^ t.mag else 0, 0)

/-- R176, R184 and Table 14-2: sums, differences, products, fused products, quotients and square roots of finite values are
the exact results rounded once, in every mode; an exact zero sum of operands of opposite signs is +0, and −0 under rdn
(R171). -/
def Obligations.ArithmeticIsCorrectlyRounded : Prop :=
  ∀ t ∈ vectorFmts, ∀ (r : Rnd) (x y z : Nat), Exact (t.value x) → Exact (t.value y) → Exact (t.value z) →
    let c : Ctx := ⟨r, false⟩
    let a := realOf (t.value x)
    let b := realOf (t.value y)
    let d := realOf (t.value z)
    let sx := (t.value x).isNeg
    let sy := (t.value y).isNeg
    let signedZero (neg : Bool) : Nat × FpFlags := (if neg then 2 ^ t.mag else 0, 0)
    (a + b ≠ 0 → RoundsTo t r (a + b) (t.add c x y)) ∧
    (a + b = 0 → t.add c x y = signedZero (if sx = sy then sx else r == .rdn)) ∧
    (a - b ≠ 0 → RoundsTo t r (a - b) (t.sub c x y)) ∧
    (a - b = 0 → t.sub c x y = signedZero (if sx ≠ sy then sx else r == .rdn)) ∧
    (a * b ≠ 0 → RoundsTo t r (a * b) (t.mul c x y)) ∧
    (a * b = 0 → t.mul c x y = signedZero (sx != sy)) ∧
    (a * b + d ≠ 0 → RoundsTo t r (a * b + d) (t.fma c x y z)) ∧
    (a ≠ 0 → b ≠ 0 → RoundsTo t r (a / b) (t.div c x y)) ∧
    (a = 0 → b ≠ 0 → t.div c x y = signedZero (sx != sy)) ∧
    (0 < a → RoundsTo t r (Real.sqrt a) (t.sqrt c x)) ∧
    (a = 0 → t.sqrt c x = signedZero sx)

/-- R172: what overflows, infinities, negative values and NaNs give in the formats f8e4, f8e5, f4 and e3m5. -/
def Sys2Proof.Spec.NarrowFormatEnds : Prop :=
  ∀ (r : Rnd) (sat ftz neg q more : Bool) (m : Nat) (e : Int),
    let toInf := match r with
      | .rne | .rna => true
      | .rtz => false
      | .rup => !neg
      | .rdn => neg
    let x := Val.fin neg m e more
    let spills (t : Fmt) : Prop := (t.round r sat ftz x).2 &&& FpFlags.of ≠ 0
    (spills .f8e4 → (Fmt.f8e4.round r sat ftz x).1 = if toInf && !sat then 0x7F else if neg then 0xFE else 0x7E) ∧
    ((Fmt.f8e4.round r sat ftz (.inf neg)).1 = if toInf && !sat then 0x7F else if neg then 0xFE else 0x7E) ∧
    (spills .f8e5 → (Fmt.f8e5.round r sat ftz x).1 =
      (if toInf && !sat then 0x7C else 0x7B) + if neg then 0x80 else 0) ∧
    ((Fmt.f8e5.round r false ftz (.inf neg)).1 = if neg then 0xFC else 0x7C) ∧
    ((Fmt.f8e5.round r true ftz (.inf neg)).1 = if neg then 0xFB else 0x7B) ∧
    (spills .f4 → (Fmt.f4.round r sat ftz x).1 = if neg then 0xF else 7) ∧
    ((Fmt.f4.round r sat ftz (.inf neg)).1 = if neg then 0xF else 7) ∧
    Fmt.f4.round r sat ftz (.nan q) = (0, FpFlags.nv) ∧
    ((Fmt.e3m5.round r sat ftz (.fin true m e more)).1 = 0) ∧
    ((Fmt.e3m5.round r sat ftz (.inf true)).1 = 0) ∧
    (spills .e3m5 → (Fmt.e3m5.round r sat ftz x).1 = if toInf && !sat then 0xFF else 0xFE) ∧
    ((Fmt.e3m5.round r sat ftz (.inf false)).1 = if sat then 0xFE else 0xFF) ∧
    ((Fmt.f8e4.round r sat ftz (.nan q)).1 = 0x7F ∧ (Fmt.f8e5.round r sat ftz (.nan q)).1 = 0x7E ∧
      (Fmt.e3m5.round r sat ftz (.nan q)).1 = 0xFF)

/-- R173: flushing reads a subnormal as a zero of its sign, and writes a result that is subnormal after rounding as a zero
of its sign with UF and NX; f4 values are never flushed. -/
def Sys2Proof.Spec.FlushingOfSubnormals : Prop :=
  (∀ (t : Fmt) (x : Nat), t ≠ .f4 →
    (∀ neg m e, t.value x = .fin neg m e false → m ≠ 0 → |realOf (t.value x)| < (2 : ℝ) ^ (1 - (t.bias : ℤ)) →
      t.read true x = .fin neg 0 0 false) ∧
    (¬ Exact (t.value x) ∨ (2 : ℝ) ^ (1 - (t.bias : ℤ)) ≤ |realOf (t.value x)| → t.read true x = t.value x) ∧
    t.read false x = t.value x) ∧
  (∀ ftz x, Fmt.f4.read ftz x = Fmt.f4.value x) ∧
  (∀ (r : Rnd) (sat : Bool) (v : Val), Fmt.f4.round r sat true v = Fmt.f4.round r sat false v) ∧
  ∀ t ∈ vectorFmts, ∀ (r : Rnd) (sat neg more : Bool) (m : Nat) (e : Int),
    let x := Val.fin neg m e more
    let kept := t.round r sat false x
    if kept.1 % 2 ^ t.mag ≠ 0 ∧ kept.1 % 2 ^ t.mag < 2 ^ t.man then
      t.round r sat true x = (if neg then 2 ^ t.mag else 0, FpFlags.uf ||| FpFlags.nx)
    else t.round r sat true x = kept

/-- R174, R313, R314, R316 and Tables 8-4 and 14-2: NaNs, infinities and zeros as operands, with the flags that they set. -/
def Sys2Proof.Spec.SpecialOperands : Prop :=
  (∀ t ∈ vectorFmts, ∀ (c : Ctx) (x y z : Nat),
    let a := t.read c.ftz x
    let b := t.read c.ftz y
    let d := t.read c.ftz z
    let nv (p : Bool) : FpFlags := if p then FpFlags.nv else 0
    (a.isNan ∨ b.isNan → let f := nv (a.isSignalling || b.isSignalling)
      t.add c x y = (t.nan, f) ∧ t.sub c x y = (t.nan, f) ∧ t.mul c x y = (t.nan, f) ∧ t.div c x y = (t.nan, f) ∧
      t.pick c .less x y = (t.nan, f) ∧ t.pick c .more x y = (t.nan, f)) ∧
    (a.isNan → t.sqrt c x = (t.nan, nv a.isSignalling)) ∧
    (a.isNan ∨ b.isNan ∨ d.isNan → (t.fma c x y z).1 = t.nan) ∧
    ((a.isInf ∧ b.isZero) ∨ (a.isZero ∧ b.isInf) →
      t.mul c x y = (t.nan, FpFlags.nv) ∧ t.fma c x y z = (t.nan, FpFlags.nv)) ∧
    (a.isInf → b.isInf → a.isNeg ≠ b.isNeg → t.add c x y = (t.nan, FpFlags.nv)) ∧
    (a.isInf → b.isInf → a.isNeg = b.isNeg → t.sub c x y = (t.nan, FpFlags.nv)) ∧
    (a.isInf → b.isInf → t.div c x y = (t.nan, FpFlags.nv)) ∧
    (a.isZero → b.isZero → t.div c x y = (t.nan, FpFlags.nv)) ∧
    (Exact a → ¬a.isZero → b.isZero → t.div c x y = (t.infinity (a.isNeg != b.isNeg), FpFlags.dz)) ∧
    (Exact a → b.isInf → (t.div c x y).1 = if a.isNeg != b.isNeg then 2 ^ t.mag else 0) ∧
    (a.isInf → Exact b → t.add c x y = (t.infinity a.isNeg, 0) ∧ t.sub c x y = (t.infinity a.isNeg, 0)) ∧
    (a.isInf → Exact b → ¬b.isZero → t.mul c x y = (t.infinity (a.isNeg != b.isNeg), 0)) ∧
    (a.isNeg → ¬a.isZero → ¬a.isNan → t.sqrt c x = (t.nan, FpFlags.nv)) ∧
    (a.isNan → ¬b.isNan → [Val.less, Val.more].all fun f => t.pickNum c f x y == ((t.pickNum c f y y).1, nv a.isSignalling)) ∧
    (¬a.isNan → b.isNan → [Val.less, Val.more].all fun f => t.pickNum c f x y == ((t.pickNum c f x x).1, nv b.isSignalling)) ∧
    (a.isNan → b.isNan → [Val.less, Val.more].all fun f =>
      t.pickNum c f x y == (t.nan, nv (a.isSignalling || b.isSignalling))) ∧
    (¬a.isNan → ¬b.isNan →
      extOf (t.value (t.pick c .less x y).1) = Min.min (extOf a) (extOf b) ∧
      extOf (t.value (t.pick c .more x y).1) = Max.max (extOf a) (extOf b) ∧
      t.pickNum c .less x y = t.pick c .less x y ∧ t.pickNum c .more x y = t.pick c .more x y ∧
      (a.isZero → b.isZero →
        (t.value (t.pick c .less x y).1).isNeg = (a.isNeg || b.isNeg) ∧
        (t.value (t.pick c .more x y).1).isNeg = (a.isNeg && b.isNeg)))) ∧
  (∀ (t : Fmt) (ftz : Bool) (x y : Nat),
    let a := t.read ftz x
    let b := t.read ftz y
    let nv (p : Bool) : FpFlags := if p then FpFlags.nv else 0
    if a.isNan || b.isNan then
      [FCond.lt, .le, .gt, .ge].all (fun k => t.compare ftz k x y == (false, FpFlags.nv)) ∧
      [FCond.eq, .ord].all (fun k => t.compare ftz k x y == (false, nv (a.isSignalling || b.isSignalling))) ∧
      [FCond.ne, .un].all (fun k => t.compare ftz k x y == (true, nv (a.isSignalling || b.isSignalling)))
    else
      ((t.compare ftz .eq x y).1 ↔ extOf a = extOf b) ∧ ((t.compare ftz .ne x y).1 ↔ extOf a ≠ extOf b) ∧
      ((t.compare ftz .lt x y).1 ↔ extOf a < extOf b) ∧ ((t.compare ftz .le x y).1 ↔ extOf a ≤ extOf b) ∧
      ((t.compare ftz .gt x y).1 ↔ extOf a > extOf b) ∧ ((t.compare ftz .ge x y).1 ↔ extOf a ≥ extOf b) ∧
      (t.compare ftz .un x y).1 = false ∧ (t.compare ftz .ord x y).1 = true ∧
      [FCond.eq, .ne, .lt, .le, .gt, .ge, .un, .ord].all fun k => (t.compare ftz k x y).2 == 0) ∧
  (∀ (ftz : Bool) (x : Nat),
    let a := Fmt.f32.read ftz x
    (a.isNan → [Fpx.sqrt, .rcp, .rsq, .exp2, .log2, .sinpi, .cospi, .tanh].all fun f =>
      f.eval ftz a == (0x7FC00000, if a.isSignalling then FpFlags.nv else 0)) ∧
    (a.isZero → Fpx.rcp.eval ftz a = (if a.isNeg then 0xFF800000 else 0x7F800000, FpFlags.dz) ∧
      Fpx.rsq.eval ftz a = (if a.isNeg then 0xFF800000 else 0x7F800000, FpFlags.dz) ∧
      Fpx.log2.eval ftz a = (0xFF800000, FpFlags.dz) ∧
      Fpx.sqrt.eval ftz a = (if a.isNeg then 0x80000000 else 0, 0) ∧
      Fpx.tanh.eval ftz a = (if a.isNeg then 0x80000000 else 0, 0) ∧
      Fpx.exp2.eval ftz a = (0x3F800000, 0)) ∧
    (a.isNeg → ¬a.isZero → ¬a.isNan → Fpx.sqrt.eval ftz a = (0x7FC00000, FpFlags.nv) ∧
      Fpx.rsq.eval ftz a = (0x7FC00000, FpFlags.nv) ∧ Fpx.log2.eval ftz a = (0x7FC00000, FpFlags.nv)) ∧
    (a.isInf → Fpx.rcp.eval ftz a = (if a.isNeg then 0x80000000 else 0, 0) ∧
      Fpx.exp2.eval ftz a = (if a.isNeg then 0 else 0x7F800000, 0) ∧
      Fpx.sinpi.eval ftz a = (0x7FC00000, FpFlags.nv) ∧ Fpx.cospi.eval ftz a = (0x7FC00000, FpFlags.nv) ∧
      Fpx.tanh.eval ftz a = (if a.isNeg then 0xBF800000 else 0x3F800000, 0) ∧
      (¬a.isNeg → Fpx.rsq.eval ftz a = (0, 0))) ∧
    (Exact a → ∀ n : Int, realOf a = n → Fpx.sinpi.eval ftz a = (if a.isNeg then 0x80000000 else 0, 0) ∧
      Fpx.cospi.eval ftz a = (if n % 2 = 0 then 0x3F800000 else 0xBF800000, 0)) ∧
    (Exact a → ∀ n : Int, realOf a = n + 1 / 2 → Fpx.cospi.eval ftz a = (0, 0)) ∧
    (Exact a → 256 ≤ realOf a → Fpx.exp2.eval ftz a = (0x7F800000, FpFlags.of ||| FpFlags.nx)))

namespace Sys2Proof.Spec

/-- `n` is `x` rounded to an integer in the mode. -/
def IntRounded (r : Rnd) (x : ℝ) (n : Int) : Prop :=
  match r with
  | .rne => |x - n| ≤ 1 / 2 ∧ (|x - n| = 1 / 2 → n % 2 = 0)
  | .rna => |x - n| ≤ 1 / 2 ∧ (|x - n| = 1 / 2 → |x| < |(n : ℝ)|)
  | .rtz => |(n : ℝ)| ≤ |x| ∧ |x| < |(n : ℝ)| + 1 ∧ 0 ≤ (n : ℝ) * x
  | .rup => x ≤ n ∧ n < x + 1
  | .rdn => n ≤ x ∧ x < n + 1

/-- A source value with its modifiers. -/
def modifiedVal (neg abs : Bool) (v : Val) : Val :=
  let v := if abs && v.isNeg then v.negate else v
  if neg then v.negate else v

end Sys2Proof.Spec

/-- R177, R320, R321: conversion of every type into every other: integers wrap or clamp, floating point goes to the nearest
end with NV, to 0 with NV for a NaN, and otherwise to the integer that the mode selects. -/
def Obligations.ConversionValues : Prop :=
  ∀ (y x : NumType) (c : Ctx) (sat neg abs : Bool) (raw : Nat),
    let w := NumType.width x
    let u := NumType.width y
    let signedType (t : NumType) : Bool := t == .i8 || t == .i16 || t == .i32 || t == .i64
    let isInt (t : NumType) : Bool := signedType t || t == .n8 || t == .n16 || t == .n32 || t == .n64
    let lo : Int := if signedType y then -(2 ^ (u - 1)) else 0
    let hi : Int := if signedType y then 2 ^ (u - 1) - 1 else 2 ^ u - 1
    let n : Int := if signedType x then (BitVec.ofNat w raw).toInt else (BitVec.ofNat w raw).toNat
    let v := modifiedVal neg abs ((NumType.fmt x).read c.ftz (raw % 2 ^ w))
    let out := convert y x c sat neg abs raw
    (isInt x → isInt y → out = (((if sat then Max.max lo (Min.min hi n) else n) % 2 ^ u).toNat, 0)) ∧
    (isInt x → y = .f32 ∨ y = .f64 ∨ y = .f16 ∨ y = .bf16 → c.ftz = false →
      (n = 0 → out = (0, 0)) ∧ (n ≠ 0 → RoundsTo (NumType.fmt y) c.rnd n out)) ∧
    (¬isInt x → isInt y →
      (v.isNan → out = (0, FpFlags.nv)) ∧
      (v.isInf → out = ((if v.isNeg then lo % 2 ^ u else hi).toNat, FpFlags.nv)) ∧
      (Exact v → ∀ k : Int, IntRounded c.rnd (realOf v) k →
        (k < lo → out = ((lo % 2 ^ u).toNat, FpFlags.nv)) ∧
        (hi < k → out = (hi.toNat, FpFlags.nv)) ∧
        (lo ≤ k → k ≤ hi → out.1 = (k % 2 ^ u).toNat ∧ out.2 = if realOf v = k then 0 else FpFlags.nx))) ∧
    (¬isInt x → y = .f32 ∨ y = .f64 ∨ y = .f16 ∨ y = .bf16 → c.ftz = false →
      (v.isNan → out = ((NumType.fmt y).nan, if v.isSignalling then FpFlags.nv else 0)) ∧
      (v.isInf → out = ((NumType.fmt y).infinity v.isNeg, 0)) ∧
      (Exact v → realOf v ≠ 0 → RoundsTo (NumType.fmt y) c.rnd (realOf v) out))

/-- R171 to R181: the ends of the narrow formats, the flushing of subnormals, and NaNs, infinities and zeros. -/
def Obligations.NarrowFormatsFlushingAndSpecialOperands : Prop := Spec.NarrowFormatEnds ∧ Spec.FlushingOfSubnormals ∧ Spec.SpecialOperands


/-! ## Cross-lane instructions and the gust generator -/

namespace Sys2Proof.Spec

/-- The source lane of a shuffle (R293). -/
def sourceLane (k : Shfl) (w l y : Nat) : Nat :=
  match k with
  | .idx => y % w
  | .up => if l < y then l else l - y
  | .dn => if w ≤ l + y then l else l + y
  | .xor => l ^^^ (y % w)

def Shuffle (i : BitVec 7 → BitVec 7 → BitVec 7 → Adverb → Instr) (k : Shfl) : Prop :=
  ∀ d a b v, Computes (i d a b v) (usesShfl k v d a b) fun _ st l =>
    let x := sourceLane k st.width l (st.word l (bReg v b)).toNat
    [(dReg v d, if (st.lane x).status = .live then st.word x (aReg v a) else 0)]

/-- Every active lane receives one number computed from the words of all active lanes (R295). -/
def Gather (i : BitVec 7 → BitVec 7 → Adverb → Instr) (f : List Word → Int) : Prop :=
  ∀ d a v, Computes (i d a v) { usesR1 v d a with across := true } fun s st _ =>
    [(dReg v d, BitVec.ofInt 32 (f (s.cur.lanes.map fun l => st.word l (aReg v a))))]

/-- The pair whose bit j is set when lane j is active and `p` holds of its word and the lane's own (R295). -/
def GatherMask (i : BitVec 7 → BitVec 7 → Adverb → Instr) (p : Word → Word → Bool) : Prop :=
  ∀ d a v, Computes (i d a v) { usesR1 v d a with dsts := [(dstD v d).pair], across := true } fun s st l =>
    pairWords (dReg v d)
      ((((s.cur.lanes.filter fun j => p (st.word j (aReg v a)) (st.word l (aReg v a))).map fun j => 2 ^ j).sum : ℕ) : ℤ)

/-- G(K, C) of R188. -/
def gustOf (k c : Nat → Word) : Word :=
  let q := (List.range 6).foldl (fun (q : Word × Word × Word × Word) i =>
    let a := q.1 + q.2.1 + k (i % 4)
    let d := (q.2.2.2 ^^^ a).rotateLeft 16
    let e := q.2.2.1 + d
    (a, (q.2.1 ^^^ e).rotateLeft 12, e, d)) (c 0, c 1, c 2, c 3)
  q.1 ^^^ q.2.2.1

/-- The 128-bit number of four registers, the low word first. -/
def quadAt (st : Strand) (l r : Nat) : Nat :=
  ((List.range 4).map fun i => (st.word l (r + i)).toNat * 2 ^ (32 * i)).sum

/-- Its words, modulo 2^128. -/
def quadOf (r x : Nat) : List (Nat × Word) := (List.range 4).map fun i => (r + i, BitVec.ofNat 32 (x / 2 ^ (32 * i)))

end Sys2Proof.Spec

/-- R293, R295: shuffles, votes, ballots, reductions and matches over the active lanes of an issue. -/
def Obligations.CrossLaneInstructions : Prop :=
  (Shuffle .shflIdx .idx ∧ Shuffle .shflUp .up ∧ Shuffle .shflDn .dn ∧ Shuffle .shflXor .xor) ∧
  (Gather .voteAny (fun xs => held (∃ x ∈ xs, x ≠ 0)) ∧
   Gather .voteAll (fun xs => held (∀ x ∈ xs, x ≠ 0)) ∧
   Gather .voteEq (fun xs => held (∀ x ∈ xs, ∀ y ∈ xs, x = y)) ∧
   Gather .reduxAdd (fun xs => (xs.map fun x => x.toNat).sum) ∧
   Gather .reduxMin (fun xs => (xs.map fun x => x.toInt).min?.getD 0) ∧
   Gather .reduxMax (fun xs => (xs.map fun x => x.toInt).max?.getD 0) ∧
   Gather .reduxMinn (fun xs => (xs.map fun x => x.toNat).min?.getD 0) ∧
   Gather .reduxMaxn (fun xs => (xs.map fun x => x.toNat).max?.getD 0) ∧
   Gather .reduxAnd (fun xs => (xs.foldl (· &&& ·) (BitVec.allOnes 32)).toNat) ∧
   Gather .reduxOr (fun xs => (xs.foldl (· ||| ·) 0#32).toNat)) ∧
  (GatherMask .ballot (fun x _ => x ≠ 0) ∧
   GatherMask .matchLanes (fun x y => x = y))

/-- R188, R189, R366: a draw is G of the key and the counter, and the counter goes on by 1; RNGSK skips n draws. -/
def Obligations.RandomNumbers : Prop :=
  (∀ d a v, Computes (.rng d a v)
    { srcs := [(srcA v a).group 8], dsts := [{ reg := aReg v a + 4, n := 4, field := 1 }, dstD v d] } fun _ st l =>
    quadOf (aReg v a + 4) (quadAt st l (aReg v a + 4) + 1) ++
      [(dReg v d, gustOf (fun i => st.word l (aReg v a + i)) (fun i => st.word l (aReg v a + 4 + i)))]) ∧
  (∀ a b v, Computes (.rngsk a b v)
    { srcs := [(srcA v a).group 8, (srcB v b).group 4], dsts := [{ reg := aReg v a + 4, n := 4, field := 1 }] } fun _ st l =>
    quadOf (aReg v a + 4) (quadAt st l (aReg v a + 4) + quadAt st l (bReg v b)))


/-! ## Faults and waits -/

namespace Sys2Proof.Spec

/-- The fault record of the instruction in progress (Table 19-4). -/
def recordOf (s : State) (b : Block) (cls sub addr info info2 : Nat) (lanes : List Nat) : FaultRec :=
  { id := s.stamp, cls := cls, sub := sub, kind := 0, job := s.jobOf b, dev := s.mgmt.dev, die := b.core / 32,
    addr := BitVec.ofNat 64 addr, pc := s.cur.pc, grid := ((s.grid? b.grid).map fun g => g.gid).getD 0,
    blk := BitVec.ofNat 32 b.index, strand := s.cur.strand, core := b.core, lanes := BitVec.ofNat 64 (maskOf lanes),
    child := BitVec.ofNat 32 (s.childOf b), info := BitVec.ofNat 32 info, info2 := BitVec.ofNat 32 info2,
    block := some b.key }

/-- The record has joined the fault ring of Table 19-3: with room in a ring in DRAM and nothing held before it, its 64 bytes
stand at FRBASE + 64 × (FRPROD mod 2^LOG2N), FRPROD goes on by 1, and no other byte of memory changes; with the ring off it
is held (R411). -/
def Recorded (s t : State) (r : FaultRec) : Prop :=
  (s.ringOn = false → t.held = s.held ++ [r] ∧ t.mem = s.mem ∧ t.mgmt = s.mgmt) ∧
  (s.ringOn = true → isDram s.mgmt.frbase = true → s.held = [] →
    (s.mgmt.frprod - s.mgmt.frcons).toNat < 2 ^ s.mgmt.frlog2n →
    let entry := s.mgmt.frbase + 64 * (s.mgmt.frprod.toNat % 2 ^ s.mgmt.frlog2n)
    t.held = [] ∧ t.mgmt = { s.mgmt with frprod := s.mgmt.frprod + 1 } ∧
    memBytes t.mem entry 64 = r.bytes (s.mgmt.frprod.toNat % 2 ^ 32) ∧
    ∀ a, a < entry ∨ entry + 64 ≤ a → memGet t.mem a = memGet s.mem a)

/-- TAKING AN EXCEPTION (R406 to R412, Table 19-2): block `b` of state `s` stops with record `r`: no thread's program counter
or status changes, nor any register of a strand without a subjunctive run, nor scratchpad or matrix state; the block is
stopped until the record is answered; its TEAMED partner stops with it, and without DET or a partner every other block goes
on; the record joins the ring, and where it is written faultinfo holds FRPROD. -/
def Excepted (s t : State) (b : Block) (r : FaultRec) : Prop :=
  (∃ c, t.block? b.key = some c ∧ c.state = .stopping .fault ∧ c.stops = b.stops ++ [r.id] ∧ c.scratch = b.scratch ∧
    c.mat = b.mat ∧
    (∀ i l, ((c.strand i).lane l).pc = ((b.strand i).lane l).pc ∧
      ((c.strand i).lane l).status = ((b.strand i).lane l).status) ∧
    (∀ i, (b.strand i).run = none → ∀ l q, (c.strand i).reg l q = (b.strand i).reg l q) ∧
    (s.ringOn = true → isDram s.mgmt.frbase = true → s.held = [] →
      (s.mgmt.frprod - s.mgmt.frcons).toNat < 2 ^ s.mgmt.frlog2n → c.faultinfo = s.mgmt.frprod)) ∧
  (∀ p, s.partner? b = some p → s.block? p.key = some p → p.key ≠ b.key → p.state = .running →
    (t.block? p.key).map (fun x => x.state) = some (.stopping .partner)) ∧
  (s.partner? b = none → s.isDet b = false →
    ∀ k, k ≠ b.key → (t.block? k).map (fun x => x.state) = (s.block? k).map fun x => x.state) ∧
  Recorded s t r

/-- The block issues, though a stop at safe points may be under way. -/
def Block.issues (b : Block) : Prop := b.state = .running ∨ ∃ w, b.state = .stopping w ∧ w.atOnce = false

end Sys2Proof.Spec

/-- R406, R407, R408, R411, R412: of the faults that the lanes of one instruction meet, the class that stands first in the
check order is taken; LANES holds the lanes of that class, and ADDR their lowest address. -/
def Obligations.TakingAnException : Prop :=
  ∀ (s : State) (b : Block) (fs : List LaneFault), s.block? s.cur.blk = some b → Block.issues b → fs ≠ [] →
    (∀ f ∈ fs, f.cls < 0x100 ∧ f.kind = 0 ∧ f.child = none ∧ f.die = none) →
    let order (c : Nat) : Nat :=
      (([0x01, 0x02, 0x03, 0x04, 0x05, 0x06, 0x07, 0x08, 0x09, 0x0A, 0x0B, 0x12, 0x13, 0x10, 0x11] ++
        (List.range 0x100).filter fun c => 0x14 ≤ c).idxOf c)
    ∀ top ∈ fs, 0x01 ≤ top.cls → top.cls ≤ 0x0B ∨ 0x10 ≤ top.cls →
    (∀ f ∈ fs, 0x01 ≤ f.cls ∧ (f.cls ≤ 0x0B ∨ 0x10 ≤ f.cls) ∧ order top.cls ≤ order f.cls) →
    (∀ f ∈ fs, f.cls = top.cls → f ≠ top → top.addr < f.addr) →
    Excepted s (s.raise fs) b (recordOf s b top.cls top.sub top.addr top.info top.info2
      ((fs.filter fun f => f.cls == top.cls).map fun f => f.lane))

/-- R419, R420, R421, R422, R428: an odd register of a pair, a register beyond the allocation, an empty word under TEA, an
overdue safe point and a poisoned word that may not be used raise their classes before the instruction has any effect, with
the fields and details of those rules; SUB of several fields at once is the lowest (the model's choice, log 11). -/
def Sys2Proof.Spec.RegisterFaults : Prop :=
  ∀ (s : State) (b : Block), s.issuing b → Block.issues b →
    let st := b.strand s.cur.strand
    let raises (i : Instr) (cls sub info info2 : Nat) (lanes : List Nat) : Prop :=
      ∃ t, exec i s = .next t ∧ Excepted s t b (recordOf s b cls sub 0 info info2 lanes)
    (∀ d a c v,
      (dReg v d % 2 = 1 → raises (.addx d a c v) 0x04 0 (dReg v d) 0 s.cur.lanes) ∧
      (dReg v d % 2 = 0 → aReg v a % 2 = 1 → raises (.addx d a c v) 0x04 1 (aReg v a) 0 s.cur.lanes) ∧
      (dReg v d % 2 = 0 → aReg v a % 2 = 0 → bReg v c % 2 = 1 → raises (.addx d a c v) 0x04 2 (bReg v c) 0 s.cur.lanes) ∧
      (b.regs ≤ dReg v d → raises (.add d a c v) 0x05 0 (dReg v d) 0 s.cur.lanes) ∧
      (dReg v d < b.regs → b.regs ≤ aReg v a → raises (.add d a c v) 0x05 1 (aReg v a) 0 s.cur.lanes) ∧
      (dReg v d < b.regs → aReg v a < b.regs → b.regs ≤ bReg v c →
        raises (.add d a c v) 0x05 2 (bReg v c) 0 s.cur.lanes)) ∧
    (∀ d a c m, let v := Adverb.mod m
      dReg v d < b.regs → aReg v a < b.regs → bReg v c < b.regs → m.tea = true → m.teb = false →
      let empty := s.cur.lanes.filter fun l => !(st.reg l (aReg v a)).full
      (∀ l ∈ s.cur.lanes, (st.lane l).due = []) → empty ≠ [] →
        raises (.add d a c v) 0x06 0 (aReg v a) (st.word (empty.headD 0) (aReg v a)).toNat empty) ∧
    (∀ d a c, let v := Adverb.none
      dReg v d < b.regs → aReg v a < b.regs → bReg v c < b.regs →
      let spent := s.cur.lanes.filter fun l => decide (16384 ≤ (st.lane l).count)
      (∀ l ∈ s.cur.lanes, (st.lane l).due = []) → spent ≠ [] → raises (.add d a c v) 0x07 0 16384 0 spent) ∧
    (∀ d sel, let v := Adverb.none
      dReg v d < b.regs → (∀ l ∈ s.cur.lanes, (st.reg l (dReg v d)).full = true ∧ (st.lane l).count < 16384 ∧
        (st.lane l).due = []) →
      let bad := s.cur.lanes.filter fun l => (st.reg l (dReg v d)).poison
      bad ≠ [] → raises (.evt d sel v) 0x0A 0 (dReg v d) 0 bad)

/-- R85, R86, R105: a lane that meets an empty word parks on it and keeps everything; the other active lanes run. A lane waits
first for its sources and then for its destination. -/
def Sys2Proof.Spec.WaitingOnEmptyWords : Prop :=
  ∀ (s : State) (b : Block) d a c, s.issuing b →
    let st := b.strand s.cur.strand
    let v := Adverb.none
    let full (l r : Nat) : Prop := (st.reg l r).full = true
    dReg v d < b.regs → aReg v a < b.regs → bReg v c < b.regs →
    (∀ l ∈ s.cur.lanes, (st.lane l).count < 16384 ∧ (st.lane l).due = []) →
    ∃ t e, exec (.add d a c v) s = .next t ∧ s.onlyBlock t b e ∧ s.onlyStrand b e ∧
      let now := e.strand s.cur.strand
      ∀ l,
        (l ∉ s.cur.lanes → now.lane l = st.lane l ∧ ∀ q, q < 256 → now.reg l q = st.reg l q) ∧
        (l ∈ s.cur.lanes → full l (aReg v a) ∧ full l (bReg v c) ∧ full l (dReg v d) →
          now.lane l = (st.lane l).retire s.cur.next ∧
          (now.reg l (dReg v d)).val = st.word l (aReg v a) + st.word l (bReg v c) ∧
          ∀ q, q < 256 → q ≠ dReg v d → now.reg l q = st.reg l q) ∧
        (l ∈ s.cur.lanes → ¬(full l (aReg v a) ∧ full l (bReg v c) ∧ full l (dReg v d)) →
          (∀ q, q < 256 → now.reg l q = st.reg l q) ∧
          ∃ ks, ks ≠ [] ∧ now.lane l = { st.lane l with park := .words ks } ∧
            ∀ k ∈ ks, ∃ q, k = regKey l q ∧ ¬full l q ∧
              if full l (aReg v a) ∧ full l (bReg v c) then q = dReg v d else q = aReg v a ∨ q = bReg v c)

/-- R85, R86, R105, R419 to R422, R428: what an operand register can make an instruction do instead. -/
def Obligations.RegisterFaultsAndWaits : Prop := Spec.RegisterFaults ∧ Spec.WaitingOnEmptyWords


/-! ## Control flow -/

namespace Sys2Proof.Spec

/-- One strand of one block changes, as `P` says; nothing else but handles that were waited for. -/
def OnStrand (s t : State) (b : Block) (P : Strand → Prop) : Prop :=
  ∃ c, s.onlyBlock t b c ∧ (∀ j, j ≠ s.cur.strand → c.strand j = b.strand j) ∧ P (c.strand s.cur.strand)

/-- Every active lane goes on as `f` says, no other lane changes, and nothing else of the strand does. -/
def LanesOnly (s t : State) (b : Block) (f : Nat → Lane → Lane) : Prop :=
  OnStrand s t b fun now =>
    let st := b.strand s.cur.strand
    now = { st with lanes := now.lanes } ∧ ∀ l, now.lane l = if l ∈ s.cur.lanes then f l (st.lane l) else st.lane l

/-- The 8 bytes of code at an 8-byte aligned address, in this module's DRAM and on no viewed page. -/
def CodeAt (s : State) (b : Block) (va x : Nat) : Prop :=
  ∃ p pa, s.codePlace b va = .ok p ∧ p.loc = .phys pa ∧ (∀ f, p.leaf = some f → f.view = false) ∧ x = memNat s.mem pa 8

/-- A target that passes the checks of R415: even, on an executable page, no adverb off an 8-byte boundary, not inside a
pair. -/
def GoodTarget (s : State) (b : Block) (t : Dword) : Prop :=
  t.toNat % 2 = 0 ∧ ∃ x, CodeAt s b (t.toNat / 8 * 8) x ∧
    (t.toNat % 8 ≠ 0 → x / 256 ^ (t.toNat % 8) % 4 ≠ 3) ∧ (t.toNat % 8 = 4 → x % 4 ≠ 3)

/-- `pc` plus a signed number of halfwords. -/
def after (pc : Dword) (n : Int) : Dword := BitVec.ofInt 64 (pc.toNat + 2 * n)

/-- Nothing of the cores changed but, on core `k`, what its front end has learnt of branches (R43). -/
def LearnsOnly (s t : State) (k : Nat) : Prop :=
  (∀ j, j ≠ k → t.core j = s.core j) ∧
  t.core k = { s.core k with predictor := (t.core k).predictor, maskCache := (t.core k).maskCache }

/-- A conditional branch: `taken` says which active lanes go to the target. A per-lane branch, `per`, may change the strand's
outcome history and its core's predictor (R43). -/
def Branches (per : Bool) (i : BitVec 7 → BitVec 15 → Adverb → Instr) (taken : List Word → Word → Bool) : Prop :=
  ∀ p off v (s : State) (b : Block), s.clearFor b { srcs := [{ reg := dReg v p, field := 0, poison := true }] } →
    let st := b.strand s.cur.strand
    let goes (l : Nat) : Bool := taken (s.cur.lanes.map fun k => st.word k (dReg v p)) (st.word l (dReg v p))
    let target := after s.cur.pc off.toInt
    ((∃ l ∈ s.cur.lanes, goes l) → GoodTarget s b target) →
    ∃ t, exec (i p off v) s = .next t ∧ LearnsOnly s t b.core ∧ (per = false → t.cores = s.cores) ∧
      OnStrand s { t with cores := s.cores } b fun now =>
        now = { st with lanes := now.lanes, history := now.history } ∧ (per = false → now.history = st.history) ∧
        ∀ l, now.lane l =
          if l ∈ s.cur.lanes then (st.lane l).retire (if goes l then target else s.cur.next) else st.lane l

/-- A jump of every active lane, with the link pair v2:v3 if `link` (R299, R300). -/
def Jumps (i : Instr) (srcs : List Src) (link : Bool) (target : State → Strand → Nat → Dword) : Prop :=
  ∀ (s : State) (b : Block),
    s.clearFor b { srcs := srcs, dsts := if link then [{ reg := 2, n := 2, align := 2 }] else [] } →
    let st := b.strand s.cur.strand
    (∀ l ∈ s.cur.lanes, GoodTarget s b (target s st l)) →
    ∃ t, exec i s = .next t ∧ OnStrand s t b fun now =>
      now = { st with lanes := now.lanes, regs := now.regs } ∧
      (∀ l, now.lane l = if l ∈ s.cur.lanes then (st.lane l).retire (target s st l) else st.lane l) ∧
      ∀ l r, r < 256 → now.reg l r =
        if link ∧ l ∈ s.cur.lanes ∧ r = 2 then ⟨BitVec.ofNat 32 s.cur.next.toNat, true, false, false⟩
        else if link ∧ l ∈ s.cur.lanes ∧ r = 3 then ⟨BitVec.ofNat 32 (s.cur.next.toNat / 2 ^ 32), true, false, false⟩
        else st.reg l r

end Sys2Proof.Spec

/-- R297, R298, Table 13-8: the conditional branches, per lane and for all active lanes at once. -/
def Obligations.ConditionalBranches : Prop :=
  Branches true .bnz (fun _ x => x ≠ 0) ∧
  Branches true .bz (fun _ x => x = 0) ∧
  Branches false .bany (fun xs _ => xs.any fun x => x ≠ 0) ∧
  Branches false .ball (fun xs _ => xs.all fun x => x ≠ 0) ∧
  Branches false .bnone (fun xs _ => !xs.any fun x => x ≠ 0)

/-- R299 to R301: jumps, calls, returns and jumps through a table of halfwords. -/
def Sys2Proof.Spec.JumpsAndCalls : Prop :=
  (∀ off, Jumps (.jmpl off) [] false fun s _ _ => after s.cur.pc off.toInt) ∧
  (∀ off, Jumps (.calll off) [] true fun s _ _ => after s.cur.pc off.toInt) ∧
  (∀ d v, Jumps (.jmpr d v) [(srcD v d).pair.clean] false fun _ st l => pairAt st l (dReg v d)) ∧
  (∀ d v, Jumps (.callr d v) [(srcD v d).pair.clean] true fun _ st l => pairAt st l (dReg v d)) ∧
  Jumps .ret [{ reg := 2, n := 2, align := 2, field := 0, poison := true }] false (fun _ st l => pairAt st l 2) ∧
  (∀ d sel v (s : State) (b : Block), s.clearFor b { srcs := [(srcD v d).clean] } →
    let st := b.strand s.cur.strand
    ∀ entry : Nat → BitVec 16,
    (∀ l ∈ s.cur.lanes,
      let slot := (after s.cur.next (Min.min (st.word l (dReg v d)).toNat sel.toNat : Nat)).toNat
      (∃ x, CodeAt s b (slot / 8 * 8) x ∧ entry l = BitVec.ofNat 16 (x / 256 ^ (slot % 8))) ∧
      GoodTarget s b (after s.cur.next (entry l).toInt)) →
    ∃ t, exec (.brx d sel v) s = .next t ∧
      LanesOnly s t b fun l ln => ln.retire (after s.cur.next (entry l).toInt))

/-- R38, R50, R52, R303, R304, R305, R307, R308, R414: RALLY, YIELD, SAFEPT, the NOPs and EXIT. That a lane stopped at a
safe point still holds a RALLY is the model's choice (log 60), and so are the bits that a record shows where none can be read
(log 15). -/
def Obligations.RallyYieldSafePointNopExit : Prop :=
  (∀ (s : State) (b : Block), s.clearFor b {} →
    let st := b.strand s.cur.strand
    let behind := ∃ l, l < st.lanes.length ∧ (st.lane l).status = .live ∧ (st.lane l).park.rallied = none ∧
      s.waits b st s.cur.strand (st.lane l).park = false ∧ (st.lane l).pc.toNat < s.cur.pc.toNat
    let waiting (l : Nat) : Prop := l < st.lanes.length ∧ (st.lane l).status = .live ∧
      (st.lane l).park.rallied ≠ none ∧ (st.lane l).pc = s.cur.pc
    (behind → ∃ t, exec .rally s = .next t ∧ LanesOnly s t b fun _ ln => { ln with park := .rally (s.coreClock b.core) }) ∧
    (¬behind → ∃ t, exec .rally s = .next t ∧ OnStrand s t b fun now => now = { st with lanes := now.lanes } ∧
      ∀ l, (l ∈ s.cur.lanes ∨ waiting l → now.lane l = (st.lane l).retire s.cur.next) ∧
        (¬(l ∈ s.cur.lanes ∨ waiting l) → now.lane l = st.lane l)) ∧
    (∃ t, exec .yield s = .next t ∧ OnStrand s t b fun now =>
      now = { st with lanes := now.lanes, fair := now.fair, quads := now.quads } ∧
      ∀ l, now.lane l = if l ∈ s.cur.lanes then (st.lane l).retire s.cur.next else st.lane l) ∧
    (∃ t, exec .nop s = .next t ∧ LanesOnly s t b fun _ ln => ln.retire s.cur.next) ∧
    (∃ t, exec .nopHalfword s = .next t ∧ LanesOnly s t b fun _ ln => ln.retire s.cur.next)) ∧
  (∀ (s : State) (b : Block) (g : Grid) imm, s.issuing b → s.grid? b.grid = some g →
    (∀ l ∈ s.cur.lanes, ((b.strand s.cur.strand).lane l).due = []) →
    let passed (k : Option Nat) (_ : Nat) (ln : Lane) : Lane :=
      { ln with pc := s.cur.next, park := .none, count := 0, safe := some imm.toNat, stopped := k, replies := [] }
    (imm.toNat < g.nsafe → b.state = .running →
      ∃ t, exec (.safept imm) s = .next t ∧ LanesOnly s t b (passed none)) ∧
    (imm.toNat < g.nsafe → b.mat = none → (∃ w, b.state = .stopping w ∧ w.atOnce = false) →
      ∃ t, exec (.safept imm) s = .next t ∧ LanesOnly s t b (passed (some 2))) ∧
    (g.nsafe ≤ imm.toNat → Block.issues b →
      ∃ t u x y, exec (.safept imm) s = .next t ∧ u = { s with free := u.free } ∧
        Excepted u t b (recordOf u b 0x01 5 s.cur.pc.toNat x y s.cur.lanes))) ∧
  (∀ (s : State) (b : Block), s.clearFor b {} → (∀ k, (b.strand k).arrived = none) →
    let st := b.strand s.cur.strand
    let gone (_ : Nat) (ln : Lane) : Lane :=
      { ln with status := .exited, park := .none, stopped := none, resv := none, unsealed := [], due := [], replies := [] }
    let other (x : Nat × Nat) : Prop := x ∈ b.liveLanes ∧ ¬(x.1 = s.cur.strand ∧ x.2 ∈ s.cur.lanes)
    (∀ l, l ∉ s.cur.lanes → (st.lane l).park = .none) →
    ((∃ x, other x) → (∀ x, other x → ((b.strand x.1).lane x.2).park = .none) →
      ∃ t, exec .exit s = .next t ∧ LanesOnly s t b gone) ∧
    ((∀ x, ¬other x) → s.isDet b = false → s.partner? b = none →
      ∃ t u c, exec .exit s = .next t ∧ LanesOnly s u b gone ∧ u.block? s.cur.blk = some c ∧ c.liveLanes = [] ∧
        t.block? s.cur.blk = some { c with last := s.cur.lanes.head?.map fun l => (s.cur.strand, l) } ∧
        (∀ k, k ≠ s.cur.blk → t.block? k = s.block? k) ∧ t = { s with blocks := t.blocks }))

/-- R415, R406, R407: a target that is odd stops the transfer of every lane with 0x12, one inside a pair with 0x03, and an
adverb off its boundary with 0x02, before any lane moves and any link is written. -/
def Sys2Proof.Spec.BadTargets : Prop :=
  ∀ d v (s : State) (b : Block), s.clearFor b { srcs := [(srcD v d).pair.clean], dsts := [{ reg := 2, n := 2, align := 2 }] } →
    Block.issues b →
    let st := b.strand s.cur.strand
    let target (l : Nat) := pairAt st l (dReg v d)
    ∀ bad : Nat → Bool, (∃ l ∈ s.cur.lanes, bad l) →
    (∀ l ∈ s.cur.lanes, bad l = false → GoodTarget s b (target l)) →
    let lanes := s.cur.lanes.filter bad
    ∀ low ∈ lanes, (∀ l ∈ lanes, l ≠ low → (target low).toNat < (target l).toNat) →
    let raises (cls info info2 : Nat) : Prop := ∀ i ∈ [Instr.jmpr d v, .callr d v],
      ∃ t, exec i s = .next t ∧ Excepted s t b (recordOf s b cls 0 (target low).toNat info info2 lanes)
    ((∀ l ∈ lanes, (target l).toNat % 2 = 1) → ∃ info, raises 0x12 info 0) ∧
    (∀ x : Nat → Nat, (∀ l ∈ lanes, CodeAt s b ((target l).toNat / 8 * 8) (x l)) →
      ((∀ l ∈ lanes, (target l).toNat % 8 = 4 ∧ x l % 4 = 3 ∧ x l / 256 ^ 4 % 4 ≠ 3) →
        raises 0x03 (x low % 2 ^ 32) (x low / 2 ^ 32)) ∧
      ((∀ l ∈ lanes, (target l).toNat % 2 = 0 ∧ (target l).toNat % 8 ≠ 0 ∧ x l / 256 ^ ((target l).toNat % 8) % 4 = 3) →
        raises 0x02 (x low % 2 ^ 32) (x low / 2 ^ 32)))

/-- R298 to R303, R414, R416: jumps, calls, returns and tables, and targets that cannot be fetched. -/
def Obligations.JumpsCallsAndTables : Prop := Spec.JumpsAndCalls ∧ Spec.BadTargets


/-! ## Memory -/

namespace Sys2Proof.Spec

/-- Nothing is poisoned and nothing is reserved. -/
def Quiet (s : State) : Prop :=
  s.poison = [] ∧ s.padPoison = [] ∧ s.awayResv = [] ∧
  ∀ b ∈ s.blocks, ∀ st ∈ b.strands, ∀ l ∈ st.lanes, l.resv = none

/-- The byte that a core's L1 holds, 0 where it holds none (R107). -/
def heldByte (s : State) (core pa : Nat) : Byte := (((s.core core).l1At pa).map fun b => b.val).getD 0

/-- The core's L1 table is in canonical form: no byte is listed twice (`Obligations.L1StaysCanonical`). -/
def Listed (s : State) (core : Nat) : Prop := cellsWf none (s.core core).l1 = true

/-- Class 0 has credit on every die, so that no access is held for its budget (R71). -/
def Credited (s : State) : Prop := ∀ d, (s.die d).credited 0 = true

/-- The last of a core's own writes, where it has not been written back, and else what L2 holds. -/
def current (s : State) (core pa : Nat) : Byte :=
  match (s.core core).l1At pa with
  | some b => if b.dirty then b.val else memGet s.mem pa
  | none => memGet s.mem pa

/-- The core holds nothing that a release would have to write back or send. -/
def Clean (s : State) (core : Nat) : Prop :=
  (s.core core).wcb = [] ∧ ∀ e ∈ (s.core core).l1, ∀ x, e.2 = some x → x.dirty = false

/-- `n` bytes at `va` reach DRAM at `pa`, through a leaf that is not viewed and that the L1 may hold or not. -/
def Reaches (s : State) (b : Block) (va n : Nat) (perm : Perm) (pa : Nat) (cached : Bool) : Prop :=
  ∃ lf, s.place b (s.jobOf b) va n perm = .ok ⟨.phys pa, some lf⟩ ∧ lf.view = false ∧ (lf.cache = 0 ↔ cached)

/-- `n` bytes at a generic address, or at a scratchpad offset, reach byte `o` of block `k`'s scratchpad. -/
def ReachesPad (s : State) (b : Block) (pad : Bool) (va n : Nat) (perm : Perm) (k o : Nat) : Prop :=
  (if pad then s.padPlace b va n else s.place b (s.jobOf b) va n perm) = .ok ⟨.scratch k o, none⟩

/-- The addend of an address (R345). -/
def addend (v : Adverb) (off : BitVec 8) (n : Nat) : Int :=
  match v with
  | .imm hi => (hi ++ off.extractLsb' 0 7 : BitVec 32).toInt
  | .none => off.toInt * n
  | .mod _ => off.toInt * n

/-- The address of a lane (R345): a pair plus the addend modulo 2^64, or a register plus the addend modulo 2^32. -/
def address (st : Strand) (v : Adverb) (a : BitVec 7) (off : BitVec 8) (n : Nat) (pad : Bool) (l : Nat) : Nat :=
  if pad then (BitVec.ofInt 32 ((st.word l (aReg v a)).toNat + addend v off n)).toNat
  else (BitVec.ofInt 64 ((pairAt st l (aReg v a)).toNat + addend v off n)).toNat

/-- The scope of an access, 0 for a relaxed one. -/
def scopeOf (v : Adverb) : Nat := (modOf v).scope.toNat

/-- The words that `n` loaded bytes write from register `r` on (R346). -/
def loaded (n : Nat) (signed : Bool) (r : Nat) (x : Nat → Byte) : List (Nat × Word) :=
  if n = 1 then [(r, if signed then (x 0).signExtend 32 else (x 0).zeroExtend 32)]
  else if n = 2 then
    let h : BitVec 16 := x 1 ++ x 0
    [(r, if signed then h.signExtend 32 else h.zeroExtend 32)]
  else (List.range (n / 4)).map fun j => (r + j, x (4 * j + 3) ++ x (4 * j + 2) ++ x (4 * j + 1) ++ x (4 * j))

/-- Byte `j` that a store of register `r` on writes (R347). -/
def storedByte (st : Strand) (l r j : Nat) : Byte := (st.word l (r + j / 4)).extractLsb' (8 * (j % 4)) 8

/-- The last of the active lanes whose `n` bytes from `at'` cover `x`. -/
def lastLane (lanes : List Nat) (at' : Nat → Nat) (n x : Nat) : Option Nat :=
  (lanes.filter fun l => decide (at' l ≤ x) && decide (x < at' l + n)).getLast?

/-- What an access does in its own block: every active lane goes on, registers `words` are written with the taint given and
no poison, and nothing else of the block changes but handles, the mark that it acted outside its view, and its scratchpad as
`pad` says. -/
def Accessed (s t : State) (b : Block) (words : Nat → List (Nat × Word)) (taint : Nat → Bool) (pad : Cells Byte → Prop) :
    Prop :=
  ∃ c, t.block? s.cur.blk = some c ∧ pad c.scratch ∧
    c = { b with strands := c.strands, handles := c.handles, outside := c.outside, scratch := c.scratch } ∧
    (∀ j, j ≠ s.cur.strand → c.strand j = b.strand j) ∧
    let st := b.strand s.cur.strand
    let now := c.strand s.cur.strand
    now = { st with lanes := now.lanes, regs := now.regs } ∧
    (∀ l, now.lane l = if l ∈ s.cur.lanes then (st.lane l).retire s.cur.next else st.lane l) ∧
    ∀ l r, r < 256 → now.reg l r =
      match if l ∈ s.cur.lanes then lastWord (words l) r else none with
      | some w => ⟨w, true, taint l, false⟩
      | none => st.reg l r

/-- The fabric is as before, but that answers under way may no longer fill an L1 (R151). -/
def FabricKeeps (s t : State) : Prop :=
  t.fabric = { s.fabric with reqs := t.fabric.reqs } ∧
  (t.fabric.reqs.map fun q => { q with fills := false }) = s.fabric.reqs.map fun q => { q with fills := false }

/-- The scope record of a place, but for the latest access that it shows: all that the check of R445 reads. -/
def writeRecord (s : State) (loc : Loc) : Option ScopeRec :=
  (s.scopeOf loc).bind fun r => if r.release then some { r with latest := 0 } else none

/-- Every other block is as before. -/
def OthersKeep (s t : State) : Prop := ∀ k, k ≠ s.cur.blk → t.block? k = s.block? k

def loadUses (n : Nat) (pad : Bool) (t a : BitVec 7) (v : Adverb) : Uses :=
  { srcs := [if pad then (srcA v a).clean else (srcA v a).pair.clean], dsts := [(dstD v t).group ((n + 3) / 4)] }

def storeUses (n : Nat) (pad : Bool) (t a : BitVec 7) (v : Adverb) : Uses :=
  { srcs := [if pad then (srcA v a).clean else (srcA v a).pair.clean,
      { reg := dReg v t, n := (n + 3) / 4, align := (n + 3) / 4, field := 0, trap := (modOf v).teb, poison := true }] }

/-- LD from DRAM on open pages (R346, R348): `n` little-endian bytes `got l` at each lane's address. Each is the current one:
the core's own write, or what L2 holds; a relaxed load with an untainted address may instead find all its bytes in L1, under a
lease that has not ended, and then takes those (R107), which LDCON and a load with a tainted address pass by (R158). Nothing
is written; a line that leaves the L1 to make room may write the core's own bytes back. An acquire of TEAM scope or wider
leaves no byte of a lease behind (R152). -/
def Loads (i : BitVec 7 → BitVec 7 → BitVec 8 → Adverb → Instr) (n : Nat) (signed con : Bool) : Prop :=
  ∀ t a off v (s : State) (b : Block), s.clearFor b (loadUses n false t a v) → Quiet s → s.isDet b = false → Credited s →
    Listed s b.core →
    let st := b.strand s.cur.strand
    let taint (l : Nat) := (loadUses n false t a v).marked st s.cur.lanes (fun w => w.taint) l
    let fresh (l : Nat) := con || taint l
    ∀ (pa : Nat → Nat) (cached : Nat → Bool),
    (∀ l ∈ s.cur.lanes, address st v a off n false l % n = 0 ∧
      Reaches s b (address st v a off n false l) n .read (pa l) (cached l) ∧
      s.scopeFlaw b s.cur.strand (scopeOf v) (.phys (pa l)) = none) →
    let serves (l : Nat) : Bool := cached l && !fresh l && (s.core b.core).serves (pa l) n (s.coreClock b.core)
    ∃ (t' : State) (got : Nat → Nat → Byte), exec (i t a off v) s = .next t' ∧
      t' = { s with blocks := t'.blocks, cores := t'.cores, dies := t'.dies, mem := t'.mem, migrations := t'.migrations,
                    scopes := t'.scopes, fabric := t'.fabric } ∧
      OthersKeep s t' ∧
      Accessed s t' b (fun l => loaded n signed (dReg v t) (got l)) (fun l => taint l || con) (fun x => x = b.scratch) ∧
      (∀ l ∈ s.cur.lanes, ∀ j, j < n →
        (cached l = true → got l j = current s b.core (pa l + j) ∨
          (serves l = true ∧ got l j = heldByte s b.core (pa l + j))) ∧
        (cached l = false → got l j = memGet s.mem (pa l + j) ∨ got l j = current s b.core (pa l + j)) ∧
        ((∀ k ∈ s.cur.lanes, cached k = false) → got l j = memGet s.mem (pa l + j)) ∧
        ((∀ k ∈ s.cur.lanes, serves k = true) → got l j = heldByte s b.core (pa l + j))) ∧
      (∀ x, current t' b.core x = current s b.core x ∧
        (memGet t'.mem x = memGet s.mem x ∨ memGet t'.mem x = current s b.core x)) ∧
      (∀ core, core ≠ b.core → t'.core core = s.core core) ∧
      ((s.core b.core).lines.length + s.cur.lanes.length ≤ 2048 → t'.mem = s.mem) ∧
      (∀ loc, writeRecord t' loc = writeRecord s loc) ∧ (scopeOf v = 0 → t'.scopes = s.scopes) ∧
      FabricKeeps s t' ∧ (scopeOf v ≤ 2 → t'.fabric = s.fabric) ∧
      (3 ≤ scopeOf v → b.core < s.cores.length → ∀ x q, (t'.core b.core).l1At x = some q → q.dirty = true)

/-- LD and LDS from scratchpad (R95, R98, R346): chunks present and no matrix instruction in the way. -/
def LoadsPad (i : BitVec 7 → BitVec 7 → BitVec 8 → Adverb → Instr) (n : Nat) (signed con pad : Bool) : Prop :=
  ∀ t a off v (s : State) (b : Block), s.clearFor b (loadUses n pad t a v) → Quiet s →
    let st := b.strand s.cur.strand
    let taint (l : Nat) := (loadUses n pad t a v).marked st s.cur.lanes (fun w => w.taint) l
    ∀ (k o : Nat → Nat) (from' : Nat → Block),
    (∀ l ∈ s.cur.lanes, address st v a off n pad l % n = 0 ∧
      ReachesPad s b pad (address st v a off n pad l) n .read (k l) (o l) ∧ s.block? (k l) = some (from' l) ∧
      (∀ j, j < n → (o l + j) / 512 ∉ (from' l).absent) ∧
      s.matHold b s.cur.strand (.scratch (k l) (o l)) n false = none) →
    ∃ t', exec (i t a off v) s = .next t' ∧
      t' = { s with blocks := t'.blocks, cores := t'.cores, fabric := t'.fabric } ∧ OthersKeep s t' ∧
      Accessed s t' b (fun l => loaded n signed (dReg v t) fun j => cellsGet 0 (o l + j) (from' l).scratch)
        (fun l => taint l || con) (fun x => x = b.scratch) ∧
      (∀ core, core ≠ b.core → t'.core core = s.core core) ∧ (Listed s b.core → ∀ x, current t' b.core x = current s b.core x) ∧
      FabricKeeps s t' ∧ (scopeOf v ≤ 2 → t'.cores = s.cores ∧ t'.fabric = s.fabric)

/-- ST to DRAM on open pages (R347): each lane's bytes at its address, a later lane over an earlier one; into the L1, dirty,
where the page lets it, and into memory where not. No other byte changes, but that a line which leaves the L1 to make room is
written back. A release writes after its release action, and leaves its scope on the line (R445). -/
def Stores (i : BitVec 7 → BitVec 7 → BitVec 8 → Adverb → Instr) (n : Nat) : Prop :=
  ∀ t a off v (s : State) (b : Block), s.clearFor b (storeUses n false t a v) → Quiet s → s.isDet b = false → Credited s →
    Listed s b.core → (scopeOf v ≠ 0 → Clean s b.core ∧ b.mat = none) → b.core < s.cores.length → s.cur.lanes.length ≤ 64 →
    let st := b.strand s.cur.strand
    ∀ (pa : Nat → Nat) (cached : Bool),
    (∀ l ∈ s.cur.lanes, address st v a off n false l % n = 0 ∧
      Reaches s b (address st v a off n false l) n .write (pa l) cached) →
    let written (x : Nat) (old : Byte) : Byte :=
      match lastLane s.cur.lanes pa n x with
      | some l => storedByte st l (dReg v t) (x - pa l)
      | none => old
    ∃ t', exec (i t a off v) s = .next t' ∧
      t' = { s with blocks := t'.blocks, cores := t'.cores, dies := t'.dies, mem := t'.mem, migrations := t'.migrations,
                    scopes := t'.scopes } ∧
      OthersKeep s t' ∧ Accessed s t' b (fun _ => []) (fun _ => false) (fun x => x = b.scratch) ∧
      (∀ core, core ≠ b.core → t'.core core = s.core core) ∧
      (cached = true →
        (∀ x, current t' b.core x = written x (current s b.core x)) ∧
        (∀ x, (lastLane s.cur.lanes pa n x).isSome → (t'.core b.core).l1At x = some ⟨written x 0, true⟩) ∧
        (∀ x, memGet t'.mem x = memGet s.mem x ∨ memGet t'.mem x = current s b.core x) ∧
        ((s.core b.core).lines.length + s.cur.lanes.length ≤ 2048 → t'.mem = s.mem)) ∧
      (cached = false → (∀ x, memGet t'.mem x = written x (memGet s.mem x)) ∧
        (t'.core b.core).l1 = (s.core b.core).l1) ∧
      (scopeOf v = 0 → t'.scopes = s.scopes) ∧
      (scopeOf v ≠ 0 → ∀ l ∈ s.cur.lanes, t'.scopeOf (.phys (pa l)) =
        some ⟨true, scopeOf v, scopeOf v, s.mgmt.dev, b.core, b.key, s.cur.strand⟩)

/-- Byte `x` of block `k`'s scratchpad. -/
def padByte (s : State) (k x : Nat) : Byte := ((s.block? k).map fun b => cellsGet 0 x b.scratch).getD 0

/-- ST and STS to scratchpad. -/
def StoresPad (i : BitVec 7 → BitVec 7 → BitVec 8 → Adverb → Instr) (n : Nat) (pad : Bool) : Prop :=
  ∀ t a off v (s : State) (b : Block), s.clearFor b (storeUses n pad t a v) → Quiet s →
    (scopeOf v ≠ 0 → Clean s b.core ∧ b.mat = none) →
    let st := b.strand s.cur.strand
    ∀ (k o : Nat → Nat) (into : Nat → Block),
    (∀ l ∈ s.cur.lanes, address st v a off n pad l % n = 0 ∧
      ReachesPad s b pad (address st v a off n pad l) n .write (k l) (o l) ∧ s.block? (k l) = some (into l) ∧
      (∀ j, j < n → (o l + j) / 512 ∉ (into l).absent) ∧
      s.matHold b s.cur.strand (.scratch (k l) (o l)) n true = none) →
    ∃ t', exec (i t a off v) s = .next t' ∧ t' = { s with blocks := t'.blocks } ∧
      Accessed s t' b (fun _ => []) (fun _ => false) (fun _ => True) ∧
      (∀ j, j ≠ s.cur.blk → ∀ x, s.block? j = some x → ∃ y, t'.block? j = some y ∧ y = { x with scratch := y.scratch }) ∧
      ∀ j x, (s.block? j).isSome → padByte t' j x =
        match lastLane (s.cur.lanes.filter fun l => k l == j) o n x with
        | some l => storedByte st l (dReg v t) (x - o l)
        | none => padByte s j x

end Sys2Proof.Spec

/-- R345, R346, R348: the loads of Table 15-2 from DRAM. -/
def Sys2Proof.Spec.LoadsFromDram : Prop :=
  Loads .ldI8 1 true false ∧
  Loads .ldN8 1 false false ∧
  Loads .ldI16 2 true false ∧
  Loads .ldN16 2 false false ∧
  Loads .ldB32 4 false false ∧
  Loads .ldB64 8 false false ∧
  Loads .ldB128 16 false false ∧
  Loads .ldcon 8 false true

/-- R95, R98, R345, R346: loads from the own and the partner's scratchpad, by offset and through the windows. -/
def Sys2Proof.Spec.LoadsFromScratchpad : Prop :=
  (LoadsPad .ldI8 1 true false false ∧
   LoadsPad .ldN8 1 false false false ∧
   LoadsPad .ldI16 2 true false false ∧
   LoadsPad .ldN16 2 false false false ∧
   LoadsPad .ldB32 4 false false false ∧
   LoadsPad .ldB64 8 false false false ∧
   LoadsPad .ldB128 16 false false false ∧
   LoadsPad .ldcon 8 false true false) ∧
  (LoadsPad .ldsI8 1 true false true ∧
   LoadsPad .ldsN8 1 false false true ∧
   LoadsPad .ldsI16 2 true false true ∧
   LoadsPad .ldsN16 2 false false true ∧
   LoadsPad .ldsB32 4 false false true ∧
   LoadsPad .ldsB64 8 false false true ∧
   LoadsPad .ldsB128 16 false false true)

/-- R347: the stores of Table 15-2 to DRAM, with their frame over every byte of memory. -/
def Sys2Proof.Spec.StoresToDram : Prop :=
  Stores .stB8 1 ∧
  Stores .stB16 2 ∧
  Stores .stB32 4 ∧
  Stores .stB64 8 ∧
  Stores .stB128 16

/-- R95, R98, R347: stores to scratchpad, with their frame over every byte of every block's scratchpad; memory keeps. -/
def Sys2Proof.Spec.StoresToScratchpad : Prop :=
  (StoresPad .stB8 1 false ∧
   StoresPad .stB16 2 false ∧
   StoresPad .stB32 4 false ∧
   StoresPad .stB64 8 false ∧
   StoresPad .stB128 16 false) ∧
  (StoresPad .stsB8 1 true ∧
   StoresPad .stsB16 2 true ∧
   StoresPad .stsB32 4 true ∧
   StoresPad .stsB64 8 true ∧
   StoresPad .stsB128 16 true)

namespace Sys2Proof.Spec

/-- The new word of Table 15-3. -/
def atomNew (f : AtomFn) (old y cmp : Word) : Int :=
  match f with
  | .add => old.toNat + y.toNat
  | .min => Min.min old.toInt y.toInt
  | .max => Max.max old.toInt y.toInt
  | .minn => Min.min old.toNat y.toNat
  | .maxn => Max.max old.toNat y.toNat
  | .and => (old &&& y).toNat
  | .or => (old ||| y).toNat
  | .xor => (old ^^^ y).toNat
  | .xchg => y.toNat
  | .cas => if old = cmp then y.toNat else old.toNat
  | .fadd => (Fmt.f32.add ⟨.rne, false⟩ old.toNat y.toNat).1
  | .ldres => old.toNat
  | .stcond => y.toNat

/-- The little-endian word at `pa`. -/
def wordAt (m : Memory) (pa : Nat) : Word := memGet m (pa + 3) ++ memGet m (pa + 2) ++ memGet m (pa + 1) ++ memGet m pa

/-- The words that the lanes return, and the memory after them, one lane after the other (R349). -/
def atomChain (f : AtomFn) (pa : Nat → Nat) (y cmp : Nat → Word) : List Nat → Memory → (Nat → Word) × Memory
  | [], m => (fun _ => 0, m)
  | l :: ls, m =>
    let old := wordAt m (pa l)
    let r := atomChain f pa y cmp ls (memPuts m (pa l) (leBytes 4 (BitVec.ofInt 32 (atomNew f old (y l) (cmp l))).toNat))
    (fun k => if k = l then old else r.1 k, r.2)

/-- An atomic that writes, on words of DRAM. With a scope it is a release and an acquire, and leaves its scope on the line
(R349, R445). -/
def Atomics (i : BitVec 7 → BitVec 7 → BitVec 7 → Adverb → Instr) (f : AtomFn) : Prop :=
  ∀ d a b v (s : State) (k : Block),
    let u : Uses := { srcs := [(srcA v a).pair.clean, (srcB v b).clean] ++
        (if f = .cas then [(srcC v (dReg v d)).clean] else []), dsts := [dstD v d] }
    s.clearFor k u → Quiet s → s.isDet k = false → Credited s → Clean s k.core → (scopeOf v ≠ 0 → k.mat = none) →
    let st := k.strand s.cur.strand
    ∀ (pa : Nat → Nat) (cached : Nat → Bool),
    (∀ l ∈ s.cur.lanes, (pairAt st l (aReg v a)).toNat % 4 = 0 ∧
      Reaches s k (pairAt st l (aReg v a)).toNat 4 .read (pa l) (cached l) ∧
      Reaches s k (pairAt st l (aReg v a)).toNat 4 .write (pa l) (cached l) ∧
      s.scopeFlaw k s.cur.strand (scopeOf v) (.phys (pa l)) = none) →
    let out := atomChain f pa (fun l => st.word l (bReg v b)) (fun l => st.word l (cReg v (dReg v d))) s.cur.lanes s.mem
    ∃ t', exec (i d a b v) s = .next t' ∧
      t' = { s with blocks := t'.blocks, cores := t'.cores, dies := t'.dies, mem := t'.mem, migrations := t'.migrations,
                    scopes := t'.scopes, fabric := t'.fabric } ∧
      OthersKeep s t' ∧
      Accessed s t' k (fun l => [(dReg v d, out.1 l)]) (fun l => u.marked st s.cur.lanes (fun w => w.taint) l)
        (fun x => x = k.scratch) ∧
      (∀ x, memGet t'.mem x = memGet out.2 x) ∧ (∀ core, core ≠ k.core → t'.core core = s.core core) ∧
      (∀ l ∈ s.cur.lanes, ∀ j, j < 4 → k.core < s.cores.length → (t'.core k.core).l1At (pa l + j) = none) ∧
      FabricKeeps s t' ∧ (scopeOf v = 0 → t'.scopes = s.scopes) ∧
      (scopeOf v ≠ 0 → ∀ l ∈ s.cur.lanes, t'.scopeOf (.phys (pa l)) =
        some ⟨true, scopeOf v, scopeOf v, s.mgmt.dev, k.core, k.key, s.cur.strand⟩)

end Sys2Proof.Spec

/-- R349, R350, Table 15-3: the atomics on 32-bit words; lanes that name one word follow one another in ascending order, each
returning what the lane before it left. -/
def Obligations.AtomicsOnDram : Prop :=
  Atomics .atomAdd .add ∧
  Atomics .atomMin .min ∧
  Atomics .atomMax .max ∧
  Atomics .atomMinn .minn ∧
  Atomics .atomMaxn .maxn ∧
  Atomics .atomAnd .and ∧
  Atomics .atomOr .or ∧
  Atomics .atomXor .xor ∧
  Atomics .atomXchg .xchg ∧
  Atomics .atomCas .cas ∧
  Atomics .atomFadd .fadd

/-- R351: LDRES returns the word and reserves it for the lane; STCOND writes and returns 1 when its lane's reservation names the
word, else writes nothing and returns 0, and drops the reservation either way; a successful one clears the reservations that
other lanes hold of the word. -/
def Obligations.LoadReserveStoreConditional : Prop :=
  (∀ d a v (s : State) (b : Block),
    let u : Uses := { srcs := [(srcA v a).pair.clean], dsts := [dstD v d] }
    s.clearFor b u → s.poison = [] → s.isDet b = false → Credited s → Clean s b.core → (scopeOf v ≠ 0 → b.mat = none) →
    let st := b.strand s.cur.strand
    ∀ (pa : Nat → Nat) (cached : Nat → Bool),
    (∀ l ∈ s.cur.lanes, (pairAt st l (aReg v a)).toNat % 4 = 0 ∧
      Reaches s b (pairAt st l (aReg v a)).toNat 4 .read (pa l) (cached l) ∧
      s.scopeFlaw b s.cur.strand (scopeOf v) (.phys (pa l)) = none) →
    ∃ t' c, exec (.atomLdres d a v) s = .next t' ∧
      t' = { s with blocks := t'.blocks, cores := t'.cores, dies := t'.dies, scopes := t'.scopes, fabric := t'.fabric } ∧
      FabricKeeps s t' ∧ (∀ loc, writeRecord t' loc = writeRecord s loc) ∧ OthersKeep s t' ∧
      (∀ core, core ≠ b.core → t'.core core = s.core core) ∧
      t'.block? s.cur.blk = some c ∧ c = { b with strands := c.strands, handles := c.handles } ∧
      (∀ j, j ≠ s.cur.strand → c.strand j = b.strand j) ∧
      ∀ l, let now := c.strand s.cur.strand
        (l ∉ s.cur.lanes → now.lane l = st.lane l ∧ ∀ r, r < 256 → now.reg l r = st.reg l r) ∧
        (l ∈ s.cur.lanes →
          now.lane l = { (st.lane l).retire s.cur.next with
            resv := some ⟨(pairAt st l (aReg v a)).toNat, .phys (pa l)⟩ } ∧
          ∀ r, r < 256 → if r = dReg v d then (now.reg l r).val = wordAt s.mem (pa l) ∧ (now.reg l r).full = true
            else now.reg l r = st.reg l r)) ∧
  (∀ d a b v (s : State) (k : Block) (l pa : Nat) (cached : Bool),
    let u : Uses := { srcs := [(srcA v a).pair.clean, (srcB v b).clean], dsts := [dstD v d] }
    s.clearFor k u → s.poison = [] → s.isDet k = false → Credited s → Clean s k.core → (scopeOf v ≠ 0 → k.mat = none) →
    s.cur.lanes = [l] →
    let st := k.strand s.cur.strand
    let va := (pairAt st l (aReg v a)).toNat
    va % 4 = 0 → Reaches s k va 4 .read pa cached → Reaches s k va 4 .write pa cached →
    s.scopeFlaw k s.cur.strand (scopeOf v) (.phys pa) = none →
    let holds := (st.lane l).resv = some ⟨va, .phys pa⟩
    ∃ t' c, exec (.atomStcond d a b v) s = .next t' ∧ t'.block? s.cur.blk = some c ∧
      t' = { s with blocks := t'.blocks, cores := t'.cores, dies := t'.dies, mem := t'.mem, migrations := t'.migrations,
                    scopes := t'.scopes, fabric := t'.fabric, awayResv := t'.awayResv } ∧
      FabricKeeps s t' ∧ (∀ core, core ≠ k.core → t'.core core = s.core core) ∧
      (let now := c.strand s.cur.strand
       now.lane l = { (st.lane l).retire s.cur.next with resv := none } ∧
       (now.reg l (dReg v d)).val = (if holds then 1 else 0) ∧
       (∀ r, r < 256 → r ≠ dReg v d → now.reg l r = st.reg l r) ∧
       ∀ m r, m ≠ l → r < 256 → now.reg m r = st.reg m r) ∧
      (¬holds → t'.mem = s.mem ∧ t'.awayResv = s.awayResv ∧ t'.migrations = s.migrations ∧ OthersKeep s t' ∧
        ∀ loc, writeRecord t' loc = writeRecord s loc) ∧
      (holds → (∀ x, memGet t'.mem x =
          if pa ≤ x ∧ x < pa + 4 then storedByte st l (bReg v b) (x - pa) else memGet s.mem x) ∧
        ∀ j x, s.block? j = some x → ∃ y, t'.block? j = some y ∧ (j ≠ s.cur.blk → y = { x with strands := y.strands }) ∧
          ∀ i, ((j, i) ≠ (s.cur.blk, s.cur.strand) → y.strand i = { x.strand i with lanes := (y.strand i).lanes }) ∧
          ∀ m, (j, i, m) ≠ (s.cur.blk, s.cur.strand, l) →
          (y.strand i).lane m = { (x.strand i).lane m with
            resv := ((x.strand i).lane m).resv.filter fun q => !q.loc.overlaps 4 (.phys pa) 4 }))

namespace Sys2Proof.Spec

/-- A single-lane access that raises one class with ADDR and the size in INFO (R432). -/
def Refused (i : Instr) (u : Uses) (size cls sub : Nat) (s : State) (b : Block) (addr : Nat) : Prop :=
  s.clearFor b u → Block.issues b →
    ∃ t, exec i s = .next t ∧ Excepted s t b (recordOf s b cls sub addr size 0 s.cur.lanes)

end Sys2Proof.Spec

/-- R407, R432, Table 21-1: misaligned accesses, addresses that translate nowhere, missing permissions and scratchpad bounds,
with the access size in INFO and 256 added for a write; none of the lanes has any effect. -/
def Obligations.AccessFaults : Prop :=
  (∀ t a off v (s : State) (b : Block), let st := b.strand s.cur.strand
    ∀ n i w, (n, i, w) ∈ [(2, Instr.ldI16 t a off v, false), (2, .ldN16 t a off v, false), (4, .ldB32 t a off v, false),
        (8, .ldB64 t a off v, false), (16, .ldB128 t a off v, false), (8, .ldcon t a off v, false),
        (2, .stB16 t a off v, true), (4, .stB32 t a off v, true), (8, .stB64 t a off v, true), (16, .stB128 t a off v, true)] →
    let u := if w then storeUses n false t a v else loadUses n false t a v
    s.clearFor b u → Block.issues b →
    let bad := s.cur.lanes.filter fun l => address st v a off n false l % n != 0
    ∀ low ∈ bad, (∀ l ∈ bad, l ≠ low → address st v a off n false low < address st v a off n false l) →
    ∃ t', exec i s = .next t' ∧
      Excepted s t' b (recordOf s b 0x12 0 (address st v a off n false low) (n + if w then 256 else 0) 0 bad)) ∧
  (∀ t a off v (s : State) (b : Block) l, s.cur.lanes = [l] → let st := b.strand s.cur.strand
    let va := address st v a off 4 false l
    va % 4 = 0 →
    (2 ^ 57 ≤ va → Refused (.ldB32 t a off v) (loadUses 4 false t a v) 4 0x10 1 s b va ∧
      Refused (.stB32 t a off v) (storeUses 4 false t a v) 260 0x10 1 s b va) ∧
    (0x01FF000000800000 ≤ va → va < 2 ^ 57 → Refused (.ldB32 t a off v) (loadUses 4 false t a v) 4 0x10 2 s b va) ∧
    (va < 0x01FF000000000000 → s.leaf? b.core (s.jobOf b) va = none →
      Refused (.ldB32 t a off v) (loadUses 4 false t a v) 4 0x10 0 s b va ∧
      Refused (.stB32 t a off v) (storeUses 4 false t a v) 260 0x10 0 s b va) ∧
    (∀ lf, va < 0x01FF000000000000 → s.leaf? b.core (s.jobOf b) va = some lf → lf.cache ≠ 3 →
      isDram (lf.addr + (va - lf.base)) = true →
      (lf.perm.getLsbD 0 = false → Refused (.ldB32 t a off v) (loadUses 4 false t a v) 4 0x11 0 s b va) ∧
      (lf.perm.getLsbD 1 = false → Refused (.stB32 t a off v) (storeUses 4 false t a v) 260 0x11 1 s b va) ∧
      (lf.perm.getLsbD 0 = true → lf.job ≠ s.jobOf b →
        Refused (.ldB32 t a off v) (loadUses 4 false t a v) 4 0x11 3 s b va))) ∧
  (∀ t a off v (s : State) (b : Block) l, s.cur.lanes = [l] →
    let x := address (b.strand s.cur.strand) v a off 4 true l
    x % 4 = 0 →
    (2 ^ 23 ≤ x → Refused (.ldsB32 t a off v) (loadUses 4 true t a v) 4 0x13 2 s b x) ∧
    (2 ^ 22 ≤ x → x < 2 ^ 23 → s.partner? b = none →
      Refused (.ldsB32 t a off v) (loadUses 4 true t a v) 4 0x13 1 s b x ∧
      Refused (.stsB32 t a off v) (storeUses 4 true t a v) 260 0x13 1 s b x) ∧
    (b.rows * 2032 ≤ x → x < 2 ^ 22 →
      Refused (.ldsB32 t a off v) (loadUses 4 true t a v) 4 0x13 0 s b x ∧
      Refused (.stsB32 t a off v) (storeUses 4 true t a v) 260 0x13 0 s b x))

/-- R345, R346, R84, R107: loads. -/
def Obligations.Loads : Prop := Spec.LoadsFromDram ∧ Spec.LoadsFromScratchpad

/-- R345, R347, R107, R108: stores. -/
def Obligations.Stores : Prop := Spec.StoresToDram ∧ Spec.StoresToScratchpad


/-! ## Synchronisation -/

namespace Sys2Proof.Spec

/-- The core's L1 is in canonical form, and its write-combining buffer holds nothing that a release would await. -/
def Drained (s : State) (core : Nat) : Prop := (s.core core).wcb = [] ∧ cellsWf none (s.core core).l1 = true

/-- An L1 byte after its write-back. -/
def cleaned (x : Option L1Byte) : Option L1Byte := x.map fun y => { y with dirty := false }

/-- An L1 byte after an acquire of its bytes: a clean one is gone. -/
def kept (x : Option L1Byte) : Option L1Byte := x.filter fun y => y.dirty

/-- The scope of a SYNC instruction (R143). -/
def syncScopeOf (v : Adverb) : Nat := if scopeOf v = 0 then 4 else scopeOf v

/-- FENCE.SC and FENCE.AR (R156, R157, Table 7-4): from TEAM scope on the core's dirty bytes
reach memory and its clean bytes go, those of lines of other modules too (the last is the model's reading, log 97). -/
def Fences (i : Adverb → Instr) : Prop :=
  ∀ v (s : State) (b : Block), s.clearFor b {} → b.mat = none → Quiet s → Drained s b.core →
    let scope := syncScopeOf v
    ∃ t, exec (i v) s = .next t ∧
      t = { s with blocks := t.blocks, cores := t.cores, dies := t.dies, mem := t.mem, migrations := t.migrations,
                   fabric := t.fabric } ∧
      FabricKeeps s t ∧ OthersKeep s t ∧
      Accessed s t b (fun _ => []) (fun _ => false) (fun x => x = b.scratch) ∧
      (∀ x, memGet t.mem x = if 3 ≤ scope then current s b.core x else memGet s.mem x) ∧
      (∀ k, (t.core b.core).l1At k = if scope ≤ 2 then (s.core b.core).l1At k else none) ∧
      ∀ core, core ≠ b.core → t.core core = s.core core

/-- Every live lane of block `x` but those in `but` has arrived. -/
def Arrived (waits : Park → Prop) (x : Block) (but : Nat → Nat → Prop) : Prop :=
  ∀ i l, ((x.strand i).lane l).status = .live → ¬but i l → waits ((x.strand i).lane l).park

/-- Block `x` as `y`: lanes that arrived go on at their next address, lanes of the issue at the next unit. -/
def BarPassed (s : State) (next : Park → Option Dword) (x y : Block) (now : Nat → Nat → Prop) : Prop :=
  y = { x with strands := y.strands } ∧ ∀ i, y.strand i = { x.strand i with lanes := (y.strand i).lanes } ∧
    ∀ l, let ln := (x.strand i).lane l
      (now i l → (y.strand i).lane l = ln.retire s.cur.next) ∧
      (¬now i l → (y.strand i).lane l =
        match ln.status, next ln.park with
        | .live, some n => ln.retire n
        | _, _ => ln)

def barNext : Park → Option Dword
  | .bar n => some n
  | _ => none

def tbarNext : Park → Option Dword
  | .tbar n => some n
  | _ => none

end Sys2Proof.Spec

/-- R143, R152, R156, R157, R355: fences at their scope, device scope without one. -/
def Sys2Proof.Spec.FenceInstructions : Prop := Spec.Fences .fenceSc ∧ Spec.Fences .fenceAr

/-- R354, Tables 7-3 and 7-4: the last live thread of the block, or of the team, completes the barrier, and every thread that
has arrived goes on; a team barrier releases at each arrival and acquires on both cores at its completion. -/
def Sys2Proof.Spec.Barriers : Prop :=
  (∀ v (s : State) (b : Block), s.clearFor b {} → b.mat = none →
    (∀ l ∈ s.cur.lanes, ((b.strand s.cur.strand).lane l).status = .live) →
    let mine (i l : Nat) : Prop := i = s.cur.strand ∧ l ∈ s.cur.lanes
    let all := Arrived (fun p => (barNext p).isSome) b mine
    (¬all → ∃ t, exec (.bar v) s = .next t ∧ LanesOnly s t b fun _ ln => { ln with park := .bar s.cur.next }) ∧
    (all → ∃ t c, exec (.bar v) s = .next t ∧ s.onlyBlock t b c ∧ BarPassed s barNext b c mine)) ∧
  (∀ v (s : State) (b : Block), s.clearFor b {} → b.mat = none → Quiet s → Drained s b.core →
    (∀ l ∈ s.cur.lanes, ((b.strand s.cur.strand).lane l).status = .live) →
    (∀ p, s.partner? b = some p → s.block? p.key = some p ∧ p.key ≠ b.key ∧ p.core ≠ b.core ∧
      cellsWf none (s.core p.core).l1 = true) →
    let mine (i l : Nat) : Prop := i = s.cur.strand ∧ l ∈ s.cur.lanes
    let all := Arrived (fun p => (tbarNext p).isSome) b mine ∧
      ∀ p, s.partner? b = some p → Arrived (fun p => (tbarNext p).isSome) p fun _ _ => False
    ∃ t c, exec (.tbar v) s = .next t ∧
      t = { s with blocks := t.blocks, cores := t.cores, dies := t.dies, mem := t.mem, migrations := t.migrations,
                   fabric := t.fabric } ∧ FabricKeeps s t ∧
      t.block? s.cur.blk = some c ∧ (∀ x, memGet t.mem x = current s b.core x) ∧
      (∀ k, k ≠ s.cur.blk → (∀ p, s.partner? b = some p → k ≠ p.key) → t.block? k = s.block? k) ∧
      (¬all → (∀ k, k ≠ s.cur.blk → t.block? k = s.block? k) ∧
        (c = { b with strands := c.strands } ∧ ∀ i, c.strand i = { b.strand i with lanes := (c.strand i).lanes } ∧
          ∀ l, (mine i l → (c.strand i).lane l = { (b.strand i).lane l with park := .tbar s.cur.next }) ∧
            (¬mine i l → (c.strand i).lane l = (b.strand i).lane l)) ∧
        (∀ k, (t.core b.core).l1At k = cleaned ((s.core b.core).l1At k)) ∧
        ∀ core, core ≠ b.core → t.core core = s.core core) ∧
      (all → BarPassed s tbarNext b c mine ∧
        (∀ k, (t.core b.core).l1At k = none) ∧
        (∀ core, core ≠ b.core → (∀ p, s.partner? b = some p → core ≠ p.core) → t.core core = s.core core) ∧
        ∀ p, s.partner? b = some p →
          (∃ y, t.block? p.key = some y ∧ BarPassed s tbarNext p y fun _ _ => False) ∧
          ∀ k, (t.core p.core).l1At k = kept ((s.core p.core).l1At k)))

namespace Sys2Proof.Spec

/-- Range `i` of a sync object at `o` with bytes `x` (Table 7-5): first byte and length. -/
def guardRange (o : Nat) (x : Nat → Byte) (i : Nat) : Nat × Nat :=
  let n (j k : Nat) : Nat := leNat ((List.range k).map fun m => x (j + m))
  (((o : Int) + 16 * (BitVec.ofNat 32 (n (16 + 6 * i) 4)).toInt).toNat, 16 * n (20 + 6 * i) 2)

/-- The number of ranges. -/
def nrange (x : Nat → Byte) : Nat := (x 8).toNat % 16

/-- The L1 keys that the object's guarded set covers: every key for 0 ranges; else the bytes of its ranges, which lie on
the page of leaf `lf` here. -/
def guarded (lf : Leaf) (o : Nat) (x : Nat → Byte) (k : Nat) : Prop :=
  nrange x = 0 ∨ ∃ i, i < nrange x ∧
    let r := guardRange o x i
    lf.addr + (r.1 - lf.base) ≤ k ∧ k < lf.addr + (r.1 - lf.base) + r.2

/-- The ranges of an object lie on the page of leaf `lf`, which the core's lookups of them find. -/
def OnePage (s : State) (b : Block) (lf : Leaf) (o : Nat) (x : Nat → Byte) : Prop :=
  nrange x ≤ 8 ∧ ∀ i, i < nrange x →
    let r := guardRange o x i
    lf.base ≤ r.1 ∧ r.1 + r.2 ≤ lf.base + lf.bytes ∧ r.1 < lf.base + lf.bytes ∧
    s.leaf? b.core (s.jobOf b) r.1 = some lf ∧ isDram (lf.addr + (r.1 - lf.base)) = true

end Sys2Proof.Spec

/-- R153, R154, R356, Tables 7-4 and 7-5: ACQ reads WORD and discards the clean bytes of the guarded set; REL writes back the
dirty bytes of the guarded set, then writes WORD and leaves its scope on the line. Objects, and their ranges, on one page, and
objects that all lanes find under a live lease, or none. -/
def Obligations.SyncObjects : Prop :=
  (∀ d a v (s : State) (b : Block),
    let u : Uses := { srcs := [(srcA v a).pair.clean], dsts := [(dstD v d).pair] }
    s.clearFor b u → Quiet s → s.isDet b = false → Drained s b.core → b.core < s.cores.length →
    (s.core b.core).lines.length + s.cur.lanes.length ≤ 2048 →
    let st := b.strand s.cur.strand
    let scope := syncScopeOf v
    let o (l : Nat) := (pairAt st l (aReg v a)).toNat
    let taint (l : Nat) := u.marked st s.cur.lanes (fun w => w.taint) l
    ∀ (pa : Nat → Nat) (lf : Leaf) (hit : Bool), lf.view = false →
    (∀ l ∈ s.cur.lanes, o l % 64 = 0 ∧ s.place b (s.jobOf b) (o l) 64 .read = .ok ⟨.phys (pa l), some lf⟩ ∧
      s.scopeFlaw b s.cur.strand scope (.phys (pa l)) = none ∧
      (lf.cache == 0 && !taint l && (s.core b.core).serves (pa l) 64 (s.coreClock b.core)) = hit) →
    let byte (l j : Nat) := if lf.cache ≠ 0 then memGet s.mem (pa l + j)
      else if hit then heldByte s b.core (pa l + j) else current s b.core (pa l + j)
    (∀ l ∈ s.cur.lanes, OnePage s b lf (o l) (byte l)) →
    let covered (k : Nat) : Prop := ∃ l ∈ s.cur.lanes, guarded lf (o l) (byte l) k
    ∃ t, exec (.acq d a v) s = .next t ∧
      t = { s with blocks := t.blocks, cores := t.cores, dies := t.dies, scopes := t.scopes, fabric := t.fabric } ∧
      FabricKeeps s t ∧ OthersKeep s t ∧ (∀ loc, writeRecord t loc = writeRecord s loc) ∧
      (∀ core, core ≠ b.core → t.core core = s.core core) ∧
      Accessed s t b (fun l => loaded 8 false (dReg v d) (byte l)) taint (fun x => x = b.scratch) ∧
      (∀ k, covered k → 3 ≤ scope → (t.core b.core).l1At k = kept ((s.core b.core).l1At k)) ∧
      (∀ k x, (s.core b.core).l1At k = some x → x.dirty = true → (t.core b.core).l1At k = some x) ∧
      (∀ k, ¬covered k → (∀ l ∈ s.cur.lanes, k / 128 ≠ pa l / 128) → (t.core b.core).l1At k = (s.core b.core).l1At k)) ∧
  (∀ a b v (s : State) (k : Block),
    let u : Uses := { srcs := [(srcA v a).pair.clean, (srcB v b).pair.clean] }
    s.clearFor k u → Quiet s → s.isDet k = false → k.mat = none → Drained s k.core →
    k.core < s.cores.length → (s.core k.core).lines.length + s.cur.lanes.length ≤ 2048 →
    let st := k.strand s.cur.strand
    let scope := syncScopeOf v
    let o (l : Nat) := (pairAt st l (aReg v a)).toNat
    ∀ (pa : Nat → Nat) (lf : Leaf) (hit : Bool), lf.view = false →
    (∀ l ∈ s.cur.lanes, o l % 64 = 0 ∧ s.place k (s.jobOf k) (o l) 64 .read = .ok ⟨.phys (pa l), some lf⟩ ∧
      s.place k (s.jobOf k) (o l) 8 .write = .ok ⟨.phys (pa l), some lf⟩ ∧
      (lf.cache == 0 && !u.tainted st l && (s.core k.core).serves (pa l) 64 (s.coreClock k.core)) = hit) →
    let byte (l j : Nat) := if lf.cache ≠ 0 then memGet s.mem (pa l + j)
      else if hit then heldByte s k.core (pa l + j) else current s k.core (pa l + j)
    (∀ l ∈ s.cur.lanes, OnePage s k lf (o l) (byte l)) →
    let covered (x : Nat) : Prop := ∃ l ∈ s.cur.lanes, guarded lf (o l) (byte l) x
    let written (x : Nat) (old : Byte) : Byte :=
      match lastLane s.cur.lanes pa 8 x with
      | some l => storedByte st l (bReg v b) (x - pa l)
      | none => old
    ∃ t m, exec (.rel a b v) s = .next t ∧
      t = { s with blocks := t.blocks, cores := t.cores, dies := t.dies, mem := t.mem, migrations := t.migrations,
                   scopes := t.scopes } ∧
      OthersKeep s t ∧ Accessed s t k (fun _ => []) (fun _ => false) (fun x => x = k.scratch) ∧
      (∀ core, core ≠ k.core → t.core core = s.core core) ∧
      (∀ x, (3 ≤ scope ∧ covered x → memGet m x = current s k.core x) ∧
        (¬(3 ≤ scope ∧ covered x) → memGet m x = memGet s.mem x)) ∧
      (lf.cache = 0 → t.mem = m ∧ (∀ x, current t k.core x = written x (current s k.core x)) ∧
        ∀ x, (lastLane s.cur.lanes pa 8 x).isSome → (t.core k.core).l1At x = some ⟨written x 0, true⟩) ∧
      (lf.cache ≠ 0 → ∀ x, memGet t.mem x = written x (memGet m x)) ∧
      ∀ l ∈ s.cur.lanes, t.scopeOf (.phys (pa l)) = some ⟨true, scope, scope, s.mgmt.dev, k.core, k.key, s.cur.strand⟩)

/-- R167, R237, R358: PUBLISH releases all memory at system scope, makes the other port's writes visible first where it has
carried any, and then writes the next counter value to the host of the port that the grid was launched from. -/
def Obligations.Publication : Prop :=
  ∀ v (s : State) (b : Block) (g : Grid), s.clearFor b {} → b.mat = none → Quiet s → Drained s b.core →
    s.grid? b.grid = some g → s.hosts.length = 2 → g.port < 2 →
    let p := g.port
    let q := 1 - p
    (∀ r ∈ s.hostReads, ¬(r.port = q ∧ r.bytes = 0)) →
    let h := s.host p
    let owes := (s.host q).dirty = true ∧ s.portGone q = false
    ∃ t, exec (.publish v) s = .next t ∧
      t = { s with blocks := t.blocks, cores := t.cores, dies := t.dies, mem := t.mem, migrations := t.migrations,
                   hosts := t.hosts, hostOut := t.hostOut, hostReads := t.hostReads } ∧
      OthersKeep s t ∧ (∀ x, memGet t.mem x = current s b.core x) ∧
      (∀ k, (t.core b.core).l1At k = cleaned ((s.core b.core).l1At k)) ∧
      (∀ core, core ≠ b.core → t.core core = s.core core) ∧
      (¬owes → Accessed s t b (fun _ => []) (fun _ => false) (fun x => x = b.scratch) ∧ t.hostReads = s.hostReads ∧
        (t.host p).pubval = h.pubval + 1 ∧ t.host q = s.host q ∧
        (s.portGone p = false → t.host p = { h with pubval := h.pubval + 1 } ∧
          t.hostOut = s.hostOut ++ [.write p h.pubadr (leBytes 8 (h.pubval + 1).toNat) false] ++
            if h.pubirq then [.msix p h.pubvec] else [])) ∧
      (owes → t.hostReads = s.hostReads ++ [⟨s.freshTag, q, 0, 0, .core, s.coreClock 0⟩] ∧ t.hostOut = s.hostOut ++ [.flushRead q] ∧
        t.host q = { s.host q with dirty := false } ∧ t.host p = h ∧
        ∃ c, t.block? s.cur.blk = some c ∧ ∀ l ∈ s.cur.lanes,
          (c.strand s.cur.strand).lane l = { (b.strand s.cur.strand).lane l with park := .reply [s.freshTag] })

namespace Sys2Proof.Spec

/-- A stream operation of block `b` is over: every active lane goes on, the block guards `guards`, has passed `passed`, and
has acted outside its view; nothing else of it changes but handles. -/
def StreamDone (s t : State) (b : Block) (guards passed : List Nat) : Prop :=
  OthersKeep s t ∧ ∃ c, t.block? s.cur.blk = some c ∧
    c = { b with strands := c.strands, handles := c.handles, guards := guards, passed := passed, outside := true } ∧
    (∀ j, j ≠ s.cur.strand → c.strand j = b.strand j) ∧
    let st := b.strand s.cur.strand
    let now := c.strand s.cur.strand
    now = { st with lanes := now.lanes } ∧
    ∀ l, now.lane l = if l ∈ s.cur.lanes then (st.lane l).retire s.cur.next else st.lane l

/-- The frontier of a stream has reached block `n` (R161): every lower block has passed. -/
def Reached (x : Stream) (n : Nat) : Prop := ∀ m, m < n → m ∈ x.passed

/-- Grid `g` becomes `h`: block `n` has passed stream `k`. -/
def GridPassed (g h : Grid) (k n : Nat) : Prop :=
  h = { g with streams := h.streams } ∧ (∀ j, j ≠ k → h.stream j = g.stream j) ∧
  (h.stream k).void = (g.stream k).void ∧ (∀ m, m ∈ (h.stream k).passed ↔ m = n ∨ m ∈ (g.stream k).passed)

end Sys2Proof.Spec

/-- R161, R162, R164, R357, R444, R448: tickets. A TAKE waits until every lower block has passed the stream, a WAIT until
every block below min(v, b) has: while it must wait it takes an entry of its slice's buffer, or is turned away when the buffer
has none to spare (R163; which slice a stream without a descriptor uses is the model's choice, log 57). Its return guards the block and acquires; DECL releases and passes; a stream already passed
makes each return at once; grids that are not DET, streams beyond NSTREAM and streams void below the wait are faults. -/
def Obligations.Tickets : Prop :=
  (∀ a b w v (s : State) (k : Block) (g : Grid) i, (i = Instr.ticketTake a v ∧ w = false) ∨ (i = .ticketWait a b v ∧ w = true) →
    let low := s.cur.lanes.headD 0
    let srcs : List Src := [{ (srcA v a).clean with once := true }] ++
      if w then [{ (srcB v b).clean with once := true }] else []
    let u : Uses := { srcs := srcs, low := low }
    s.clearFor k u → s.grid? k.grid = some g → g.launch.det = true → Block.issues k →
    let st := k.strand s.cur.strand
    let n := (st.word low (aReg v a)).toNat
    let x := g.stream n
    let goal := if w then Min.min (st.word low (bReg v b)).toNat k.index else k.index
    n < g.launch.nstream →
    (n ∈ k.passed → ∃ t, exec i s = .next t ∧ t = { s with blocks := t.blocks } ∧ StreamDone s t k k.guards k.passed) ∧
    (n ∉ k.passed → ¬Reached x goal → ∃ t, exec i s = .next t ∧ LanesOnly s t k fun _ ln =>
      { ln with park := if s.bufferOpen k n then .ticket n goal else .refused true n goal }) ∧
    (n ∉ k.passed → Reached x goal → (∀ y, x.void = some y → goal ≤ y) → cellsWf none (s.core k.core).l1 = true →
      ∃ t, exec i s = .next t ∧ t = { s with blocks := t.blocks, cores := t.cores, fabric := t.fabric } ∧ FabricKeeps s t ∧
        StreamDone s t k (if n ∈ k.guards then k.guards else k.guards ++ [n]) k.passed ∧
        (∀ y, (t.core k.core).l1At y = kept ((s.core k.core).l1At y)) ∧
        ∀ core, core ≠ k.core → t.core core = s.core core) ∧
    (n ∉ k.passed → Reached x goal → ∀ y, x.void = some y → y < goal →
      ∃ t, exec i s = .next t ∧ Excepted s t k (recordOf s k 0x19 0 0 n y s.cur.lanes))) ∧
  (∀ a v (s : State) (b : Block) (g : Grid),
    let low := s.cur.lanes.headD 0
    let u : Uses := { srcs := [{ (srcA v a).clean with once := true }], low := low }
    s.clearFor b u → s.grid? b.grid = some g → b.mat = none → Quiet s → Drained s b.core →
    let n := ((b.strand s.cur.strand).word low (aReg v a)).toNat
    (g.launch.det = true → n < g.launch.nstream → n < g.streams.length →
      let closed := n ∈ b.passed ∨ ∃ y, (g.stream n).void = some y ∧ y < b.index
      ∃ t, exec (.ticketDecl a v) s = .next t ∧
        (closed → t = { s with blocks := t.blocks } ∧ StreamDone s t b b.guards b.passed) ∧
        (¬closed → t = { s with blocks := t.blocks, cores := t.cores, dies := t.dies, mem := t.mem, migrations := t.migrations,
                                grids := t.grids } ∧
          StreamDone s t b (b.guards.filter fun y => y != n) (b.passed ++ [n]) ∧
          (∀ y, memGet t.mem y = current s b.core y) ∧
          (∀ y, (t.core b.core).l1At y = cleaned ((s.core b.core).l1At y)) ∧
          ∃ h, t.grid? b.grid = some h ∧ GridPassed g h n b.index)) ∧
    ∀ i ∈ [Instr.ticketTake a v, .ticketDecl a v], Block.issues b →
      (g.launch.det = false →
        ∃ t, exec i s = .next t ∧ Excepted s t b (recordOf s b 0x17 1 0 n 0 s.cur.lanes)) ∧
      (g.launch.det = true → g.launch.nstream ≤ n →
        ∃ t, exec i s = .next t ∧ Excepted s t b (recordOf s b 0x17 2 0 n 0 s.cur.lanes)))

/-- R161, R162, R352, R353, R444, Table 15-4: the ordered append. The block waits until every lower block has passed the
stream; then the lanes whose predicate is not 0 take the next indices in ascending order, elements below CAP are written,
COUNT goes on, every lane receives its index or 0xFFFF_FFFF, and the block passes the stream. A second claim, and one
through another descriptor than the first claim's, are faults. -/
def Obligations.OrderedAppend : Prop :=
  ∀ d a b v (s : State) (k : Block) (g : Grid) (pa : Nat) (lf : Leaf),
    let low := s.cur.lanes.headD 0
    let st := k.strand s.cur.strand
    let o := (pairAt st low (aReg v a)).toNat
    let field (j n : Nat) : Nat := leNat (memBytes s.mem (pa + j) n)
    let n := field 0 1 % 16
    let wide := field 1 1 % 2 = 1
    let size := if wide then 8 else 4
    let cap := field 16 8
    let count := field 24 8
    let x := g.stream n
    let element := if wide then (srcB v b).clean.pair else (srcB v b).clean
    let srcs : List Src := [{ (srcA v a).pair.clean with once := true }, element, (srcC v (dReg v d)).clean]
    let u : Uses := { srcs := srcs, dsts := [dstD v d], low := low }
    s.clearFor k u → Quiet s → Credited s → Clean s k.core → Drained s k.core → k.core < s.cores.length → k.mat = none →
    s.grid? k.grid = some g → g.launch.det = true → n < g.launch.nstream → n < g.streams.length →
    (∀ e ∈ (s.core k.core).tlb ++ (s.die (dieOf k.core)).l2tlb, ∀ va, e.hits (s.jobOf k) va = true →
      s.walkJob (s.jobOf k) va = some e.leaf) →
    o % 64 = 0 → lf.view = false → s.place k (s.jobOf k) o 64 .read = .ok ⟨.phys pa, some lf⟩ →
    s.place k (s.jobOf k) o 64 .write = .ok ⟨.phys pa, some lf⟩ →
    s.place k (s.jobOf k) (o + 24) 8 .write = .ok ⟨.phys (pa + 24), some lf⟩ →
    (n ∉ k.passed → x.bound = none ∨ x.bound = some o → (∀ y, x.void = some y → k.index ≤ y) →
      (¬(Reached x k.index ∧ k.index ∉ x.passed) →
        ∃ t c, exec (.atomAappend d a b v) s = .next t ∧
          t = { s with blocks := t.blocks, cores := t.cores, dies := t.dies } ∧ OthersKeep s t ∧
          t.block? s.cur.blk = some c ∧ c = { k with strands := c.strands } ∧
          (∀ j, j ≠ s.cur.strand → c.strand j = k.strand j) ∧
          c.strand s.cur.strand = { st with lanes := (c.strand s.cur.strand).lanes } ∧
          ∀ l, (c.strand s.cur.strand).lane l =
            if l ∈ s.cur.lanes then
              { st.lane l with park := if s.bufferOpen k n then .append n else .refused false n k.index } else st.lane l) ∧
      (Reached x k.index → k.index ∉ x.passed →
        let picks (l : Nat) : Bool := st.word l (cReg v (dReg v d)) != 0
        let index (l : Nat) : Nat := count + ((s.cur.lanes.takeWhile fun m => m != l).filter picks).length
        let writers := s.cur.lanes.filter fun l => picks l && decide (index l < cap)
        let at' (l : Nat) : Nat := (field 8 8 + size * index l) % 2 ^ 64
        ∀ (place : Nat → Nat) (cached : Bool),
        (∀ l ∈ writers, at' l % size = 0 ∧ Reaches s k (at' l) size .write (place l) cached) →
        ∃ t h, exec (.atomAappend d a b v) s = .next t ∧
          t = { s with blocks := t.blocks, cores := t.cores, dies := t.dies, mem := t.mem, migrations := t.migrations,
                       grids := t.grids, fabric := t.fabric } ∧
          FabricKeeps s t ∧ OthersKeep s t ∧
          (∃ c, t.block? s.cur.blk = some c ∧
            c = { k with strands := c.strands, handles := c.handles, passed := k.passed ++ [n], outside := true,
                         guards := k.guards.filter fun y => y != n } ∧
            (∀ j, j ≠ s.cur.strand → c.strand j = k.strand j) ∧
            let now := c.strand s.cur.strand
            now = { st with lanes := now.lanes, regs := now.regs } ∧
            (∀ l, now.lane l = if l ∈ s.cur.lanes then (st.lane l).retire s.cur.next else st.lane l) ∧
            ∀ l r, r < 256 → now.reg l r =
              if l ∈ s.cur.lanes ∧ r = dReg v d then
                ⟨if picks l then BitVec.ofNat 32 (index l) else 0xFFFFFFFF, true,
                  u.marked st s.cur.lanes (fun w => w.taint) l, false⟩
              else st.reg l r) ∧
          (∀ y, memGet t.mem y =
            if pa + 24 ≤ y ∧ y < pa + 32 then
              BitVec.ofNat 8 ((count + (s.cur.lanes.filter picks).length) / 256 ^ (y - (pa + 24)))
            else match lastLane writers place size y with
              | some l => storedByte st l (bReg v b) (y - place l)
              | none => memGet s.mem y) ∧
          t.grid? k.grid = some h ∧ GridPassed g h n k.index ∧ (h.stream n).bound = some o)) ∧
    (Block.issues k → n ∈ k.passed → ∃ t, exec (.atomAappend d a b v) s = .next t ∧
      Excepted s t k (recordOf s k 0x17 3 0 n 0 s.cur.lanes)) ∧
    (∀ y, Block.issues k → n ∉ k.passed → x.bound = some y → y ≠ o → ∃ t, exec (.atomAappend d a b v) s = .next t ∧
      Excepted s t k (recordOf s k 0x17 4 o n 0 s.cur.lanes))

/-- R143, R152, R156, R157, R354, R355: fences and barriers. -/
def Obligations.FencesAndBarriers : Prop := Spec.FenceInstructions ∧ Spec.Barriers


/-! ## The matrix engine -/

namespace Sys2Proof.Spec

/-- The members of the gang of strand `i` (R328): the matrix-role strands that the mask names; the strand alone for 0. -/
def gangOf (s : State) (b : Block) (i : Nat) : List Nat :=
  let mask := (b.strand i).gang.toNat
  let ncopy := ((s.grid? b.grid).map fun g => g.launch.ncopy).getD 0
  if mask = 0 then [i] else ((List.range 16).filter fun k => mask / 2 ^ k % 2 == 1).map fun k => ncopy + k

/-- A live lane is left in the strand. -/
def AnyLive (st : Strand) : Prop := ∃ ln ∈ st.lanes, ln.status = .live

/-- Bytes of a row that the function moves to or from scratchpad (R332, R336, R337). -/
def rowLen : MatFn → Nat
  | .f4 => 32
  | .scale => 8
  | .load | .store => 256
  | .storePart => 128
  | .zero => 0
  | .f64 | .f32 | .bf16 | .f16 | .f8e4 | .f8e5 | .i8 => 64

/-- Scratchpad offset of row `i` (R333). -/
def rowAt (base pitch tilePitch i : Nat) : Nat := base + i * pitch + i / 8 * tilePitch * 256

/-- The rows of a scratchpad operand are aligned and lie in the block's allocation, or in its partner's. -/
def RowsFit (s : State) (b : Block) (f : MatFn) : MatSrc → Prop
  | .pad base pitch tp =>
    let unit := if f = .scale then 8 else 16
    let fits (low rows : Nat) : Prop := ∀ i, i < 64 → rowAt base pitch tp i + rowLen f ≤ low + rows * 2032
    base % unit = 0 ∧ pitch % unit = 0 ∧
    (base < 2 ^ 22 ∧ fits 0 b.rows ∨
     2 ^ 22 ≤ base ∧ base < 2 ^ 23 ∧ ∃ p, s.partner? b = some p ∧ fits (2 ^ 22) p.rows)
  | .none => True
  | .regs _ => True

/-- The scratchpad operand whose pair lies in register `r` of lane `l` (R333). -/
def padOf (st : Strand) (l r : Nat) : MatSrc :=
  .pad (st.word l r).toNat ((st.word l (r + 1)).toNat % 2 ^ 16) ((st.word l (r + 1)).toNat / 2 ^ 16)

/-- An operand at acceptance (R330, R332): words of every live lane of every member, 0 of the others; or a pair of member
0. -/
def operandOf (b : Block) (ms : List Nat) (f : MatFn) (form : MatForm) (l r : Nat) : MatSrc :=
  match form with
  | .none => .none
  | .pad => padOf (b.strand (ms.headD 0)) l r
  | .regs =>
    let width := (b.strand (ms.headD 0)).width
    let lanes := ms.length * width
    .regs ((List.range (if f = .f4 then 512 else 1024)).map fun w =>
      let st := b.strand (ms.getD (w % lanes / width) 0)
      let lane := w % lanes % width
      if (st.lane lane).status = .live then st.word lane (r + w / lanes) else 0)

/-- The lane of member 0 that gives pairs and band scales: the lowest active one at its arrival. -/
def lowOf (s : State) (b : Block) (ms : List Nat) : Nat :=
  if ms.headD 0 = s.cur.strand then s.cur.lanes.headD 0
  else ((List.range (b.strand (ms.headD 0)).lanes.length).find? fun l =>
    ((b.strand (ms.headD 0)).lane l).park == .latch).getD 0

/-- The instruction as the engine accepts it. -/
def accepted (s : State) (b : Block) (ms : List Nat) (q : MatAsk) (v : Adverb) : MatOp :=
  let low := lowOf s b ms
  { fn := q.fn, ctl := q.ctl, a := operandOf b ms q.fn q.formA low (aReg v q.a),
    b := operandOf b ms q.fn q.formB low (bReg v q.b),
    bands := match q.fn, v with
      | .scale, .mod m => (b.strand (ms.headD 0)).word low m.c.toNat
      | _, _ => 0x3F803F80,
    members := ms, pc := s.cur.pc }

/-- The instruction in progress is ready to arrive: no fault or wait of its registers, a gang that agrees and lives, no
arrival that differs, and at member 0 operands that fit. -/
def Arrives (s : State) (b : Block) (q : MatAsk) (v : Adverb) : Prop :=
  let i := s.cur.strand
  let st := b.strand i
  let u := s.usesMat b i q v
  let ms := gangOf s b i
  s.clearFor b u ∧ u.emptyKeys st s.cur.lanes = [] ∧
  (∀ k ∈ ms, k ≠ i → (b.strand k).gang = st.gang ∧ AnyLive (b.strand k) ∧
    ∀ x, (b.strand k).arrived = some x → (b.strand k).arrivals = st.arrivals + 1 → x = (s.cur.word, s.cur.adverb)) ∧
  (ms.headD i = i →
    (q.formA = .pad → RowsFit s b q.fn (padOf st (s.cur.lanes.headD 0) (aReg v q.a))) ∧
    (q.formB = .pad → RowsFit s b q.fn (padOf st (s.cur.lanes.headD 0) (bReg v q.b))))

/-- The other member's arrival waits for this one. -/
def Waits (b : Block) (i k : Nat) : Prop :=
  (b.strand k).arrived.isSome = true ∧ (b.strand k).arrivals = (b.strand i).arrivals + 1

/-- A MAT instruction other than MGANG (R329, R330, R338): the last arrival of a rendezvous hands the instruction to the
engine once, and every member goes on; an earlier one waits at the latch; a full queue holds the rendezvous. -/
def Rendezvous (i : Instr) (q : MatAsk) (v : Adverb) : Prop :=
  ∀ (s : State) (b : Block) (m : MatCtx), Arrives s b q v → b.mat = some m →
    let me := s.cur.strand
    let st := b.strand me
    let ms := gangOf s b me
    let op := accepted s b ms q v
    let all := ∀ k ∈ ms, k ≠ me → Waits b me k
    let size : Dword := if s.cur.adverb.isSome then 8 else 4
    (all → m.queue.length < 16 → ∃ t c, exec i s = .next t ∧ t = { s with blocks := t.blocks } ∧ OthersKeep s t ∧
      t.block? s.cur.blk = some c ∧
      c = { b with strands := c.strands, handles := c.handles, outside := c.outside,
                   mat := some { m with queue := m.queue ++ [op] } } ∧
      ∀ k, let x := b.strand k
        let y := c.strand k
        (k ∉ ms → k ≠ me → y = x) ∧
        (k ∈ ms → k ≠ me → y = { x with lanes := y.lanes, arrived := none } ∧
          ∀ l, y.lane l = if (x.lane l).park = .latch then (x.lane l).retire ((x.lane l).pc + size) else x.lane l) ∧
        (k = me → y = { x with lanes := y.lanes, arrivals := x.arrivals + 1, arrived := none } ∧
          ∀ l, y.lane l = if l ∈ s.cur.lanes then (x.lane l).retire s.cur.next else x.lane l)) ∧
    (all → 16 ≤ m.queue.length →
      ∃ t, exec i s = .next t ∧ LanesOnly s t b fun _ ln => { ln with park := .matQueue (m.executed + 1) }) ∧
    (¬all → ∃ t, exec i s = .next t ∧ OnStrand s t b fun now =>
      now = { st with lanes := now.lanes, arrivals := st.arrivals + 1, arrived := some (s.cur.word, s.cur.adverb) } ∧
      ∀ l, now.lane l = if l ∈ s.cur.lanes then { st.lane l with park := .latch } else st.lane l)

end Sys2Proof.Spec

/-- R328, Table 20-2: MGANG sets the gang register, and refuses a mask of fewer than 2 or more than 6 strands, one that omits
the issuer, and one that names a strand at or beyond NMAT. -/
def Sys2Proof.Spec.Gangs : Prop :=
  ∀ a v (s : State) (b : Block) (g : Grid),
    let low := s.cur.lanes.headD 0
    let u : Uses := { srcs := [{ (srcA v a).clean with once := true }], roles := [.matrix], low := low }
    s.clearFor b u → s.grid? b.grid = some g →
    let st := b.strand s.cur.strand
    let mask : BitVec 16 := (st.word low (aReg v a)).extractLsb' 0 16
    let names := (List.range 16).filter fun k => mask.getLsbD k
    let good := mask = 0 ∨ 2 ≤ names.length ∧ names.length ≤ 6 ∧ (s.cur.strand - g.launch.ncopy) ∈ names ∧
      ∀ k ∈ names, k < g.launch.nmat
    (good → ∃ t, exec (.mgang a v) s = .next t ∧ OnStrand s t b fun now =>
      now = { st with lanes := now.lanes, gang := mask, arrivals := 0, arrived := none } ∧
      ∀ l, now.lane l = if l ∈ s.cur.lanes then (st.lane l).retire s.cur.next else st.lane l) ∧
    (¬good → Block.issues b → ∃ t, exec (.mgang a v) s = .next t ∧
      Excepted s t b (recordOf s b 0x08 2 0 mask.toNat 0 s.cur.lanes))

/-- R329, R330, R332, R333, R338: the rendezvous latch, for every MAT instruction that arrives at it. -/
def Obligations.MatrixAcceptance : Prop :=
  ∀ c a b v,
    Rendezvous (.mmaF64 c a b v) ⟨.f64, c, a, b⟩ v ∧
    Rendezvous (.mmaF32 c a b v) ⟨.f32, c, a, b⟩ v ∧
    Rendezvous (.mmaBf16 c a b v) ⟨.bf16, c, a, b⟩ v ∧
    Rendezvous (.mmaF16 c a b v) ⟨.f16, c, a, b⟩ v ∧
    Rendezvous (.mmaF8e4 c a b v) ⟨.f8e4, c, a, b⟩ v ∧
    Rendezvous (.mmaF8e5 c a b v) ⟨.f8e5, c, a, b⟩ v ∧
    Rendezvous (.mmaF4 c a b v) ⟨.f4, c, a, b⟩ v ∧
    Rendezvous (.mmaI8 c a b v) ⟨.i8, c, a, b⟩ v ∧
    Rendezvous (.mscale c a b v) ⟨.scale, c, a, b⟩ v ∧
    Rendezvous (.accz c v) ⟨.zero, c, 0, 0⟩ v ∧
    Rendezvous (.accld c a v) ⟨.load, c, a, 0⟩ v ∧
    Rendezvous (.accst c a v) ⟨.store, c, a, 0⟩ v ∧
    Rendezvous (.accsp c a v) ⟨.storePart, c, a, 0⟩ v

/-- R423, R424, Table 20-2: matrix instructions of strands of another role, and arrivals that do not match, fault. -/
def Sys2Proof.Spec.RendezvousMismatches : Prop :=
  ∀ c v (s : State) (b : Block) other, s.issuing b → Block.issues b →
    let i := Instr.accz c v
    let me := s.cur.strand
    let st := b.strand me
    let peer := b.strand other
    let raises (cls sub info info2 : Nat) : Prop :=
      ∃ t, exec i s = .next t ∧ Excepted s t b (recordOf s b cls sub 0 info info2 s.cur.lanes)
    (∀ l ∈ s.cur.lanes, (st.lane l).count < 16384 ∧ (st.lane l).due = []) →
    (∀ role, st.role = role → role ≠ .matrix → ((gangOf s b me).filter fun k => k != me) = [] →
      raises 0x0B 0 (if role = .copy then 1 else 0) 0) ∧
    (st.role = .matrix → ((gangOf s b me).filter fun k => k != me) = [other] →
      (peer.gang ≠ st.gang → raises 0x08 1 st.gang.toNat peer.gang.toNat) ∧
      (peer.gang = st.gang → ¬AnyLive peer → raises 0x08 3 s.cur.word.toNat other) ∧
      (∀ w a, peer.gang = st.gang → AnyLive peer → peer.arrived = some (w, a) → peer.arrivals = st.arrivals + 1 →
        (w, a) ≠ (s.cur.word, s.cur.adverb) → raises 0x08 0 s.cur.word.toNat w.toNat))

/-! ## What the engine computes -/

/-- R178, R182: exact sums and products of finite values, and the scaled sum of SCACC and MSCALE, rounded once. -/
def Obligations.MatrixNumbers : Prop :=
  (∀ x y : Val, Exact x → Exact y → Exact (x.mul y).1 ∧ realOf (x.mul y).1 = realOf x * realOf y) ∧
  (∀ vs : List Val, vs ≠ [] → (∀ v ∈ vs, Exact v) →
    Exact (sumVals .rne vs).1 ∧ realOf (sumVals .rne vs).1 = (vs.map realOf).sum ∧
    ((vs.map realOf).sum = 0 → ((sumVals .rne vs).1.isNeg = true ↔ ∀ v ∈ vs, v.isNeg = true ∧ realOf v = 0))) ∧
  (∀ (acc ba bb : Nat) (ts : List (Int × Nat × Nat)), Exact (Fmt.f32.value acc) → Exact (Fmt.bf16.value ba) →
    Exact (Fmt.bf16.value bb) → (∀ t ∈ ts, Exact (Fmt.e3m5.value t.2.1) ∧ Exact (Fmt.e3m5.value t.2.2)) →
    let total := realOf (Fmt.f32.value acc) + (ts.map fun t => (t.1 : ℝ) / 4 * realOf (Fmt.e3m5.value t.2.1) *
      realOf (Fmt.e3m5.value t.2.2) * realOf (Fmt.bf16.value ba) * realOf (Fmt.bf16.value bb)).sum
    total ≠ 0 → RoundsTo .f32 .rne total (scaleSum false acc ts ba bb))

namespace Sys2Proof.Spec

/-- Word `x` of a tile, and entry `x` of block `kb` of the partial bank (R334, R335). -/
def tileWord (m : MatCtx) (t x : Nat) : Word := cellsGet 0 (t * 4096 + x) m.tiles

def bankEntry (m : MatCtx) (x kb : Nat) : BitVec 16 := cellsGet 0 (x * 8 + kb) m.bank

/-- Byte `j` of row `i` of an operand: of its captured words, or of the scratchpad that its row lies in. -/
def rowByte (s : State) (b : Block) (f : MatFn) (x : MatSrc) (i j : Nat) : Byte :=
  match x with
  | .none => 0
  | .regs ws => (ws.getD ((i * rowLen f + j) / 4) 0).extractLsb' (8 * ((i * rowLen f + j) % 4)) 8
  | .pad base pitch tp => let y := s.padByte b (rowAt base pitch tp i); padByte s y.1 (y.2 + j)

/-- Element `k`, of `w` bits, of row `i`. -/
def element (s : State) (b : Block) (f : MatFn) (x : MatSrc) (w i k : Nat) : Nat :=
  leNat ((List.range (rowLen f)).map (rowByte s b f x i)) / 2 ^ (w * k) % 2 ^ w

/-- Operand format, group size, element width and K of the products into f32 or f64 (Table 14-7). -/
def productOf : MatFn → Option (Fmt × Nat × Nat × Nat)
  | .f64 => some (.f64, 1, 64, 8)
  | .f32 => some (.f32, 4, 32, 16)
  | .bf16 => some (.bf16, 8, 16, 32)
  | .f16 => some (.f16, 8, 16, 32)
  | .f8e4 => some (.f8e4, 8, 8, 64)
  | .f8e5 => some (.f8e5, 8, 8, 64)
  | .f4 | .i8 | .scale | .zero | .load | .store | .storePart => none

/-- The accumulator after the groups of a row of A and a row of Bᵀ, ascending (R334, Table 8-3). -/
def chain (acc : Fmt) (t : Fmt) (n k : Nat) (x y : Nat → Nat) (from' : Nat) : Nat :=
  (List.range (k / n)).foldl (fun z g =>
    let terms := (List.range n).map fun j => (Val.mul (t.value (x (n * g + j))) (t.value (y (n * g + j)))).1
    (acc.round .rne false false (sumVals .rne (acc.value z :: terms)).1).1) from'

/-- The operands of an accepted instruction are of the forms that its function takes (R332, R333, R336, R337). -/
def Shaped (op : MatOp) : Prop :=
  let words : MatSrc → Prop
    | .regs ws => ws.length = if op.fn = .f4 then 512 else 1024
    | .pad _ _ _ => True
    | .none => False
  let pad : MatSrc → Prop
    | .pad _ _ _ => True
    | .regs _ => False
    | .none => False
  match op.fn with
  | .zero => True
  | .load | .store | .storePart => pad op.a
  | .scale => pad op.a ∧ pad op.b
  | .f64 | .f32 | .bf16 | .f16 | .f8e4 | .f8e5 | .f4 | .i8 => words op.a ∧ words op.b

/-- The block's engine runs the first accepted instruction: its clocks run, the chunks of its rows are present, and no unit
that it reads is poisoned. -/
def Runs (s : State) (key : Nat) (b : Block) (m : MatCtx) (op : MatOp) (rest : List MatOp) : Prop :=
  s.block? key = some b ∧ b.mat = some m ∧ m.queue = op :: rest ∧ s.clocksRun = true ∧ s.padPoison = [] ∧
  (b.state = .running ∨ ∃ w, b.state = .stopping w) ∧ cellsWf 0 m.tiles = true ∧ cellsWf 0 m.bank = true ∧ Shaped op ∧
  ∀ x ∈ [op.a, op.b], ∀ r ∈ x.rows, let y := s.padByte b r
    ∃ k, s.block? y.1 = some k ∧ ∀ j, j < rowLen op.fn → (y.2 + j) / 512 ∉ k.absent

/-- The first instruction of block `key`'s queue has run, and nothing of the block but its context has changed; the context
is `n`. -/
def Ran (s t : State) (key : Nat) (b : Block) (m : MatCtx) (rest : List MatOp) (n : MatCtx) : Prop :=
  t = { s with blocks := t.blocks } ∧ (∀ k, k ≠ key → t.block? k = s.block? k) ∧
  t.block? key = some { b with mat := some n } ∧ n.queue = rest ∧ n.executed = m.executed + 1

/-- Of the tiles only those in `ts` changed, to `f`; words beyond 4096 name no word. -/
def TilesBecome (m n : MatCtx) (ts : List Nat) (f : Nat → Nat → Word) : Prop :=
  ∀ t x, x < 4096 → tileWord n t x = if t ∈ ts then f t x else tileWord m t x

/-- A row of 64 byte rows that covers scratchpad byte `y` of block `k`: the last one wins. -/
def lastRow (s : State) (b : Block) (rows : List Nat) (len k y : Nat) : Option Nat :=
  ((List.range rows.length).filter fun i =>
    let p := s.padByte b (rows.getD i 0)
    p.1 == k && decide (p.2 ≤ y) && decide (y < p.2 + len)).getLast?

end Sys2Proof.Spec

/-- R178 to R182, R334 to R339: what each accepted instruction does to the tiles, the partial bank and the scratchpad. -/
def Sys2Proof.Spec.MatrixResults : Prop :=
  ∀ (s : State) key b m op rest, Runs s key b m op rest →
    let run := exec (.matrixExecute key .sound) s
    let tile := op.ctl.tile.toNat
    let a (w i k : Nat) := element s b op.fn op.a w i k
    let bt (w j k : Nat) := element s b op.fn op.b w j k
    (∀ t n w k, productOf op.fn = some (t, n, w, k) → op.fn ≠ .f64 → ∃ u c, run = .next u ∧ Ran s u key b m rest c ∧
      c.bank = m.bank ∧ TilesBecome m c [tile] fun _ x =>
        BitVec.ofNat 32 (chain .f32 t n k (a w (x / 64)) (bt w (x % 64))
          (if op.ctl.zf then 0 else (tileWord m tile x).toNat))) ∧
    (op.fn = .f64 → ∃ u c, run = .next u ∧ Ran s u key b m rest c ∧ c.bank = m.bank ∧
      TilesBecome m c [tile, tile + 1] fun t x =>
        let z : BitVec 64 := BitVec.ofNat 64 (chain .f64 .f64 1 8 (a 64 (x / 64)) (bt 64 (x % 64))
          (if op.ctl.zf then 0 else (tileWord m (tile + 1) x ++ tileWord m tile x : BitVec 64).toNat))
        if t = tile then z.extractLsb' 0 32 else z.extractLsb' 32 32) ∧
    (op.fn = .i8 → ∃ u c, run = .next u ∧ Ran s u key b m rest c ∧ c.bank = m.bank ∧
      TilesBecome m c [tile] fun _ x =>
        BitVec.ofInt 32 ((if op.ctl.zf then 0 else (tileWord m tile x).toInt) +
          ((List.range 64).map fun k =>
            (BitVec.ofNat 8 (a 8 (x / 64) k)).toInt * (BitVec.ofNat 8 (bt 8 (x % 64) k)).toInt).sum)) ∧
    (op.fn = .f4 → ∃ u c, run = .next u ∧ Ran s u key b m rest c ∧ c.tiles = m.tiles ∧
      ∀ x kb, x < 4096 → kb < 8 → ((bankEntry c x kb).toInt : ℝ) / 4 =
        ((List.range 8).map fun k => realOf (Fmt.f4.value (a 4 (x / 64) (8 * kb + k))) *
          realOf (Fmt.f4.value (bt 4 (x % 64) (8 * kb + k)))).sum) ∧
    (op.fn = .scale → ∃ u c, run = .next u ∧ Ran s u key b m rest c ∧ c.bank = m.bank ∧
      TilesBecome m c [tile] fun _ x =>
        BitVec.ofNat 32 (scaleSum false (if op.ctl.zf then 0 else (tileWord m tile x).toNat)
          ((List.range 8).map fun k => ((bankEntry m x k).toInt, a 8 (x / 64) k, bt 8 (x % 64) k))
          (op.bands.toNat % 2 ^ 16) (op.bands.toNat / 2 ^ 16)).1) ∧
    (op.fn = .zero → ∃ u c, run = .next u ∧ Ran s u key b m rest c ∧ c.bank = m.bank ∧
      TilesBecome m c [tile] fun _ _ => 0) ∧
    (op.fn = .load → ∃ u c, run = .next u ∧ Ran s u key b m rest c ∧ c.bank = m.bank ∧
      TilesBecome m c [tile] fun _ x => BitVec.ofNat 32 (a 32 (x / 64) (x % 64))) ∧
    (op.fn = .store ∨ op.fn = .storePart → Quiet s →
      ∃ u c, run = .next u ∧ u = { s with blocks := u.blocks } ∧ u.block? key = some c ∧
        c.mat = some { m with queue := rest, executed := m.executed + 1 } ∧
        (∀ k x, s.block? k = some x → ∃ y, u.block? k = some y ∧ y = { x with scratch := y.scratch, mat := y.mat } ∧
          (k ≠ key → y.mat = x.mat)) ∧
        ∀ k y, (s.block? k).isSome → padByte u k y =
          match lastRow s b op.a.rows (rowLen op.fn) k y with
          | none => padByte s k y
          | some i =>
            let j := y - (s.padByte b (op.a.rows.getD i 0)).2
            if op.fn = .store then (tileWord m tile (64 * i + j / 4)).extractLsb' (8 * (j % 4)) 8
            else (bankEntry m (64 * i + j / 2) tile).extractLsb' (8 * (j % 2)) 8)

/-- R426: a product whose checksum mismatches once is run again, which only a counter and the wear of its core show (R449); one that mismatches
twice stands, is counted, and waits as a deferred fault of every live lane of the gang. -/
def Sys2Proof.Spec.MatrixReruns : Prop :=
  ∀ (s : State) key b m op rest u, Runs s key b m op rest → op.fn ∉ [.zero, .load, .store, .storePart] →
    exec (.matrixExecute key .sound) s = .next u → dieOf b.core < s.dies.length →
    (exec (.matrixExecute key .rerun) s =
      .next ((u.updDie (dieOf b.core) fun d => { d with mxrerun := d.mxrerun + 1 }).wearCore b.core Wear.rerun)) ∧
    ∀ w, (∃ k ∈ op.members, ∃ l, ((b.strand k).lane l).status = .live) → op.members.Nodup →
      ∃ t c, exec (.matrixExecute key (.mismatch w)) s = .next t ∧ t.block? key = some c ∧
        t.die (dieOf b.core) =
          { s.die (dieOf b.core) with mxfail := (s.die (dieOf b.core)).mxfail + 1 }.wearOut 0 (b.core % 32) Wear.fail ∧
        t.mem = s.mem ∧ (∀ k, k ≠ key → t.block? k = s.block? k) ∧
        c.mat = (u.block? key).bind (fun x => x.mat) ∧
        ∀ k l, (c.strand k).lane l = { (b.strand k).lane l with
          due := if k ∈ op.members ∧ ((b.strand k).lane l).status = .live then
              ((b.strand k).lane l).due ++ [⟨9, if w then 1 else 0, 0, op.pc.extractLsb' 0 32,
                BitVec.ofNat 32 (op.ctl.tile.toNat + op.fn.code * 16), none, [], false⟩]
            else ((b.strand k).lane l).due }

/-- R328, R329, R423, R424: gangs, and what does not rendezvous. -/
def Obligations.GangsAndRendezvousMismatches : Prop := Spec.Gangs ∧ Spec.RendezvousMismatches

/-- R332 to R343, R425, R426, R438: what the matrix engine computes, and its checksums. -/
def Obligations.MatrixExecution : Prop := Spec.MatrixResults ∧ Spec.MatrixReruns


/-! ## The asynchronous engines -/

namespace Sys2Proof.Spec

/-- The core can take `n` queue entries for the strand in progress and one handle: no older request waits for entries, and
entries and slots are free (R194, R196). -/
def Room (s : State) (b : Block) (n : Nat) : Prop :=
  (∀ k ∈ s.blocks, k.core = b.core → ∀ st ∈ k.strands, ∀ ln ∈ st.lanes, ∀ m, ln.park ≠ .queue m) ∧
  n ≤ (s.entriesFree b.core (b.strand s.cur.strand).role).1 + (s.entriesFree b.core (b.strand s.cur.strand).role).2 ∧
  s.slotsUsed b.core < 4096 ∧ b.handles.length < 4096

/-- Chunk `c` of block `k`'s scratchpad is touched by one of the ranges, which lie in the scratchpad windows or not
(R95, R104). -/
def touches (s : State) (b : Block) (rs : List (Nat × Nat)) (k c : Nat) : Bool :=
  rs.any fun r =>
    let p := s.padByte b (r.1 - 0x01FF000000000000)
    let stop := Min.min (p.2 + r.2) (((s.block? k).map fun x => x.rows * 2032).getD 0)
    decide (0x01FF000000000000 ≤ r.1) && decide (r.1 < 0x01FF000000800000) && p.1 == k && decide (p.2 < stop) &&
    decide (p.2 / 512 ≤ c) && decide (c ≤ (stop - 1) / 512)

/-- AN OPERATION HAS BEEN ISSUED (R87, R105, R196): a handle record with a SLOT that no other handle of the block carries and
with the block's handle count as GEN; its value in register `reg` of every active lane, empty until the operation completes;
the presence bits of the chunks that `absent` names cleared; the lanes gone on, changed by `after`. -/
def Issued (s t : State) (b : Block) (u : Uses) (reg kind entries : Nat) (op : EngOp) (absent : Nat → Nat → Bool)
    (done : Bool) (after : Nat × Nat → Lane → Lane) : Prop :=
  ∃ c r, t.block? s.cur.blk = some c ∧ c.handles.getLast? = some r ∧
    (r.slot < 4096 ∧ r.kind = kind ∧ r.gen = b.hcount % 65536 ∧ r.done = done ∧ r.strand = s.cur.strand ∧ r.op = op ∧
      r.entries = entries ∧ r.words = s.cur.lanes.map (fun l => (s.cur.strand, regKey l reg)) ∧
      r.guarded = !b.guards.isEmpty ∧ r.tags = [] ∧ r.written = false) ∧
    (∀ h ∈ c.handles.dropLast, h.slot ≠ r.slot ∧ ∃ g ∈ b.handles, h = { g with words := h.words }) ∧
    c = { b with strands := c.strands, handles := c.handles, hcount := b.hcount + 1, absent := c.absent,
                 outside := c.outside } ∧
    (∀ j, j ≠ s.cur.strand → c.strand j = b.strand j) ∧
    (∀ k x, s.block? k = some x → ∃ y, t.block? k = some y ∧ (k ≠ s.cur.blk → y = { x with absent := y.absent }) ∧
      ∀ n, y.absent.count n = x.absent.count n + if absent k n then 1 else 0) ∧
    let st := b.strand s.cur.strand
    let now := c.strand s.cur.strand
    now = { st with lanes := now.lanes, regs := now.regs } ∧
    (∀ l, now.lane l = if l ∈ s.cur.lanes then after (r.slot, r.gen) ((st.lane l).retire s.cur.next) else st.lane l) ∧
    ∀ l q, q < 256 → now.reg l q =
      if l ∈ s.cur.lanes ∧ q = reg then
        ⟨BitVec.ofNat 32 (r.slot + kind * 2 ^ 12 + r.gen * 2 ^ 16), done,
          u.marked st s.cur.lanes (fun w => w.taint) l, u.marked st s.cur.lanes (fun w => w.poison) l⟩
      else st.reg l q

/-- The handle is among those that the lane has issued since its last SEAL. -/
def noted (h : Nat × Nat) (ln : Lane) : Lane := { ln with unsealed := ln.unsealed ++ [h] }

/-- An address in one of the scratchpad windows. -/
def InWindow (va : Nat) : Prop := 0x01FF000000000000 ≤ va ∧ va < 0x01FF000000800000

/-- Lane copies (R103, R199, R360). -/
def LaneCopies (i : BitVec 7 → BitVec 7 → BitVec 7 → Adverb → Instr) (n : Nat) : Prop :=
  ∀ d a b v (s : State) (k : Block),
    let u : Uses := { srcs := [(srcA v a).pair.clean, (srcB v b).pair.clean], dsts := [dstD v d], roles := [.general, .copy] }
    s.clearFor k u →
    let st := k.strand s.cur.strand
    let dst (l : Nat) := (pairAt st l (aReg v a)).toNat
    let src (l : Nat) := (pairAt st l (bReg v b)).toNat
    (Quiet s → Clean s k.core → Room s k 1 →
      (∀ l ∈ s.cur.lanes, src l % n = 0 ∧ dst l % n = 0 ∧ (n < 16 → ¬InWindow (dst l)) ∧
        ∀ x ∈ [src l, dst l], InWindow x → ∃ p, s.padPlace k (x - 0x01FF000000000000) n = .ok p) →
      ∃ t, exec (i d a b v) s = .next t ∧ t = { s with blocks := t.blocks, free := t.free } ∧
        Issued s t k u (dReg v d) 0 1 (.lanes n (s.cur.lanes.map fun l => (l, dst l, src l)))
          (touches s k (s.cur.lanes.map fun l => (dst l, n))) false noted) ∧
    (∀ l, s.cur.lanes = [l] → Block.issues k →
      let raises (sub addr info : Nat) : Prop := ∃ t, exec (i d a b v) s = .next t ∧
        Excepted s t k (recordOf s k 0x12 sub addr info 0 s.cur.lanes)
      (src l % n ≠ 0 → dst l % n = 0 → ¬InWindow (dst l) → raises 0 (src l) n) ∧
      (src l % n = 0 → dst l % n ≠ 0 → ¬InWindow (dst l) → raises 0 (dst l) (n + 256)) ∧
      (n < 16 → src l % n = 0 → dst l % n = 0 → InWindow (dst l) → raises 2 (dst l) (n + 256)))

/-- The bits `lo` to `lo + n - 1` of a descriptor. -/
def field (x lo n : Nat) : Nat := x / 2 ^ lo % 2 ^ n

/-- An engine instruction with a 64-byte descriptor in DRAM (R433): `op`, `dest` and the rest are made of each lane's number,
descriptor address and descriptor. The lanes find their descriptors in L1 under live leases, or none does. -/
def DescribedBy (i : BitVec 7 → BitVec 7 → Adverb → Instr) (kind : Nat)
    (op : State → Block → List (Nat × Nat × Nat) → EngOp) (dest : Nat → List (Nat × Nat)) : Prop :=
  ∀ d a v (s : State) (b : Block),
    let u : Uses := { srcs := [(srcA v a).pair.clean], dsts := [dstD v d], roles := [.general, .copy] }
    s.clearFor b u → Quiet s → Clean s b.core → Credited s → s.isDet b = false → Room s b s.cur.lanes.length →
    let st := b.strand s.cur.strand
    let at' (l : Nat) := (pairAt st l (aReg v a)).toNat
    ∀ (pa : Nat → Nat) (cached : Nat → Bool) (hit : Bool),
    (∀ l ∈ s.cur.lanes, at' l % 64 = 0 ∧ Reaches s b (at' l) 64 .read (pa l) (cached l) ∧
      (cached l && !u.tainted st l && (s.core b.core).serves (pa l) 64 (s.coreClock b.core)) = hit) →
    let x (l : Nat) := leNat ((List.range 64).map fun j =>
      if hit then heldByte s b.core (pa l + j) else memGet s.mem (pa l + j))
    ∃ t, exec (i d a v) s = .next t ∧
      t = { s with blocks := t.blocks, cores := t.cores, dies := t.dies, free := t.free } ∧
      Clean t b.core ∧ (∀ core, core ≠ b.core → t.core core = s.core core) ∧
      Issued s t b u (dReg v d) kind s.cur.lanes.length (op s b (s.cur.lanes.map fun l => (l, at' l, x l)))
        (touches s b (s.cur.lanes.flatMap fun l => dest (x l))) false noted

/-- The rows of a tile (R201). -/
def tileRowsOf (base pitch x : Nat) : List (Nat × Nat) :=
  (List.range (field x 144 16)).map fun r => ((base + r * pitch) % 2 ^ 64, field x 128 16)

/-- The blocks that a multicast names (R202), with row mask `rm` and column mask `cm`. -/
def multicast (s : State) (b : Block) (rm cm : Nat) : List Nat :=
  (List.range (((s.grid? b.grid).map fun g => g.launch.nblk).getD 0)).filter fun k =>
    k / 36 == b.index / 36 && rm / 2 ^ (k % 36 / 6) % 2 == 1 && cm / 2 ^ (k % 36 % 6) % 2 == 1

end Sys2Proof.Spec

/-- R103, R105, R194, R196, R199, R201, R202, R209, R213, R359, R360, Tables 9-1, 9-4 and 9-8: what CPY4, CPY8, CPY16, CPYT,
CPYZ, CPYX, CKPT and SEAL do at issue. Nothing is copied yet. -/
def Obligations.EngineIssue : Prop :=
  LaneCopies .cpy4 4 ∧ LaneCopies .cpy8 8 ∧ LaneCopies .cpy16 16 ∧
  DescribedBy .cpyt 1
    (fun s b ds => .tile (ds.map fun (l, a, x) =>
      let many := field x 224 1 == 1
      (l, { src := field x 0 64, dst := field x 64 64, rowb := field x 128 16, nrow := field x 144 16,
            spitch := field x 160 32, dpitch := field x 192 32, mcast := many, rowm := BitVec.ofNat 6 (field x 232 6),
            colm := BitVec.ofNat 6 (field x 240 6), ring := field x 256 32, slot := field x 288 6,
            phase := field x 294 1 == 1,
            targets := if many then multicast s b (field x 232 6) (field x 240 6) else [], desc := a })))
    (fun x => if field x 224 1 = 1 then [] else tileRowsOf (field x 64 64) (field x 192 32) x) ∧
  (let pack (x a : Nat) : PackDesc :=
      { src := field x 0 64, dst := field x 64 64, count := field x 128 32, f64 := field x 160 1 == 1,
        eb := BitVec.ofNat 64 (field x 192 64), dcap := field x 256 64, res := field x 320 64, desc := a }
    let most (x : Nat) : Nat := 16 + (field x 128 32 + 31) / 32 + field x 128 32 * if field x 160 1 = 1 then 8 else 4
    DescribedBy .cpyz 2 (fun _ _ ds => .pack (ds.map fun (l, a, x) => (l, pack x a)))
      (fun x => [(field x 64 64, Min.min (field x 256 64) (most x)), (field x 320 64, 8)]) ∧
    DescribedBy .cpyx 2 (fun _ _ ds => .expand (ds.map fun (l, a, x) => (l, pack x a)))
      (fun x => [(field x 64 64, Min.min (field x 256 64) (2 ^ 35)), (field x 320 64, 8)])) ∧
  DescribedBy .ckpt 4
    (fun _ _ ds => .ckpt (ds.map fun (l, a, x) =>
      (l, { block := leBytes 64 x, base := field x 0 64, len := field x 64 64, win := field x 128 64,
            cap := field x 192 64, res := field x 256 64, ctx := field x 320 1 == 1, ctxLen := 0, done := 0,
            chain := shaStart, tail := [], ended := false, desc := a })))
    (fun x => [(field x 256 64, 72)]) ∧
  (∀ d v (s : State) (b : Block), s.clearFor b { dsts := [dstD v d] } → s.slotsUsed b.core < 4096 →
    b.handles.length < 4096 →
    let st := b.strand s.cur.strand
    let issued := s.cur.lanes.flatMap fun l => (st.lane l).unsealed
    (∀ h ∈ b.handles, ∀ w ∈ h.words, ∀ l ∈ s.cur.lanes, w ≠ (s.cur.strand, regKey l (dReg v d))) →
    (∀ h ∈ b.handles, (h.done && h.words.isEmpty && (h.kind != 6 || h.joined)) = false) →
    ∃ t g, exec (.seal d v) s = .next t ∧ t = { s with blocks := t.blocks, free := t.free } ∧
      (∀ x, x ∈ g ↔ x ∈ issued ∧ ∃ h ∈ b.handles, (h.slot, h.gen) = x) ∧
      Issued s t b { dsts := [dstD v d] } (dReg v d) 5 0 (.batch g) (fun _ _ => false)
        (s.cur.lanes.all fun l => (st.lane l).unsealed.all fun x => ((b.handle? x.1 x.2).map fun h => h.done).getD true)
        fun _ ln => { ln with unsealed := [] })

namespace Sys2Proof.Spec

/-- The handle that value `w` names is complete: its operation is, or no handle of the block carries its SLOT and GEN
(R197). -/
def isDone (b : Block) (w : Word) : Bool :=
  !b.handles.any fun h => h.slot == w.toNat % 2 ^ 12 && h.gen == w.toNat / 2 ^ 16 && !h.done

/-- A field of `n` bits from bit `lo` of the ring header at offset `x` of the block's scratchpad (Table 9-2). -/
def ringField (b : Block) (x lo n : Nat) : Nat :=
  field (leNat ((List.range 64).map fun j => cellsGet 0 (x + j) b.scratch)) lo n

/-- A ring in force at offset `x`, with a slot `k` (R206, R362). -/
def RingOk (b : Block) (x k : Nat) : Prop :=
  x % 64 = 0 ∧ x < 2 ^ 22 ∧ x + 64 ≤ b.rows * 2032 ∧ k < ringField b x 0 8 ∧
  1 ≤ ringField b x 8 8 ∧ ringField b x 8 8 ≤ 16 ∧
  ringField b x 32 32 + 512 * ringField b x 16 16 * ringField b x 0 8 ≤ b.rows * 2032

/-- Only the fields of the ring header at `x` that `f` names changed: bit positions and widths, with their new values. -/
def RingBecomes (b c : Block) (x : Nat) (fs : List (Nat × Nat × Nat)) : Prop :=
  (∀ j, j < x ∨ x + 64 ≤ j → cellsGet 0 j c.scratch = cellsGet 0 j b.scratch) ∧
  (∀ f ∈ fs, ringField c x f.1 f.2.1 = f.2.2) ∧
  ∀ i, i < 512 → (∀ f ∈ fs, i < f.1 ∨ f.1 + f.2.1 ≤ i) → ringField c x i 1 = ringField b x i 1

/-- AN OPERATION OF BLOCK `key` IS COMPLETE (R87, R105, R196, R197): its words are full, the presence bits that it cleared
are set, its handle is done, with what `op` says left of its operation, and every other handle, register and chunk stands. -/
def Completed (s t : State) (key : Nat) (b : Block) (h : Handle) (op : Option EngOp) : Prop :=
  ∃ c, t.block? key = some c ∧ c = { b with strands := c.strands, handles := c.handles, absent := c.absent, scratch := c.scratch } ∧
    (∀ i, c.strand i = { b.strand i with lanes := (c.strand i).lanes, regs := (c.strand i).regs }) ∧
    (∀ i l r, r < 256 → (c.strand i).reg l r =
      if (i, regKey l r) ∈ h.words then { (b.strand i).reg l r with full := true, poison := false }
      else (b.strand i).reg l r) ∧
    (∃ g ∈ c.handles, (g.slot, g.gen, g.kind, g.words) = (h.slot, h.gen, h.kind, h.words) ∧ g.done = true ∧
      g.entries = 0 ∧ ∀ o, op = some o → g.op = o) ∧
    (∀ g ∈ c.handles, (g.slot, g.gen) ≠ (h.slot, h.gen) → ∃ x ∈ b.handles, g = { x with words := g.words }) ∧
    ∀ k x, s.block? k = some x → ∃ y, t.block? k = some y ∧
      (k ≠ key → y = { x with absent := y.absent, scratch := y.scratch }) ∧
      ∀ n, y.absent.count n = x.absent.count n - h.cleared.count (k, n)

end Sys2Proof.Spec

/-- R197, R206, R207, R361, R362: HTEST, HCANCEL and the stage operations. A cancelled operation moves nothing further; its
handle is complete once what it has sent is acknowledged. -/
def Obligations.HandlesAndStages : Prop :=
  (∀ d a v (s : State) (b : Block), s.clearFor b { srcs := [{ (srcA v a).clean with wait := false }], dsts := [dstD v d] } →
    (b.handles.map fun h => (h.slot, h.gen)).Nodup →
    ∃ t, exec (.htest d a v) s = .next t ∧
      s.computed t b { srcs := [{ (srcA v a).clean with wait := false }], dsts := [dstD v d] }
        (fun l => [(dReg v d, if isDone b ((b.strand s.cur.strand).word l (aReg v a)) then 1 else 0)]) fun _ => 0) ∧
  (∀ a v (s : State) (b : Block) l h,
    let u : Uses := { srcs := [{ (srcA v a).clean with wait := false }], roles := [.general, .copy] }
    s.clearFor b u → s.cur.lanes = [l] → (b.handles.map fun h => (h.slot, h.gen)).Nodup →
    (∀ g ∈ b.handles, ∀ hs, g.op ≠ .batch hs) →
    let w := (b.strand s.cur.strand).word l (aReg v a)
    let done := (∃ t, exec (.hcancel a v) s = .next t ∧ LanesOnly s t b fun _ ln => ln.retire s.cur.next)
    (isDone b w → done) ∧
    (b.handle? (w.toNat % 2 ^ 12) (w.toNat / 2 ^ 16) = some h → (∃ cs, h.op = .coll cs) ∨ (∃ k, h.op = .fork k) → done) ∧
    (b.handle? (w.toNat % 2 ^ 12) (w.toNat / 2 ^ 16) = some h → h.done = false → h.words ≠ [] →
      (∃ n ms, h.op = .lanes n ms) ∨ (∃ ds, h.op = .tile ds) ∨ (∃ ds, h.op = .pack ds) ∨ (∃ ds, h.op = .expand ds) ∨
        (∃ ds, h.op = .ckpt ds) →
      (s.cur.strand, regKey l (aReg v a)) ∈ h.words → (b.strand s.cur.strand).full (regKey l (aReg v a)) = false →
      ∃ t c, exec (.hcancel a v) s = .next t ∧
        t = { s with blocks := t.blocks, cores := t.cores, fabric := t.fabric } ∧ FabricKeeps s t ∧
        (∀ core, core ≠ b.core → t.core core = s.core core) ∧ (∀ k x, padByte t k x = padByte s k x) ∧
        t.block? s.cur.blk = some c ∧ (∀ i m, (c.strand i).lane m =
          if i = s.cur.strand ∧ m = l then ((b.strand i).lane m).retire s.cur.next else (b.strand i).lane m) ∧
        ((∀ n ∈ h.tags, s.outstanding n = false) → Completed s t s.cur.blk b h (some (.stopped h.op.dest))) ∧
        ((∃ n ∈ h.tags, s.outstanding n = true) → ∃ g ∈ c.handles, (g.slot, g.gen, g.op) = (h.slot, h.gen, .stopped h.op.dest) ∧
          g.done = false ∧ g.written = true ∧ g.rest = [] ∧ g.last = []))) ∧
  (∀ a b v (s : State) (k : Block),
    let low := s.cur.lanes.headD 0
    let srcs : List Src := [{ (srcA v a).clean with once := true }, { (srcB v b).clean with once := true }]
    s.clearFor k { srcs := srcs, low := low } → Quiet s → k.mat = none →
    let st := k.strand s.cur.strand
    let x := (st.word low (aReg v a)).toNat
    let w := (st.word low (bReg v b)).toNat
    let slot := w % 64
    let f := ringField k x
    let bit (n : Nat) : Nat := f (n + slot) 1
    let good := RingOk k x slot ∧ w / 2 ^ 10 = 0 ∧ field w 6 2 = 0
    (good →
      (∃ t c, exec (.stgarm a b v) s = .next t ∧ t = { s with blocks := t.blocks } ∧ OthersKeep s t ∧
        t.block? s.cur.blk = some c ∧ RingBecomes k c x [(128 + slot, 1, 1)] ∧
        Accessed s t k (fun _ => []) (fun _ => false) fun _ => True) ∧
      (∃ t c, exec (.stgflip a b v) s = .next t ∧ t = { s with blocks := t.blocks } ∧ OthersKeep s t ∧
        t.block? s.cur.blk = some c ∧ Accessed s t k (fun _ => []) (fun _ => false) (fun _ => True) ∧
        RingBecomes k c x
          (if f (192 + 4 * slot) 4 + 1 = f 8 8 then
            [(192 + 4 * slot, 4, 0), (128 + slot, 1, 0), (64 + slot, 1, 1 - bit 64)]
          else [(192 + 4 * slot, 4, (f (192 + 4 * slot) 4 + 1) % 16)])) ∧
      (bit 64 = field w 9 1 ∧ bit 128 = field w 8 1 →
        ∃ t, exec (.stgwait a b v) s = .next t ∧ LanesOnly s t k fun _ ln => ln.retire s.cur.next) ∧
      (¬(bit 64 = field w 9 1 ∧ bit 128 = field w 8 1) →
        ∃ t, exec (.stgwait a b v) s = .next t ∧ LanesOnly s t k fun _ ln =>
          { ln with park := .stage x slot (field w 8 1 == 1) (field w 9 1 == 1) })) ∧
    (Block.issues k → x % 64 = 0 → x + 64 ≤ k.rows * 2032 → x < 2 ^ 22 → ¬good →
      ∀ i n, (i, n) ∈ [(Instr.stgarm a b v, 320), (.stgflip a b v, 320), (.stgwait a b v, 64)] →
        ∃ t, exec i s = .next t ∧ Excepted s t k (recordOf s k 0x13 3 x n 0 s.cur.lanes)))


namespace Sys2Proof.Spec

/-- The core's TLB maps every byte of `n` from `va` on, for the block's job and permission, to this module's DRAM from `pa`
on, on pages that are not viewed (R116 to R118). -/
def Held (s : State) (b : Block) (va n : Nat) (perm : Perm) (pa : Nat) : Prop :=
  va + n ≤ 0x01FF000000000000 ∧ ∀ j, j < n → ∃ e,
    ((s.core b.core).tlb.find? fun x => x.hits (s.jobOf b) (va + j)) = some e ∧ e.leaf.perm.getLsbD perm.ix = true ∧
    e.leaf.job = s.jobOf b ∧ e.leaf.home = s.mgmt.dev ∧ e.leaf.cache ≠ 3 ∧ e.leaf.view = false ∧
    e.leaf.base % 2 ^ 16 = 0 ∧ e.leaf.bytes % 2 ^ 16 = 0 ∧
    e.leaf.addr + (va + j - e.leaf.base) = pa + j ∧ isDram (pa + j) = true

/-- `t` is what `n` executions of `i`, one after the other, make of `s`. -/
def Steps (i : Instr) : Nat → State → State → Prop
  | 0, s, t => t = s
  | n + 1, s, t => ∃ u, exec i s = .next u ∧ Steps i n u t

/-- Block `key`'s operation in handle `h` has not begun and can be performed: the block holds a core, the clocks run, the
class of its traffic has no budget on the core's die, no batch waits for it, and every handle of the block is told apart. -/
def Pending (s : State) (key : Nat) (b : Block) (h : Handle) : Prop :=
  s.block? key = some b ∧ (b.state = .running ∨ ∃ w, b.state = .stopping w) ∧ s.clocksRun = true ∧
  (b.handles.find? fun g => g.slot == h.slot && !g.done) = some h ∧ h.tags = [] ∧ h.words ≠ [] ∧
  h.rest = [] ∧ h.last = [] ∧ (s.die (dieOf b.core)).limited (if h.kind = 4 then 4 else 1) = false ∧
  (b.handles.map fun h => (h.slot, h.gen)).Nodup ∧ (∀ g ∈ b.handles, ∀ hs, g.op ≠ .batch hs) ∧
  Quiet s ∧ s.isDet b = false

/-- One execution of `i` or more performs the operation, in pieces that end at 128-byte boundaries (R197): memory is then as
`mem` says, and the issuing core holds no clean bytes of what it wrote (Table 7-3). -/
def Moved (s : State) (i : Instr) (key : Nat) (b : Block) (h : Handle) (mem : Nat → Byte) (wrote : Nat → Prop) : Prop :=
  ∃ n t, Steps i (n + 1) s t ∧
    t = { s with blocks := t.blocks, cores := t.cores, dies := t.dies, mem := t.mem, migrations := t.migrations,
                 fabric := t.fabric } ∧ FabricKeeps s t ∧ Completed s t key b h none ∧
    (∀ k x, padByte t k x = padByte s k x) ∧ (∀ y, memGet t.mem y = mem y) ∧
    (∀ i, b.core ≠ i → t.core i = s.core i) ∧
    ∀ y, wrote y → ∀ x, (t.core b.core).l1At y = some x → x.dirty = true

/-- The last row, or move, whose `n` bytes cover byte `y` of its destination. -/
def lastOf (rows : List (Nat × Nat)) (n y : Nat) : Option (Nat × Nat) :=
  (rows.filter fun r => decide (r.2 ≤ y) && decide (y < r.2 + n)).getLast?

/-- The values that a CPYZ stream stands for (R190, R191, R193): in a coded block the reconstructions, in a verbatim one the
values themselves. The number bounds the blocks. -/
def restored (t : Fmt) (eb : Nat) : Nat → Nat → List Nat → List Nat
  | 0, _, _ => []
  | n + 1, p, xs =>
    let block := xs.take 32
    let step (acc : Option (Nat × List Nat)) (x : Nat) : Option (Nat × List Nat) :=
      acc.bind fun (q, ys) => (packValue t eb q x).map fun v => (v.2, ys ++ [v.2])
    let ys := match block.foldl step (some (p, [])) with
      | some (_, ys) => ys
      | none => block
    if xs = [] then [] else ys ++ restored t eb n (ys.getLastD p) (xs.drop 32)

/-- The values of `n` bytes each that lie from `pa` on. -/
def valuesAt (m : Memory) (pa size count : Nat) : List Nat :=
  (List.range count).map fun i => leNat (memBytes m (pa + size * i) size)

/-- Byte `y` after bytes `bs` are written from `pa` on, where `old` stood. -/
def overwritten (pa : Nat) (bs : List Byte) (y : Nat) (old : Byte) : Byte :=
  if pa ≤ y ∧ y < pa + bs.length then bs.getD (y - pa) 0 else old

end Sys2Proof.Spec

/-- R190, R193: a value that the compressor codes is restored to within the bound, exactly by the arithmetic of R190. -/
def Sys2Proof.Spec.CompressionIsBounded : Prop :=
  ∀ (f64 : Bool) (eb p x : Nat) (q : Int) (r : Nat),
    let t := if f64 then Fmt.f64 else .f32
    Exact (t.value eb) → 0 < realOf (t.value eb) → Exact (t.value p) → Machine.packValue t eb p x = some (q, r) →
    Exact (t.value x) ∧ Exact (t.value r) ∧ |realOf (t.value r) - realOf (t.value x)| ≤ realOf (t.value eb) ∧
    -(2 ^ 30 : Int) ≤ q ∧ q < 2 ^ 30 ∧
    (realOf (t.value p) + 2 * realOf (t.value eb) * q ≠ 0 →
      ∃ fl, RoundsTo t .rne (realOf (t.value p) + 2 * realOf (t.value eb) * q) (r, fl))

/-- R87, R105, R190 to R193, R199, R201 to R203, R209, R213, Table 9-9: what the copy engine does when an operation on DRAM
is performed, in the steps that the model takes for it (log 73): every source byte is read before a destination byte is
written, later rows and lanes win, and then the handle completes. -/
def Obligations.CopiesComplete : Prop :=
  ∀ (s : State) key b h, Pending s key b h →
    (∀ n ms (pa : Nat × Nat × Nat → Nat × Nat), h.written = false → h.op = .lanes n ms → n ∈ [4, 8, 16] →
      (∀ m ∈ ms, m.2.1 % n = 0 ∧ Held s b m.2.2 n .read (pa m).1 ∧ Held s b m.2.1 n .write (pa m).2) →
      Moved s (.copyComplete key h.slot) key b h
        (fun y => match lastOf (ms.map pa) n y with
          | some m => memGet s.mem (m.1 + (y - m.2))
          | none => memGet s.mem y)
        fun y => (lastOf (ms.map pa) n y).isSome) ∧
    (∀ l t (pa : Nat → Nat × Nat), h.written = false → h.op = .tile [(l, t)] → t.mcast = false → t.targets = [] → t.rowb ≠ 0 → t.nrow ≠ 0 →
      (∀ r, r < t.nrow → Held s b ((t.src + r * t.spitch) % 2 ^ 64) t.rowb .read (pa r).1 ∧
        Held s b ((t.dst + r * t.dpitch) % 2 ^ 64) t.rowb .write (pa r).2) → t.dst < 2 ^ 57 →
      Moved s (.copyComplete key h.slot) key b h
        (fun y => match lastOf ((List.range t.nrow).map pa) t.rowb y with
          | some m => memGet s.mem (m.1 + (y - m.2))
          | none => memGet s.mem y)
        fun y => (lastOf ((List.range t.nrow).map pa) t.rowb y).isSome) ∧
    (∀ l t, h.written = false → h.op = .tile [(l, t)] → (t.rowb = 0 ∨ t.nrow = 0) → ((b.strand h.strand).lane l).status = .live →
      ∃ u c, exec (.copyComplete key h.slot) s = .next u ∧
        u = { s with blocks := u.blocks, cores := u.cores, fabric := u.fabric } ∧ u.mem = s.mem ∧ Completed s u key b h none ∧
        u.block? key = some c ∧ ((c.strand h.strand).lane l).due = ((b.strand h.strand).lane l).due ++
          [⟨0x14, 0x43, BitVec.ofNat 64 t.desc, 0, BitVec.ofNat 32 (h.slot % 2 ^ 12 + h.kind % 16 * 2 ^ 12 + h.gen % 2 ^ 16 * 2 ^ 16),
            some (h.slot, h.gen), (h.words.filter fun w => w.1 == h.strand && w.2 / 256 == l).map fun w => w.2, false⟩]) ∧
    (∀ l t k target (pa : Nat → Nat), h.op = .tile [(l, t)] → t.mcast = true → t.rowb ≠ 0 → t.nrow ≠ 0 → target ∈ t.targets →
      0x01FF000000000000 ≤ t.dst → t.dst < 0x01FF000000400000 → t.src < 0x01FF000000000000 →
      t.dst % 16 = 0 → t.rowb % 16 = 0 → t.dpitch % 16 = 0 →
      (s.blocks.find? fun x => x.grid == b.grid && x.index == target) = some k → s.block? k.key = some k → k.key ≠ key →
      (k.state = .running ∨ ∃ w, k.state = .stopping w) → t.slot < 64 → t.ring % 64 = 0 →
      ringField k t.ring 0 8 ≠ 0 → ringField k t.ring (64 + t.slot) 1 = (if t.phase then 1 else 0) →
      ringField k t.ring (128 + t.slot) 1 = 0 →
      (∀ r, r < t.nrow → Held s b ((t.src + r * t.spitch) % 2 ^ 64) t.rowb .read (pa r) ∧
        t.dst - 0x01FF000000000000 + r * t.dpitch + t.rowb ≤ k.rows * 2032 ∧
        t.dst - 0x01FF000000000000 + r * t.dpitch < 2 ^ 22 ∧
        (t.dst - 0x01FF000000000000 + r * t.dpitch + t.rowb ≤ t.ring ∨
          t.ring + 64 ≤ t.dst - 0x01FF000000000000 + r * t.dpitch)) →
      ∃ u, exec (.multicastDelivery key h.slot l target) s = .next u ∧
        u = { s with blocks := u.blocks, cores := u.cores, dies := u.dies } ∧ (∀ j x, (u.core j).l1At x = (s.core j).l1At x) ∧
        (∀ j, j ≠ k.key → ∀ x, padByte u j x = padByte s j x) ∧
        (∀ x, x < t.ring ∨ t.ring + 64 ≤ x → padByte u k.key x =
          match lastOf ((List.range t.nrow).map fun r => (pa r, t.dst - 0x01FF000000000000 + r * t.dpitch)) t.rowb x with
          | some m => memGet s.mem (m.1 + (x - m.2))
          | none => padByte s k.key x) ∧
        (∃ y, u.block? k.key = some y ∧ ringField y t.ring (128 + t.slot) 1 = 1 ∧
          ∀ i, i < 512 → i ≠ 128 + t.slot → ringField y t.ring i 1 = ringField k t.ring i 1) ∧
        (t.targets = [target] → h.written = true → Completed s u key b h none) ∧
        ((∃ other ∈ t.targets, other ≠ target) → ∃ c g, u.block? key = some c ∧ c.handle? h.slot h.gen = some g ∧
          g.done = false ∧ g.op = .tile [(l, { t with targets := t.targets.filter fun x => x != target })])) ∧
    (∀ l d ps pd pr, h.written = false → h.op = .pack [(l, d)] →
      let size := if d.f64 then 8 else 4
      let xs := valuesAt s.mem ps size d.count
      let out := packStream d.f64 (d.eb.toNat % 2 ^ (8 * size)) xs
      Held s b d.src (d.count * size) .read ps → Held s b d.dst out.length .write pd → Held s b d.res 8 .write pr →
      out.length ≤ d.dcap →
      Moved s (.compressComplete key h.slot) key b h
        (fun y => overwritten pr (leBytes 8 out.length) y (overwritten pd out y (memGet s.mem y)))
        fun y => pd ≤ y ∧ y < pd + out.length) ∧
    (∀ l d ps pd pr (f64 : Bool) eb (xs : List Nat), h.written = false → h.op = .expand [(l, d)] →
      let size := if f64 then 8 else 4
      let t := if f64 then Fmt.f64 else .f32
      let stream := packStream f64 eb xs
      let out := (restored t eb (xs.length / 32 + 1) 0 xs).flatMap (leBytes size)
      eb < 2 ^ (8 * size) → (∀ x ∈ xs, x < 2 ^ (8 * size)) → xs.length < 2 ^ 32 →
      memBytes s.mem ps stream.length = stream → out.length ≤ d.dcap → d.src + stream.length ≤ 2 ^ 64 →
      Held s b d.src stream.length .read ps → Held s b d.dst out.length .write pd → Held s b d.res 8 .write pr →
      Moved s (.compressComplete key h.slot) key b h
        (fun y => overwritten pr (leBytes 8 xs.length) y (overwritten pd out y (memGet s.mem y)))
        fun y => pd ≤ y ∧ y < pd + out.length) ∧
    (∀ l d ps pr port off, h.written = false → h.op = .ckpt [(l, d)] → d.ctx = false → (d.ctxLen, d.done, d.chain, d.tail, d.ended) = (0, 0, shaStart, [], false) → d.len = 2 ^ 16 → d.base % 2 ^ 16 = 0 →
      Held s b d.base (2 ^ 16) .read ps → Held s b d.res 72 .write pr → s.portGone port = false → port < 2 → port < s.hosts.length →
      let zero (n : Nat) : List Byte := List.replicate n 0
      let stream := [0x43, 0x4B, 1, BitVec.ofNat 8 s.mgmt.dev] ++ leBytes 2 (s.jobOf b % 2 ^ 12) ++ zero 2 ++ leBytes 4 1 ++
        zero 4 ++ leBytes 8 d.base ++ leBytes 8 d.len ++ leBytes 8 0 ++ zero 24 ++
        leBytes 8 d.base ++ leBytes 8 d.len ++ memBytes s.mem ps (2 ^ 16)
      let digest := sha512 stream
      let all := stream ++ digest
      all.length ≤ d.cap → d.win + all.length ≤ 0x01FF000000000000 →
      (∀ j, j < all.length → ∃ e, ((s.core b.core).tlb.find? fun x => x.hits (s.jobOf b) (d.win + j)) = some e ∧
        e.leaf.perm.getLsbD 1 = true ∧ e.leaf.job = s.jobOf b ∧ e.leaf.home = s.mgmt.dev ∧ e.leaf.cache ≠ 3 ∧
        e.leaf.view = false ∧ e.leaf.addr + (d.win + j - e.leaf.base) = (port + 1) * 2 ^ 40 + off + j ∧ off + j < 2 ^ 40) →
      ∃ n u ms, Steps (.ckptComplete key h.slot) (n + 1) s u ∧
        u = { s with blocks := u.blocks, cores := u.cores, dies := u.dies, mem := u.mem, migrations := u.migrations,
                     hosts := u.hosts, hostOut := s.hostOut ++ ms, fabric := u.fabric } ∧
        Completed s u key b h none ∧
        (∀ y, memGet u.mem y = overwritten pr (leBytes 8 all.length ++ digest) y (memGet s.mem y)) ∧
        ∀ j, j < all.length → ∃ m ∈ ms, ∃ x bs, m = .write port x bs true ∧
          x ≤ (s.host port).hwbase + off + j ∧ bs[(s.host port).hwbase + off + j - x]? = all[j]?)


/-! ## Collectives -/

namespace Sys2Proof.Spec

/-- A byte range lies in the memory of a list of bytes. -/
def Stands (m : Memory) (pa : Nat) (bs : List Byte) : Prop := ∀ j, j < bs.length → memGet m (pa + j) = bs.getD j 0

/-- The log ring of a request block (Table 9-7) stands at physical `p`, and its next entry at physical `e`. -/
def LogRing (s : State) (b : Block) (log p e base log2n prod : Nat) : Prop :=
  Stands s.mem p (leBytes 8 base ++ leBytes 8 log2n ++ leBytes 8 prod ++ leBytes 8 0) ∧ log2n ≤ 24 ∧
  base < 2 ^ 63 ∧ prod < 2 ^ 64 ∧ Held s b log 32 .read p ∧ Held s b (log + 16) 8 .write (p + 16) ∧
  Held s b (base + 64 * (prod % 2 ^ log2n)) 64 .write e

end Sys2Proof.Spec

/-- R210, R212, R433, Tables 9-5 to 9-7: COLL by one lane reads its request block, logs the digest of the block with THIS as
zero, and issues the operation; a block that Table 21-2 rejects is issued too, moves and logs nothing, and gives the lane a
deferred failure. -/
def Sys2Proof.Spec.CollectiveIssues : Prop :=
  ∀ d a v (s : State) (b : Block) l (block : List Byte) pa,
    let u : Uses := { srcs := [(srcA v a).pair.clean], dsts := [dstD v d], roles := [.general, .copy] }
    s.clearFor b u → Quiet s → Credited s → s.isDet b = false → Room s b 1 → s.cur.lanes = [l] →
    ((b.strand s.cur.strand).lane l).status = .live → (s.core b.core).l1 = [] → (s.core b.core).wcb = [] →
    (∀ h ∈ b.handles, h.gen ≠ b.hcount % 65536 ∧ ∀ hs, h.op ≠ .batch hs) →
    let at' := (pairAt (b.strand s.cur.strand) l (aReg v a)).toNat
    let n := leNat ((block.drop 4).take 4)
    block.length = (if n ≤ 4096 then 64 + 32 * n else 64) → at' % 64 = 0 → Held s b at' block.length .read pa →
    Stands s.mem pa block →
    let c := (collOf at' block).1
    ((collOf at' block).2 = true → ∀ p e base log2n prod,
      LogRing s b (leNat ((block.drop 40).take 8)) p e base log2n prod →
      ∃ t, exec (.coll d a v) s = .next t ∧
        t = { s with blocks := t.blocks, cores := t.cores, dies := t.dies, free := t.free, mem := t.mem,
                     migrations := t.migrations } ∧
        Issued s t b u (dReg v d) 3 1 (.coll [(l, c)])
          (touches s b (if c.kind = 0 ∧ (c.ranks.map fun r => r.parent)[c.this]? ≠ some 0xFFFFFFFF then []
            else [(c.dst, c.count * (NumType.width c.typ / 8))])) false noted ∧
        ∀ y, memGet t.mem y = overwritten (p + 16) (leBytes 8 (prod + 1)) y
          (overwritten e (sha512 (block.take 8 ++ leBytes 4 0 ++ block.drop 12)) y (memGet s.mem y))) ∧
    ((collOf at' block).2 = false →
      ∃ t, exec (.coll d a v) s = .next t ∧
        t = { s with blocks := t.blocks, cores := t.cores, dies := t.dies, free := t.free } ∧
        Issued s t b u (dReg v d) 3 1 (.coll [(l, c)]) (fun _ _ => false) false fun x ln =>
          { noted x ln with due := [⟨0x14, 0x42, BitVec.ofNat 64 at', 0,
              BitVec.ofNat 32 (x.1 + 3 * 2 ^ 12 + x.2 * 2 ^ 16), some x, [regKey l (dReg v d)], false⟩] })

/-- R210, R211, Tables 9-5 and 9-6: the request blocks that are accepted, and what their fields are. -/
def Sys2Proof.Spec.CollectiveBlocks : Prop :=
  ∀ (at' : Nat) (block : List Byte),
    let x := leNat (block.take 64)
    let n := field x 32 32
    let rank (i : Nat) : Nat := leNat ((block.drop (64 + 32 * i)).take 32)
    let parent (i : Nat) : Nat := field (rank i) 0 32
    let children (i : Nat) : List Nat := (List.range (field (rank i) 32 3)).map fun j => field (rank i) (64 + 32 * j) 32
    let c := (collOf at' block).1
    64 ≤ block.length →
    ((collOf at' block).2 = true →
      field x 0 4 ≤ 2 ∧ field x 8 4 ≤ 11 ∧
      (if field x 0 4 = 2 then field x 4 4 = 0
        else field x 4 4 ∈ [1, 2, 3] ∨ (field x 4 4 ∈ [4, 5, 6] ∧ field x 8 4 ≤ 7)) ∧
      1 ≤ n ∧ n ≤ 4096 ∧ field x 64 32 < n ∧ field x 96 32 % 256 = 0 ∧ 0 < field x 96 32 ∧ field x 96 32 ≤ 1048576 ∧
      (∃ r, r < n ∧ parent r = 0xFFFFFFFF ∧ ∀ i, i < n → parent i = 0xFFFFFFFF → i = r) ∧
      (∀ i, i < n → field (rank i) 32 3 ≤ 4 ∧ (children i).Nodup ∧ ∀ k ∈ children i, k < n ∧ parent k = i) ∧
      (∀ i, i < n → parent i ≠ 0xFFFFFFFF → parent i < n ∧ i ∈ children (parent i)) ∧
      c.ranks = (List.range n).map fun i => ⟨parent i, children i, field (rank i) 40 4, field (rank i) 192 64⟩) ∧
    (c.block, c.kind, c.rop, c.this, c.chunk, c.count, c.src, c.dst, c.desc) =
      (block, field x 0 4, field x 4 4, field x 64 32, field x 96 32, field x 128 64, field x 192 64, field x 256 64, at') ∧
    (c.upNext, c.dnNext, c.inbox) = (0, 0, [])

/-- R211, R435, Table 3-8: a rank's progress with a chunk. What comes from another module is written into the rank's receive
area, in the slot that the model gives its sender (log 71), and used from there: a broadcast's leaf writes it to its vector, a
root folds it into its own contribution, in the order of its child list; a leaf's part is sent to its parent. A rank that
failed does nothing. -/
def Obligations.CollectiveProgress : Prop :=
  ∀ (s : State) key b h l c (data : List Byte) peer pi pd ps,
    Pending s key b h → h.op = .coll [(l, c)] → c.failed = false → c.inbox = [] →
    let me := c.rank c.this
    let bytes := c.count * (NumType.width c.typ / 8)
    let chunks := (bytes + c.chunk - 1) / c.chunk
    let size (k : Nat) : Nat := Min.min c.chunk (bytes - k * c.chunk)
    let away := (c.rank peer).dev ≠ s.mgmt.dev
    let slot := c.inPlace c.this peer
    let ends (t : State) (k : Nat) (next : CollOp) : Prop :=
      if k + 1 = chunks then Completed s t key b h none
      else ∃ x y, t.block? key = some x ∧ x.handle? h.slot h.gen = some y ∧ y.done = false ∧ y.op = .coll [(l, next)]
    let keeps (t : State) : Prop :=
      t = { s with blocks := t.blocks, cores := t.cores, dies := t.dies, mem := t.mem, migrations := t.migrations,
                   fabric := t.fabric } ∧ FabricKeeps s t ∧ ∀ k x, padByte t k x = padByte s k x
    let k := c.dnNext
    let i := c.upNext
    let come (y : Nat) : Byte := overwritten pi data y (memGet s.mem y)
    (c.kind = 2 → me.parent = peer → peer ≠ 0xFFFFFFFF → me.children = [] → away → k < chunks → data.length = size k →
      Held s b slot (size k) .write pi → Held s b slot (size k) .read pi →
      Held s b ((c.dst + k * c.chunk) % 2 ^ 64) (size k) .write pd →
      ∃ t, exec (.collChunkReceive key h.slot l peer k data) s = .next t ∧ keeps t ∧
        (∀ y, memGet t.mem y = overwritten pd data y (come y)) ∧ ends t k { c with dnNext := k + 1 }) ∧
    (c.kind = 0 → me.parent = 0xFFFFFFFF → me.children = [peer] → away → i < chunks → data.length = size i →
      Held s b slot (size i) .write pi → Held s b slot (size i) .read pi →
      Held s b ((c.src + i * c.chunk) % 2 ^ 64) (size i) .read ps →
      let sum := collFold c.rop c.typ ((List.range (size i)).map fun j => come (ps + j)) data
      Held s b ((c.dst + i * c.chunk) % 2 ^ 64) sum.length .write pd →
      ∃ t, exec (.collChunkReceive key h.slot l peer i data) s = .next t ∧ keeps t ∧
        (∀ y, memGet t.mem y = overwritten pd sum y (come y)) ∧ ends t i { c with upNext := i + 1 }) ∧
    (c.kind = 0 → me.parent ≠ 0xFFFFFFFF → me.children = [] → chunks = 1 → i = 0 → h.written = false →
      (c.rank me.parent).dev = s.mgmt.dev → Held s b (c.src % 2 ^ 64) (size 0) .read ps →
      ∃ t, exec (.copyComplete key h.slot) s = .next t ∧
        t = { s with blocks := t.blocks, cores := t.cores, fabric := t.fabric, mail := s.mail ++
          [⟨c.block.take 8 ++ leBytes 4 0 ++ c.block.drop 12, s.jobOf b, c.this, me.parent, 0, memBytes s.mem ps (size 0)⟩] } ∧
        Completed s t key b h none) ∧
    (∀ j, exec (.collChunkReceive key h.slot l peer j data)
        (s.updBlock key fun x => x.updHandle h.slot h.gen fun y => { y with op := .coll [(l, { c with failed := true })] }) =
      .next (s.updBlock key fun x => x.updHandle h.slot h.gen fun y => { y with op := .coll [(l, { c with failed := true })] }))

/-- R208 to R211, R362: the issue of a collective, and the checks of its request block. -/
def Obligations.CollectiveIssue : Prop := Spec.CollectiveIssues ∧ Spec.CollectiveBlocks


/-! ## Views -/

/-- R365, Table 15-8: VIEWQ. Copies and twins of pages that other modules home are those that stand there (R129). -/
def Sys2Proof.Spec.ViewDescription : Prop :=
  ∀ d a v (s : State) (b : Block),
    let u : Uses := { srcs := [(srcA v a).pair.clean], dsts := [dstD v d] }
    s.clearFor b u →
    let st := b.strand s.cur.strand
    let va (l : Nat) := (pairAt st l (aReg v a)).toNat
    let leaf (l : Nat) := if va l < 0x01FF000000000000 then s.leaf? b.core (s.jobOf b) (va l) else none
    let granule (l : Nat) := va l - va l % 128
    let flag (p : Prop) [Decidable p] : Nat := if p then 1 else 0
    let has (l : Nat) (mine : Fork → Nat → Prop) (away : Nat → Option Nat) : Prop :=
      ∃ k c f lf, b.view = .child k c ∧ leaf l = some lf ∧ lf.view = true ∧ s.fork? k = some f ∧
        if lf.home = s.mgmt.dev then mine f c
        else (away c, lf.home, (lf.addr + (va l - lf.base)) / 128 * 128) ∈ f.away
    ∀ (copy twin : Nat → Bool),
    (∀ l, copy l = true ↔ has l (fun f c => ∃ y ∈ f.copies, y.1 = c ∧ y.2.1 = granule l) some) →
    (∀ l, twin l = true ↔ has l (fun f _ => ∃ y ∈ f.twins, y.1 = granule l) fun _ => none) →
    let word (l : Nat) : Nat :=
      (match leaf l with
        | some lf => flag (lf.view = true) + lf.rop.toNat * 2 ^ 4 + lf.rtype.toNat * 2 ^ 8
        | none => 0) +
      2 * flag (copy l = true) + 4 * flag (twin l = true) +
      8 * flag (∃ f ∈ s.forks, f.job = s.jobOf b ∧ f.parent = b.view ∧ f.joined = false) +
      b.view.depth s * 2 ^ 12
    ∃ t, exec (.viewq d a v) s = .next t ∧
      s.computed t b u (fun l => [(dReg v d, BitVec.ofNat 32 (word l))]) fun _ => 0

/-- R123, R124, R130, R363, Tables 4-1, 6-1 and 7-3: FORK by one lane. A count of 0 gives a full handle and nothing else; any
other count a child grid, its fork and a frozen view. -/
def Obligations.Forks : Prop :=
  ∀ d a c v (s : State) (b : Block) l (record : List Byte) pa n,
    let u : Uses := { srcs := [(srcA v a).pair.clean, (srcB v c).clean], dsts := [dstD v d] }
    s.clearFor b u → Quiet s → Credited s → s.isDet b = false → b.mat = none → s.cur.lanes = [l] →
    s.slotsUsed b.core < 4096 → b.handles.length < 4096 → s.grids.length < 2 ^ 62 →
    (s.core b.core).l1 = [] → (s.core b.core).lines = [] → (s.core b.core).wcb = [] →
    let st := b.strand s.cur.strand
    let at' := (pairAt st l (aReg v a)).toNat
    let count := (st.word l (bReg v c)).toNat
    record.length = 128 → at' % 128 = 0 → Held s b at' 128 .read pa → Stands s.mem pa record →
    b.view.depth s < 8 → count ≤ 65536 →
    let launch : LaunchRec := { forkRec (leNat record) count with job := s.jobOf b }
    launch.bad = false → s.readKernel (s.jobOf b) (st.lane l).replies launch = .good n →
    (count = 0 →
      ∃ t, exec (.fork d a c v) s = .next t ∧
        t = { s with blocks := t.blocks, cores := t.cores, dies := t.dies, free := t.free } ∧
        Issued s t b u (dReg v d) 6 0 .idle (fun _ _ => false) true noted) ∧
    (count ≠ 0 → s.viewedHome (s.jobOf b) = false ∨ 2 * field (leNat record) 352 32 ≤ s.freeSlots →
      ∃ t g f, exec (.fork d a c v) s = .next t ∧
        t = { s with blocks := t.blocks, cores := t.cores, dies := t.dies, free := t.free, stamp := t.stamp,
                     grids := s.grids ++ [g], forks := s.forks ++ [f] } ∧
        Issued s t b u (dReg v d) 6 0 (.fork f.key) (fun _ _ => false) false noted ∧
        f = { Fork.fresh s.mgmt.dev f.key (s.jobOf b) g.key (field (leNat record) 352 32) count (b.view.depth s) b.view with
                owner := some (b.key, s.cur.strand, l) } ∧
        (g.fork = some f.key ∧ g.parent = some b.grid ∧ g.pc0 = BitVec.ofNat 64 n.pc0 ∧ g.started = [] ∧ g.ended = [] ∧
          g.launch = { launch with lid := g.gid } ∧ g.gid.toNat / 2 ^ 63 = 1) ∧
        t.frozen (s.jobOf b) b.view = true ∧
        f.key < t.stamp ∧ g.key < t.stamp ∧ s.stamp ≤ f.key ∧ s.stamp ≤ g.key ∧ f.key ≠ g.key)

/-- R132, R364, R440, R441: JOIN by one lane. -/
def Obligations.Joins : Prop :=
  ∀ a v (s : State) (b : Block) l,
    let u : Uses := { srcs := [(srcA v a).clean] }
    s.clearFor b u → s.cur.lanes = [l] → (b.handles.map fun h => (h.slot, h.gen)).Nodup →
    let w := ((b.strand s.cur.strand).word l (aReg v a)).toNat
    let h? := b.handle? (w % 2 ^ 12) (w / 2 ^ 16)
    let goesOn := ∃ t, exec (.join a v) s = .next t ∧ LanesOnly s t b fun _ ln => ln.retire s.cur.next
    (h? = none → goesOn) ∧
    (∀ h, h? = some h → h.kind ≠ 6 ∨ h.joined = true → (∀ k, h.op = .fork k → s.fork? k = none) →
      (h.kind = 6 → h.done = true) → goesOn) ∧
    (∀ h, h? = some h → h.kind = 6 → h.done = false →
      ∃ t, exec (.join a v) s = .next t ∧ LanesOnly s t b fun _ ln => { ln with park := .join h.slot h.gen }) ∧
    (∀ h k f, h? = some h → h.kind = 6 → h.done = true → h.joined = false → h.op = .fork k → s.fork? k = some f →
      (f.conflict = none ∨ f.reported = true → s.heldWrites = [] →
        let told (x : Fork) : Fork :=
          match f.parent with
          | .child p d =>
            if x.key = p ∧ f.outside ≠ [] ∧ d ∉ x.outside then { x with outside := x.outside ++ [d] } else x
          | .root => x
        ∃ t c, exec (.join a v) s = .next t ∧
          t = { s with blocks := t.blocks, cores := t.cores, forks := t.forks, grids := t.grids, fabric := t.fabric } ∧
          FabricKeeps s t ∧ t.forks = (s.forks.filter fun x => x.key ≠ k).map told ∧
          t.grids = s.grids.filter (fun g => g.key ≠ f.grid || f.owner = none) ∧
          (b.core < s.cores.length → ∀ y x, (t.core b.core).l1At y = some x → x.dirty = true) ∧
          (∀ i, i ≠ b.core → t.core i = s.core i) ∧
          LanesOnly s { s with blocks := t.blocks } b (fun _ ln => ln.retire s.cur.next) ∧
          t.block? s.cur.blk = some c ∧ ∀ x, c.handle? h.slot h.gen = some x → x.joined = true) ∧
      (∀ z, f.conflict = some z → f.reported = false → Block.issues b →
        let s' := s.updFork k fun x => { x with reported := true }
        ∃ t, exec (.join a v) s = .next t ∧
          Excepted s' t b { recordOf s b 0x15 (Min.min 255 z.count) z.addr z.first z.info2.toNat [l] with
            kind := 1, child := BitVec.ofNat 32 z.second, die := s.foldDie (s.jobOf b) z.addr }))

/-- R133 to R135, Table 6-2: the merged value of one element of `n` bytes at offset `o`: `copies` are the children's copies of
the granule in ascending order of the children. -/
def Sys2Proof.Spec.ElementMerges : Prop :=
  (∀ (rop : Nat) (ty : NumType) (o n : Nat) (twin : List Byte) (copies : List (Nat × List Byte)),
    let part (bs : List Byte) : List Byte := (bs.drop o).take n
    let changers := copies.filter fun c => decide (part c.2 ≠ part twin)
    let merged := mergeElement rop ty o n twin copies
    (changers = [] → merged = .same) ∧
    (∀ c, changers = [c] → merged = .set (part c.2)) ∧
    (∀ c d cs, changers = c :: d :: cs → rop = 0 →
      merged = .clash c.1 d.1 ((part twin).headD 0) ((part c.2).headD 0) ((part d.2).headD 0)) ∧
    (∀ c d cs, changers = c :: d :: cs → rop ≠ 0 →
      merged = .set (leBytes n (foldElement rop ty (leNat (part twin)) (changers.map fun x => leNat (part x.2)))))) ∧
  (∀ (ty : NumType) signed w t (x y : Nat) (xs : List Nat), Machine.NumType.int? ty = some (signed, w) → t < 2 ^ w →
    (∀ z ∈ x :: y :: xs, z < 2 ^ w) →
    let all := x :: y :: xs
    let val (z : Nat) : Int := if signed && decide (2 ^ (w - 1) ≤ z) then (z : Int) - 2 ^ w else z
    foldElement 1 ty t all < 2 ^ w ∧
    (foldElement 1 ty t all : Int) % 2 ^ w = (t + (all.map fun (z : Nat) => (z : Int) - t).sum) % 2 ^ w ∧
    (foldElement 2 ty t all ∈ all ∧ ∀ z ∈ all, val (foldElement 2 ty t all) ≤ val z) ∧
    (foldElement 3 ty t all ∈ all ∧ ∀ z ∈ all, val z ≤ val (foldElement 3 ty t all)) ∧
    ∀ i, (foldElement 4 ty t all).testBit i = all.all (fun z => z.testBit i) ∧
      (foldElement 5 ty t all).testBit i = all.any (fun z => z.testBit i) ∧
      (foldElement 6 ty t all).testBit i = all.foldl (fun r z => r ^^ (z.testBit i ^^ t.testBit i)) (t.testBit i)) ∧
  (∀ (ty : NumType) t (x : Nat) (xs : List Nat), foldElement 7 ty t (xs ++ [x]) = x) ∧
  (∀ (ty : NumType) t (xs : List Nat), (ty = .f32 ∨ ty = .f64) → xs ≠ [] →
    let f := Machine.NumType.fmt ty
    let has (p : Val → Bool) : Bool := xs.any fun x => p (f.value x)
    let bad := (f.value t).isNan || has Val.isNan || (f.value t).isInf || (has (· == .inf false) && has (· == .inf true))
    (bad = true → foldElement 1 ty t xs = f.nan) ∧
    (bad = false → has (· == .inf false) → f.value (foldElement 1 ty t xs) = .inf false) ∧
    (bad = false → has (· == .inf true) → f.value (foldElement 1 ty t xs) = .inf true) ∧
    (Exact (f.value t) → (∀ x ∈ xs, Exact (f.value x)) → ∀ x, Exact (f.value x) →
      let acc := foldElement 1 ty t xs
      ((f.value acc).isInf = true → foldElement 1 ty t (xs ++ [x]) = acc) ∧
      (let r := realOf (f.value acc) + (realOf (f.value x) - realOf (f.value t))
       Exact (f.value acc) → r ≠ 0 → ∃ fl, RoundsTo f .rne r (foldElement 1 ty t (xs ++ [x]), fl)))) ∧
  foldElement 1 .f32 0x4B800000 [0x4B800001, 0x4B7FFFFF, 0x4B800001] = 0x4B800001

/-- R127, R128, R132, R133, R440: what a child reads, what its first write to a granule makes, and the fold of a child into
the root view. -/
def Obligations.ChildrenSeeAndFold : Prop :=
  (∀ (s : State) k c f va, s.fork? k = some f → s.frozen f.job (.child k c) = false →
    s.viewByte viewFuel f.job (.child k c) va =
      match copyOf f c (va / 128 * 128), twinOf f (va / 128 * 128) with
      | some y, _ => y.getD (va % 128) 0
      | none, some y => y.getD (va % 128) 0
      | none, none => s.viewByte (viewFuel - 1) f.job f.parent va) ∧
  (∀ (s : State) k c f va bs, s.fork? k = some f → (va % 128) + bs.length ≤ 128 → copyOf f c (va / 128 * 128) = none →
    let g := va / 128 * 128
    let start := (twinOf f g).getD (s.viewBytes f.job f.parent g 128)
    ∃ h, (s.viewWrite k c va bs).fork? k = some h ∧ twinOf h g = some start ∧
      copyOf h c g = some (start.take (va % 128) ++ bs ++ start.drop (va % 128 + bs.length)) ∧
      (∀ x, x ≠ g → twinOf h x = twinOf f x) ∧ (∀ d x, (d, x) ≠ (c, g) → copyOf h d x = copyOf f d x) ∧
      (s.viewWrite k c va bs).mem = s.mem) ∧
  ∀ (s : State) key child f g, s.fork? key = some f → f.folded = child → s.clocksRun = true → child < f.children →
    s.grid? f.grid = some g → child ∈ g.ended → f.after = [] → f.poisoned = [] → (∀ d, (s.die d).credited 2 = true) →
    (child + 1 < f.children →
      exec (.childFold key child) s = .next (s.updFork key fun h => { h with folded := child + 1 })) ∧
    (∀ base twin copy lf, child + 1 = f.children → f.parent = .root → f.owner = none → f.away = [] → Quiet s →
      base % 128 = 0 → base < 2 ^ 60 →
      twin.length = 128 → copy.length = 128 → f.twins = [(base, twin)] → f.copies = [(child, base, copy)] →
      let pa := lf.addr + (base - lf.base)
      lf.base % 128 = 0 →
      (∀ (m : Memory) va, base ≤ va → va < base + 128 → (∀ y, y < pa ∨ pa + 128 ≤ y → memGet m y = memGet s.mem y) →
        ({ s with mem := m }).walkJob f.job va = some lf) →
      lf.base ≤ base →
      let n := if lf.rop ≠ 0 ∧ ropAccepts lf.rop.toNat lf.rtype.toNat then NumType.width (numTypeOf lf.rtype.toNat) / 8 else 1
      ∃ t, exec (.childFold key child) s = .next t ∧
        t = { s with mem := t.mem, forks := t.forks, dies := t.dies, migrations := t.migrations } ∧
        t.fork? key = some { f with folded := f.children } ∧
        (∀ y, y < pa ∨ pa + 128 ≤ y → memGet t.mem y = memGet s.mem y) ∧
        ∀ j, j < 128 → memGet t.mem (pa + j) =
          if (copy.drop (j / n * n)).take n = (twin.drop (j / n * n)).take n then memGet s.mem (pa + j)
          else copy.getD j 0)

/-- R206, R207, R116, R117: compression and the merges of elements. -/
def Obligations.EngineArithmetic : Prop := Spec.CompressionIsBounded ∧ Spec.ElementMerges


/-! ## System instructions -/

namespace Sys2Proof.Spec

/-- The value of a special register for lane `l` of the strand in progress (Table 4-2). -/
def specialOf (s : State) (b : Block) (st : Strand) (l sel : Nat) : Nat :=
  let g (f : Grid → Nat) : Nat := ((s.grid? b.grid).map f).getD 0
  let ln := st.lane l
  ([l, l / 4, s.cur.strand, st.width, b.index, g (·.launch.nblk), g (·.gid.toNat), b.core, b.core / 32, s.mgmt.dev, b.core / 2,
    g (·.launch.cb.toNat), (s.die (b.core / 32)).clock.toNat, 1,
    (match (s.grid? b.grid).bind (·.parent), b.view with | some _, .child _ c => c | _, _ => 0xFFFFFFFF), b.view.depth s, ln.fmode.toNat,
    ln.fstat.toNat, (match st.role with | .general => 0 | .copy => 1 | .matrix => 2), st.gang.toNat,
    b.faultinfo.toNat]).getD sel 0

/-- fmode after a write of `w` (Table 4-3): rounding 1 to 5, else 1, and the ftz bit. -/
def fmodeWritten (w : Nat) : BitVec 4 :=
  BitVec.ofNat 4 ((if 1 ≤ w % 8 ∧ w % 8 ≤ 5 then w % 8 else 1) + w / 8 % 2 * 8)

end Sys2Proof.Spec

/-- R90, R367, Tables 4-2 to 4-4: SRD of every special register, and SWR. -/
def Sys2Proof.Spec.SpecialRegisters : Prop :=
  (∀ d (sel : BitVec 10) v (s : State) (b : Block),
    let wide := sel.toNat ∈ [5, 6, 11, 12, 20]
    let u : Uses := { dsts := [if wide then (dstD v d).pair else dstD v d] }
    sel.toNat ≤ 20 → s.clearFor b u → (s.grid? b.grid).isSome = true →
    let x (l : Nat) : Dword := BitVec.ofNat 64 (specialOf s b (b.strand s.cur.strand) l sel.toNat)
    ∃ t, exec (.srd d sel v) s = .next t ∧ s.computed t b u (fun l =>
      if wide then [(dReg v d, (x l).truncate 32), (dReg v d + 1, ((x l) >>> 32).truncate 32)]
      else [(dReg v d, (x l).truncate 32)]) fun _ => 0) ∧
  (∀ d (sel : BitVec 10) v (s : State) (b : Block), s.clearFor b { srcs := [(srcD v d).clean] } →
    let w (l : Nat) : Nat := ((b.strand s.cur.strand).word l (dReg v d)).toNat
    ∃ t, exec (.swr d sel v) s = .next t ∧ LanesOnly s t b fun l ln =>
      let ln := ln.retire s.cur.next
      if sel = 16 then { ln with fmode := fmodeWritten (w l) }
      else if sel = 17 then { ln with fstat := BitVec.ofNat 5 (w l) } else ln)

namespace Sys2Proof.Spec

/-- The bytes of the `sel + 1` lines from the line that holds the lane's pair on (R369, R370). -/
def linesFrom (s : State) (b : Block) (r l : Nat) : Nat :=
  (pairAt (b.strand s.cur.strand) l r).toNat / 128 * 128

/-- The lanes' lines lie in this module's DRAM, at `pa`, by the core's TLB. -/
def LinesHeld (s : State) (b : Block) (r sel : Nat) (pa : Nat → Nat) : Prop :=
  ∀ l ∈ s.cur.lanes, Held s b (linesFrom s b r l) (128 * (sel + 1)) .read (pa l)

/-- Byte `y` lies in a lane's lines. -/
def inLines (s : State) (sel : Nat) (pa : Nat → Nat) (y : Nat) : Prop :=
  ∃ l ∈ s.cur.lanes, pa l ≤ y ∧ y < pa l + 128 * (sel + 1)

end Sys2Proof.Spec

/-- R369, R370: FLUSH, INVAL and RANGE. -/
def Sys2Proof.Spec.CacheInstructions : Prop :=
  (∀ d (sel : BitVec 10) v (s : State) (b : Block), s.clearFor b { srcs := [{ srcD v d with n := 2 }] } →
    ∃ t, exec (.range d sel v) s = .next t ∧ t = { s with blocks := t.blocks, cores := t.cores, dies := t.dies } ∧
      OthersKeep s t ∧ Accessed s t b (fun _ => []) (fun _ => false) (fun x => x = b.scratch) ∧
      (∀ k, t.core k = { s.core k with tlb := (t.core k).tlb, retain := (t.core k).retain }) ∧
      ∀ e, t.die e = { s.die e with l2 := (t.die e).l2, l2tlb := (t.die e).l2tlb, credit := (t.die e).credit,
                                    spent := (t.die e).spent }) ∧
  (∀ d (sel : BitVec 10) v (s : State) (b : Block) pa, Quiet s → Drained s b.core → LinesHeld s b (dReg v d) sel.toNat pa →
    let u : Uses := { srcs := [(srcD v d).pair.clean] }
    let gone (t : State) : Prop := OthersKeep s t ∧ Accessed s t b (fun _ => []) (fun _ => false) fun x => x = b.scratch
    (s.clearFor b u →
      ∃ t, exec (.flush d sel v) s = .next t ∧
        t = { s with blocks := t.blocks, cores := t.cores, mem := t.mem, dies := t.dies, migrations := t.migrations } ∧ gone t ∧
        (∀ y, (inLines s sel.toNat pa y → memGet t.mem y = current s b.core y ∧
            (t.core b.core).l1At y = cleaned ((s.core b.core).l1At y)) ∧
          (¬inLines s sel.toNat pa y → memGet t.mem y = memGet s.mem y ∧
            (t.core b.core).l1At y = (s.core b.core).l1At y)) ∧
        ∀ k, k ≠ b.core → t.core k = s.core k) ∧
    (s.clearFor b u →
      ∃ t, exec (.inval d sel v) s = .next t ∧ t = { s with blocks := t.blocks, cores := t.cores, fabric := t.fabric } ∧
        FabricKeeps s t ∧ gone t ∧
        (∀ y, (inLines s sel.toNat pa y → (t.core b.core).l1At y = kept ((s.core b.core).l1At y)) ∧
          (¬inLines s sel.toNat pa y → (t.core b.core).l1At y = (s.core b.core).l1At y)) ∧
        ∀ k, k ≠ b.core → t.core k = s.core k))

/-- R368, R371, R372, R408, R428, Table 15-10: TRAP, EVT and HALT. -/
def Sys2Proof.Spec.TrapEventHalt : Prop :=
  (∀ d (sel : BitVec 10) v (s : State) (b : Block), s.clearFor b { srcs := [srcD v d] } → Block.issues b →
    let low := (b.strand s.cur.strand).reg (s.cur.lanes.headD 0) (dReg v d)
    ∃ t s' c, LanesOnly s s' b (fun _ ln => ln.retire s.cur.next) ∧ s'.block? s.cur.blk = some c ∧
      exec (.trap d sel v) s = .next t ∧
      Excepted s' t c (recordOf s b 0x30 0 0 (sel.toNat + if low.poison then 2 ^ 31 else 0) low.val.toNat s.cur.lanes)) ∧
  (∀ d (sel : BitVec 6) v (s : State) (b : Block), s.clearFor b { srcs := [(srcD v d).clean] } →
    let total := (s.cur.lanes.map fun l => ((b.strand s.cur.strand).word l (dReg v d)).toNat).sum
    ∃ t c, exec (.evt d sel v) s = .next t ∧ t = { s with blocks := t.blocks, dies := t.dies } ∧ OthersKeep s t ∧
      Accessed s t b (fun _ => []) (fun _ => false) (fun x => x = b.scratch) ∧
      t.block? s.cur.blk = some c ∧ c.outside = true ∧ t.dies.length = s.dies.length ∧
      ∀ e, e < s.dies.length → (t.die e).evcnt.length = (s.die e).evcnt.length ∧
        t.die e = { s.die e with evcnt := (t.die e).evcnt } ∧
        ∀ n, n < (s.die e).evcnt.length → (t.die e).evcnt.getD n 0 =
          (s.die e).evcnt.getD n 0 + if e = b.core / 32 ∧ n = sel.toNat then BitVec.ofNat 64 total else 0) ∧
  (∀ (s : State) (b : Block), s.clearFor b {} → (∀ x ∈ s.blocks, ∀ st ∈ x.strands, st.run = none) →
    let job := s.jobOf b
    let here := (((s.grid? b.grid).map fun g => g.gid).getD 0, b.index, s.cur.strand, s.cur.pc,
      BitVec.ofNat 64 (maskOf s.cur.lanes), b.core)
    ∃ t c, exec .halt s = .next t ∧ t = { s with blocks := t.blocks, jobs := t.jobs } ∧
      (t.job job).stopped = true ∧ (t.job job).halting = ((s.job job).halting).or (some here) ∧
      (∀ j, j ≠ job → t.job j = s.job j) ∧
      t.block? s.cur.blk = some c ∧ c = { b with strands := c.strands, handles := c.handles, state := c.state } ∧
      (b.state = .running → c.state = .stopping .halt) ∧
      (∀ i l, (c.strand i).lane l =
        if i = s.cur.strand ∧ l ∈ s.cur.lanes then { ((b.strand i).lane l).retire s.cur.next with stopped := some 2 }
        else (b.strand i).lane l) ∧
      ∀ k x, k ≠ s.cur.blk → s.block? k = some x → ∃ y, t.block? k = some y ∧
        (s.jobOf x ≠ job → y = x) ∧
        (s.jobOf x = job → x.state = .running → y = { x with state := .stopping .halt }))

/-- R295, R297, R365 and Table 4-2: special registers, and the description of the view. -/
def Obligations.SpecialRegistersAndViews : Prop := Spec.SpecialRegisters ∧ Spec.ViewDescription

/-- R110 to R112, R366 to R372: caches, traps, events and HALT. -/
def Obligations.CacheTrapEventAndHaltInstructions : Prop := Spec.CacheInstructions ∧ Spec.TrapEventHalt


/-! ## Encodings, the step, reset -/

namespace Sys2Proof.Spec

/-- A MOD adverb with the fields given and every other 0. -/
def modOnly (rnd : BitVec 3) (dh : Bool) (c : BitVec 7) (scope : BitVec 3) : Adverb :=
  .mod { rnd := rnd, sat := false, ftz := false, dh := dh, ah := false, bh := false, c := c, nega := false, absa := false,
         negb := false, absb := false, scope := scope, tea := false, teb := false }

/-- Integer words. -/
noncomputable def spelledInteger : List (Nat × Nat × Instr) :=
  [(16, 0x0000, .nopHalfword), (16, 0x9462, .addShort true 5 3), (16, 0x8504, .subShort true 1 8),
   (16, 0x8D20, .movShort true 3 9), (16, 0x88BC, .fmulShort true 2 5),
   (32, 0x00608081, .add 1 2 3 .none), (32, 0x8000C085, .clz 1 3 .none), (32, 0x03210289, .andi 5 4 3 .none),
   (32, 0xF900C189, .addi 3 3 0xF9 .none), (32, 0x2121028D, .cmpLt 5 4 9 .none), (32, 0x0341CF8D, .cmpEq 31 7 26 .none),
   (32, 0x00410211, .cmpiLt 4 4 0 .none), (32, 0x03428515, .addx 10 10 26 .none), (32, 0xA1828415, .div 8 10 12 .none),
   (32, 0x00028319, .movi 6 10 .none), (32, 0x0000009D, .lui 1 0 .none), (32, 0x00040121, .adr 2 16 .none),
   (32, 0x00000025, .safept 0)]

/-- Floating-point and cross-lane words. -/
noncomputable def spelledFloat : List (Nat × Nat × Instr) :=
  [(32, 0x00E182A9, .fadd 5 6 7 .none), (32, 0x30608429, .ffma 8 2 3 .none), (32, 0x000104AD, .fsqrt 9 4 .none),
   (32, 0x20E182B1, .fcmpLt 5 6 7 .none), (32, 0x60A10535, .hdot2 10 4 5 .none), (32, 0x31828439, .dfma 8 10 12 .none),
   (32, 0xA04102BD, .cvt .f32 .i32 5 4 .none), (32, 0x00E20841, .qpack4 16 8 7 .none),
   (32, 0x60E18641, .qalign 12 6 7 .none), (32, 0x10E18545, .shflUp 10 6 7 .none), (32, 0x70014645, .ballot 12 5 .none)]

/-- Load, store, atomic and synchronisation words. -/
noncomputable def spelledMemory : List (Nat × Nat × Instr) :=
  [(32, 0x02850549, .ldB32 10 20 2 .none), (32, 0x03A50449, .ldB64 8 20 3 .none), (32, 0xFE65044D, .stB64 8 20 0xFE .none),
   (32, 0x02C14851, .ldsB128 16 5 2 .none), (32, 0x00E10649, .ldcon 12 4 0 .none), (32, 0x90E50359, .atomCas 6 20 7 .none),
   (32, 0xD10504D9, .atomAappend 9 20 8 .none), (32, 0x0000005D, .bar .none), (32, 0x1000005D, .tbar .none),
   (32, 0x4005045D, .acq 8 20 .none), (32, 0x5105005D, .rel 20 8 .none), (32, 0x70C1405D, .ticketWait 5 6 .none),
   (32, 0x9000005D, .publish .none), (32, 0xA000065D, .seal 12 .none)]

/-- Matrix, engine and view words. -/
noncomputable def spelledEngine : List (Nat × Nat × Instr) :=
  [(32, 0x00018061, .mgang 6 .none), (32, 0x32C53961, .mmaBf16 ⟨2, false, true, true, true⟩ 20 22 .none),
   (32, 0xC0050161, .accst ⟨2, false, false, false, false⟩ 20 .none), (32, 0x22C50565, .cpy16 10 20 22 .none),
   (32, 0x300605E5, .cpyt 11 24 .none), (32, 0x700282E5, .htest 5 10 .none), (32, 0xA0A10065, .stgwait 4 5 .none),
   (32, 0x01850569, .fork 10 20 12 .none), (32, 0x10028069, .join 10 .none), (32, 0x200503E9, .viewq 7 20 .none),
   (32, 0x000202ED, .rng 5 8 .none), (32, 0x1202006D, .rngsk 8 16 .none)]

/-- Branch and system words. -/
noncomputable def spelledControl : List (Nat × Nat × Instr) :=
  [(32, 0x004002F1, .bnz 5 32 .none), (32, 0x000C42F1, .bz 5 6 .none), (32, 0x00000475, .jmpl 8), (32, 0x00004079, .calll 0x80),
   (32, 0x0000027D, .srd 4 0 .none), (32, 0x010442FD, .swr 5 17 .none), (32, 0x050082FD, .brx 5 2 .none),
   (32, 0x0400007D, .ret), (32, 0x0600007D, .exit), (32, 0x0800007D, .nop), (32, 0x070144FD, .trap 9 5 .none),
   (32, 0x0900CA7D, .flush 20 3 .none), (32, 0x0C01C27D, .evt 4 7 .none), (32, 0x0D00007D, .halt)]

/-- Pairs. -/
noncomputable def spelledPaired : List (Nat × Nat × Instr) :=
  [(64, 0x30C1242900049103, .ffma 72 4 6 (modOnly 2 true 9 0)), (64, 0x001E039912345607, .movi 7 0x78 (.imm 0x2468AC)),
   (64, 0x0085054910000003, .ldB32 10 20 0 (modOnly 0 false 0 4)), (64, 0x0040C3D500010007, .stsB32 7 3 0 (.imm 0x200)),
   (64, 0x90E5035900048003, .atomCas 6 20 7 (modOnly 0 false 9 0)),
   (64, 0x2000005D18000003, .fenceSc (modOnly 0 false 0 6)),
   (64, 0x9346016100048003, .mscale ⟨2, false, false, false, false⟩ 24 26 (modOnly 0 false 9 0))]

/-- Words of Tables 12-7, 13-9, 13-11, 14-5, 14-9, 15-12, 16-2, 20-5 and 22-3, and words written out from Tables 12-3, 12-4
and 12-6, with their bits and what they stand for. -/
noncomputable def spelled : List (Nat × Nat × Instr) :=
  spelledInteger ++ spelledFloat ++ spelledMemory ++ spelledEngine ++ spelledControl ++ spelledPaired

end Sys2Proof.Spec

/-- R257 to R260, Tables 12-1 to 12-7, 13-9, 13-11, 14-5, 14-9, 15-12, 16-2, 20-5 and 22-3: what some words decode to, at
least one in each major opcode. A sanity statement. -/
def Obligations.DecodedWords : Prop :=
  spelled.all (fun (n, w, i) => decide (decodeTableWord n w = some i)) = true

/-- R257 to R260, Tables 12-1 to 12-6: DECODE AND ENCODE AGREE: the words of every well-formed instruction, with every operand
at every value, decode to it and pass the front end's checks, whatever follows them. -/
def Obligations.EncodingsDecode : Prop :=
  ∀ (i : Instr) (x : BitVec 64), i.WellFormed → i.code ≠ .event → x.toNat % 2 ^ (8 * i.code.len) = (encode i).toNat →
    decodeUnit x true = .instr i i.code.len ∧ checkUnit x true = none ∧
    (i.code.len ≠ 8 → decodeUnit x false = .instr i i.code.len ∧ checkUnit x false = none)

/-- R257, R264, R279, R414, Table 20-1: what the front end does not refuse is the encoding of a well-formed instruction: no
reserved opcode, field or adverb passes, and no bit of the unit is ignored. -/
def Obligations.OnlyEncodingsPass : Prop :=
  ∀ (x : BitVec 64) aligned, checkUnit x aligned = none →
    ∃ i n, decodeUnit x aligned = .instr i n ∧ i.WellFormed ∧ i.code ≠ .event ∧ n = i.code.len ∧
      x.toNat % 2 ^ (8 * n) = (encode i).toNat ∧ (n = 8 → aligned = true)

/-- R32 to R36, R65, R257, R258, R414: A STEP RUNS THE DECODED INSTRUCTION. When the next turn (the agenda is the model's own,
log 1) is a strand's issue, its selected gang stands at `pc`, and the bytes there make a unit that passes the checks and
decodes to `k`, the step is `exec k` with the gang's lanes, the unit and the next address recorded. Around it the step takes
the strand's issue slot and lets the fetch use TLB, L2 and credit; and where all that the instruction did is to find a register
of every lane empty, the slot was not taken (R65). A unit that fails a check runs ILLEGAL_ENCODING; an event of the agenda runs
as such. -/
def Obligations.StepRunsTheDecodedInstruction : Prop :=
  (∀ (s : State) n blk i rest b st pc ls (y : BitVec 64), s.agenda = (n, .issue blk i) :: rest →
    let s0 := ({ s with agenda := rest }).tick n
    s0.block? blk = some b → (b.strand i).run = none → s0.mayIssue b = true → s0.gang b i = some (st, pc, ls) →
    let s1 := s0.takeSlot b i st true
    let pieces := s1.codePieces b pc y
    s1.fetchUnit b i ls pc = .unit y → s1.codeShort b pieces = none →
    let s2 := s1.noteFetch b pieces
    let runs (k : Instr) (cur : Issue) : Prop := ∀ t, exec k { s2 with cur := cur } = .next t →
      let park (l : Nat) : Park := ((((t.block? blk).map fun c => c.strand i).getD Strand.absent).lane l).park
      let faulted := (t.block? blk).map (fun c => c.stops) ≠ some b.stops
      ((faulted ∨ ∃ l ∈ ls, (park l).unready = false) → step s = .next t) ∧
      (¬faulted → (∀ l ∈ ls, (park l).unready = true) →
        step s = .next (s0.updStrand blk i fun x => x.updLanes ls fun l ln => { ln with park := park l }))
    (∀ k m, checkUnit y (pc % 8 == 0) = none → decodeUnit y (pc % 8 == 0) = .instr k m →
      runs k ⟨b.key, i, ls, BitVec.ofNat 64 pc, BitVec.ofNat 64 (pc + m),
        if m = 8 then y.extractLsb' 32 32 else y.extractLsb' 0 32,
        if m = 8 then some (y.extractLsb' 0 32) else none⟩) ∧
    (∀ c sub, checkUnit y (pc % 8 == 0) = some (c, sub) →
      runs (.illegalEncoding c sub (BitVec.ofNat 64 (if c = 2 ∧ sub ≠ 0 then pc + 4 else pc)))
        ⟨b.key, i, ls, BitVec.ofNat 64 pc, 0, 0, none⟩)) ∧
  (∀ (s : State) (b : Block) i ls pc x z, CodeAt s b (pc / 8 * 8) x →
    let y := x / 256 ^ (pc % 8)
    let bytes := if y % 2 = 0 then 2 else if y % 4 = 1 then 4 else if pc % 8 = 0 then 8 else 4
    (pc % 8 + bytes ≤ 8 → s.fetchUnit b i ls pc = .unit (BitVec.ofNat 64 y)) ∧
    (8 < pc % 8 + bytes → CodeAt s b (pc / 8 * 8 + 8) z →
      s.fetchUnit b i ls pc = .unit (BitVec.ofNat 64 (y % 2 ^ 16 + z % 2 ^ 16 * 2 ^ 16)))) ∧
  (∀ (s : State) n e rest, s.agenda = (n, .event e) :: rest → e.code = .event → (∀ c sub a, e ≠ .illegalEncoding c sub a) →
    e ≠ .safePointOverdue → step s = exec e (({ s with agenda := rest }).tick n))

/-- R238, Tables 3-3, 3-4, 5-3, 10-2 to 10-7, 11-1 to 11-9, 15-10, 19-3, 21-9 and 23-6: what reset leaves, where the spec gives
the value; memory lists nothing. -/
def Obligations.ResetState : Prop :=
  let s := State.reset
  s.mem.wf = true ∧ s.mem = [] ∧ s.grids = [] ∧ s.blocks = [] ∧ s.forks = [] ∧ s.clocksRun = false ∧
  (∀ o, s.readMgmt o = if o = 0x18 then 3 else 0) ∧
  (∀ p, p < 24 → s.readFabric (0x1000 + 16 * p) = 0 ∧ s.readFabric (0x1008 + 16 * p) = 2 ^ 56 + 192 ∧
    s.readFabric (0x1400 + 16 * p) = 0) ∧
  (s.readFabric 0x2200 = 2 ∧ s.readFabric 0x2208 = 32 ∧ s.readFabric 0x2210 = 8 ∧ s.readFabric 0x2300 = 512) ∧
  (∀ d, d < 4 → (∀ n, n < 64 → s.readReg d (0x800 + 8 * n) = 0) ∧
    (∀ c, c < 7 → s.readReg d (0x400 + 8 * c) = 2 ^ 24) ∧ ∀ o ∈ [0x440, 0xA00, 0xA08, 0xA10, 0xA18, 0xA20, 0xA28, 0xA30], s.readReg d o = 0) ∧
  (∀ p, p < 2 → (s.host p).apen = false ∧ (s.host p).queues.length = 64 ∧
    ∀ q ∈ (s.host p).queues, (q.log2n, q.prod, q.cons) = (4, 0, 0))

/-- The canonical form of memory (a form of the model's own, log 3) is kept by every step. -/
def Obligations.MemoryStaysCanonical : Prop :=
  ∀ s t : State, s.mem.wf = true → step s = .next t → t.mem.wf = true

/-- The canonical form of the tables of the L1s (a form of the model's own, log 48) is kept by every step. -/
def Obligations.L1StaysCanonical : Prop :=
  ∀ s t : State, (∀ c ∈ s.cores, cellsWf none c.l1 = true) → step s = .next t → ∀ c ∈ t.cores, cellsWf none c.l1 = true


/-! ## Events -/

namespace Sys2Proof.Spec

/-- The asynchronous record that an event writes (R406, R409, Table 19-4): it names no thread, and JOB 0xFFF stops nothing. -/
def notice (s : State) (cls sub job addr info : Nat) : FaultRec :=
  { id := s.stamp, cls := cls, sub := sub, kind := 2, job := job, dev := s.mgmt.dev, die := 0,
    addr := BitVec.ofNat 64 addr, pc := 0, grid := 0, blk := 0, strand := 0xFFFF, core := 0, lanes := 0,
    child := 0xFFFFFFFF, info := BitVec.ofNat 32 info, info2 := 0, block := none }

/-- The ring takes a record: it is in DRAM and has room, and nothing is held. -/
def RingTakes (s : State) : Prop :=
  s.ringOn = true ∧ isDram s.mgmt.frbase = true ∧ s.held = [] ∧
  (s.mgmt.frprod - s.mgmt.frcons).toNat < 2 ^ s.mgmt.frlog2n

/-- From `s` on, one record has joined the ring, or is held because the ring is off, and nothing else of the machine has
changed; an entry of the ring is a write to memory, which ends reservations and clears the poison that it covers. -/
def Informs (s t : State) (r : FaultRec) : Prop :=
  (s.ringOn = false → s.held = [] → t = { s with held := [r], stamp := s.stamp + 1 }) ∧
  (RingTakes s → Recorded s t r ∧
    t = { s with mem := t.mem, mgmt := t.mgmt, stamp := s.stamp + 1, poison := t.poison, awayResv := t.awayResv,
                 blocks := t.blocks, stops := t.stops, hostOut := t.hostOut, migrations := t.migrations } ∧
    (t.blocks.map fun b => (b.key, b.state, b.scratch)) = s.blocks.map fun b => (b.key, b.state, b.scratch))

/-- Every host port and its 64 queues. -/
def PortsWhole (s : State) : Prop := s.hosts.length = 2 ∧ ∀ h ∈ s.hosts, h.queues.length = 64

end Sys2Proof.Spec

/-- R238 to R240, R471, R473: what the resets, the links of the hosts and the boot ROM leave. What a module reset does to memory
(log 28) and to the spare maps (log 26) is the model's choice, and so is the boot ROM's work as two events (log 29). -/
def Obligations.ResetAndBoot : Prop :=
  (∀ s : State, ∃ t, exec .moduleReset s = .next t ∧
    let off := (s.host 1).perst
    t = { State.reset with
      mgmt := { State.reset.mgmt with perst0 := true, flash := s.mgmt.flash, fused := s.mgmt.fused }
      hosts := [{ State.reset.host 0 with perst := true }, { State.reset.host 1 with perst := off, gone := off }]
      hostOut := s.hostOut
      stamp := s.stamp
      free := s.free
      agenda := s.agenda }) ∧
  (∀ s : State, ∃ t, exec (.perstDeassertion 0) s = .next t ∧
    t = { s.updHost 0 fun h => { h with perst := false } with
      mgmt := if s.mgmt.boot = 0 then { s.mgmt with perst0 := false, boot := 1 } else s.mgmt }) ∧
  (∀ s : State, ∃ t, exec (.perstDeassertion 1) s = .next t ∧ t = s.updHost 1 fun h => { h with perst := false }) ∧
  (∀ (s : State) (reason : Nat), s.mgmt.perst0 = false →
    let becomes (boot why : Nat) : Prop := ∃ t, exec (.bootComplete reason) s = .next t ∧
      t = { s with mgmt := { s.mgmt with boot := boot, bootReason := why } }
    let known := sha512 s.mgmt.flash.key = s.mgmt.fused
    (s.mgmt.boot = 1 → reason = 1 → becomes 4 1) ∧
    (s.mgmt.boot = 1 → reason ≠ 1 → ¬known → becomes 4 2) ∧
    (s.mgmt.boot = 1 → reason ≠ 1 → known → s.mgmt.flash.signed = false → becomes 4 3) ∧
    (s.mgmt.boot = 1 → reason ≠ 1 → known → s.mgmt.flash.signed = true → becomes 2 0) ∧
    (s.mgmt.boot = 2 → becomes 3 s.mgmt.bootReason)) ∧
  (∀ (s : State) (p : Nat), p < 2 → PortsWhole s → (s.host p).gone = false →
    ∃ t, exec (.hostLinkDown p) s = .next t ∧
      Informs { s.updHost p fun h => { h with up := false, lost := true, gone := true } with
          mgmt := { s.mgmt with primary := if s.mgmt.primary = p then 1 - p else s.mgmt.primary } } t
        (notice s 0x31 0 0xFFF 0 p)) ∧
  (∀ (s : State) (p : Nat), p < 2 → (s.host p).perst = false → s.held = [] →
    ∃ t, exec (.hostLinkUp p) s = .next t ∧
      t = s.updHost p fun h =>
        if (s.host p).gone then { h with up := true, gone := false, apbase := 0, apjob := 0, apen := false }
        else { h with up := true }) ∧
  (∀ s : State, PortsWhole s → (s.host 1).gone = false → s.ringOn = false → s.held = [] →
    ∃ t, exec .port1Reset s = .next t ∧
      t = { s.updHost 1 fun h =>
              { h with
                up := false
                lost := true
                gone := true
                perst := true
                apbase := 0
                apjob := 0
                apen := false
                queues := List.replicate 64 Queue.reset } with
        grids := s.grids.filter fun g => !(g.state == .held && g.port == 1)
        mgmt := { s.mgmt with primary := if s.mgmt.primary = 1 then 0 else s.mgmt.primary }
        held := [notice s 0x31 0 0xFFF 0 1]
        stamp := s.stamp + 1 })

/-- R55 to R62, R83, R245, R418, R478, Table 3-1: from the doorbell to the retirement of a launch. The clock in which a doorbell
arrives is die 0's (the model's choice, log 37). -/
def Obligations.Launching : Prop :=
  (∀ (s : State) (p q : Nat) (prod : Word), p < 2 → q < 64 → PortsWhole s →
    (s.mgmt.boot ≠ 3 → exec (.lqdoor p q prod) s = .next s) ∧
    (s.mgmt.boot = 3 → (s.host p).gone = false → (s.host p).perst = false →
      ∃ t, exec (.lqdoor p q prod) s = .next t ∧
        let old := s.queue p q
        let now := t.queue p q
        let arrival := (s.die 0).clock.toNat * 128 + p * 64 + q
        t = { s with hosts := t.hosts } ∧ now = { old with prod := prod, stamps := now.stamps } ∧
        now.stamps.length = Min.min (prod - old.cons).toNat (2 ^ old.log2n) ∧
        (∀ i, i < old.stamps.length → i < now.stamps.length → now.stamps[i]? = old.stamps[i]?) ∧
        (∀ i, old.stamps.length ≤ i → i < now.stamps.length → now.stamps[i]? = some arrival) ∧
        ∀ p' q', (p' ≠ p ∨ q' ≠ q) → t.queue p' q' = s.queue p' q')) ∧
  (∀ (s : State) (p q a : Nat) (rest : List Nat), p < 2 → q < 64 → PortsWhole s → s.clocksRun = true →
    (s.host p).gone = false → (s.host p).perst = false → s.posting p = false → (s.queue p q).stamps = a :: rest →
    (∀ g ∈ s.grids, ¬(g.state = .held ∧ g.port = p ∧ g.queue = q)) →
    let old := s.queue p q
    let pa := old.base + 128 * (old.cons.toNat % 2 ^ old.log2n)
    isDram pa = true → isDram (pa + 127) = true → s.poison = [] →
    ∃ t g, exec (.launchRecordRead p q) s = .next t ∧
      t = { s with hosts := t.hosts, grids := s.grids ++ [g], stamp := s.stamp + 1 } ∧
      t.queue p q = { old with cons := old.cons + 1, stamps := rest } ∧
      (∀ p' q', (p' ≠ p ∨ q' ≠ q) → t.queue p' q' = s.queue p' q') ∧
      g.state = .held ∧ g.port = p ∧ g.queue = q ∧ g.prio = old.prio ∧ g.age = a ∧ g.recAddr = pa ∧ g.key = s.stamp ∧
      let field (o n : Nat) : Nat := memNat s.mem (pa + o) n
      g.launch.lid = BitVec.ofNat 64 (field 0 8) ∧ g.launch.cont = field 8 8 ∧ g.launch.entry = field 16 4 ∧
      g.launch.nblk = field 20 4 + 1 ∧ g.launch.cb = BitVec.ofNat 64 (field 24 8) ∧ g.launch.wcode = field 32 1 % 4 ∧
      g.launch.rcode = field 32 1 / 4 % 8 ∧ g.launch.det = (field 32 1).testBit 5 ∧
      g.launch.teamed = (field 32 1).testBit 6 ∧ g.launch.job = field 34 2 % 4096 ∧
      g.launch.nstream = field 32 2 / 2 ^ 7 % 32 ∧ g.launch.npre = field 33 1 / 2 ^ 4 % 8 ∧
      g.launch.threads = field 36 2 % 2048 + 1 ∧ g.launch.nstrand = field 36 4 / 2 ^ 11 % 256 + 1 ∧
      g.launch.rows = field 36 4 / 2 ^ 19 ∧ g.launch.ncopy = field 40 1 ∧ g.launch.nmat = field 41 1 ∧
      g.launch.done = field 48 8) ∧
  (∀ (s : State) (g : Grid) (k : KernelInfo), s.clocksRun = true → s.admittedCount < 128 → s.grid? g.key = some g →
    g.tags = [] → s.eligibleHead g = true → g.prio < 8 →
    (∀ h ∈ s.grids, h ≠ g → s.eligibleHead h = true →
      (h.prio < g.prio ∨ h.prio = g.prio ∧ g.age < h.age) ∧ h.age < 2 ^ 64) → g.age < 2 ^ 64 →
    (g.launch.badLaunch = false → s.readKernel g.launch.job g.replies g.launch = .good k →
      ∃ t, exec .launchAdmit s = .next t ∧
        t = { s.updGrid g.key fun g =>
                { g with
                  state := .active
                  tags := []
                  age := s.stamp
                  pc0 := BitVec.ofNat 64 k.pc0
                  nres := k.nres
                  spoff := k.spoff
                  nsafe := k.nsafe } with
          mgmt := { s.mgmt with admitted := true }
          stamp := s.stamp + 1 }) ∧
    (g.launch.badLaunch = true → s.ringOn = false → s.held = [] →
      ∃ t, exec .launchAdmit s = .next t ∧
        t = { s.updGrid g.key fun g => { g with state := .stopped } with
          mgmt := { s.mgmt with admitted := true }
          stops := s.stops ++ [Stop.mk s.stamp none (.grid g.key)]
          stamp := s.stamp + 1
          held := [{ notice s 0x01 9 g.launch.job g.recAddr 0 with
            kind := 0
            pc := BitVec.ofNat 64 g.launch.cont
            grid := g.gid
            info2 := BitVec.ofNat 32 (g.queue % 64 + g.port % 2 * 256) }] })) ∧
  (∀ (s : State) (g : Grid) (blk core : Nat) (ps : List Alloc), s.grid? g.key = some g → core < 128 →
    s.mayStart g blk = true → s.fit core g.launch = some ps → g.launch.teamed = false → g.launch.det = false →
    g.fork = none → g.parent = none → s.outranked g blk = false →
    ∃ t b, exec (.blockDispatch g.key blk core) s = .next t ∧
      t = { s with blocks := s.blocks ++ [b], grids := t.grids, cores := t.cores, fabric := t.fabric, stamp := s.stamp + 1 } ∧
      FabricKeeps s t ∧
      t.grids = (s.updGrid g.key fun g =>
        { g with started := g.started ++ [blk], requeued := g.requeued.filter fun i => i ≠ blk }).grids ∧
      (∀ k, k ≠ core → t.core k = s.core k) ∧ (t.core core).wcb = (s.core core).wcb ∧
      b.grid = g.key ∧ b.index = blk ∧ b.core = core ∧ b.state = .running ∧ b.view = .root ∧
      b.regs = 16 * 2 ^ g.launch.rcode ∧ b.rows = g.launch.rows ∧ b.strands.length = ps.length ∧ b.handles = [] ∧
      b.absent = [] ∧ (b.mat.isSome ↔ g.launch.nmat ≠ 0) ∧ (∀ m, b.mat = some m → m.tiles = [] ∧ m.bank = []) ∧
      (∀ o, cellsGet 0 o b.scratch = 0) ∧
      ∀ i, i < ps.length →
        (b.strand i).role = (if i < g.launch.ncopy then .copy else if i < g.launch.ncopy + g.launch.nmat then .matrix
          else .general) ∧
        (∀ l r, (b.strand i).reg l r = ⟨0, true, false, false⟩) ∧
        ∀ l, l < 8 * 2 ^ g.launch.wcode → (b.strand i).lane l =
          if i * (8 * 2 ^ g.launch.wcode) + l < g.launch.threads
          then { Lane.never with status := .live, pc := g.pc0 } else Lane.never) ∧
  (∀ (s : State) (b : Block) (g : Grid), s.block? b.key = some b → s.grid? b.grid = some g → s.clocksRun = true →
    b.state = .running → b.stops = [] → (∀ st ∈ b.strands, ∀ ln ∈ st.lanes, ln.status ≠ .live) →
    (∀ h ∈ b.handles, h.done = true) → (∀ f ∈ s.forks, ∀ o, f.owner = some o → o.1 ≠ b.key) → g.fork = none →
    b.view = .root → s.partner? b = none → s.stops = [] → (s.job g.launch.job).halting = none → s.padPoison = [] →
    ∃ t, exec (.blockEnd b.key) s = .next t ∧
      t = { s.updGrid b.grid fun g =>
              { g with ended := if b.index ∈ g.ended then g.ended else g.ended ++ [b.index] } with
        blocks := s.blocks.filter fun x => x.key != b.key }) ∧
  (∀ (s : State) (g : Grid) (pa : Nat) (lf : Leaf), s.grid? g.key = some g → g.parent = none → g.fork = none →
    g.state = .active → s.clocksRun = true → g.aborted = false → g.ended.length = g.launch.nblk → PortsWhole s →
    (∀ c ∈ s.cores, c.wcb = [] ∧ ∀ e ∈ c.l1, ∀ x, e.2 = some x → x.dirty = false) → Quiet s →
    g.launch.done % 8 = 0 → s.placeJob noCore g.launch.job g.launch.done .write = .ok ⟨.phys pa, some lf⟩ →
    s.fabric.reqs = [] → s.hostReads = [] → (s.host (1 - g.port)).dirty = false → g.port < 2 →
    (s.host g.port).gone = false → (s.host g.port).perst = false →
    let n := (s.host g.port).pubval + 1
    ∃ t, exec (.launchRetire g.key) s = .next t ∧
      memBytes t.mem pa 8 = leBytes 8 g.launch.lid.toNat ∧
      (∀ a, a < pa ∨ pa + 8 ≤ a → memGet t.mem a = memGet s.mem a) ∧
      t = { s.updHost g.port fun h => { h with pubval := n } with
        mem := t.mem
        migrations := t.migrations
        grids := s.grids.filter fun x => x.key != g.key
        blocks := s.blocks.filter fun b => b.grid != g.key
        hostOut := s.hostOut ++ [.write g.port (s.host g.port).pubadr (leBytes 8 n.toNat) false] ++
          if (s.host g.port).pubirq then [.msix g.port (s.host g.port).pubvec] else [] })


namespace Sys2Proof.Spec

/-- A flit that port `f.port` accepts: no error, a tag that verifies under a key that the port holds, and the next number of
its channel (R232, R459). -/
def InOrder (s : State) (f : Flit) : Prop :=
  s.clocksRun = true ∧ f.port < 24 ∧ f.port < s.fabric.ports.length ∧ f.vc < 4 ∧ f.vc < (s.port f.port).vcs.length ∧
  (s.port f.port).trained = true ∧ (s.port f.port).down = false ∧ f.verdict = .ok ∧
  (s.port f.port).authentic f = true ∧
  f.seq = ((s.port f.port).vcs.getD f.vc Channel.reset).rxNext

def channel (s : State) (p vc : Nat) : Channel := (s.port p).vcs.getD vc Channel.reset

/-- Of the ports, one channel of one port has changed. -/
def ChannelBecomes (s t : State) (p vc : Nat) (c : Channel) : Prop :=
  t.fabric.ports = s.fabric.ports.modify p fun q => { q with vcs := q.vcs.set vc c }

/-- The channel of a flit that was delivered in its place, its buffer free again (R219, R224, R459). -/
def delivered (s : State) (f : Flit) : Channel :=
  let c := channel s f.port f.vc
  { c with rxNext := c.rxNext + 1, nak := false, freed := c.freed + 1 }

end Sys2Proof.Spec

/-- R52 to R54, R72 to R80, R89, R407, R468, R475 to R477, Tables 3-6, 4-5 and 4-6: victims, the saving of a block and its
return, compaction, and the steps of a squall. -/
def Obligations.SavingAndResuming : Prop :=
  (∀ (s : State) (g : Grid) (i : Nat) (vs : List Block), s.grid? g.key = some g → s.nextBlock g = some i →
    s.fitsEver g.launch = false → s.victimsPending = false → g.parent = none →
    s.takeVictims g.launch [] (s.victimOrder g.prio) = some vs →
    ∃ t, exec (.preemptForPriority g.key) s = .next t ∧
      t = { s with blocks := s.blocks.map fun b => if b.key ∈ vs.map Block.key then b.stopFor .victim else b } ∧
      (s.without vs).fitsEver g.launch = true ∧
      ∀ v ∈ vs, v ∈ s.blocks ∧ ∃ h, s.grid? v.grid = some h ∧ h.prio < g.prio) ∧
  (∀ (s : State) (b : Block) (g : Grid) (why : StopWhy) (base size : Nat), s.block? b.key = some b →
    b.state = .stopping why → s.grid? b.grid = some g → g.launch.teamed = false → s.blockStopped b = true →
    s.clocksRun = true → g.tags = [] → s.entriesAway b g why.atOnce = [] → Clean s b.core →
    s.saveArea g.launch.job = some (base, size) → (s.job g.launch.job).halting = none → s.stops = [] →
    let job := g.launch.job
    let used := Max.max 64 (s.job job).used
    let bs := b.frame g (b.strands.map fun st => s.liveRegs b g st why.atOnce)
    let written := s.pokeJob job (base + used) bs
    (b.index < 2 ^ 32 → bs.length < 2 ^ 32 → b.strands.length < 2 ^ 16 → b.rows < 2 ^ 16 → b.handles.length < 2 ^ 16 →
      leNat (bs.take 8) = g.launch.lid.toNat ∧ leNat ((bs.drop 8).take 4) = b.index ∧
      leNat ((bs.drop 12).take 4) = bs.length ∧ leNat ((bs.drop 16).take 2) = b.strands.length ∧
      leNat ((bs.drop 18).take 2) = b.rows ∧ leNat ((bs.drop 20).take 2) = b.handles.length) ∧
    (used + bs.length ≤ size → written.saveArea job = some (base, size) →
      ∃ t c, exec (.blockSave b.key) s = .next t ∧
        t = { s with blocks := t.blocks, jobs := t.jobs, mem := t.mem } ∧
        t.mem = (written.pokeJob job base (t.job job).header).mem ∧
        (t.job job).nframe = (s.job job).nframe + 1 ∧ (t.job job).used = used + bs.length ∧
        (t.job job).frames = (s.job job).frames ++ [(used, bs.length)] ∧
        (∀ k, k ≠ b.key → t.block? k = s.block? k) ∧ (∀ j, j ≠ job → t.job j = s.job j) ∧
        t.block? b.key = some c ∧ c.state = .saved why used ∧ c.grid = b.grid ∧ c.index = b.index ∧
        ∀ i l, ((c.strand i).lane l).pc = ((b.strand i).lane l).pc ∧
          ((c.strand i).lane l).status = ((b.strand i).lane l).status) ∧
    (size < used + bs.length → s.ringOn = false → s.held = [] →
      ∃ t, exec (.blockSave b.key) s = .next t ∧
        t = { s.updBlock b.key fun c => { c with state := .overflow why } with
          stamp := s.stamp + 1
          stops := [Stop.mk s.stamp none (.overflow b.key)]
          held := [{ notice s 0x1B 0 job (base + used) bs.length with
            die := b.core / 32
            grid := g.gid
            blk := BitVec.ofNat 32 b.index
            core := b.core
            child := BitVec.ofNat 32 (s.childOf b) }] })) ∧
  (∀ (s : State) (b : Block) (g : Grid) (why : StopWhy) (off core : Nat), s.block? b.key = some b →
    s.grid? b.grid = some g → core < 128 → b.state = .saved why off → s.resumable b = true → g.launch.teamed = false →
    (∀ x ∈ s.blocks, x.grid = b.grid → x.index < b.index → s.resumable x = false) → s.outranked g b.index = false →
    s.resumeFits b g.launch core = true → b.strands ≠ [] → b.regs ≤ 256 →
    let word (o n : Nat) : Nat := s.frameNat g.launch.job (off + o) n
    let w := (b.strand 0).width
    let saved := (List.range 256).filter fun r => (word 64 64).testBit (256 + r)
    word 64 64 / 2 ^ 64 % 2 ^ 9 = saved.length →
    ∃ t c, exec (.blockResume b.key core) s = .next t ∧
      t = { s with blocks := t.blocks, jobs := t.jobs, mem := t.mem, cores := t.cores, free := t.free, fabric := t.fabric } ∧
      FabricKeeps s t ∧ (∀ k, k ≠ b.key → t.block? k = s.block? k) ∧ (∀ k, k ≠ core → t.core k = s.core k) ∧
      t.block? b.key = some c ∧ c.state = .running ∧ c.core = core ∧ c.grid = b.grid ∧ c.index = b.index ∧
      c.regs = b.regs ∧ c.absent = [] ∧
      (∀ l, l < w →
        ((c.strand 0).lane l).pc = BitVec.ofNat 64 (word (128 + 16 * l) 8) ∧
        (((c.strand 0).lane l).status = .live ↔ l < g.launch.threads ∧ 2 ≤ word (136 + 16 * l) 8 % 4) ∧
        ((c.strand 0).lane l).fstat = BitVec.ofNat 5 (word (136 + 16 * l) 8 / 4)) ∧
      ∀ r ∈ saved, ∀ l, l < w →
        (c.strand 0).word l r = BitVec.ofNat 32 (word (128 + 16 * w + saved.idxOf r * (4 * w + 24) + 4 * l) 4)) ∧
  (∀ (s : State) (g : Grid) (core : Nat), core < 128 → s.stuckGrid (fun g => s.fitsOnceCompacted core g.launch) = some g →
    s.fit core g.launch = none →
    let still (b : Block) : Block := { b with strands := b.strands.map fun st => { st with partition := 0, offset := 0 } }
    ∃ t, exec (.registerCompaction core) s = .next t ∧ t = { s with blocks := t.blocks } ∧
      t.blocks.map still = s.blocks.map still ∧
      ((s.blocks.map Block.key).Nodup → g.launch.teamed = false → (t.fit core g.launch).isSome = true)) ∧
  (∀ (s : State) (job : Nat), s.clocksRun = true → (s.job job).out = false → (s.job job).resuming = false →
    ((s.job job).switching = false →
      ∃ t, exec (.squallSwitchOut job) s = .next t ∧ t = { s with blocks := t.blocks, jobs := t.jobs, mem := t.mem } ∧
        t.blocks = (s.blocks.map fun b => if s.jobOf b = job then b.stopFor .squall else b) ∧
        (t.job job).switching = true ∧ (t.job job).marked = false ∧ (t.job job).loss = false ∧
        ∀ j, j ≠ job → t.job j = s.job j) ∧
    ((s.job job).switching = true → (s.job job).marked = true → (∀ p ∈ s.fabric.ports, p.clean job = true) →
      ∃ t, exec (.squallSwitchOut job) s = .next t ∧ (t.job job).out = true ∧ (t.job job).switching = false ∧
        (∀ p ∈ t.fabric.ports, ∀ c ∈ p.vcs, ∀ e ∈ c.retry, e.1.job = job → isPacket e.1 = false) ∧
        ∀ f ∈ t.fabric.relay ++ t.fabric.stuck, f.job ≠ job)) ∧
  (∀ (s : State) (job : Nat), s.clocksRun = true → (s.job job).out = true →
    ∃ t, exec (.squallResume job) s = .next t ∧
      t = { s with jobs := t.jobs, mem := t.mem, fabric := t.fabric } ∧
      (t.job job).out = false ∧ (t.job job).resuming = true ∧ ∀ j, j ≠ job → t.job j = s.job j) ∧
  (∀ (s : State) (f : Flit) (h : Word), f.typ = .squall → f.payload = .squall h → InOrder s f →
    ∃ t, exec (.squallMarker f) s = .next t ∧
      t = { s with fabric := { s.fabric with ports := t.fabric.ports } } ∧
      ChannelBecomes s t f.port f.vc { delivered s f with
        squalls := ((channel s f.port f.vc).squalls.filter fun m => m.1 != f.job) ++ [(f.job, h)] }) ∧
  (∀ (s : State) (f : Flit), isPacket f = true → InOrder s f → s.ringOn = false → s.held = [] →
    ((s.job f.job).out = true ∧ s.roomForPacket f.job = true ∨
      (s.job f.job).out = false ∧ f.job ∈ (channel s f.port f.vc).squalls.map Prod.fst) →
    let n := if (s.job f.job).out then 1 else 0
    ∃ t, exec (.latePacket f) s = .next t ∧
      t = { s with fabric := { s.fabric with ports := t.fabric.ports }, jobs := t.jobs, mem := t.mem, held := t.held,
                   stops := t.stops, blocks := t.blocks, stamp := s.stamp + 1 } ∧
      ChannelBecomes s t f.port f.vc (delivered s f) ∧
      t.held = [notice s 0x21 0 f.job 0 0] ∧ (t.job f.job).late = (s.job f.job).late ++ [f] ∧
      (t.job f.job).npkt = (s.job f.job).npkt + n ∧ (t.job f.job).used = (s.job f.job).used + 256 * n)


namespace Sys2Proof.Spec

/-- `x` is the next of `xs` above `p`, or the lowest where none is higher (R35). -/
def IsNext (p x : Nat) (xs : List Nat) : Prop :=
  x ∈ xs ∧ if p < x then ∀ y ∈ xs, p < y → x ≤ y else ∀ y ∈ xs, y ≤ p ∧ x ≤ y

/-- The choice that a timer counts: where its last issue went, else where the strand would issue (log 61). -/
def IsCurrent (st : Strand) (f : Fair) (stands : Option Nat) (p : Nat) : Prop :=
  if f.last = [] then stands = some p else (∃ l ∈ f.last, st.pc l = p) ∧ ∀ l ∈ f.last, p ≤ st.pc l

/-- An invalidation on a die (R119): the matching translations leave its TLBs, the buffered stores of the jobs `jobs` are
sent, and BUSY is set. -/
def Invalidates (i : Instr) (die job ext : Nat) (match' : State → TlbEntry → Prop) (jobs : Nat → Prop) : Prop :=
  ∀ s : State, s.clocksRun = true → die < s.dies.length → (s.die die).tlbiBusy = false →
    ∃ t, exec i s = .next t ∧ t = { s with cores := t.cores, dies := t.dies, fabric := t.fabric } ∧
      t.cores.length = s.cores.length ∧
      (∀ k, k < s.cores.length → t.core k = { s.core k with tlb := (t.core k).tlb, wcb := (t.core k).wcb } ∧
        (k / 32 ≠ die → t.core k = s.core k) ∧
        (k / 32 = die → (∀ e, e ∈ (t.core k).tlb ↔ e ∈ (s.core k).tlb ∧ ¬match' s e) ∧
          (∀ e ∈ (t.core k).wcb, jobs e.job → e.sent ≠ none) ∧
          ((t.core k).wcb.map fun e => { e with sent := none }) = (s.core k).wcb.map fun e => { e with sent := none })) ∧
      (∀ e, e ∈ (t.die die).l2tlb ↔ e ∈ (s.die die).l2tlb ∧ ¬match' s e) ∧
      t.die die = { s.die die with
        l2tlb := (t.die die).l2tlb
        credit := (t.die die).credit
        spent := (t.die die).spent
        tlbiWait := (t.die die).tlbiWait
        tlbiBusy := true
        tlbiCmd := BitVec.ofNat 32 (job % 4096 + ext * 4096) } ∧
      ∀ d, d ≠ die → t.die d = s.die d

/-- No two blocks have one key. -/
def Distinct (s : State) : Prop := (s.blocks.map fun b => b.key).Nodup

/-- The page of TLBIVA. -/
def ofPage (die job : Nat) (s : State) (e : TlbEntry) : Prop :=
  e.job = job ∧ e.leaf.base ≤ (s.die die).tlbiva.toNat ∧ (s.die die).tlbiva.toNat < e.leaf.base + e.leaf.bytes

end Sys2Proof.Spec

/-- R35, R38, R43 to R46, R67, R70, R71, R108, R118 to R122, R161, R163, R422: timers, promotion, subjunctive runs, budgets,
write-back, invalidation and migration. -/
def Obligations.TimersAndTranslations : Prop :=
  (∀ (s : State) (b : Block) (i p : Nat), Distinct s → s.block? b.key = some b → i < b.strands.length →
    let st := b.strand i
    let pend := s.pending b i
    64 ≤ st.fair.count → IsCurrent st st.fair ((st.gangOf pend).map Prod.fst) p →
    let others := ((st.issuePcs pend).filter fun q => q.2.1 != p)
    others ≠ [] →
    ∃ t f x, exec (.fairnessTimerExpiry b.key i none) s = .next t ∧
      t = s.updStrand b.key i (fun st => { st with fair := f }) ∧ f.count = 0 ∧ f.forced ≠ [] ∧
      IsNext p x (others.map fun q => q.2.1) ∧ ∀ l ∈ f.forced, st.pc l = x ∧ l ∈ pend) ∧
  (∀ (s : State) (b : Block) (i q p : Nat), Distinct s → s.block? b.key = some b → i < b.strands.length →
    let st := b.strand i
    let cands := (s.pending b i).filter fun l => l / 4 == q
    q < (st.width + 3) / 4 → 64 ≤ (st.quad q).count →
    IsCurrent st (st.quad q) ((st.choose (st.quad q) cands).map Prod.fst) p →
    let others := cands.filter fun l => st.pc l != p
    others ≠ [] →
    ∃ t f x, exec (.fairnessTimerExpiry b.key i (some q)) s = .next t ∧
      t = s.updStrand b.key i (fun st => st.updQuad q fun _ => f) ∧ f.count = 0 ∧ f.forced ≠ [] ∧
      IsNext p x (others.map st.pc) ∧ ∀ l ∈ f.forced, st.pc l = x ∧ l ∈ others) ∧
  (∀ (s : State) (b : Block) (i p : Nat), Distinct s → s.block? b.key = some b → i < b.strands.length → s.mayIssue b = true →
    b.haltsNow = false → p < 2 ^ 64 →
    let st := b.strand i
    let spent (l q : Nat) : Prop := (st.lane l).status = .live ∧ st.pc l = q ∧ ∃ c, (st.lane l).park = .rally c ∧ c + 256 ≤ s.coreClock b.core
    (∃ l, l < st.lanes.length ∧ spent l p) → (∀ l q, l < st.lanes.length → spent l q → p ≤ q) →
    ∃ t d, exec (.rallyTimeout b.key i) s = .next t ∧ t = s.updStrand b.key i (fun _ => d) ∧
      d = { st with lanes := d.lanes } ∧ d.lanes.length = st.lanes.length ∧
      ∀ l, l < st.lanes.length →
        let here := (st.lane l).status = .live ∧ st.pc l = p ∧ ∃ c, (st.lane l).park = .rally c
        (here → d.lane l = (st.lane l).retire (BitVec.ofNat 64 p + 4)) ∧ (¬here → d.lane l = st.lane l)) ∧
  (∀ (s done : State) (b c e : Block) (i : Nat) (r : SubjRun) (st : Strand) (pc : Nat) (ls : List Nat),
    s.block? b.key = some b → i < b.strands.length → (b.strand i).run = some r → s.mayIssue b = true →
    let clean := s.updStrand b.key i Strand.cancelRun
    clean.block? b.key = some c → clean.gang c i = some (st, pc, ls) →
    (pc ≠ r.branch.toNat → exec (.predicateResolve b.key i) s = .next clean) ∧
    (pc = r.branch.toNat →
      execPredicted r.code { clean.takeSlot c i st true with cur := { r.unit with lanes := ls } } = .next done →
      Distinct done → done.block? b.key = some e → i < e.strands.length → r.lanes.Nodup → (∀ l ∈ ls, l < (e.strand i).lanes.length) →
      ∃ t d, exec (.predicateResolve b.key i) s = .next t ∧ t = done.updStrand b.key i (fun _ => d) ∧
        let was := e.strand i
        let onPath (l : Nat) : Prop :=
          l ∈ ls ∧ (was.lane l).status = .live ∧ (was.lane l).park = .none ∧ (was.lane l).pc = r.start
        let right (l : Nat) : Prop := l ∈ r.lanes ∧ onPath l
        let again (l : Nat) : Prop := l ∉ r.lanes ∧ onPath l
        d = { was with lanes := d.lanes, regs := d.regs, run := none, replay := d.replay, fair := d.fair, quads := d.quads } ∧
        (∀ l, right l → d.lane l = { was.lane l with
          pc := r.pc
          count := (was.lane l).count + r.issued
          fstat := (was.lane l).fstat ||| ((b.strand i).lane l).fstat }) ∧
        (∀ l, ¬right l → d.lane l = was.lane l) ∧
        (∀ l q, q < 256 → d.reg l q =
          if right l ∧ regKey l q ∈ r.mood.map (fun e => e.key) then (b.strand i).reg l q else was.reg l q) ∧
        ((∃ l, again l) → r.issued ≠ 0 → ∃ x, d.replay = some (x, r.pc) ∧ ∀ l, l ∈ x ↔ again l) ∧
        ((∀ l, ¬again l) ∨ r.issued = 0 → d.replay = was.replay))) ∧
  (∀ (s : State) (b : Block) (i : Nat), s.block? b.key = some b → s.mayIssue b = true → 256 ≤ (b.strand i).waited →
    (b.strand i).promoted = false →
    ∃ t, exec (.candidatePromotion b.key i) s = .next t ∧
      t = s.updStrand b.key i fun st => { st with promoted := true }) ∧
  (∀ (s : State) (die : Nat), s.clocksRun = true → die < s.dies.length →
    (s.die die).clock.toNat / 2048 ≠ (s.die die).period →
    ∃ t, exec (.budgetPeriod die) s = .next t ∧
      t = s.updDie die fun d =>
        { d with
          budget := d.budgetNext
          held := 0
          period := d.clock.toNat / 2048
          credit := d.budgetNext.map fun b => if b.1 = 0 then 0 else 64 * Max.max 8 b.1.toNat }) ∧
  (∀ (s : State) (b : Block), s.issuing b → Block.issues b →
    let st := b.strand s.cur.strand
    let spent := s.cur.lanes.filter fun l =>
      (st.lane l).status == .live && (st.lane l).pc == s.cur.pc && decide (16384 ≤ (st.lane l).count)
    spent ≠ [] →
    ∃ t, exec .safePointOverdue s = .next t ∧ Excepted s t b (recordOf s b 0x07 0 0 16384 0 spent)) ∧
  (∀ (s : State) (b : Block) (i : Nat), Distinct s → s.block? b.key = some b → i < b.strands.length →
    let reached (p : Park) : Prop := match p with
      | .ticket k goal => goal ≤ (s.streamOf b k).frontier
      | .append k => (s.streamOf b k).frontier = b.index
      | _ => False
    ∃ t d, exec (.orderedRequestRelease b.key i) s = .next t ∧ t = s.updStrand b.key i (fun _ => d) ∧
      d = { b.strand i with lanes := d.lanes } ∧ d.lanes.length = (b.strand i).lanes.length ∧
      ∀ l, (reached ((b.strand i).lane l).park → d.lane l = { (b.strand i).lane l with park := .none }) ∧
        (¬reached ((b.strand i).lane l).park → d.lane l = (b.strand i).lane l)) ∧
  (∀ (s : State) (core line : Nat), s.clocksRun = true → core < s.cores.length → Quiet s → line * 128 < 2 ^ 52 →
    cellsWf none (s.core core).l1 = true →
    (∃ x ∈ (s.core core).lines, x.line = line ∧ ∃ c, x.since = some c ∧ c + 2048 ≤ s.coreClock core) →
    let within (x : Nat) : Prop := line * 128 ≤ x ∧ x < line * 128 + 128
    ∃ t, exec (.l1DirtyWriteback core line) s = .next t ∧ t = { s with mem := t.mem, cores := t.cores, dies := t.dies, migrations := t.migrations } ∧
      (∀ k, k ≠ core → t.core k = s.core k) ∧
      t.core core = { s.core core with l1 := (t.core core).l1, lines := (t.core core).lines } ∧
      (∀ x, within x → memGet t.mem x = current s core x ∧ (t.core core).l1At x = cleaned ((s.core core).l1At x)) ∧
      ∀ x, ¬within x → memGet t.mem x = memGet s.mem x ∧ (t.core core).l1At x = (s.core core).l1At x) ∧
  (∀ die job : Nat, Invalidates (.tlbiPage die job) die job 1 (ofPage die job) (fun j => j = job) ∧
    Invalidates (.tlbiJob die job) die job 2 (fun _ e => e.job = job) (fun j => j = job) ∧
    Invalidates (.tlbiAll die) die 0 3 (fun _ _ => True) fun _ => True) ∧
  (∀ (s : State) (die : Nat),
    ∃ t, exec (.tlbiDone die) s = .next t ∧
      t = if (s.die die).tlbiWait = [] then s.updDie die fun d => { d with tlbiBusy := false } else s) ∧
  (∀ (s : State) (job va stack frame root entry : Nat) (lf : Leaf), s.walkJob job va = some lf →
    s.jobEntry job 8 8 = some root → walkEntry s.mem va 4 root = some entry → s.clocksRun = true → Quiet s →
    s.scopes = [] → Memory.wf s.mem = true → (∀ c ∈ s.cores, c.l1 = []) → (∀ d, (s.die d).credited 3 = true) →
    let n := lf.bytes
    let old := lf.addr
    let new := stack * 2 ^ 37 + frame * n
    n ≤ 2 ^ 21 → 0 < n → old % 128 = 0 → n % 128 = 0 → lf.home = s.mgmt.dev → isDram old = true →
    stack < 8 → new / 2 ^ 37 = stack → (new + n - 1) / 2 ^ 37 = stack →
    old / 2 ^ 37 ≠ stack → (old + n - 1) / 2 ^ 37 = old / 2 ^ 37 → isDram new = true →
    isDram (new + n - 1) = true → entry + 16 ≤ new ∨ new + n ≤ entry → entry + 16 ≤ old ∨ old + n ≤ entry →
    let go := exec (.migration job va stack frame) s
    (s.migrations = [] → lf.pin = false → (∀ c ∈ s.mem, c.1 < new ∨ new + n ≤ c.1) →
      ∃ t, go = .next t ∧ t = { s with mem := t.mem, cores := t.cores, dies := t.dies, migrations := t.migrations } ∧
        (∀ i, i < n → memGet t.mem (new + i) = memGet s.mem (old + i)) ∧
        (∀ a, a < new ∨ new + n ≤ a → memGet t.mem a = memGet s.mem a) ∧
        t.migrations = [⟨job, va, old, new, n, []⟩]) ∧
    (∀ m, s.migrations = [m] → m.job = job → m.va / n = va / n → (m.old, m.new, m.bytes) = (old, new, n) →
      (∀ l ∈ m.written, old ≤ l * 128 ∧ l * 128 + 128 ≤ old + n) →
      ∃ t, go = .next t ∧ t = { s with mem := t.mem, cores := t.cores, dies := t.dies, migrations := t.migrations } ∧
        (∀ i, i < n → memGet t.mem (new + i) =
          if (old + i) / 128 ∈ m.written then memGet s.mem (old + i) else memGet s.mem (new + i)) ∧
        (32 < m.written.length → t.migrations = [{ m with written := [] }] ∧
          ∀ a, a < new ∨ new + n ≤ a → memGet t.mem a = memGet s.mem a) ∧
        (m.written.length ≤ 32 → t.migrations = [] ∧ memNat t.mem (entry + 8) 8 = new ∧
          (∀ a, a < new ∨ new + n ≤ a → a < old ∨ old + n ≤ a → a < entry + 8 ∨ entry + 16 ≤ a →
            memGet t.mem a = memGet s.mem a) ∧
          (∀ i, (t.core i).tlb = (s.core i).tlb.filter fun e => !e.hits job va) ∧
          ∀ d, (t.die d).l2tlb = (s.die d).l2tlb.filter fun e => !e.hits job va)))


namespace Sys2Proof.Spec

/-- Port `p` exists, with four channels and two transmit slots, and its counter is short of the key switch (R219, R233). -/
def Sound (s : State) (p : Nat) : Prop :=
  p < s.fabric.ports.length ∧ (s.port p).vcs.length = 4 ∧ (s.port p).tx.length = 2 ∧ (s.port p).switchDue = false

/-- The flit `f` as port `p` sends it on channel `vc`: under the current slot, with the slot's next counter value, the
channel's next number and the slot's tag; a buffer release and an idle flit stand outside the sequence (R219, R220, R232). -/
def stamped (s : State) (p vc : Nat) (f : Flit) : Flit :=
  let q := s.port p
  let own := f.typ = .release ∨ f.typ = .idle
  let slot := q.tx.getD (if q.txcur then 1 else 0) KeySlot.zero
  let g : Flit := { f with
    port := p
    vc := if own then 0 else vc
    kslot := q.txcur
    seq := if own then 0 else (channel s p vc).txSeq
    counter := slot.ctr }
  { g with mac := slot.mac g }

/-- One flit has left, and the retry buffer keeps it until it is acknowledged (R460). -/
def Sends (s t : State) (p vc : Nat) (f : Flit) : Prop :=
  let g := stamped s p vc f
  let slot := if (s.port p).txcur then 1 else 0
  t.fabric.sent = s.fabric.sent ++ [g] ∧
  ((t.port p).tx.getD slot KeySlot.zero).ctr = g.counter + 1 ∧
  (f.typ ≠ .release → f.typ ≠ .idle →
    (channel t p vc).txSeq = (channel s p vc).txSeq + 1 ∧
    (channel t p vc).retry = (channel s p vc).retry ++ [(g, 1)])

/-- The channel of an arrived flit: its next number, and a buffer free again. -/
def Received (s t : State) (f : Flit) : Prop :=
  let c := channel s f.port f.vc
  let d := channel t f.port f.vc
  d.rxNext = c.rxNext + 1 ∧ d.nak = false ∧ d.freed = c.freed + 1

/-- The job's packets move: no squall of the job has begun here or at the peer (R77, R468). -/
def Moving (s : State) (f : Flit) : Prop :=
  (s.job f.job).out = false ∧ (s.job f.job).marked = false ∧ f.job ∉ (channel s f.port f.vc).squalls.map Prod.fst

/-- A packet of type `typ` for this module arrives in its place. -/
def Comes (s : State) (f : Flit) (typ : FlitType) : Prop :=
  f.typ = typ ∧ InOrder s f ∧ Moving s f ∧ f.dst = s.mgmt.dev

/-- A request of type `typ` in the root view arrives, where nothing makes it wait: no request waits here, no view is frozen,
and class 0 has credit (R71, R130). -/
def Asks (s : State) (f : Flit) (typ : FlitType) : Prop :=
  Comes s f typ ∧ f.view = none ∧ s.fabric.waiting = [] ∧ s.forks = [] ∧ Credited s

/-- The request reaches DRAM at `pa` through the job's domain table, which permits it. -/
def Finds (s : State) (f : Flit) (a : Nat) (need : List Perm) (pa : Nat) : Prop :=
  ∃ lf, s.domainPlace f .root a need = some ⟨.phys pa, lf⟩

/-- Nothing but the fabric's ports and its record of what it sent has changed. -/
def OnlyPorts (s t : State) : Prop :=
  t = { s with fabric := { s.fabric with ports := t.fabric.ports, sent := t.fabric.sent } }

/-- Request `f` is answered with `typ` and `payload`, by the route `p`, `v` to its source. -/
def Answered (s t : State) (f : Flit) (p v : Nat) (typ : FlitType) (payload : Payload) : Prop :=
  Received s t f ∧ Sends s t p 2 { f with
    typ := typ
    dst := f.src
    src := s.mgmt.dev
    via := v
    gen := s.fabric.cur
    verdict := .ok
    payload := payload }

/-- The one request in progress, `r`, is the one that `f` answers. -/
def Answers (s : State) (f : Flit) (r : RemoteReq) (typ : FlitType) : Prop :=
  s.fabric.reqs = [r] ∧ r.core = f.score ∧ r.flit.tag = f.tag ∧ r.phase = .flying ∧ r.flit.dst = f.src ∧ r.flit.typ = typ ∧
  ∀ g ∈ s.grids, g.passing = []

/-- The answer is over: the request is gone. -/
def Ends (s t : State) : Prop :=
  t.fabric = { s.fabric with ports := t.fabric.ports, reqs := [] }

/-- One lane of the block with key `k` has changed. -/
def LaneBecomes (s t : State) (k i l : Nat) (f : Lane → Lane) : Prop :=
  t.blocks = s.blocks.map fun b => if b.key = k then
    { b with strands := b.strands.modify i fun st => { st with lanes := st.lanes.modify l f } } else b

end Sys2Proof.Spec

/-- R219, R223, R225, R227 to R231, R459, R460, R467: requests served at their home, what answers bring, refusals and their
retries, and relaying. -/
def Obligations.FabricPackets : Prop :=
  (∀ (s : State) (f : Flit) (a n p v : Nat), Asks s f .readReq → f.payload = .readReq a n →
    s.chooseRoute f.src = some (p, v) → Sound s p →
    (∀ pa, Finds s f a [.read] pa →
      ∃ t, exec (.readRequest f) s = .next t ∧ OnlyPorts { s with dies := t.dies } t ∧
        Answered s t f p v .readResp (.readResp (memBytes s.mem pa n))) ∧
    (s.domainPlace f .root a [.read] = none →
      ∃ t, exec (.readRequest f) s = .next t ∧ OnlyPorts s t ∧ Answered s t f p v .notReady .notReady)) ∧
  (∀ (s : State) (f : Flit) (a p v : Nat) (mask : BitVec 128) (data : List Byte), Asks s f .write →
    f.payload = .write a mask data → data.length = 128 → s.chooseRoute f.src = some (p, v) → Sound s p → Quiet s →
    (∀ pa, Finds s f (a / 128 * 128) [.write] pa →
      ∃ t, exec (.remoteWrite f) s = .next t ∧
        OnlyPorts { s with mem := t.mem, dies := t.dies, migrations := t.migrations } t ∧
        Answered s t f p v .writeAck .writeAck ∧
        ∀ x, memGet t.mem x =
          if pa ≤ x ∧ x < pa + 128 ∧ mask.getLsbD (x - pa) then data.getD (x - pa) 0 else memGet s.mem x) ∧
    (s.domainPlace f .root (a / 128 * 128) [.write] = none →
      ∃ t, exec (.remoteWrite f) s = .next t ∧ OnlyPorts s t ∧ Answered s t f p v .notReady .notReady)) ∧
  (∀ (s : State) (f : Flit) (a fn pa p v : Nat) (y cmp : Word), Asks s f .atomic →
    f.payload = .atomic a fn y cmp → s.chooseRoute f.src = some (p, v) → Sound s p → s.poison = [] →
    (∀ b ∈ s.blocks, ∀ st ∈ b.strands, ∀ l ∈ st.lanes, l.resv = none) →
    Finds s f a [.read, .write] pa →
    let old := wordAt s.mem pa
    let mine : AwayResv := ⟨f.src, f.score, cmp.toNat, .phys pa⟩
    let done (t : State) (resv : List AwayResv) (x : Word) : Prop := exec (.remoteAtomic f) s = .next t ∧
      OnlyPorts { s with mem := t.mem, dies := t.dies, migrations := t.migrations, awayResv := resv } t ∧
      Answered s t f p v .atomicResp (.atomicResp x)
    (∀ g, fn < 11 → AtomFn.ofCode fn = some g → s.awayResv = [] →
      ∃ t, done t [] old ∧ t.mem = memPuts s.mem pa (leBytes 4 (BitVec.ofInt 32 (atomNew g old y cmp)).toNat)) ∧
    (fn = 11 → s.awayResv = [] → ∃ t, done t [mine] old ∧ t.mem = s.mem) ∧
    (fn = 12 → s.awayResv = [mine] → ∃ t, done t [] 1 ∧ t.mem = memPuts s.mem pa (leBytes 4 y.toNat)) ∧
    (fn = 12 → s.awayResv = [] → ∃ t, done t [] 0 ∧ t.mem = s.mem)) ∧
  (∀ (s : State) (f : Flit) (r : RemoteReq) (data : List Byte) (k i l d a : Nat), Comes s f .readResp →
    f.payload = .readResp data → Answers s f r .readReq → r.who = .lane k i l → r.loc = .remote d a →
    ∃ t, exec (.readResponse f) s = .next t ∧ Ends s t ∧ Received s t f ∧
      t = { s with fabric := t.fabric, blocks := t.blocks, cores := t.cores, dies := t.dies, mem := t.mem,
                   migrations := t.migrations, awayResv := t.awayResv } ∧
      (r.fills = false → t.cores = s.cores) ∧
      (r.fills = false ∨ (s.core r.core).lines.length < 2048 → (t.mem, t.awayResv) = (s.mem, s.awayResv) ∧
        LaneBecomes s t k i l fun ln => if ln.awaits r.tag
          then { ln with replies := ln.replies ++ [⟨.remote d a, data, false, false⟩] } else ln) ∧
      (∀ c, c ≠ r.core → t.core c = s.core c) ∧
      (r.fills = true → data.length = 128 → a % 128 = 0 → (s.core r.core).lines.length < 2048 → Listed s r.core →
        r.core < s.cores.length → ∀ x, (t.core r.core).l1At x =
          let lo := (d + 1) * 2 ^ 52 + a
          match (s.core r.core).l1At x with
          | some y => if lo ≤ x ∧ x < lo + 128 ∧ y.dirty = false then some ⟨data.getD (x - lo) 0, false⟩ else some y
          | none => if lo ≤ x ∧ x < lo + 128 then some ⟨data.getD (x - lo) 0, false⟩ else none)) ∧
  (∀ (s : State) (f : Flit) (r : RemoteReq) (d a : Nat), Comes s f .writeAck → Answers s f r .write → r.who = .core →
    r.loc = .remote d a → Listed s r.core → r.core < s.cores.length →
    ∃ t, exec (.writeAcknowledgement f) s = .next t ∧ Ends s t ∧ Received s t f ∧
      t = { s with fabric := t.fabric, cores := t.cores, dies := t.dies } ∧ (∀ c, c ≠ r.core → t.core c = s.core c) ∧
      t.core r.core = { s.core r.core with
        l1 := (t.core r.core).l1
        lines := (t.core r.core).lines
        wcb := (s.core r.core).wcb.filter fun e => e.sent != some r.tag } ∧
      ∀ x, (t.core r.core).l1At x =
        if x / 128 = ((d + 1) * 2 ^ 52 + a) / 128 then kept ((s.core r.core).l1At x) else (s.core r.core).l1At x) ∧
  (∀ (s : State) (f : Flit) (r : RemoteReq) (old : Word) (k i l : Nat), Comes s f .atomicResp →
    f.payload = .atomicResp old → Answers s f r .atomic → r.who = .lane k i l →
    ∃ t, exec (.atomicResponse f) s = .next t ∧ Ends s t ∧ Received s t f ∧
      t = { s with fabric := t.fabric, blocks := t.blocks, cores := t.cores, dies := t.dies } ∧
      (∀ c, c ≠ r.core → t.core c = s.core c) ∧
      LaneBecomes s t k i l fun ln => if ln.awaits r.tag
        then { ln with replies := ln.replies ++ [⟨r.loc, leBytes 4 old.toNat, false, true⟩] } else ln) ∧
  (∀ (s : State) (f : Flit) (r : RemoteReq), Comes s f .notReady → s.fabric.reqs = [r] → r.core = f.score →
    r.flit.tag = f.tag → r.phase = .flying → r.flit.dst = f.src →
    (r.tries < s.fabric.rnrlim →
      ∃ t, exec (.receiverNotReady f) s = .next t ∧ Received s t f ∧
        t = { s with fabric := { s.fabric with
          ports := t.fabric.ports
          reqs := [{ r with phase := .backoff (s.coreClock r.core) }] } }) ∧
    (∀ (k i l : Nat) (b : Block), s.fabric.rnrlim ≤ r.tries → r.who = .lane k i l → r.flit.typ = .atomic →
      s.block? k = some b → ((b.strand i).lane l).awaits r.tag = true →
      ∃ t, exec (.receiverNotReady f) s = .next t ∧ Received s t f ∧
        t = { s with
          fabric := { s.fabric with ports := t.fabric.ports, reqs := [{ r with phase := .refused }] }
          blocks := t.blocks } ∧
        LaneBecomes s t k i l fun ln =>
          { ln with
            park := .none
            due := ln.due ++ [{ cls := 0x20, sub := 0, addr := BitVec.ofNat 64 r.va, info := BitVec.ofNat 32 f.src,
                                info2 := BitVec.ofNat 32 r.tries, handle := none, words := [], now := true }] })) ∧
  (∀ (s : State) (r : RemoteReq) (since : Nat), s.clocksRun = true → s.fabric.reqs = [r] → r.phase = .backoff since →
    since + 2048 * 2 ^ r.tries ≤ s.coreClock r.core → (s.job r.flit.job).out = false → r.flit.tag < 4096 →
    let p := r.flit.port
    (s.port p).down = false → (s.port p).canSend = true → Sound s p →
    let f := { r.flit with gen := s.fabric.cur }
    ∃ t, exec (.rnrRetry r.tag) s = .next t ∧ Sends s t p 0 f ∧
      t = { s with
        dies := t.dies
        fabric := { s.fabric with
          ports := t.fabric.ports
          sent := t.fabric.sent
          reqs := [{ r with tries := r.tries + 1, phase := .flying, flit := f, reported := false }] } }) ∧
  (∀ (s : State) (f : Flit) (p : Nat), isPacket f = true → InOrder s f → Moving s f → f.via = s.mgmt.dev →
    f.dst ≠ s.mgmt.dev → s.fabric.relay = [] → s.shallowest (s.directPorts f.gen f.dst) = some p → Sound s p →
    (s.die (p / 6)).credited 5 = true →
    ∃ t, exec (.relayForward f) s = .next t ∧ OnlyPorts { s with dies := t.dies } t ∧ Received s t f ∧
      Sends s t p (if f.vc = 0 then 1 else 3) f)


namespace Sys2Proof.Spec

/-- A flit outside the link sequence that passes its port's checks (R220, R459). -/
def Passes (s : State) (f : Flit) : Prop :=
  s.clocksRun = true ∧ f.port < 24 ∧ f.port < s.fabric.ports.length ∧ f.vc < 4 ∧ (s.port f.port).trained = true ∧
  (s.port f.port).down = false ∧ f.verdict = .ok ∧ (s.port f.port).authentic f = true

/-- A link-local flit of port `p` to its peer (R218). -/
def localFlit (s : State) (p vc : Nat) (typ : FlitType) (payload : Payload) : Flit :=
  { port := p, vc := vc, typ := typ, dst := (s.port p).peer, src := s.mgmt.dev, via := (s.port p).peer,
    gen := s.fabric.cur, kslot := false, job := 0, seq := 0, score := 0, tag := 0, counter := 0, verdict := .ok,
    payload := payload }

/-- The flits of a channel that the peer, which has `ack`, has not received (R460). -/
def unacked (c : Channel) (ack : Word) : List (Flit × Nat) :=
  c.retry.filter fun e => decide (2 ^ 31 ≤ (ack - e.1.seq).toNat)

/-- Nothing waits for a route or a port, and no generation drains. -/
def FabricIdle (s : State) : Prop := s.fabric.reqs = [] ∧ s.fabric.stuck = [] ∧ s.fabric.draining = false

/-- Nothing has changed but the ports of the fabric. -/
def PortBecomes (s t : State) (p : Nat) (f : FabPort → FabPort) : Prop :=
  t = { s with fabric := { s.fabric with ports := s.fabric.ports.modify p f } }

/-- A counter that stops at its greatest value (R461). -/
def more {n : Nat} (x : BitVec n) : BitVec n := if x = BitVec.allOnes n then x else x + 1

/-- The clock of the die of a port (R25). -/
def portClock (s : State) (p : Nat) : Nat := (s.die (p / 6)).clock.toNat

/-- Port `p` after an error that `f` counts: the counts of a window of 2^34 cycles begin at 0, and the channel asks for its
next flit again (R459, R461). -/
def Counted (s t : State) (p vc : Nat) (f : FabPort → FabPort) : Prop :=
  PortBecomes s t p fun q =>
    let now := portClock s p / 2 ^ 34
    let q := if q.authEpoch = now then q else { q with linkWindow := 0, authWindow := 0, authEpoch := now }
    f { q with vcs := q.vcs.set vc { channel s p vc with nak := true } }

/-- The current transmit slot of a port. -/
def slotOf (q : FabPort) : KeySlot := q.tx.getD (if q.txcur then 1 else 0) KeySlot.zero

/-- Port `p` has lost its training in service, and retrains (R464). -/
def Retrains (s t : State) (p : Nat) : Prop :=
  (t.port p).trained = false ∧ (t.port p).retraining = true ∧ (t.port p).retrain = more (s.port p).retrain

end Sys2Proof.Spec

/-- R216, R217, R220, R224, R226, R231 to R233, R459 to R465, Table 23-1: the flits of a link, its timers, its keys, and the
ports' states. -/
def Obligations.Links : Prop :=
  (∀ (s : State) (f : Flit) (freed ack : List Word) (depth : List Byte) (nak : BitVec 4), f.typ = .release →
    f.payload = .release freed depth ack nak → Passes s f → ack.length = 4 → (s.port f.port).vcs.length = 4 →
    let left (v : Nat) : List (Flit × Nat) := unacked (channel s f.port v) (ack.getD v 0)
    let resent (v : Nat) : List Flit := (left v).map Prod.fst
    (nak = 0 →
      ∃ t, exec (.bufferRelease f) s = .next t ∧ PortBecomes { s with stamp := s.stamp + 1 } t f.port fun q =>
        { q with
          heard := s.stamp
          depth := depth.map fun d => d.toNat
          vcs := q.vcs.mapIdx fun v c => { c with retry := left v, quiet := portClock s f.port } }) ∧
    (∀ v, v < 4 → nak = BitVec.ofNat 4 (2 ^ v) →
      ∃ t, exec (.bufferRelease f) s = .next t ∧ OnlyPorts { s with stamp := s.stamp + 1 } t ∧
        ((s.port f.port).inService = false → t.fabric.sent = s.fabric.sent ∧ (channel t f.port v).retry = left v) ∧
        ((s.port f.port).inService = true → t.fabric.sent = s.fabric.sent ++ resent v ∧
          (channel t f.port v).retry = (left v).map (fun e => (e.1, e.2 + 1)) ∧
          ((∀ e ∈ left v, e.2 < 7) → (t.port f.port).trained = true) ∧
          ((∃ e ∈ left v, 7 ≤ e.2) → Retrains s t f.port)))) ∧
  (∀ (s : State) (f : Flit), f.typ = .keyMark → InOrder s f →
    ∃ t, exec (.keyMarker f) s = .next t ∧ t = { s with fabric := { s.fabric with ports := t.fabric.ports } } ∧
      ChannelBecomes s t f.port f.vc (delivered s f)) ∧
  (∀ (s : State) (f : Flit) (old : Bool), f.typ = .drain → f.payload = .drain old → InOrder s f →
    (s.fabric.draining = false →
      ∃ t, exec (.drainMarker f) s = .next t ∧ t = { s with fabric := { s.fabric with ports := t.fabric.ports } } ∧
        ChannelBecomes s t f.port f.vc { delivered s f with drained := some old }) ∧
    (s.fabric.draining = true → old = !s.fabric.cur → (∀ g ∈ s.fabric.relay, g.gen ≠ old) →
      (∀ p, p < s.fabric.ports.length → (s.port p).inService = true → (s.port p).counts = true →
        (s.port p).vcs.length = 4 ∧ ∀ v, v < 4 → (p ≠ f.port ∨ v ≠ f.vc) → (channel s p v).drained = some old) →
      ∃ t, exec (.drainMarker f) s = .next t ∧ t.fabric.draining = false ∧
        t.fabric.inuse = s.fabric.inuse &&& (if old then 1 else 2))) ∧
  (∀ (s : State) (f : Flit), f.typ = .idle → Passes s f → exec (.idleFlit f) s = .next s) ∧
  (∀ (s : State) (f : Flit) (a n : Nat), s.clocksRun = true → f.typ = .readReq → f.payload = .readReq a n → f.port < 24 →
    f.vc < 4 → f.port < s.fabric.ports.length → f.vc < (s.port f.port).vcs.length →
    (s.port f.port).trained = true → (s.port f.port).down = false →
    let c := channel s f.port f.vc
    let counted := if (s.port f.port).authEpoch = portClock s f.port / 2 ^ 34 then (s.port f.port).authWindow else 0
    (f.verdict = .linkError →
      ∃ t, exec (.readRequest f) s = .next t ∧
        Counted s t f.port f.vc fun q => { q with linkerr := more q.linkerr, linkWindow := q.linkWindow + 1 }) ∧
    (f.verdict = .ok → (s.port f.port).authentic f = false → (counted + 1) % 16 ≠ 0 →
      ∃ t, exec (.readRequest f) s = .next t ∧
        Counted s t f.port f.vc fun q => { q with authfail := more q.authfail, authWindow := q.authWindow + 1 }) ∧
    (f.verdict = .ok → (s.port f.port).authentic f = false → (counted + 1) % 16 = 0 → s.ringOn = false → s.held = [] →
      ∃ t, exec (.readRequest f) s = .next t ∧ t.held = [notice s 0x22 0 0xFFF 0 f.port] ∧
        Counted { s with held := t.held, stamp := s.stamp + 1 } t f.port f.vc fun q =>
          { q with authfail := more q.authfail, authWindow := q.authWindow + 1 }) ∧
    (f.verdict = .ok → (s.port f.port).authentic f = true →
      (1 ≤ (f.seq - c.rxNext).toNat ∧ (f.seq - c.rxNext).toNat < 2 ^ 31 →
        ∃ t, exec (.readRequest f) s = .next t ∧ PortBecomes s t f.port fun q =>
          { q with vcs := q.vcs.set f.vc { c with nak := true } }) ∧
      (2 ^ 31 ≤ (f.seq - c.rxNext).toNat → exec (.readRequest f) s = .next s))) ∧
  (∀ (s : State) (p : Nat), s.clocksRun = true → (s.port p).canSend = true → Sound s p →
    ∃ t depth nak, exec (.bufferReleaseTimer p) s = .next t ∧ OnlyPorts s t ∧
      Sends s t p 0 (localFlit s p 0 .release (.release ((s.port p).vcs.map fun c => c.freed) depth
        ((s.port p).vcs.map fun c => c.rxNext - 1) nak)) ∧
      depth.length = 16 ∧ (∀ v, v < 4 → nak.getLsbD v = (channel s p v).nak)) ∧
  (∀ (s : State) (p vc : Nat), s.clocksRun = true → p < s.fabric.ports.length → vc < (s.port p).vcs.length →
    (s.port p).sending = true → (channel s p vc).retry ≠ [] → (channel s p vc).quiet + 4096 ≤ portClock s p →
    ∃ t, exec (.linkRetryTimeout p vc) s = .next t ∧ OnlyPorts s t ∧
      t.fabric.sent = s.fabric.sent ++ (channel s p vc).retry.map Prod.fst ∧
      (channel t p vc).retry = (channel s p vc).retry.map (fun e => (e.1, e.2 + 1)) ∧
      ((∀ e ∈ (channel s p vc).retry, e.2 < 7) → (t.port p).trained = true) ∧
      ((∃ e ∈ (channel s p vc).retry, 7 ≤ e.2) → Retrains s t p)) ∧
  (∀ (s : State) (p peer : Nat), s.clocksRun = true → p < 24 → peer < 16 → (s.port p).trained = false →
    (s.port p).down = false → p < s.fabric.ports.length → FabricIdle s → (∀ c ∈ (s.port p).vcs, c.retry = []) →
    ((s.port p).insvc = false →
      ∃ t, exec (.linkTrained p peer) s = .next t ∧
        PortBecomes s t p fun q => { q with trained := true, retraining := false, peer := peer }) ∧
    ((s.port p).inService = true → (s.port p).counts = true → Sound s p →
      ∃ t g, exec (.linkTrained p peer) s = .next t ∧ OnlyPorts s t ∧ (t.port p).trained = true ∧
        (t.port p).retraining = false ∧ (t.port p).peer = peer ∧
        t.fabric.sent = s.fabric.sent ++ [g] ∧ g.typ = .release ∧ g.port = p ∧ g.dst = peer)) ∧
  (∀ (s : State) (p : Nat), (s.port p).trained = true →
    ∃ t, exec (.linkTrainingLost p) s = .next t ∧ PortBecomes s t p fun q =>
      { q with
        trained := false
        retraining := q.insvc
        retrain := if q.insvc then more q.retrain else q.retrain }) ∧
  (∀ (s : State) (p : Nat), s.clocksRun = true → p < 24 → (s.port p).retraining = true → FabricIdle s →
    p < s.fabric.ports.length →
    let gone (q : FabPort) : FabPort :=
      { q with down := true, retraining := false, replaced := false, vcs := q.vcs.map fun c => { c with retry := [] } }
    ((∀ c ∈ (s.port p).vcs, c.retry = []) → ∃ t, exec (.portDown p) s = .next t ∧ PortBecomes s t p gone) ∧
    (∀ (f : Flit) (n : Nat), isPacket f = true → ((s.port p).vcs.flatMap fun c => c.retry) = [(f, n)] →
      s.ringOn = false → s.held = [] →
      ∃ t, exec (.portDown p) s = .next t ∧ t.fabric = { s.fabric with ports := s.fabric.ports.modify p gone } ∧
        t.held = [notice s 0x23 1 f.job 0 p] ∧ (t.job f.job).stopped = true)) ∧
  (∀ (s : State) (r : RemoteReq) (d a : Nat), s.clocksRun = true → s.fabric.reqs = [r] → r.phase = .noRoute →
    r.reported = false → r.flit.tag < 4096 → r.since + 2 ^ 26 ≤ s.coreClock r.core →
    (s.job r.flit.job).out = false → r.loc = .remote d a → s.ringOn = false → s.held = [] →
    ∃ t, exec (.routeWaitTimeout r.tag) s = .next t ∧ t.held = [notice s 0x23 2 r.flit.job a r.flit.dst] ∧
      (t.job r.flit.job).stopped = true ∧ t.fabric = { s.fabric with reqs := [{ r with reported := true }] } ∧
      t.blocks = s.blocks.map fun b => if s.jobOf b = r.flit.job then b.stopFor .halt else b) ∧
  (∀ (s : State) (g : Bool), s.clocksRun = true →
    (g = s.fabric.cur → exec (.rtgenSwitch g) s = .next s) ∧
    (g ≠ s.fabric.cur →
      (∀ p, p < 24 → (s.port p).inService = true → (s.port p).counts = true → Sound s p ∧
        (slotOf (s.port p)).ctr.toNat + 4 < Min.min (2 ^ 48) (s.port p).kswitch.toNat) →
      (∃ p, p < 24 ∧ (s.port p).inService = true ∧ (s.port p).counts = true ∧ ∃ v, v < 4 ∧ (channel s p v).drained ≠ some s.fabric.cur) →
      ∃ t gs, exec (.rtgenSwitch g) s = .next t ∧
        t = { s with fabric := { s.fabric with
          ports := t.fabric.ports
          sent := s.fabric.sent ++ gs
          cur := g
          draining := true
          inuse := s.fabric.inuse ||| (if g then 2 else 1) } } ∧
        (∀ f ∈ gs, f.typ = .drain ∧ f.payload = .drain s.fabric.cur ∧ (s.port f.port).canSend = true) ∧
        ∀ p v, p < 24 → v < 4 → (s.port p).canSend = true → (gs.filter fun f => f.port == p && f.vc == v).length = 1)) ∧
  (∀ (s : State) (core line p v : Nat) (e : WcbEntry), s.clocksRun = true → core < s.cores.length → (s.core core).wcb = [e] → e.sent = none →
    ((e.dev + 1) * 2 ^ 52 + e.line) / 128 = line → e.since + s.fabric.lull ≤ s.coreClock core → s.fabric.reqs = [] → s.hostReads = [] →
    (s.job e.job).out = false → s.chooseRoute e.dev = some (p, v) → Sound s p →
    ∃ t g, exec (.wcbLullExpiry core line) s = .next t ∧
      t = { s with fabric := t.fabric, cores := t.cores, dies := t.dies } ∧
      t.fabric.sent = s.fabric.sent ++ [g] ∧ g.typ = .write ∧ g.port = p ∧ g.via = v ∧ g.dst = e.dev ∧ g.job = e.job ∧
      g.payload = .write e.line (BitVec.ofNat 128 (maskOf (e.bytes.map fun b => b.1)))
        ((List.range 128).map fun j => (cellsGet none j e.bytes).getD 0) ∧
      t.core core = { s.core core with wcb := [{ e with sent := some 0 }] } ∧
      t.fabric.reqs.map (fun r => (r.tag, r.phase)) = [(0, .flying)]) ∧
  (∀ (s : State) (p : Nat), s.clocksRun = true → p < 24 → p < s.fabric.ports.length → (s.port p).vcs.length = 4 →
    (s.port p).tx.length = 2 →
    let other := if (s.port p).txcur then 0 else 1
    ((s.port p).sending = true → (s.port p).txval.getLsbD other = true →
      ∃ t, exec (.keySwitchRequest p) s = .next t ∧ OnlyPorts s t ∧ (t.port p).txcur = !(s.port p).txcur ∧
        (t.port p).klimit = false ∧ Sends s t p 0 (localFlit s p 0 .keyMark .keyMark)) ∧
    ((s.port p).switchDue = true → (s.port p).sending = true → (s.port p).txval.getLsbD other = true →
      ∃ t, exec (.keySwitchCount p) s = .next t ∧ OnlyPorts s t ∧ (t.port p).txcur = !(s.port p).txcur ∧
        Sends s t p 0 (localFlit s p 0 .keyMark .keyMark)) ∧
    ((s.port p).switchDue = true → (s.port p).txval.getLsbD other = false → (s.port p).noSlotSeen = false →
      ∃ t, exec (.keySwitchCount p) s = .next t ∧
        Informs (s.updPort p fun q => { q with noSlotSeen := true }) t (notice s 0x22 1 0xFFF 0 p)) ∧
    (2 ^ 48 ≤ (slotOf (s.port p)).ctr.toNat →
      ∃ t, exec (.keyCounterLimit p) s = .next t ∧ PortBecomes s t p fun q => { q with klimit := true })) ∧
  (∀ (s : State) (p k : Nat), p < 24 → p < s.fabric.ports.length → k < 2 → FabricIdle s → (s.port p).klimit = false →
    let new (n : Nat) : KeySlot := (s.port p).staged.getD n KeySlot.zero
    ((s.port p).slotIdle k = true →
      ∃ t, exec (.keyLoad p k) s = .next t ∧ PortBecomes s t p fun q =>
        { q with tx := q.tx.set k (new k), txval := q.txval ||| BitVec.ofNat 2 (2 ^ k) }) ∧
    ((s.port p).slotIdle k = false → exec (.keyLoad p k) s = .next s) ∧
    (∃ t, exec (.keyLoad p (k + 2)) s = .next t ∧ PortBecomes s t p fun q =>
      { q with rx := q.rx.set k (new (k + 2)), rxval := q.rxval ||| BitVec.ofNat 2 (2 ^ k) }))


namespace Sys2Proof.Spec

/-- Port `p` takes an access of `n` bytes at offset `off` of its BAR2 (R234, R238, R471). -/
def Open (s : State) (p off n : Nat) : Prop :=
  s.portAnswers p = true ∧ s.mgmt.boot = 3 ∧ s.mgmt.frozen = false ∧ off + n ≤ 64 * 2 ^ 30

/-- The virtual address of an access through BAR2 (R246). -/
def apertureVa (s : State) (p off : Nat) : Nat := ((s.host p).apbase + off) % 2 ^ 64

/-- The ring is off and nothing is held, so that a record is held. -/
def Holds (s : State) : Prop := s.ringOn = false ∧ s.held = []

/-- A record that names a job is held, and every block of the job stops, as for a HALT (R409); `whole` says that its answer
takes every grid of the job (R472). -/
def StopsJob (s t : State) (job : Nat) (whole : Bool) (r : FaultRec) : Prop :=
  t.held = [r] ∧ (t.job job).stopped = true ∧ t.stops = s.stops ++ [Stop.mk r.id none (.job job whole)] ∧
  t.blocks = s.blocks.map fun b => if s.jobOf b = job then b.stopFor .halt else b

/-- Class 6 has credit on every die, so that no access of a host is held for its budget (R71). -/
def HostsCredited (s : State) : Prop := ∀ d, (s.die d).credited 6 = true

/-- Of the dies, one has changed: an event of one of its units is counted, and `f` is done (R449). -/
def Wears (s : State) (die kind unit : Nat) (count : Wear → Wear) (f : Die → Die) : State :=
  s.updDie die fun d => f (d.wearOut kind unit count)

/-- What the millisecond's check leaves of a budget of classes 1 to 6 that it lowers: less than before, but not 0, which
would be unlimited. By how much is a free value (log 30). -/
def Lowered (old new : BitVec 24 × Bool) : Prop :=
  new.2 = old.2 ∧ (old.1 = 1 → new.1 = 1) ∧ new.1 ≠ 0 ∧ (old.1 ≠ 1 → old.1 = 0 ∨ new.1 < old.1)

end Sys2Proof.Spec

/-- R234, R235, R244 to R246, R250, R254, R469, R470: what the hosts reach through BAR0 and BAR2, and the answers to the
module's own reads of the hosts. -/
def Obligations.HostAccesses : Prop :=
  (∀ (s : State) (p off n : Nat), Open s p off n →
    let va := apertureVa s p off
    let job := (s.host p).apjob
    (∀ bs, (s.host p).apen = true → HostsCredited s → s.jobRead job [] va n = .ok bs →
      ∃ t, exec (.bar2Read p off n) s = .next t ∧
        t = { s with hostOut := s.hostOut ++ [.completion p bs], dies := t.dies, stamp := s.stamp + 1 }) ∧
    ((s.host p).apen = false →
      ∃ t, exec (.bar2Read p off n) s = .next t ∧
        Informs { s with hostOut := s.hostOut ++ [.unsupported p] } t (notice s 0x31 3 0xFFF va p)) ∧
    (∀ f, (s.host p).apen = true → s.jobRead job [] va n = .flaw f → Holds s →
      ∃ t, exec (.bar2Read p off n) s = .next t ∧ t.hostOut = s.hostOut ++ [.unsupported p] ∧ t.mem = s.mem ∧
        StopsJob s t job false { notice s 0x31 3 job va p with id := s.stamp + 1 })) ∧
  (∀ (s : State) (p off : Nat) (bs : List Byte), Open s p off bs.length →
    let va := apertureVa s p off
    let job := (s.host p).apjob
    segmentsOf va bs.length = [(va, bs.length)] →
    (∀ pa lf, (s.host p).apen = true → s.placeJob noCore job va .write = .ok ⟨.phys pa, some lf⟩ → lf.view = false →
      Quiet s → s.posting p = false → HostsCredited s →
      ∃ t, exec (.bar2Write p off bs) s = .next t ∧
        t = { s with mem := t.mem, dies := t.dies, migrations := t.migrations } ∧
        ∀ x, memGet t.mem x = if pa ≤ x ∧ x < pa + bs.length then bs.getD (x - pa) 0 else memGet s.mem x) ∧
    (∀ f, (s.host p).apen = true → s.placeJob noCore job va .write = .error f → Holds s →
      ∃ t, exec (.bar2Write p off bs) s = .next t ∧ t.mem = s.mem ∧
        StopsJob s t job false (notice s 0x31 3 job va p))) ∧
  (∀ (s : State) (r : HostRead) (k i l : Nat), s.hostReads = [r] → r.who = .lane k i l →
    s.clocksRun = true → (∀ g ∈ s.grids, g.passing = []) →
    (∀ bs, bs.length = r.bytes →
      ∃ t, exec (.hostReadCompletion r.tag (some bs)) s = .next t ∧ t = { s with hostReads := [], blocks := t.blocks } ∧
        LaneBecomes s t k i l fun ln => if ln.awaits r.tag
          then { ln with replies := ln.replies ++ [⟨.host r.port r.addr, bs, false, false⟩] } else ln) ∧
    (∀ b, s.block? k = some b → s.jobOf b ≠ 0xFFF → Holds s →
      ∀ e, e = Instr.hostReadCompletion r.tag none ∨
        (e = Instr.hostReadTimeout r.tag ∧ r.since + 2 ^ 26 ≤ s.coreClock 0) →
      ∃ t u, exec e s = .next t ∧ t.hostReads = [] ∧
        LaneBecomes s u k i l (fun ln => if ln.awaits r.tag
          then { ln with replies := ln.replies ++ [⟨.host r.port r.addr, List.replicate r.bytes 0xFF, true, false⟩] } else ln) ∧
        StopsJob { s with blocks := u.blocks } t (s.jobOf b) false
          (notice s 0x31 1 (s.jobOf b) ((r.port + 1) * 2 ^ 40 + r.addr) 0))) ∧
  (∀ (s : State) (p : Nat), s.portAnswers p = true → PortsWhole s →
    let write (o n x : Nat) : Host.Outcome State Fault Refusal := exec (.registerWrite p o n (BitVec.ofNat 512 x)) s
    (∀ q prod, q < 64 → write (0x1010 + 32 * q) 4 prod = exec (.lqdoor p q (BitVec.ofNat 32 prod)) s) ∧
    (∀ q x, q < 64 → x < 2 ^ 52 → (s.queue p q).prod = (s.queue p q).cons →
      ∃ t, write (0x1000 + 32 * q) 8 x = .next t ∧ t = s.updQueue p q fun k => { k with base := x / 128 * 128 }) ∧
    (s.mgmt.primary = p →
      (∀ x, x < 2 ^ 52 →
        (∃ t, write 0x800020 8 x = .next t ∧ t = { s with mgmt := { s.mgmt with jobbase := x / 2 ^ 18 * 2 ^ 18 } }) ∧
        write 0x8000C0 8 x = exec (.faultRingBase x) s) ∧
      (∀ x, x < 2 ^ 64 → write 0x8000D8 8 x = exec (.faultRingConsume (BitVec.ofNat 64 x)) s) ∧
      (∀ seq, seq < 2 ^ 32 →
        write 0x8000E8 8 (seq + 2 ^ 32) = exec (.faultAnswerResume (BitVec.ofNat 32 seq)) s ∧
        write 0x8000E8 8 (seq + 2 * 2 ^ 32) = exec (.faultAnswerAbortBlock (BitVec.ofNat 32 seq)) s ∧
        write 0x8000E8 8 (seq + 3 * 2 ^ 32) = exec (.faultAnswerAbortGrid (BitVec.ofNat 32 seq)) s) ∧
      (∀ job, job < 2 ^ 12 → write 0x800148 8 job = exec (.jobabort job) s) ∧
      write 0x800060 8 1 = exec .freeze s ∧
      ∀ o ∈ [0x800044, 0x80014C, 0x800184], ∀ x, write o 4 x = .next s) ∧
    (s.mgmt.primary ≠ p → ∀ o n x, 0x800000 ≤ o → o + n ≤ 0x801000 → 0 < n → n ≤ 64 → write o n x = .next s)) ∧
  (∀ (s : State) (p : Nat), s.portReads p = true →
    ∃ t bs, exec (.scanRead p) s = .next t ∧
      t = { s with
        hostOut := s.hostOut ++ [.completion p bs]
        mgmt := { s.mgmt with scanaddr := s.mgmt.scanaddr + 1 }
        free := t.free } ∧
      bs.length = 8 ∧ (s.mgmt.frozen = false → bs = List.replicate 8 0 ∧ t.free = s.free)) ∧
  (∀ (s : State) (nonce : List Byte), s.hostSpeaks = true → nonce.length = 32 →
    ∃ t, exec (.attestationRequest nonce) s = .next t ∧
      (Config.keyReadable = true →
        t = { s with mgmt := { s.mgmt with nonce := nonce, attReady := false, attBusy := true } }) ∧
      (Config.keyReadable = false →
        t = { s with mgmt := { s.mgmt with nonce := nonce, attReady := false, attBusy := false, attErr := true } })) ∧
  (∀ s : State, s.mgmt.attBusy = true → s.mgmt.nonce.length = 32 → s.dies.length = 4 →
    ∃ t, exec .attestationReady s = .next t ∧
      t = { s with mgmt := { s.mgmt with attBusy := false, attReady := true, report := t.mgmt.report } } ∧
      t.mgmt.report.length = 712 ∧ t.mgmt.report.take 4 = [0x41, 0x54, 1, 1] ∧
      (t.mgmt.report.drop 168).take 32 = s.mgmt.nonce)

/-- R12, R13, R20, R102, R252 to R256, R427, R429, R436, R437, R449, R450, R466, R474: sparing, power and temperature, freezing,
and scrubbing. -/
def Obligations.Housekeeping : Prop :=
  (∀ (s : State) (die unit : Nat), s.hostSpeaks = true → s.mgmt.spareBusy = false → s.dies.length = 4 → die < 4 →
    let d := s.die die
    let busy : Mgmt := { s.mgmt with spareBusy := true }
    let none' : State := { s with mgmt := { s.mgmt with spareNone := true } }
    let one (k : Nat) : List Nat := d.spares.modify k fun n => n + 1
    let used := d.spares.getD 0 0
    let cores := [32 * die + 2 * unit, 32 * die + 2 * unit + 1]
    (unit < 16 → used < 2 →
      ∃ t, exec (.spareCorePair die unit) s = .next t ∧
        t = { s.updDie die (fun d => { d with spares := one 0, pairs := d.pairs.set unit (16 + used) }) with
          mgmt := { busy with sparing := cores }
          blocks := s.blocks.map fun b => if b.core ∈ cores ∧ b.resident = true then b.stopFor .spare else b }) ∧
    (16 ≤ unit ∨ 2 ≤ used →
      ∃ t, exec (.spareCorePair die unit) s = .next t ∧ t = none') ∧
    (unit / 128 < 32 → unit % 128 < 127 → 32 * die + unit / 128 < s.cores.length →
      127 ∉ (s.core (32 * die + unit / 128)).banks →
      ∃ t, exec (.spareScratchpadBank die unit) s = .next t ∧
        t = { (s.updCore (32 * die + unit / 128) fun c => { c with banks := c.banks.set (unit % 128) 127 }).updDie die
                fun d => { d with spares := one 1 } with mgmt := busy }) ∧
    (unit < 32 → 32 ∉ d.slices →
      ∃ t, exec (.spareL2Slice die unit) s = .next t ∧
        t = { s.updDie die fun d => { d with
                spares := one 2
                slices := d.slices.set unit 32
                l2 := d.l2.map fun x => if sliceOf (x.line * 128) = unit then { x with dirty := false } else x } with
              mgmt := busy }) ∧
    (unit < 1024 → d.channels = [] →
      ∃ t, exec (.sparePseudoChannel die unit) s = .next t ∧
        t = { s.updDie die fun d => { d with spares := one 3, channels := [(unit, 512)] } with mgmt := busy }) ∧
    (∀ q, unit < 6 → s.sparePort (6 * die + unit) ((List.range 6).map fun i => 6 * die + i) = some q →
      ∃ t, exec (.spareFabricPort die unit) s = .next t ∧
        t = { s.updDie die fun d => { d with spares := one 4 } with
          mgmt := busy
          fabric := { s.fabric with ports := s.fabric.ports.modify q fun x => { x with marked := true } } })) ∧
  (∀ (s : State) (die unit : Nat), s.hostSpeaks = true → s.mgmt.spareBusy = true →
    exec (.spareCorePair die unit) s = .next s ∧ exec (.spareScratchpadBank die unit) s = .next s ∧
    exec (.spareL2Slice die unit) s = .next s ∧ exec (.sparePseudoChannel die unit) s = .next s ∧
    exec (.spareFabricPort die unit) s = .next s) ∧
  (∀ (s : State) (kind die unit : Nat), s.clocksRun = true → s.mgmt.spareBusy = false → (kind, die, unit) ∈ s.wornUnits →
    let u := s.forgetWear kind die unit
    (∀ v, u.spare kind die unit (List.range 24) = some v →
      ∃ t, exec (.autoSpare kind die unit) s = .next t ∧
        Informs v t (notice s 0x1A 3 0xFFF 0 (kind + die * 2 ^ 3 + unit * 2 ^ 5))) ∧
    (u.spare kind die unit (List.range 24) = none →
      ∃ t, exec (.autoSpare kind die unit) s = .next t ∧
        Informs { u with mgmt := { u.mgmt with spareNone := true } } t (notice s 0x1A 4 0xFFF 0 0))) ∧
  (∀ s : State, (∀ b ∈ s.blocks, b.resident = true → b.core ∉ s.mgmt.sparing) →
    ∃ t, exec .spareDone s = .next t ∧ t = { s with mgmt := { s.mgmt with spareBusy := false, sparing := [] } }) ∧
  (∀ s : State, s.hostSpeaks = true →
    ∃ t, exec .freeze s = .next t ∧ t = { s with mgmt := { s.mgmt with frozen := true } } ∧
      t.clocksRun = false ∧ ∀ n, t.tick n = t) ∧
  (∀ (s : State) (w tj tin : Nat), s.dies.length = 4 →
    let calm := if w * 100 ≤ 2400 * 95 ∧ tj * 100 ≤ 95 * 95 then s.mgmt.calm + 1 else 0
    ∃ t, exec (.powerThermalCheck w tj tin) s = .next t ∧
      t = { s with mgmt := t.mgmt, dies := t.dies, free := t.free } ∧ t.dies.length = 4 ∧
      t.mgmt = { s.mgmt with
        watts := w
        tj := tj
        tin := tin
        calm := calm
        hot := if 105 ≤ tj then s.mgmt.hot + 1 else 0
        strained := if 2400 < w ∧ Config.lowestStep ≤ s.mgmt.clockSteps then s.mgmt.strained + 1 else 0
        clockSteps := t.mgmt.clockSteps
        throttled := t.mgmt.throttled } ∧
      (2400 < w ∨ 95 < tj →
        t.mgmt.throttled = true ∧
        t.mgmt.clockSteps = Min.min (Max.max Config.lowestStep s.mgmt.clockSteps) (s.mgmt.clockSteps + 1) ∧
        ∀ d, d < 4 →
          t.die d = { s.die d with budgetNext := (t.die d).budgetNext, lowered := (s.die d).budgetNext :: (s.die d).lowered } ∧
          ((s.die d).budgetNext.length = 7 →
            (t.die d).budgetNext.length = 7 ∧ (t.die d).budgetNext[0]? = (s.die d).budgetNext[0]? ∧
            ∀ c, 1 ≤ c → c ≤ 6 → ∀ x y, (s.die d).budgetNext[c]? = some x → (t.die d).budgetNext[c]? = some y → Lowered x y)) ∧
      (w ≤ 2400 → tj ≤ 95 → 100 ≤ calm → s.mgmt.throttled = true →
        t.mgmt.clockSteps = s.mgmt.clockSteps - 1 ∧ t.free = s.free ∧
        (t.mgmt.throttled = true ↔ 1 < s.mgmt.clockSteps ∨ ∃ d ∈ t.dies, d.lowered ≠ []) ∧
        t.dies = s.dies.map fun d => match d.lowered with
          | [] => d
          | b :: bs => { d with budgetNext := b, lowered := bs }) ∧
      (w ≤ 2400 → tj ≤ 95 → calm < 100 ∨ s.mgmt.throttled = false →
        t.mgmt.clockSteps = s.mgmt.clockSteps ∧ t.mgmt.throttled = s.mgmt.throttled ∧ t.dies = s.dies ∧ t.free = s.free)) ∧
  (∀ s : State, s.mgmt.hold = false → 10 ≤ s.mgmt.hot ∨ 100 ≤ s.mgmt.strained → s.mgmt.thIrq = false →
    ∃ t, exec .thermalHold s = .next t ∧
      t = { s with mgmt := { s.mgmt with hold := true, holdSeen := true },
                   blocks := s.blocks.map fun b => b.stopFor .hold } ∧
      ∀ job, t.jobOpen job = false) ∧
  (∀ s : State, 1000 ≤ s.mgmt.calm →
    ∃ t, exec .thermalHoldRelease s = .next t ∧ t = { s with mgmt := { s.mgmt with hold := false } }) ∧
  (∀ s : State, s.mgmt.trip = false → 115 ≤ s.mgmt.tj ∨ 45 ≤ s.mgmt.tin → s.mgmt.thIrq = true →
    s.portGone s.mgmt.primary = false →
    ∃ t, exec .thermalTrip s = .next t ∧
      t = { s with mgmt := { s.mgmt with trip := true, frozen := true },
                   hostOut := s.hostOut ++ [.msix s.mgmt.primary s.mgmt.thVec] }) ∧
  (∀ (s : State) (b : Block) (i l r : Nat), s.block? b.key = some b → s.clocksRun = true → b.state = .running → r < 256 →
    r < b.regs → i < b.strands.length → l < (b.strand i).width →
    let die := b.core / 32
    (∃ t, exec (.registerScrub b.key i (regKey l r) .corrected) s = .next t ∧
      t = Wears s die 0 (b.core % 32) (fun w => { w with corrected := w.corrected + 1 }) fun d => { d with regce := d.regce + 1 }) ∧
    (∃ t c, exec (.registerScrub b.key i (regKey l r) .uncorrectable) s = .next t ∧
      t = { Wears s die 0 (b.core % 32) (fun w => { w with fatal := w.fatal + 1 }) (fun d => { d with regue := d.regue + 1 }) with
        blocks := t.blocks } ∧
      t.block? b.key = some c ∧ (∀ j, j ≠ i → c.strand j = b.strand j) ∧
      (∀ k, k ≠ b.key → t.block? k = s.block? k) ∧
      (c.strand i).lanes = (b.strand i).lanes ∧
      ∀ l' r', r' < 256 → (c.strand i).reg l' r' =
        if l' = l ∧ r' = r then { (b.strand i).reg l r with full := true, poison := true } else (b.strand i).reg l' r')) ∧
  (∀ (s : State) (a die : Nat) (x : L2Line), s.clocksRun = true →
    (s.die die).l2.find? (fun y => y.line == a / 128) = some x →
    let home := dieOfAddr a
    let counted (u : EccUnit) (fate : EccFate) (d kind unit : Nat) : Prop := ∃ t, exec (.patrolScrub u fate) s = .next t ∧
      t = Wears s d kind unit (fun w => { w with corrected := w.corrected + 1 }) fun d => { d with memce := d.memce + 1 }
    let marked (u : EccUnit) (d kind unit : Nat) : Prop := a / 32 ∉ s.poison → ∃ t,
      exec (.patrolScrub u .uncorrectable) s = .next t ∧
      Informs { Wears s d kind unit (fun w => { w with fatal := w.fatal + 1 }) (fun d => { d with memue := d.memue + 1 }) with
          poison := s.poison ++ [a / 32] } t { notice s 0x1A 1 0xFFF a 0 with die := d }
    counted (.dram a) .corrected home 3 (channelOf a) ∧ counted (.l2 die a) .corrected die 2 (sliceOf a) ∧
    (x.dirty = false → counted (.l2 die a) .uncorrectable die 2 (sliceOf a)) ∧
    marked (.dram a) home 3 (channelOf a) ∧ (x.dirty = true → marked (.l2 die a) die 2 (sliceOf a))) ∧
  (∀ (s : State) (b : Block) (o : Nat), s.clocksRun = true → s.block? b.key = some b →
    let die := b.core / 32
    let bank := b.core % 32 * 128 + bankOf o
    (∃ t, exec (.patrolScrub (.scratch b.key o) .corrected) s = .next t ∧
      t = Wears s die 1 bank (fun w => { w with corrected := w.corrected + 1 }) fun d => { d with memce := d.memce + 1 }) ∧
    (Holds s → (b.key, o / 8) ∉ s.padPoison →
      ∃ t addr, exec (.patrolScrub (.scratch b.key o) .uncorrectable) s = .next t ∧
        t = { Wears s die 1 bank (fun w => { w with fatal := w.fatal + 1 }) (fun d => { d with memue := d.memue + 1 }) with
          padPoison := s.padPoison ++ [(b.key, o / 8)]
          held := [{ notice s 0x1A 1 0xFFF 0 0 with die := die, addr := addr }]
          stamp := s.stamp + 1
          free := s.free + 2 }))

/-- R408 to R414, R447, R472, Tables 19-3 and 20-1: the fault ring's registers, the answers to a record, JOBABORT, and the fates
of encodings that are not instructions. -/
def Obligations.FaultAnswers : Prop :=
  (∀ (s : State) (job : Nat), Holds s → s.hostSpeaks = true →
    ∃ t, exec (.jobabort job) s = .next t ∧ StopsJob s t job true (notice s 0x31 2 job 0 0) ∧
      t = { s with held := t.held, jobs := t.jobs, stops := t.stops, blocks := t.blocks, stamp := s.stamp + 1 } ∧
      ∀ j, j ≠ job → t.job j = s.job j) ∧
  (∀ (s : State) (n x : Nat) (cons : Dword), s.hostSpeaks = true →
    (s.held = [] →
      (∃ t, exec (.faultRingConsume cons) s = .next t ∧ t = { s with mgmt := { s.mgmt with frcons := cons } }) ∧
      (n < 32 → ∃ t, exec (.faultRingEnable n) s = .next t ∧
        t = { s with mgmt := { s.mgmt with frlog2n := if n = 0 then 0 else Max.max 4 (Min.min 20 n) } }) ∧
      (x < 2 ^ 52 → ∃ t, exec (.faultRingBase x) s = .next t ∧
        t = { s with mgmt := { s.mgmt with frbase := x / 64 * 64 } })) ∧
    (∀ r, s.held = [r] → 4 ≤ n → n ≤ 20 → isDram s.mgmt.frbase = true →
      isDram (s.mgmt.frbase + 64 * 2 ^ n - 1) = true → s.mgmt.frbase / 2 ^ 37 = (s.mgmt.frbase + 64 * 2 ^ n - 1) / 2 ^ 37 →
      (s.mgmt.frprod - s.mgmt.frcons).toNat < 2 ^ n →
      let entry := s.mgmt.frbase + 64 * (s.mgmt.frprod.toNat % 2 ^ n)
      ∃ t, exec (.faultRingEnable n) s = .next t ∧ t.held = [] ∧
        t.mgmt = { s.mgmt with frlog2n := n, frprod := s.mgmt.frprod + 1 } ∧
        memBytes t.mem entry 64 = r.bytes (s.mgmt.frprod.toNat % 2 ^ 32) ∧
        ∀ a, a < entry ∨ entry + 64 ≤ a → memGet t.mem a = memGet s.mem a)) ∧
  (∀ (s : State) (x : Stop) (b : Block) (g : Grid) (q : Dword) (why : StopWhy) (off : Nat), s.hostSpeaks = true → s.stops = [x] →
    x.reach = .block b.key → x.seq = some q → x.answer = none → s.block? b.key = some b → s.grid? b.grid = some g →
    b.state = .saved why off → (∀ c ∈ s.cores, c.wcb = []) → s.fabric.reqs = [] →
    (s.job g.launch.job).frames = [] → g.launch.det = false → Distinct s →
    (∃ t, exec (.faultAnswerResume (q.setWidth 32)) s = .next t ∧
      t = { s.updBlock b.key (fun b => { b with stops := [] }) with stops := [], mem := t.mem } ∧
      (s.saveArea g.launch.job = none → t.mem = s.mem) ∧
      ∀ base size lf, s.saveArea g.launch.job = some (base, size) →
        s.walkJob g.launch.job (base + off + 26) = some lf →
        let pa := lf.addr + (base + off + 26 - lf.base)
        isDram pa = true → ∀ a, memGet t.mem a = if a = pa then memGet s.mem pa &&& 0xFD else memGet s.mem a) ∧
    (∃ t c, exec (.faultAnswerAbortBlock (q.setWidth 32)) s = .next t ∧ t.stops = [] ∧ t.block? b.key = some c ∧
      c.state = .saved .abort 0 ∧ c.stops = [] ∧ (∀ i l, ((c.strand i).lane l).status ≠ .live) ∧
      (∀ k, k ≠ b.key → t.block? k = s.block? k) ∧ t.mem = s.mem) ∧
    (∃ t h, exec (.faultAnswerAbortGrid (q.setWidth 32)) s = .next t ∧ t.stops = [] ∧ t.grid? b.grid = some h ∧
      h.aborted = true ∧ (∀ c ∈ t.blocks, c.grid = b.grid → c.state ≠ .ended → ∀ i l, ((c.strand i).lane l).status ≠ .live) ∧
      (∀ c ∈ s.blocks, c.grid ≠ b.grid → c ∈ t.blocks))) ∧
  (∀ (s : State) (seq : Word), (∀ x ∈ s.stops, ∀ q, x.seq = some q → q.setWidth 32 ≠ seq) →
    exec (.faultAnswerResume seq) s = .next s ∧ exec (.faultAnswerAbortBlock seq) s = .next s ∧
    exec (.faultAnswerAbortGrid seq) s = .next s) ∧
  (∀ (s : State) (b : Block) (cls sub : Nat) (addr : Dword), s.issuing b → Block.issues b → 0x10 ≤ cls → cls < 0x100 →
    ∃ t, exec (.illegalEncoding cls sub addr) s = .next t ∧
      Excepted s t b (recordOf s b cls sub addr.toNat 2 0 s.cur.lanes)) ∧
  (∀ (s : State) (b : Block) (cls sub : Nat) (addr : Dword), s.issuing b → Block.issues b → 1 ≤ cls → cls ≤ 3 →
    ∀ x y : Nat, s.codeWord b s.cur.strand s.cur.lanes s.cur.pc.toNat = some x →
    s.codeWord b s.cur.strand s.cur.lanes (s.cur.pc.toNat + 4) = some y →
    ∃ t, exec (.illegalEncoding cls sub addr) s = .next t ∧
      Excepted s t b (recordOf s b cls sub addr.toNat x y s.cur.lanes))
end

