-- ==== Sys2Proof/Laws/Cells.lean ====
section
/-! SUPPORT. Sparse tables: a write is read back and leaves every other key alone, and every write keeps the canonical
form. The same for memory. -/

namespace Sys2Proof.Machine

open Sys2Proof

/-! ## Reading after writing -/

theorem cellsGet_drop {α : Type} (d : α) (k m : Nat) (c : Cells α) :
    cellsGet d m (cellsDrop k c) = if m = k then d else cellsGet d m c := by
  induction c with
  | nil => simp [cellsDrop, cellsGet]
  | cons e r ih =>
    obtain ⟨j, v⟩ := e
    by_cases hj : j = k
    · subst hj
      rw [cellsDrop, if_pos rfl, ih, cellsGet]
      by_cases hm : m = j
      · simp [hm]
      · rw [if_neg hm, if_neg hm, if_neg (Ne.symm hm)]
    · simp only [cellsDrop, hj, if_false, cellsGet, ih]
      by_cases hm : j = m <;> simp_all

theorem cellsGet_insert {α : Type} (d : α) (k m : Nat) (v : α) (c : Cells α) (h : cellsGet d k c = d) (hk : ∀ e ∈ c, e.1 ≠ k) :
    cellsGet d m (cellsInsert k v c) = if m = k then v else cellsGet d m c := by
  induction c with
  | nil =>
    by_cases hm : m = k
    · simp [cellsInsert, cellsGet, hm]
    · simp [cellsInsert, cellsGet, hm, Ne.symm hm]
  | cons e r ih =>
    obtain ⟨j, w⟩ := e
    have hj : j ≠ k := hk (j, w) (by simp)
    by_cases hkj : k < j
    · rw [cellsInsert, if_pos hkj, cellsGet]
      by_cases hm : m = k
      · simp [hm]
      · rw [if_neg (Ne.symm hm), if_neg hm]
    · have ih := ih (by simpa [cellsGet, hj] using h) (fun e he => hk e (by simp [he]))
      simp only [cellsInsert, hkj, if_false, cellsGet, ih]
      by_cases hm : j = m <;> simp_all

theorem not_mem_drop {α : Type} (k : Nat) (c : Cells α) : ∀ e ∈ cellsDrop k c, e.1 ≠ k := by
  induction c with
  | nil => simp [cellsDrop]
  | cons e r ih =>
    obtain ⟨j, v⟩ := e
    intro e he
    by_cases hj : j = k
    · rw [cellsDrop, if_pos hj] at he; exact ih e he
    · rw [cellsDrop, if_neg hj] at he
      rcases List.mem_cons.1 he with rfl | he
      · exact hj
      · exact ih e he

/-- A write is read back, and every other key reads as before. -/
theorem cellsGet_put {α : Type} [DecidableEq α] (d : α) (k m : Nat) (v : α) (c : Cells α) :
    cellsGet d m (cellsPut d k v c) = if m = k then v else cellsGet d m c := by
  unfold cellsPut
  split
  · simp_all [cellsGet_drop]
  · rw [cellsGet_insert _ _ _ _ _ (by simp [cellsGet_drop]) (not_mem_drop k c), cellsGet_drop]
    by_cases hm : m = k <;> simp [hm]

/-! ## Canonical form -/

variable {α : Type} [DecidableEq α]

theorem cellsAbove_mono (d : α) (a b : Nat) (c : Cells α) (h : cellsAbove d b c = true) (hab : a ≤ b) :
    cellsAbove d a c = true := by
  cases c with
  | nil => rfl
  | cons e r =>
    obtain ⟨j, v⟩ := e
    simp only [cellsAbove, Bool.and_eq_true, decide_eq_true_eq] at h ⊢
    exact ⟨⟨by omega, h.1.2⟩, h.2⟩

theorem cellsAbove_drop (d : α) (k b : Nat) (c : Cells α) (h : cellsAbove d b c = true) :
    cellsAbove d b (cellsDrop k c) = true := by
  induction c generalizing b with
  | nil => rfl
  | cons e r ih =>
    obtain ⟨j, v⟩ := e
    simp only [cellsAbove, Bool.and_eq_true, decide_eq_true_eq] at h
    unfold cellsDrop
    split
    · exact ih b (cellsAbove_mono d b j r h.2 (by omega))
    · simp [cellsAbove, h.1.1, ih j h.2]; simpa using h.1.2

theorem cellsAbove_insert (d : α) (k : Nat) (v : α) (b : Nat) (c : Cells α) (h : cellsAbove d b c = true) (hb : b < k)
    (hv : v ≠ d) (hk : ∀ e ∈ c, e.1 ≠ k) : cellsAbove d b (cellsInsert k v c) = true := by
  induction c generalizing b with
  | nil => simp [cellsInsert, cellsAbove, hb, hv]
  | cons e r ih =>
    obtain ⟨j, w⟩ := e
    have hj : j ≠ k := hk (j, w) (by simp)
    simp only [cellsAbove, Bool.and_eq_true, decide_eq_true_eq] at h
    unfold cellsInsert
    split
    · simp_all [cellsAbove]
    · simp [cellsAbove, h.1.1, ih j h.2 (by omega) fun e he => hk e (by simp [he])]; simpa using h.1.2

/-- A table whose keys start at 0 or above is one whose keys, each moved up by one, lie above 0. -/
theorem cellsWf_iff (d : α) (c : Cells α) :
    cellsWf d c = (match c with | [] => true | (j, v) :: r => !decide (v = d) && cellsAbove d j r) := by
  cases c <;> rfl

theorem cellsWf_of_above (d : α) (b : Nat) (c : Cells α) (h : cellsAbove d b c = true) : cellsWf d c = true := by
  cases c with
  | nil => rfl
  | cons e r =>
    simp only [cellsAbove, Bool.and_eq_true] at h
    simp [cellsWf, h.1.2, h.2]

theorem cellsWf_drop (d : α) (k : Nat) (c : Cells α) (h : cellsWf d c = true) : cellsWf d (cellsDrop k c) = true := by
  cases c with
  | nil => rfl
  | cons e r =>
    obtain ⟨j, v⟩ := e
    simp only [cellsWf, Bool.and_eq_true] at h
    unfold cellsDrop
    split
    · exact cellsWf_of_above d j _ (cellsAbove_drop d k j r h.2)
    · simp only [cellsWf, Bool.and_eq_true]; exact ⟨h.1, cellsAbove_drop d k j r h.2⟩

theorem cellsWf_insert (d : α) (k : Nat) (v : α) (c : Cells α) (h : cellsWf d c = true) (hv : v ≠ d)
    (hk : ∀ e ∈ c, e.1 ≠ k) : cellsWf d (cellsInsert k v c) = true := by
  cases c with
  | nil => simp [cellsInsert, cellsWf, cellsAbove, hv]
  | cons e r =>
    obtain ⟨j, w⟩ := e
    have hj : j ≠ k := hk (j, w) (by simp)
    simp only [cellsWf, Bool.and_eq_true] at h
    unfold cellsInsert
    split
    · simp_all [cellsWf, cellsAbove]
    · simp only [cellsWf, Bool.and_eq_true]
      exact ⟨h.1, cellsAbove_insert d k v j r h.2 (by omega) hv fun e he => hk e (by simp [he])⟩

/-- A write keeps the canonical form. -/
theorem cellsWf_put (d : α) (k : Nat) (v : α) (c : Cells α) (h : cellsWf d c = true) :
    cellsWf d (cellsPut d k v c) = true := by
  unfold cellsPut
  split
  · exact cellsWf_drop d k c h
  · exact cellsWf_insert d k v _ (cellsWf_drop d k c h) (by assumption) (not_mem_drop k c)

/-! ## Memory -/

theorem memGet_put (m : Memory) (a x : Nat) (b : Byte) : memGet (memPut m a b) x = if x = a then b else memGet m x :=
  cellsGet_put _ _ _ _ _

theorem memWf_put (m : Memory) (a : Nat) (b : Byte) (h : m.wf = true) : (memPut m a b).wf = true :=
  cellsWf_put _ _ _ _ h

/-- Bytes written are read back, and every other address reads as before. -/
theorem memGet_puts (m : Memory) (a x : Nat) (bs : List Byte) :
    memGet (memPuts m a bs) x = if a ≤ x ∧ x < a + bs.length then bs.getD (x - a) 0 else memGet m x := by
  induction bs generalizing m a with
  | nil => rw [memPuts, if_neg (by simp)]
  | cons b bs ih =>
    simp only [memPuts, ih, memGet_put, List.length_cons]
    by_cases hx : x = a
    · subst hx; simp
    · by_cases hr : a + 1 ≤ x ∧ x < a + 1 + bs.length
      · rw [if_pos hr, if_pos (by omega), show x - a = (x - (a + 1)) + 1 by omega]; simp
      · rw [if_neg hr, if_neg hx, if_neg (by omega)]

theorem memWf_puts (m : Memory) (a : Nat) (bs : List Byte) (h : m.wf = true) : (memPuts m a bs).wf = true := by
  induction bs generalizing m a with
  | nil => exact h
  | cons b bs ih => exact ih _ _ (memWf_put m a b h)

end Sys2Proof.Machine
end

