-- ==== Sys2Proof/Laws/Fields.lean ====
section
/-! SUPPORT. The fields of the state that each of its updates leaves alone, one lemma for each. -/

namespace Sys2Proof.Machine

open Sys2Proof

/-! One block changed. -/

@[simp] theorem State.updBlock_mem (s : State) (k : Nat) (f : Block → Block) : (s.updBlock k f).mem = s.mem := rfl
@[simp] theorem State.updBlock_poison (s : State) (k : Nat) (f : Block → Block) : (s.updBlock k f).poison = s.poison := rfl
@[simp] theorem State.updBlock_padPoison (s : State) (k : Nat) (f : Block → Block) : (s.updBlock k f).padPoison = s.padPoison := rfl
@[simp] theorem State.updBlock_scopes (s : State) (k : Nat) (f : Block → Block) : (s.updBlock k f).scopes = s.scopes := rfl
@[simp] theorem State.updBlock_cores (s : State) (k : Nat) (f : Block → Block) : (s.updBlock k f).cores = s.cores := rfl
@[simp] theorem State.updBlock_dies (s : State) (k : Nat) (f : Block → Block) : (s.updBlock k f).dies = s.dies := rfl
@[simp] theorem State.updBlock_hosts (s : State) (k : Nat) (f : Block → Block) : (s.updBlock k f).hosts = s.hosts := rfl
@[simp] theorem State.updBlock_fabric (s : State) (k : Nat) (f : Block → Block) : (s.updBlock k f).fabric = s.fabric := rfl
@[simp] theorem State.updBlock_mgmt (s : State) (k : Nat) (f : Block → Block) : (s.updBlock k f).mgmt = s.mgmt := rfl
@[simp] theorem State.updBlock_jobs (s : State) (k : Nat) (f : Block → Block) : (s.updBlock k f).jobs = s.jobs := rfl
@[simp] theorem State.updBlock_grids (s : State) (k : Nat) (f : Block → Block) : (s.updBlock k f).grids = s.grids := rfl
@[simp] theorem State.updBlock_forks (s : State) (k : Nat) (f : Block → Block) : (s.updBlock k f).forks = s.forks := rfl
@[simp] theorem State.updBlock_heldWrites (s : State) (k : Nat) (f : Block → Block) : (s.updBlock k f).heldWrites = s.heldWrites := rfl
@[simp] theorem State.updBlock_posted (s : State) (k : Nat) (f : Block → Block) : (s.updBlock k f).posted = s.posted := rfl
@[simp] theorem State.updBlock_migrations (s : State) (k : Nat) (f : Block → Block) : (s.updBlock k f).migrations = s.migrations := rfl
@[simp] theorem State.updBlock_held (s : State) (k : Nat) (f : Block → Block) : (s.updBlock k f).held = s.held := rfl
@[simp] theorem State.updBlock_stops (s : State) (k : Nat) (f : Block → Block) : (s.updBlock k f).stops = s.stops := rfl
@[simp] theorem State.updBlock_hostReads (s : State) (k : Nat) (f : Block → Block) : (s.updBlock k f).hostReads = s.hostReads := rfl
@[simp] theorem State.updBlock_barReads (s : State) (k : Nat) (f : Block → Block) : (s.updBlock k f).barReads = s.barReads := rfl
@[simp] theorem State.updBlock_awayResv (s : State) (k : Nat) (f : Block → Block) : (s.updBlock k f).awayResv = s.awayResv := rfl
@[simp] theorem State.updBlock_mail (s : State) (k : Nat) (f : Block → Block) : (s.updBlock k f).mail = s.mail := rfl
@[simp] theorem State.updBlock_hostOut (s : State) (k : Nat) (f : Block → Block) : (s.updBlock k f).hostOut = s.hostOut := rfl
@[simp] theorem State.updBlock_stamp (s : State) (k : Nat) (f : Block → Block) : (s.updBlock k f).stamp = s.stamp := rfl
@[simp] theorem State.updBlock_free (s : State) (k : Nat) (f : Block → Block) : (s.updBlock k f).free = s.free := rfl
@[simp] theorem State.updBlock_selected (s : State) (k : Nat) (f : Block → Block) : (s.updBlock k f).selected = s.selected := rfl
@[simp] theorem State.updBlock_cur (s : State) (k : Nat) (f : Block → Block) : (s.updBlock k f).cur = s.cur := rfl
@[simp] theorem State.updBlock_agenda (s : State) (k : Nat) (f : Block → Block) : (s.updBlock k f).agenda = s.agenda := rfl

/-! One strand changed. -/

@[simp] theorem State.updStrand_mem (s : State) (k i : Nat) (f : Strand → Strand) : (s.updStrand k i f).mem = s.mem := rfl
@[simp] theorem State.updStrand_poison (s : State) (k i : Nat) (f : Strand → Strand) : (s.updStrand k i f).poison = s.poison := rfl
@[simp] theorem State.updStrand_padPoison (s : State) (k i : Nat) (f : Strand → Strand) : (s.updStrand k i f).padPoison = s.padPoison := rfl
@[simp] theorem State.updStrand_scopes (s : State) (k i : Nat) (f : Strand → Strand) : (s.updStrand k i f).scopes = s.scopes := rfl
@[simp] theorem State.updStrand_cores (s : State) (k i : Nat) (f : Strand → Strand) : (s.updStrand k i f).cores = s.cores := rfl
@[simp] theorem State.updStrand_dies (s : State) (k i : Nat) (f : Strand → Strand) : (s.updStrand k i f).dies = s.dies := rfl
@[simp] theorem State.updStrand_hosts (s : State) (k i : Nat) (f : Strand → Strand) : (s.updStrand k i f).hosts = s.hosts := rfl
@[simp] theorem State.updStrand_fabric (s : State) (k i : Nat) (f : Strand → Strand) : (s.updStrand k i f).fabric = s.fabric := rfl
@[simp] theorem State.updStrand_mgmt (s : State) (k i : Nat) (f : Strand → Strand) : (s.updStrand k i f).mgmt = s.mgmt := rfl
@[simp] theorem State.updStrand_jobs (s : State) (k i : Nat) (f : Strand → Strand) : (s.updStrand k i f).jobs = s.jobs := rfl
@[simp] theorem State.updStrand_grids (s : State) (k i : Nat) (f : Strand → Strand) : (s.updStrand k i f).grids = s.grids := rfl
@[simp] theorem State.updStrand_forks (s : State) (k i : Nat) (f : Strand → Strand) : (s.updStrand k i f).forks = s.forks := rfl
@[simp] theorem State.updStrand_heldWrites (s : State) (k i : Nat) (f : Strand → Strand) : (s.updStrand k i f).heldWrites = s.heldWrites := rfl
@[simp] theorem State.updStrand_posted (s : State) (k i : Nat) (f : Strand → Strand) : (s.updStrand k i f).posted = s.posted := rfl
@[simp] theorem State.updStrand_migrations (s : State) (k i : Nat) (f : Strand → Strand) : (s.updStrand k i f).migrations = s.migrations := rfl
@[simp] theorem State.updStrand_held (s : State) (k i : Nat) (f : Strand → Strand) : (s.updStrand k i f).held = s.held := rfl
@[simp] theorem State.updStrand_stops (s : State) (k i : Nat) (f : Strand → Strand) : (s.updStrand k i f).stops = s.stops := rfl
@[simp] theorem State.updStrand_hostReads (s : State) (k i : Nat) (f : Strand → Strand) : (s.updStrand k i f).hostReads = s.hostReads := rfl
@[simp] theorem State.updStrand_barReads (s : State) (k i : Nat) (f : Strand → Strand) : (s.updStrand k i f).barReads = s.barReads := rfl
@[simp] theorem State.updStrand_awayResv (s : State) (k i : Nat) (f : Strand → Strand) : (s.updStrand k i f).awayResv = s.awayResv := rfl
@[simp] theorem State.updStrand_mail (s : State) (k i : Nat) (f : Strand → Strand) : (s.updStrand k i f).mail = s.mail := rfl
@[simp] theorem State.updStrand_hostOut (s : State) (k i : Nat) (f : Strand → Strand) : (s.updStrand k i f).hostOut = s.hostOut := rfl
@[simp] theorem State.updStrand_stamp (s : State) (k i : Nat) (f : Strand → Strand) : (s.updStrand k i f).stamp = s.stamp := rfl
@[simp] theorem State.updStrand_free (s : State) (k i : Nat) (f : Strand → Strand) : (s.updStrand k i f).free = s.free := rfl
@[simp] theorem State.updStrand_selected (s : State) (k i : Nat) (f : Strand → Strand) : (s.updStrand k i f).selected = s.selected := rfl
@[simp] theorem State.updStrand_cur (s : State) (k i : Nat) (f : Strand → Strand) : (s.updStrand k i f).cur = s.cur := rfl
@[simp] theorem State.updStrand_agenda (s : State) (k i : Nat) (f : Strand → Strand) : (s.updStrand k i f).agenda = s.agenda := rfl

/-! One lane changed. -/

@[simp] theorem State.updLane_mem (s : State) (k i l : Nat) (f : Lane → Lane) : (s.updLane k i l f).mem = s.mem := rfl
@[simp] theorem State.updLane_poison (s : State) (k i l : Nat) (f : Lane → Lane) : (s.updLane k i l f).poison = s.poison := rfl
@[simp] theorem State.updLane_padPoison (s : State) (k i l : Nat) (f : Lane → Lane) : (s.updLane k i l f).padPoison = s.padPoison := rfl
@[simp] theorem State.updLane_scopes (s : State) (k i l : Nat) (f : Lane → Lane) : (s.updLane k i l f).scopes = s.scopes := rfl
@[simp] theorem State.updLane_cores (s : State) (k i l : Nat) (f : Lane → Lane) : (s.updLane k i l f).cores = s.cores := rfl
@[simp] theorem State.updLane_dies (s : State) (k i l : Nat) (f : Lane → Lane) : (s.updLane k i l f).dies = s.dies := rfl
@[simp] theorem State.updLane_hosts (s : State) (k i l : Nat) (f : Lane → Lane) : (s.updLane k i l f).hosts = s.hosts := rfl
@[simp] theorem State.updLane_fabric (s : State) (k i l : Nat) (f : Lane → Lane) : (s.updLane k i l f).fabric = s.fabric := rfl
@[simp] theorem State.updLane_mgmt (s : State) (k i l : Nat) (f : Lane → Lane) : (s.updLane k i l f).mgmt = s.mgmt := rfl
@[simp] theorem State.updLane_jobs (s : State) (k i l : Nat) (f : Lane → Lane) : (s.updLane k i l f).jobs = s.jobs := rfl
@[simp] theorem State.updLane_grids (s : State) (k i l : Nat) (f : Lane → Lane) : (s.updLane k i l f).grids = s.grids := rfl
@[simp] theorem State.updLane_forks (s : State) (k i l : Nat) (f : Lane → Lane) : (s.updLane k i l f).forks = s.forks := rfl
@[simp] theorem State.updLane_heldWrites (s : State) (k i l : Nat) (f : Lane → Lane) : (s.updLane k i l f).heldWrites = s.heldWrites := rfl
@[simp] theorem State.updLane_posted (s : State) (k i l : Nat) (f : Lane → Lane) : (s.updLane k i l f).posted = s.posted := rfl
@[simp] theorem State.updLane_migrations (s : State) (k i l : Nat) (f : Lane → Lane) : (s.updLane k i l f).migrations = s.migrations := rfl
@[simp] theorem State.updLane_held (s : State) (k i l : Nat) (f : Lane → Lane) : (s.updLane k i l f).held = s.held := rfl
@[simp] theorem State.updLane_stops (s : State) (k i l : Nat) (f : Lane → Lane) : (s.updLane k i l f).stops = s.stops := rfl
@[simp] theorem State.updLane_hostReads (s : State) (k i l : Nat) (f : Lane → Lane) : (s.updLane k i l f).hostReads = s.hostReads := rfl
@[simp] theorem State.updLane_barReads (s : State) (k i l : Nat) (f : Lane → Lane) : (s.updLane k i l f).barReads = s.barReads := rfl
@[simp] theorem State.updLane_awayResv (s : State) (k i l : Nat) (f : Lane → Lane) : (s.updLane k i l f).awayResv = s.awayResv := rfl
@[simp] theorem State.updLane_mail (s : State) (k i l : Nat) (f : Lane → Lane) : (s.updLane k i l f).mail = s.mail := rfl
@[simp] theorem State.updLane_hostOut (s : State) (k i l : Nat) (f : Lane → Lane) : (s.updLane k i l f).hostOut = s.hostOut := rfl
@[simp] theorem State.updLane_stamp (s : State) (k i l : Nat) (f : Lane → Lane) : (s.updLane k i l f).stamp = s.stamp := rfl
@[simp] theorem State.updLane_free (s : State) (k i l : Nat) (f : Lane → Lane) : (s.updLane k i l f).free = s.free := rfl
@[simp] theorem State.updLane_selected (s : State) (k i l : Nat) (f : Lane → Lane) : (s.updLane k i l f).selected = s.selected := rfl
@[simp] theorem State.updLane_cur (s : State) (k i l : Nat) (f : Lane → Lane) : (s.updLane k i l f).cur = s.cur := rfl
@[simp] theorem State.updLane_agenda (s : State) (k i l : Nat) (f : Lane → Lane) : (s.updLane k i l f).agenda = s.agenda := rfl

/-! Lanes of the strand in progress changed. -/

@[simp] theorem State.updCur_mem (s : State) (ls : List Nat) (f : Nat → Lane → Lane) : (s.updCur ls f).mem = s.mem := rfl
@[simp] theorem State.updCur_poison (s : State) (ls : List Nat) (f : Nat → Lane → Lane) : (s.updCur ls f).poison = s.poison := rfl
@[simp] theorem State.updCur_padPoison (s : State) (ls : List Nat) (f : Nat → Lane → Lane) : (s.updCur ls f).padPoison = s.padPoison := rfl
@[simp] theorem State.updCur_scopes (s : State) (ls : List Nat) (f : Nat → Lane → Lane) : (s.updCur ls f).scopes = s.scopes := rfl
@[simp] theorem State.updCur_cores (s : State) (ls : List Nat) (f : Nat → Lane → Lane) : (s.updCur ls f).cores = s.cores := rfl
@[simp] theorem State.updCur_dies (s : State) (ls : List Nat) (f : Nat → Lane → Lane) : (s.updCur ls f).dies = s.dies := rfl
@[simp] theorem State.updCur_hosts (s : State) (ls : List Nat) (f : Nat → Lane → Lane) : (s.updCur ls f).hosts = s.hosts := rfl
@[simp] theorem State.updCur_fabric (s : State) (ls : List Nat) (f : Nat → Lane → Lane) : (s.updCur ls f).fabric = s.fabric := rfl
@[simp] theorem State.updCur_mgmt (s : State) (ls : List Nat) (f : Nat → Lane → Lane) : (s.updCur ls f).mgmt = s.mgmt := rfl
@[simp] theorem State.updCur_jobs (s : State) (ls : List Nat) (f : Nat → Lane → Lane) : (s.updCur ls f).jobs = s.jobs := rfl
@[simp] theorem State.updCur_grids (s : State) (ls : List Nat) (f : Nat → Lane → Lane) : (s.updCur ls f).grids = s.grids := rfl
@[simp] theorem State.updCur_forks (s : State) (ls : List Nat) (f : Nat → Lane → Lane) : (s.updCur ls f).forks = s.forks := rfl
@[simp] theorem State.updCur_heldWrites (s : State) (ls : List Nat) (f : Nat → Lane → Lane) : (s.updCur ls f).heldWrites = s.heldWrites := rfl
@[simp] theorem State.updCur_posted (s : State) (ls : List Nat) (f : Nat → Lane → Lane) : (s.updCur ls f).posted = s.posted := rfl
@[simp] theorem State.updCur_migrations (s : State) (ls : List Nat) (f : Nat → Lane → Lane) : (s.updCur ls f).migrations = s.migrations := rfl
@[simp] theorem State.updCur_held (s : State) (ls : List Nat) (f : Nat → Lane → Lane) : (s.updCur ls f).held = s.held := rfl
@[simp] theorem State.updCur_stops (s : State) (ls : List Nat) (f : Nat → Lane → Lane) : (s.updCur ls f).stops = s.stops := rfl
@[simp] theorem State.updCur_hostReads (s : State) (ls : List Nat) (f : Nat → Lane → Lane) : (s.updCur ls f).hostReads = s.hostReads := rfl
@[simp] theorem State.updCur_barReads (s : State) (ls : List Nat) (f : Nat → Lane → Lane) : (s.updCur ls f).barReads = s.barReads := rfl
@[simp] theorem State.updCur_awayResv (s : State) (ls : List Nat) (f : Nat → Lane → Lane) : (s.updCur ls f).awayResv = s.awayResv := rfl
@[simp] theorem State.updCur_mail (s : State) (ls : List Nat) (f : Nat → Lane → Lane) : (s.updCur ls f).mail = s.mail := rfl
@[simp] theorem State.updCur_hostOut (s : State) (ls : List Nat) (f : Nat → Lane → Lane) : (s.updCur ls f).hostOut = s.hostOut := rfl
@[simp] theorem State.updCur_stamp (s : State) (ls : List Nat) (f : Nat → Lane → Lane) : (s.updCur ls f).stamp = s.stamp := rfl
@[simp] theorem State.updCur_free (s : State) (ls : List Nat) (f : Nat → Lane → Lane) : (s.updCur ls f).free = s.free := rfl
@[simp] theorem State.updCur_selected (s : State) (ls : List Nat) (f : Nat → Lane → Lane) : (s.updCur ls f).selected = s.selected := rfl
@[simp] theorem State.updCur_cur (s : State) (ls : List Nat) (f : Nat → Lane → Lane) : (s.updCur ls f).cur = s.cur := rfl
@[simp] theorem State.updCur_agenda (s : State) (ls : List Nat) (f : Nat → Lane → Lane) : (s.updCur ls f).agenda = s.agenda := rfl

/-! Lanes that complete. -/

@[simp] theorem State.retire_mem (s : State) (ls : List Nat) : (s.retire ls).mem = s.mem := rfl
@[simp] theorem State.retire_poison (s : State) (ls : List Nat) : (s.retire ls).poison = s.poison := rfl
@[simp] theorem State.retire_padPoison (s : State) (ls : List Nat) : (s.retire ls).padPoison = s.padPoison := rfl
@[simp] theorem State.retire_scopes (s : State) (ls : List Nat) : (s.retire ls).scopes = s.scopes := rfl
@[simp] theorem State.retire_cores (s : State) (ls : List Nat) : (s.retire ls).cores = s.cores := rfl
@[simp] theorem State.retire_dies (s : State) (ls : List Nat) : (s.retire ls).dies = s.dies := rfl
@[simp] theorem State.retire_hosts (s : State) (ls : List Nat) : (s.retire ls).hosts = s.hosts := rfl
@[simp] theorem State.retire_fabric (s : State) (ls : List Nat) : (s.retire ls).fabric = s.fabric := rfl
@[simp] theorem State.retire_mgmt (s : State) (ls : List Nat) : (s.retire ls).mgmt = s.mgmt := rfl
@[simp] theorem State.retire_jobs (s : State) (ls : List Nat) : (s.retire ls).jobs = s.jobs := rfl
@[simp] theorem State.retire_grids (s : State) (ls : List Nat) : (s.retire ls).grids = s.grids := rfl
@[simp] theorem State.retire_forks (s : State) (ls : List Nat) : (s.retire ls).forks = s.forks := rfl
@[simp] theorem State.retire_heldWrites (s : State) (ls : List Nat) : (s.retire ls).heldWrites = s.heldWrites := rfl
@[simp] theorem State.retire_posted (s : State) (ls : List Nat) : (s.retire ls).posted = s.posted := rfl
@[simp] theorem State.retire_migrations (s : State) (ls : List Nat) : (s.retire ls).migrations = s.migrations := rfl
@[simp] theorem State.retire_held (s : State) (ls : List Nat) : (s.retire ls).held = s.held := rfl
@[simp] theorem State.retire_stops (s : State) (ls : List Nat) : (s.retire ls).stops = s.stops := rfl
@[simp] theorem State.retire_hostReads (s : State) (ls : List Nat) : (s.retire ls).hostReads = s.hostReads := rfl
@[simp] theorem State.retire_barReads (s : State) (ls : List Nat) : (s.retire ls).barReads = s.barReads := rfl
@[simp] theorem State.retire_awayResv (s : State) (ls : List Nat) : (s.retire ls).awayResv = s.awayResv := rfl
@[simp] theorem State.retire_mail (s : State) (ls : List Nat) : (s.retire ls).mail = s.mail := rfl
@[simp] theorem State.retire_hostOut (s : State) (ls : List Nat) : (s.retire ls).hostOut = s.hostOut := rfl
@[simp] theorem State.retire_stamp (s : State) (ls : List Nat) : (s.retire ls).stamp = s.stamp := rfl
@[simp] theorem State.retire_free (s : State) (ls : List Nat) : (s.retire ls).free = s.free := rfl
@[simp] theorem State.retire_selected (s : State) (ls : List Nat) : (s.retire ls).selected = s.selected := rfl
@[simp] theorem State.retire_cur (s : State) (ls : List Nat) : (s.retire ls).cur = s.cur := rfl
@[simp] theorem State.retire_agenda (s : State) (ls : List Nat) : (s.retire ls).agenda = s.agenda := rfl

/-! Lanes that wait. -/

@[simp] theorem State.park_mem (s : State) (ls : List Nat) (p : Park) : (s.park ls p).mem = s.mem := rfl
@[simp] theorem State.park_poison (s : State) (ls : List Nat) (p : Park) : (s.park ls p).poison = s.poison := rfl
@[simp] theorem State.park_padPoison (s : State) (ls : List Nat) (p : Park) : (s.park ls p).padPoison = s.padPoison := rfl
@[simp] theorem State.park_scopes (s : State) (ls : List Nat) (p : Park) : (s.park ls p).scopes = s.scopes := rfl
@[simp] theorem State.park_cores (s : State) (ls : List Nat) (p : Park) : (s.park ls p).cores = s.cores := rfl
@[simp] theorem State.park_dies (s : State) (ls : List Nat) (p : Park) : (s.park ls p).dies = s.dies := rfl
@[simp] theorem State.park_hosts (s : State) (ls : List Nat) (p : Park) : (s.park ls p).hosts = s.hosts := rfl
@[simp] theorem State.park_fabric (s : State) (ls : List Nat) (p : Park) : (s.park ls p).fabric = s.fabric := rfl
@[simp] theorem State.park_mgmt (s : State) (ls : List Nat) (p : Park) : (s.park ls p).mgmt = s.mgmt := rfl
@[simp] theorem State.park_jobs (s : State) (ls : List Nat) (p : Park) : (s.park ls p).jobs = s.jobs := rfl
@[simp] theorem State.park_grids (s : State) (ls : List Nat) (p : Park) : (s.park ls p).grids = s.grids := rfl
@[simp] theorem State.park_forks (s : State) (ls : List Nat) (p : Park) : (s.park ls p).forks = s.forks := rfl
@[simp] theorem State.park_heldWrites (s : State) (ls : List Nat) (p : Park) : (s.park ls p).heldWrites = s.heldWrites := rfl
@[simp] theorem State.park_posted (s : State) (ls : List Nat) (p : Park) : (s.park ls p).posted = s.posted := rfl
@[simp] theorem State.park_migrations (s : State) (ls : List Nat) (p : Park) : (s.park ls p).migrations = s.migrations := rfl
@[simp] theorem State.park_held (s : State) (ls : List Nat) (p : Park) : (s.park ls p).held = s.held := rfl
@[simp] theorem State.park_stops (s : State) (ls : List Nat) (p : Park) : (s.park ls p).stops = s.stops := rfl
@[simp] theorem State.park_hostReads (s : State) (ls : List Nat) (p : Park) : (s.park ls p).hostReads = s.hostReads := rfl
@[simp] theorem State.park_barReads (s : State) (ls : List Nat) (p : Park) : (s.park ls p).barReads = s.barReads := rfl
@[simp] theorem State.park_awayResv (s : State) (ls : List Nat) (p : Park) : (s.park ls p).awayResv = s.awayResv := rfl
@[simp] theorem State.park_mail (s : State) (ls : List Nat) (p : Park) : (s.park ls p).mail = s.mail := rfl
@[simp] theorem State.park_hostOut (s : State) (ls : List Nat) (p : Park) : (s.park ls p).hostOut = s.hostOut := rfl
@[simp] theorem State.park_stamp (s : State) (ls : List Nat) (p : Park) : (s.park ls p).stamp = s.stamp := rfl
@[simp] theorem State.park_free (s : State) (ls : List Nat) (p : Park) : (s.park ls p).free = s.free := rfl
@[simp] theorem State.park_selected (s : State) (ls : List Nat) (p : Park) : (s.park ls p).selected = s.selected := rfl
@[simp] theorem State.park_cur (s : State) (ls : List Nat) (p : Park) : (s.park ls p).cur = s.cur := rfl
@[simp] theorem State.park_agenda (s : State) (ls : List Nat) (p : Park) : (s.park ls p).agenda = s.agenda := rfl

/-! Registers written. -/

@[simp] theorem State.writes_mem (s : State) (os : List RegOut) : (s.writes os).mem = s.mem := rfl
@[simp] theorem State.writes_poison (s : State) (os : List RegOut) : (s.writes os).poison = s.poison := rfl
@[simp] theorem State.writes_padPoison (s : State) (os : List RegOut) : (s.writes os).padPoison = s.padPoison := rfl
@[simp] theorem State.writes_scopes (s : State) (os : List RegOut) : (s.writes os).scopes = s.scopes := rfl
@[simp] theorem State.writes_cores (s : State) (os : List RegOut) : (s.writes os).cores = s.cores := rfl
@[simp] theorem State.writes_dies (s : State) (os : List RegOut) : (s.writes os).dies = s.dies := rfl
@[simp] theorem State.writes_hosts (s : State) (os : List RegOut) : (s.writes os).hosts = s.hosts := rfl
@[simp] theorem State.writes_fabric (s : State) (os : List RegOut) : (s.writes os).fabric = s.fabric := rfl
@[simp] theorem State.writes_mgmt (s : State) (os : List RegOut) : (s.writes os).mgmt = s.mgmt := rfl
@[simp] theorem State.writes_jobs (s : State) (os : List RegOut) : (s.writes os).jobs = s.jobs := rfl
@[simp] theorem State.writes_grids (s : State) (os : List RegOut) : (s.writes os).grids = s.grids := rfl
@[simp] theorem State.writes_forks (s : State) (os : List RegOut) : (s.writes os).forks = s.forks := rfl
@[simp] theorem State.writes_heldWrites (s : State) (os : List RegOut) : (s.writes os).heldWrites = s.heldWrites := rfl
@[simp] theorem State.writes_posted (s : State) (os : List RegOut) : (s.writes os).posted = s.posted := rfl
@[simp] theorem State.writes_migrations (s : State) (os : List RegOut) : (s.writes os).migrations = s.migrations := rfl
@[simp] theorem State.writes_held (s : State) (os : List RegOut) : (s.writes os).held = s.held := rfl
@[simp] theorem State.writes_stops (s : State) (os : List RegOut) : (s.writes os).stops = s.stops := rfl
@[simp] theorem State.writes_hostReads (s : State) (os : List RegOut) : (s.writes os).hostReads = s.hostReads := rfl
@[simp] theorem State.writes_barReads (s : State) (os : List RegOut) : (s.writes os).barReads = s.barReads := rfl
@[simp] theorem State.writes_awayResv (s : State) (os : List RegOut) : (s.writes os).awayResv = s.awayResv := rfl
@[simp] theorem State.writes_mail (s : State) (os : List RegOut) : (s.writes os).mail = s.mail := rfl
@[simp] theorem State.writes_hostOut (s : State) (os : List RegOut) : (s.writes os).hostOut = s.hostOut := rfl
@[simp] theorem State.writes_stamp (s : State) (os : List RegOut) : (s.writes os).stamp = s.stamp := rfl
@[simp] theorem State.writes_free (s : State) (os : List RegOut) : (s.writes os).free = s.free := rfl
@[simp] theorem State.writes_selected (s : State) (os : List RegOut) : (s.writes os).selected = s.selected := rfl
@[simp] theorem State.writes_cur (s : State) (os : List RegOut) : (s.writes os).cur = s.cur := rfl
@[simp] theorem State.writes_agenda (s : State) (os : List RegOut) : (s.writes os).agenda = s.agenda := rfl

/-! Sticky flags set. -/

@[simp] theorem State.setFlags_mem (s : State) (fl : List (Nat × BitVec 5)) : (s.setFlags fl).mem = s.mem := rfl
@[simp] theorem State.setFlags_poison (s : State) (fl : List (Nat × BitVec 5)) : (s.setFlags fl).poison = s.poison := rfl
@[simp] theorem State.setFlags_padPoison (s : State) (fl : List (Nat × BitVec 5)) : (s.setFlags fl).padPoison = s.padPoison := rfl
@[simp] theorem State.setFlags_scopes (s : State) (fl : List (Nat × BitVec 5)) : (s.setFlags fl).scopes = s.scopes := rfl
@[simp] theorem State.setFlags_cores (s : State) (fl : List (Nat × BitVec 5)) : (s.setFlags fl).cores = s.cores := rfl
@[simp] theorem State.setFlags_dies (s : State) (fl : List (Nat × BitVec 5)) : (s.setFlags fl).dies = s.dies := rfl
@[simp] theorem State.setFlags_hosts (s : State) (fl : List (Nat × BitVec 5)) : (s.setFlags fl).hosts = s.hosts := rfl
@[simp] theorem State.setFlags_fabric (s : State) (fl : List (Nat × BitVec 5)) : (s.setFlags fl).fabric = s.fabric := rfl
@[simp] theorem State.setFlags_mgmt (s : State) (fl : List (Nat × BitVec 5)) : (s.setFlags fl).mgmt = s.mgmt := rfl
@[simp] theorem State.setFlags_jobs (s : State) (fl : List (Nat × BitVec 5)) : (s.setFlags fl).jobs = s.jobs := rfl
@[simp] theorem State.setFlags_grids (s : State) (fl : List (Nat × BitVec 5)) : (s.setFlags fl).grids = s.grids := rfl
@[simp] theorem State.setFlags_forks (s : State) (fl : List (Nat × BitVec 5)) : (s.setFlags fl).forks = s.forks := rfl
@[simp] theorem State.setFlags_heldWrites (s : State) (fl : List (Nat × BitVec 5)) : (s.setFlags fl).heldWrites = s.heldWrites := rfl
@[simp] theorem State.setFlags_posted (s : State) (fl : List (Nat × BitVec 5)) : (s.setFlags fl).posted = s.posted := rfl
@[simp] theorem State.setFlags_migrations (s : State) (fl : List (Nat × BitVec 5)) : (s.setFlags fl).migrations = s.migrations := rfl
@[simp] theorem State.setFlags_held (s : State) (fl : List (Nat × BitVec 5)) : (s.setFlags fl).held = s.held := rfl
@[simp] theorem State.setFlags_stops (s : State) (fl : List (Nat × BitVec 5)) : (s.setFlags fl).stops = s.stops := rfl
@[simp] theorem State.setFlags_hostReads (s : State) (fl : List (Nat × BitVec 5)) : (s.setFlags fl).hostReads = s.hostReads := rfl
@[simp] theorem State.setFlags_barReads (s : State) (fl : List (Nat × BitVec 5)) : (s.setFlags fl).barReads = s.barReads := rfl
@[simp] theorem State.setFlags_awayResv (s : State) (fl : List (Nat × BitVec 5)) : (s.setFlags fl).awayResv = s.awayResv := rfl
@[simp] theorem State.setFlags_mail (s : State) (fl : List (Nat × BitVec 5)) : (s.setFlags fl).mail = s.mail := rfl
@[simp] theorem State.setFlags_hostOut (s : State) (fl : List (Nat × BitVec 5)) : (s.setFlags fl).hostOut = s.hostOut := rfl
@[simp] theorem State.setFlags_stamp (s : State) (fl : List (Nat × BitVec 5)) : (s.setFlags fl).stamp = s.stamp := rfl
@[simp] theorem State.setFlags_free (s : State) (fl : List (Nat × BitVec 5)) : (s.setFlags fl).free = s.free := rfl
@[simp] theorem State.setFlags_selected (s : State) (fl : List (Nat × BitVec 5)) : (s.setFlags fl).selected = s.selected := rfl
@[simp] theorem State.setFlags_cur (s : State) (fl : List (Nat × BitVec 5)) : (s.setFlags fl).cur = s.cur := rfl
@[simp] theorem State.setFlags_agenda (s : State) (fl : List (Nat × BitVec 5)) : (s.setFlags fl).agenda = s.agenda := rfl

/-! One grid changed. -/

@[simp] theorem State.updGrid_mem (s : State) (k : Nat) (f : Grid → Grid) : (s.updGrid k f).mem = s.mem := rfl
@[simp] theorem State.updGrid_poison (s : State) (k : Nat) (f : Grid → Grid) : (s.updGrid k f).poison = s.poison := rfl
@[simp] theorem State.updGrid_padPoison (s : State) (k : Nat) (f : Grid → Grid) : (s.updGrid k f).padPoison = s.padPoison := rfl
@[simp] theorem State.updGrid_scopes (s : State) (k : Nat) (f : Grid → Grid) : (s.updGrid k f).scopes = s.scopes := rfl
@[simp] theorem State.updGrid_cores (s : State) (k : Nat) (f : Grid → Grid) : (s.updGrid k f).cores = s.cores := rfl
@[simp] theorem State.updGrid_dies (s : State) (k : Nat) (f : Grid → Grid) : (s.updGrid k f).dies = s.dies := rfl
@[simp] theorem State.updGrid_hosts (s : State) (k : Nat) (f : Grid → Grid) : (s.updGrid k f).hosts = s.hosts := rfl
@[simp] theorem State.updGrid_fabric (s : State) (k : Nat) (f : Grid → Grid) : (s.updGrid k f).fabric = s.fabric := rfl
@[simp] theorem State.updGrid_mgmt (s : State) (k : Nat) (f : Grid → Grid) : (s.updGrid k f).mgmt = s.mgmt := rfl
@[simp] theorem State.updGrid_jobs (s : State) (k : Nat) (f : Grid → Grid) : (s.updGrid k f).jobs = s.jobs := rfl
@[simp] theorem State.updGrid_blocks (s : State) (k : Nat) (f : Grid → Grid) : (s.updGrid k f).blocks = s.blocks := rfl
@[simp] theorem State.updGrid_forks (s : State) (k : Nat) (f : Grid → Grid) : (s.updGrid k f).forks = s.forks := rfl
@[simp] theorem State.updGrid_heldWrites (s : State) (k : Nat) (f : Grid → Grid) : (s.updGrid k f).heldWrites = s.heldWrites := rfl
@[simp] theorem State.updGrid_posted (s : State) (k : Nat) (f : Grid → Grid) : (s.updGrid k f).posted = s.posted := rfl
@[simp] theorem State.updGrid_migrations (s : State) (k : Nat) (f : Grid → Grid) : (s.updGrid k f).migrations = s.migrations := rfl
@[simp] theorem State.updGrid_held (s : State) (k : Nat) (f : Grid → Grid) : (s.updGrid k f).held = s.held := rfl
@[simp] theorem State.updGrid_stops (s : State) (k : Nat) (f : Grid → Grid) : (s.updGrid k f).stops = s.stops := rfl
@[simp] theorem State.updGrid_hostReads (s : State) (k : Nat) (f : Grid → Grid) : (s.updGrid k f).hostReads = s.hostReads := rfl
@[simp] theorem State.updGrid_barReads (s : State) (k : Nat) (f : Grid → Grid) : (s.updGrid k f).barReads = s.barReads := rfl
@[simp] theorem State.updGrid_awayResv (s : State) (k : Nat) (f : Grid → Grid) : (s.updGrid k f).awayResv = s.awayResv := rfl
@[simp] theorem State.updGrid_mail (s : State) (k : Nat) (f : Grid → Grid) : (s.updGrid k f).mail = s.mail := rfl
@[simp] theorem State.updGrid_hostOut (s : State) (k : Nat) (f : Grid → Grid) : (s.updGrid k f).hostOut = s.hostOut := rfl
@[simp] theorem State.updGrid_stamp (s : State) (k : Nat) (f : Grid → Grid) : (s.updGrid k f).stamp = s.stamp := rfl
@[simp] theorem State.updGrid_free (s : State) (k : Nat) (f : Grid → Grid) : (s.updGrid k f).free = s.free := rfl
@[simp] theorem State.updGrid_selected (s : State) (k : Nat) (f : Grid → Grid) : (s.updGrid k f).selected = s.selected := rfl
@[simp] theorem State.updGrid_cur (s : State) (k : Nat) (f : Grid → Grid) : (s.updGrid k f).cur = s.cur := rfl
@[simp] theorem State.updGrid_agenda (s : State) (k : Nat) (f : Grid → Grid) : (s.updGrid k f).agenda = s.agenda := rfl

/-! One fork changed. -/

@[simp] theorem State.updFork_mem (s : State) (k : Nat) (f : Fork → Fork) : (s.updFork k f).mem = s.mem := rfl
@[simp] theorem State.updFork_poison (s : State) (k : Nat) (f : Fork → Fork) : (s.updFork k f).poison = s.poison := rfl
@[simp] theorem State.updFork_padPoison (s : State) (k : Nat) (f : Fork → Fork) : (s.updFork k f).padPoison = s.padPoison := rfl
@[simp] theorem State.updFork_scopes (s : State) (k : Nat) (f : Fork → Fork) : (s.updFork k f).scopes = s.scopes := rfl
@[simp] theorem State.updFork_cores (s : State) (k : Nat) (f : Fork → Fork) : (s.updFork k f).cores = s.cores := rfl
@[simp] theorem State.updFork_dies (s : State) (k : Nat) (f : Fork → Fork) : (s.updFork k f).dies = s.dies := rfl
@[simp] theorem State.updFork_hosts (s : State) (k : Nat) (f : Fork → Fork) : (s.updFork k f).hosts = s.hosts := rfl
@[simp] theorem State.updFork_fabric (s : State) (k : Nat) (f : Fork → Fork) : (s.updFork k f).fabric = s.fabric := rfl
@[simp] theorem State.updFork_mgmt (s : State) (k : Nat) (f : Fork → Fork) : (s.updFork k f).mgmt = s.mgmt := rfl
@[simp] theorem State.updFork_jobs (s : State) (k : Nat) (f : Fork → Fork) : (s.updFork k f).jobs = s.jobs := rfl
@[simp] theorem State.updFork_grids (s : State) (k : Nat) (f : Fork → Fork) : (s.updFork k f).grids = s.grids := rfl
@[simp] theorem State.updFork_blocks (s : State) (k : Nat) (f : Fork → Fork) : (s.updFork k f).blocks = s.blocks := rfl
@[simp] theorem State.updFork_heldWrites (s : State) (k : Nat) (f : Fork → Fork) : (s.updFork k f).heldWrites = s.heldWrites := rfl
@[simp] theorem State.updFork_posted (s : State) (k : Nat) (f : Fork → Fork) : (s.updFork k f).posted = s.posted := rfl
@[simp] theorem State.updFork_migrations (s : State) (k : Nat) (f : Fork → Fork) : (s.updFork k f).migrations = s.migrations := rfl
@[simp] theorem State.updFork_held (s : State) (k : Nat) (f : Fork → Fork) : (s.updFork k f).held = s.held := rfl
@[simp] theorem State.updFork_stops (s : State) (k : Nat) (f : Fork → Fork) : (s.updFork k f).stops = s.stops := rfl
@[simp] theorem State.updFork_hostReads (s : State) (k : Nat) (f : Fork → Fork) : (s.updFork k f).hostReads = s.hostReads := rfl
@[simp] theorem State.updFork_barReads (s : State) (k : Nat) (f : Fork → Fork) : (s.updFork k f).barReads = s.barReads := rfl
@[simp] theorem State.updFork_awayResv (s : State) (k : Nat) (f : Fork → Fork) : (s.updFork k f).awayResv = s.awayResv := rfl
@[simp] theorem State.updFork_mail (s : State) (k : Nat) (f : Fork → Fork) : (s.updFork k f).mail = s.mail := rfl
@[simp] theorem State.updFork_hostOut (s : State) (k : Nat) (f : Fork → Fork) : (s.updFork k f).hostOut = s.hostOut := rfl
@[simp] theorem State.updFork_stamp (s : State) (k : Nat) (f : Fork → Fork) : (s.updFork k f).stamp = s.stamp := rfl
@[simp] theorem State.updFork_free (s : State) (k : Nat) (f : Fork → Fork) : (s.updFork k f).free = s.free := rfl
@[simp] theorem State.updFork_selected (s : State) (k : Nat) (f : Fork → Fork) : (s.updFork k f).selected = s.selected := rfl
@[simp] theorem State.updFork_cur (s : State) (k : Nat) (f : Fork → Fork) : (s.updFork k f).cur = s.cur := rfl
@[simp] theorem State.updFork_agenda (s : State) (k : Nat) (f : Fork → Fork) : (s.updFork k f).agenda = s.agenda := rfl

/-! One core changed. -/

@[simp] theorem State.updCore_mem (s : State) (i : Nat) (f : Core → Core) : (s.updCore i f).mem = s.mem := rfl
@[simp] theorem State.updCore_poison (s : State) (i : Nat) (f : Core → Core) : (s.updCore i f).poison = s.poison := rfl
@[simp] theorem State.updCore_padPoison (s : State) (i : Nat) (f : Core → Core) : (s.updCore i f).padPoison = s.padPoison := rfl
@[simp] theorem State.updCore_scopes (s : State) (i : Nat) (f : Core → Core) : (s.updCore i f).scopes = s.scopes := rfl
@[simp] theorem State.updCore_dies (s : State) (i : Nat) (f : Core → Core) : (s.updCore i f).dies = s.dies := rfl
@[simp] theorem State.updCore_hosts (s : State) (i : Nat) (f : Core → Core) : (s.updCore i f).hosts = s.hosts := rfl
@[simp] theorem State.updCore_fabric (s : State) (i : Nat) (f : Core → Core) : (s.updCore i f).fabric = s.fabric := rfl
@[simp] theorem State.updCore_mgmt (s : State) (i : Nat) (f : Core → Core) : (s.updCore i f).mgmt = s.mgmt := rfl
@[simp] theorem State.updCore_jobs (s : State) (i : Nat) (f : Core → Core) : (s.updCore i f).jobs = s.jobs := rfl
@[simp] theorem State.updCore_grids (s : State) (i : Nat) (f : Core → Core) : (s.updCore i f).grids = s.grids := rfl
@[simp] theorem State.updCore_blocks (s : State) (i : Nat) (f : Core → Core) : (s.updCore i f).blocks = s.blocks := rfl
@[simp] theorem State.updCore_forks (s : State) (i : Nat) (f : Core → Core) : (s.updCore i f).forks = s.forks := rfl
@[simp] theorem State.updCore_heldWrites (s : State) (i : Nat) (f : Core → Core) : (s.updCore i f).heldWrites = s.heldWrites := rfl
@[simp] theorem State.updCore_posted (s : State) (i : Nat) (f : Core → Core) : (s.updCore i f).posted = s.posted := rfl
@[simp] theorem State.updCore_migrations (s : State) (i : Nat) (f : Core → Core) : (s.updCore i f).migrations = s.migrations := rfl
@[simp] theorem State.updCore_held (s : State) (i : Nat) (f : Core → Core) : (s.updCore i f).held = s.held := rfl
@[simp] theorem State.updCore_stops (s : State) (i : Nat) (f : Core → Core) : (s.updCore i f).stops = s.stops := rfl
@[simp] theorem State.updCore_hostReads (s : State) (i : Nat) (f : Core → Core) : (s.updCore i f).hostReads = s.hostReads := rfl
@[simp] theorem State.updCore_barReads (s : State) (i : Nat) (f : Core → Core) : (s.updCore i f).barReads = s.barReads := rfl
@[simp] theorem State.updCore_awayResv (s : State) (i : Nat) (f : Core → Core) : (s.updCore i f).awayResv = s.awayResv := rfl
@[simp] theorem State.updCore_mail (s : State) (i : Nat) (f : Core → Core) : (s.updCore i f).mail = s.mail := rfl
@[simp] theorem State.updCore_hostOut (s : State) (i : Nat) (f : Core → Core) : (s.updCore i f).hostOut = s.hostOut := rfl
@[simp] theorem State.updCore_stamp (s : State) (i : Nat) (f : Core → Core) : (s.updCore i f).stamp = s.stamp := rfl
@[simp] theorem State.updCore_free (s : State) (i : Nat) (f : Core → Core) : (s.updCore i f).free = s.free := rfl
@[simp] theorem State.updCore_selected (s : State) (i : Nat) (f : Core → Core) : (s.updCore i f).selected = s.selected := rfl
@[simp] theorem State.updCore_cur (s : State) (i : Nat) (f : Core → Core) : (s.updCore i f).cur = s.cur := rfl
@[simp] theorem State.updCore_agenda (s : State) (i : Nat) (f : Core → Core) : (s.updCore i f).agenda = s.agenda := rfl

/-! One die changed. -/

@[simp] theorem State.updDie_mem (s : State) (i : Nat) (f : Die → Die) : (s.updDie i f).mem = s.mem := rfl
@[simp] theorem State.updDie_poison (s : State) (i : Nat) (f : Die → Die) : (s.updDie i f).poison = s.poison := rfl
@[simp] theorem State.updDie_padPoison (s : State) (i : Nat) (f : Die → Die) : (s.updDie i f).padPoison = s.padPoison := rfl
@[simp] theorem State.updDie_scopes (s : State) (i : Nat) (f : Die → Die) : (s.updDie i f).scopes = s.scopes := rfl
@[simp] theorem State.updDie_cores (s : State) (i : Nat) (f : Die → Die) : (s.updDie i f).cores = s.cores := rfl
@[simp] theorem State.updDie_hosts (s : State) (i : Nat) (f : Die → Die) : (s.updDie i f).hosts = s.hosts := rfl
@[simp] theorem State.updDie_fabric (s : State) (i : Nat) (f : Die → Die) : (s.updDie i f).fabric = s.fabric := rfl
@[simp] theorem State.updDie_mgmt (s : State) (i : Nat) (f : Die → Die) : (s.updDie i f).mgmt = s.mgmt := rfl
@[simp] theorem State.updDie_jobs (s : State) (i : Nat) (f : Die → Die) : (s.updDie i f).jobs = s.jobs := rfl
@[simp] theorem State.updDie_grids (s : State) (i : Nat) (f : Die → Die) : (s.updDie i f).grids = s.grids := rfl
@[simp] theorem State.updDie_blocks (s : State) (i : Nat) (f : Die → Die) : (s.updDie i f).blocks = s.blocks := rfl
@[simp] theorem State.updDie_forks (s : State) (i : Nat) (f : Die → Die) : (s.updDie i f).forks = s.forks := rfl
@[simp] theorem State.updDie_heldWrites (s : State) (i : Nat) (f : Die → Die) : (s.updDie i f).heldWrites = s.heldWrites := rfl
@[simp] theorem State.updDie_posted (s : State) (i : Nat) (f : Die → Die) : (s.updDie i f).posted = s.posted := rfl
@[simp] theorem State.updDie_migrations (s : State) (i : Nat) (f : Die → Die) : (s.updDie i f).migrations = s.migrations := rfl
@[simp] theorem State.updDie_held (s : State) (i : Nat) (f : Die → Die) : (s.updDie i f).held = s.held := rfl
@[simp] theorem State.updDie_stops (s : State) (i : Nat) (f : Die → Die) : (s.updDie i f).stops = s.stops := rfl
@[simp] theorem State.updDie_hostReads (s : State) (i : Nat) (f : Die → Die) : (s.updDie i f).hostReads = s.hostReads := rfl
@[simp] theorem State.updDie_barReads (s : State) (i : Nat) (f : Die → Die) : (s.updDie i f).barReads = s.barReads := rfl
@[simp] theorem State.updDie_awayResv (s : State) (i : Nat) (f : Die → Die) : (s.updDie i f).awayResv = s.awayResv := rfl
@[simp] theorem State.updDie_mail (s : State) (i : Nat) (f : Die → Die) : (s.updDie i f).mail = s.mail := rfl
@[simp] theorem State.updDie_hostOut (s : State) (i : Nat) (f : Die → Die) : (s.updDie i f).hostOut = s.hostOut := rfl
@[simp] theorem State.updDie_stamp (s : State) (i : Nat) (f : Die → Die) : (s.updDie i f).stamp = s.stamp := rfl
@[simp] theorem State.updDie_free (s : State) (i : Nat) (f : Die → Die) : (s.updDie i f).free = s.free := rfl
@[simp] theorem State.updDie_selected (s : State) (i : Nat) (f : Die → Die) : (s.updDie i f).selected = s.selected := rfl
@[simp] theorem State.updDie_cur (s : State) (i : Nat) (f : Die → Die) : (s.updDie i f).cur = s.cur := rfl
@[simp] theorem State.updDie_agenda (s : State) (i : Nat) (f : Die → Die) : (s.updDie i f).agenda = s.agenda := rfl

/-! One host port changed. -/

@[simp] theorem State.updHost_mem (s : State) (p : Nat) (f : HostPort → HostPort) : (s.updHost p f).mem = s.mem := rfl
@[simp] theorem State.updHost_poison (s : State) (p : Nat) (f : HostPort → HostPort) : (s.updHost p f).poison = s.poison := rfl
@[simp] theorem State.updHost_padPoison (s : State) (p : Nat) (f : HostPort → HostPort) : (s.updHost p f).padPoison = s.padPoison := rfl
@[simp] theorem State.updHost_scopes (s : State) (p : Nat) (f : HostPort → HostPort) : (s.updHost p f).scopes = s.scopes := rfl
@[simp] theorem State.updHost_cores (s : State) (p : Nat) (f : HostPort → HostPort) : (s.updHost p f).cores = s.cores := rfl
@[simp] theorem State.updHost_dies (s : State) (p : Nat) (f : HostPort → HostPort) : (s.updHost p f).dies = s.dies := rfl
@[simp] theorem State.updHost_fabric (s : State) (p : Nat) (f : HostPort → HostPort) : (s.updHost p f).fabric = s.fabric := rfl
@[simp] theorem State.updHost_mgmt (s : State) (p : Nat) (f : HostPort → HostPort) : (s.updHost p f).mgmt = s.mgmt := rfl
@[simp] theorem State.updHost_jobs (s : State) (p : Nat) (f : HostPort → HostPort) : (s.updHost p f).jobs = s.jobs := rfl
@[simp] theorem State.updHost_grids (s : State) (p : Nat) (f : HostPort → HostPort) : (s.updHost p f).grids = s.grids := rfl
@[simp] theorem State.updHost_blocks (s : State) (p : Nat) (f : HostPort → HostPort) : (s.updHost p f).blocks = s.blocks := rfl
@[simp] theorem State.updHost_forks (s : State) (p : Nat) (f : HostPort → HostPort) : (s.updHost p f).forks = s.forks := rfl
@[simp] theorem State.updHost_heldWrites (s : State) (p : Nat) (f : HostPort → HostPort) : (s.updHost p f).heldWrites = s.heldWrites := rfl
@[simp] theorem State.updHost_posted (s : State) (p : Nat) (f : HostPort → HostPort) : (s.updHost p f).posted = s.posted := rfl
@[simp] theorem State.updHost_migrations (s : State) (p : Nat) (f : HostPort → HostPort) : (s.updHost p f).migrations = s.migrations := rfl
@[simp] theorem State.updHost_held (s : State) (p : Nat) (f : HostPort → HostPort) : (s.updHost p f).held = s.held := rfl
@[simp] theorem State.updHost_stops (s : State) (p : Nat) (f : HostPort → HostPort) : (s.updHost p f).stops = s.stops := rfl
@[simp] theorem State.updHost_hostReads (s : State) (p : Nat) (f : HostPort → HostPort) : (s.updHost p f).hostReads = s.hostReads := rfl
@[simp] theorem State.updHost_barReads (s : State) (p : Nat) (f : HostPort → HostPort) : (s.updHost p f).barReads = s.barReads := rfl
@[simp] theorem State.updHost_awayResv (s : State) (p : Nat) (f : HostPort → HostPort) : (s.updHost p f).awayResv = s.awayResv := rfl
@[simp] theorem State.updHost_mail (s : State) (p : Nat) (f : HostPort → HostPort) : (s.updHost p f).mail = s.mail := rfl
@[simp] theorem State.updHost_hostOut (s : State) (p : Nat) (f : HostPort → HostPort) : (s.updHost p f).hostOut = s.hostOut := rfl
@[simp] theorem State.updHost_stamp (s : State) (p : Nat) (f : HostPort → HostPort) : (s.updHost p f).stamp = s.stamp := rfl
@[simp] theorem State.updHost_free (s : State) (p : Nat) (f : HostPort → HostPort) : (s.updHost p f).free = s.free := rfl
@[simp] theorem State.updHost_selected (s : State) (p : Nat) (f : HostPort → HostPort) : (s.updHost p f).selected = s.selected := rfl
@[simp] theorem State.updHost_cur (s : State) (p : Nat) (f : HostPort → HostPort) : (s.updHost p f).cur = s.cur := rfl
@[simp] theorem State.updHost_agenda (s : State) (p : Nat) (f : HostPort → HostPort) : (s.updHost p f).agenda = s.agenda := rfl

/-! One fabric port changed. -/

@[simp] theorem State.updPort_mem (s : State) (p : Nat) (f : FabPort → FabPort) : (s.updPort p f).mem = s.mem := rfl
@[simp] theorem State.updPort_poison (s : State) (p : Nat) (f : FabPort → FabPort) : (s.updPort p f).poison = s.poison := rfl
@[simp] theorem State.updPort_padPoison (s : State) (p : Nat) (f : FabPort → FabPort) : (s.updPort p f).padPoison = s.padPoison := rfl
@[simp] theorem State.updPort_scopes (s : State) (p : Nat) (f : FabPort → FabPort) : (s.updPort p f).scopes = s.scopes := rfl
@[simp] theorem State.updPort_cores (s : State) (p : Nat) (f : FabPort → FabPort) : (s.updPort p f).cores = s.cores := rfl
@[simp] theorem State.updPort_dies (s : State) (p : Nat) (f : FabPort → FabPort) : (s.updPort p f).dies = s.dies := rfl
@[simp] theorem State.updPort_hosts (s : State) (p : Nat) (f : FabPort → FabPort) : (s.updPort p f).hosts = s.hosts := rfl
@[simp] theorem State.updPort_mgmt (s : State) (p : Nat) (f : FabPort → FabPort) : (s.updPort p f).mgmt = s.mgmt := rfl
@[simp] theorem State.updPort_jobs (s : State) (p : Nat) (f : FabPort → FabPort) : (s.updPort p f).jobs = s.jobs := rfl
@[simp] theorem State.updPort_grids (s : State) (p : Nat) (f : FabPort → FabPort) : (s.updPort p f).grids = s.grids := rfl
@[simp] theorem State.updPort_blocks (s : State) (p : Nat) (f : FabPort → FabPort) : (s.updPort p f).blocks = s.blocks := rfl
@[simp] theorem State.updPort_forks (s : State) (p : Nat) (f : FabPort → FabPort) : (s.updPort p f).forks = s.forks := rfl
@[simp] theorem State.updPort_heldWrites (s : State) (p : Nat) (f : FabPort → FabPort) : (s.updPort p f).heldWrites = s.heldWrites := rfl
@[simp] theorem State.updPort_posted (s : State) (p : Nat) (f : FabPort → FabPort) : (s.updPort p f).posted = s.posted := rfl
@[simp] theorem State.updPort_migrations (s : State) (p : Nat) (f : FabPort → FabPort) : (s.updPort p f).migrations = s.migrations := rfl
@[simp] theorem State.updPort_held (s : State) (p : Nat) (f : FabPort → FabPort) : (s.updPort p f).held = s.held := rfl
@[simp] theorem State.updPort_stops (s : State) (p : Nat) (f : FabPort → FabPort) : (s.updPort p f).stops = s.stops := rfl
@[simp] theorem State.updPort_hostReads (s : State) (p : Nat) (f : FabPort → FabPort) : (s.updPort p f).hostReads = s.hostReads := rfl
@[simp] theorem State.updPort_barReads (s : State) (p : Nat) (f : FabPort → FabPort) : (s.updPort p f).barReads = s.barReads := rfl
@[simp] theorem State.updPort_awayResv (s : State) (p : Nat) (f : FabPort → FabPort) : (s.updPort p f).awayResv = s.awayResv := rfl
@[simp] theorem State.updPort_mail (s : State) (p : Nat) (f : FabPort → FabPort) : (s.updPort p f).mail = s.mail := rfl
@[simp] theorem State.updPort_hostOut (s : State) (p : Nat) (f : FabPort → FabPort) : (s.updPort p f).hostOut = s.hostOut := rfl
@[simp] theorem State.updPort_stamp (s : State) (p : Nat) (f : FabPort → FabPort) : (s.updPort p f).stamp = s.stamp := rfl
@[simp] theorem State.updPort_free (s : State) (p : Nat) (f : FabPort → FabPort) : (s.updPort p f).free = s.free := rfl
@[simp] theorem State.updPort_selected (s : State) (p : Nat) (f : FabPort → FabPort) : (s.updPort p f).selected = s.selected := rfl
@[simp] theorem State.updPort_cur (s : State) (p : Nat) (f : FabPort → FabPort) : (s.updPort p f).cur = s.cur := rfl
@[simp] theorem State.updPort_agenda (s : State) (p : Nat) (f : FabPort → FabPort) : (s.updPort p f).agenda = s.agenda := rfl

/-! A message to a host. -/

@[simp] theorem State.send_mem (s : State) (m : HostMsg) : (s.send m).mem = s.mem := rfl
@[simp] theorem State.send_poison (s : State) (m : HostMsg) : (s.send m).poison = s.poison := rfl
@[simp] theorem State.send_padPoison (s : State) (m : HostMsg) : (s.send m).padPoison = s.padPoison := rfl
@[simp] theorem State.send_scopes (s : State) (m : HostMsg) : (s.send m).scopes = s.scopes := rfl
@[simp] theorem State.send_cores (s : State) (m : HostMsg) : (s.send m).cores = s.cores := rfl
@[simp] theorem State.send_dies (s : State) (m : HostMsg) : (s.send m).dies = s.dies := rfl
@[simp] theorem State.send_hosts (s : State) (m : HostMsg) : (s.send m).hosts = s.hosts := rfl
@[simp] theorem State.send_fabric (s : State) (m : HostMsg) : (s.send m).fabric = s.fabric := rfl
@[simp] theorem State.send_mgmt (s : State) (m : HostMsg) : (s.send m).mgmt = s.mgmt := rfl
@[simp] theorem State.send_jobs (s : State) (m : HostMsg) : (s.send m).jobs = s.jobs := rfl
@[simp] theorem State.send_grids (s : State) (m : HostMsg) : (s.send m).grids = s.grids := rfl
@[simp] theorem State.send_blocks (s : State) (m : HostMsg) : (s.send m).blocks = s.blocks := rfl
@[simp] theorem State.send_forks (s : State) (m : HostMsg) : (s.send m).forks = s.forks := rfl
@[simp] theorem State.send_heldWrites (s : State) (m : HostMsg) : (s.send m).heldWrites = s.heldWrites := rfl
@[simp] theorem State.send_posted (s : State) (m : HostMsg) : (s.send m).posted = s.posted := rfl
@[simp] theorem State.send_migrations (s : State) (m : HostMsg) : (s.send m).migrations = s.migrations := rfl
@[simp] theorem State.send_held (s : State) (m : HostMsg) : (s.send m).held = s.held := rfl
@[simp] theorem State.send_stops (s : State) (m : HostMsg) : (s.send m).stops = s.stops := rfl
@[simp] theorem State.send_hostReads (s : State) (m : HostMsg) : (s.send m).hostReads = s.hostReads := rfl
@[simp] theorem State.send_barReads (s : State) (m : HostMsg) : (s.send m).barReads = s.barReads := rfl
@[simp] theorem State.send_awayResv (s : State) (m : HostMsg) : (s.send m).awayResv = s.awayResv := rfl
@[simp] theorem State.send_mail (s : State) (m : HostMsg) : (s.send m).mail = s.mail := rfl
@[simp] theorem State.send_stamp (s : State) (m : HostMsg) : (s.send m).stamp = s.stamp := rfl
@[simp] theorem State.send_free (s : State) (m : HostMsg) : (s.send m).free = s.free := rfl
@[simp] theorem State.send_selected (s : State) (m : HostMsg) : (s.send m).selected = s.selected := rfl
@[simp] theorem State.send_cur (s : State) (m : HostMsg) : (s.send m).cur = s.cur := rfl
@[simp] theorem State.send_agenda (s : State) (m : HostMsg) : (s.send m).agenda = s.agenda := rfl

/-! The state of one job changed. -/

@[simp] theorem State.updJob_mem (s : State) (j : Nat) (f : JobState → JobState) : (s.updJob j f).mem = s.mem := by
  unfold State.updJob; split <;> rfl
@[simp] theorem State.updJob_poison (s : State) (j : Nat) (f : JobState → JobState) : (s.updJob j f).poison = s.poison := by
  unfold State.updJob; split <;> rfl
@[simp] theorem State.updJob_padPoison (s : State) (j : Nat) (f : JobState → JobState) : (s.updJob j f).padPoison = s.padPoison := by
  unfold State.updJob; split <;> rfl
@[simp] theorem State.updJob_scopes (s : State) (j : Nat) (f : JobState → JobState) : (s.updJob j f).scopes = s.scopes := by
  unfold State.updJob; split <;> rfl
@[simp] theorem State.updJob_cores (s : State) (j : Nat) (f : JobState → JobState) : (s.updJob j f).cores = s.cores := by
  unfold State.updJob; split <;> rfl
@[simp] theorem State.updJob_dies (s : State) (j : Nat) (f : JobState → JobState) : (s.updJob j f).dies = s.dies := by
  unfold State.updJob; split <;> rfl
@[simp] theorem State.updJob_hosts (s : State) (j : Nat) (f : JobState → JobState) : (s.updJob j f).hosts = s.hosts := by
  unfold State.updJob; split <;> rfl
@[simp] theorem State.updJob_fabric (s : State) (j : Nat) (f : JobState → JobState) : (s.updJob j f).fabric = s.fabric := by
  unfold State.updJob; split <;> rfl
@[simp] theorem State.updJob_mgmt (s : State) (j : Nat) (f : JobState → JobState) : (s.updJob j f).mgmt = s.mgmt := by
  unfold State.updJob; split <;> rfl
@[simp] theorem State.updJob_grids (s : State) (j : Nat) (f : JobState → JobState) : (s.updJob j f).grids = s.grids := by
  unfold State.updJob; split <;> rfl
@[simp] theorem State.updJob_blocks (s : State) (j : Nat) (f : JobState → JobState) : (s.updJob j f).blocks = s.blocks := by
  unfold State.updJob; split <;> rfl
@[simp] theorem State.updJob_forks (s : State) (j : Nat) (f : JobState → JobState) : (s.updJob j f).forks = s.forks := by
  unfold State.updJob; split <;> rfl
@[simp] theorem State.updJob_heldWrites (s : State) (j : Nat) (f : JobState → JobState) : (s.updJob j f).heldWrites = s.heldWrites := by
  unfold State.updJob; split <;> rfl
@[simp] theorem State.updJob_posted (s : State) (j : Nat) (f : JobState → JobState) : (s.updJob j f).posted = s.posted := by
  unfold State.updJob; split <;> rfl
@[simp] theorem State.updJob_migrations (s : State) (j : Nat) (f : JobState → JobState) : (s.updJob j f).migrations = s.migrations := by
  unfold State.updJob; split <;> rfl
@[simp] theorem State.updJob_held (s : State) (j : Nat) (f : JobState → JobState) : (s.updJob j f).held = s.held := by
  unfold State.updJob; split <;> rfl
@[simp] theorem State.updJob_stops (s : State) (j : Nat) (f : JobState → JobState) : (s.updJob j f).stops = s.stops := by
  unfold State.updJob; split <;> rfl
@[simp] theorem State.updJob_hostReads (s : State) (j : Nat) (f : JobState → JobState) : (s.updJob j f).hostReads = s.hostReads := by
  unfold State.updJob; split <;> rfl
@[simp] theorem State.updJob_barReads (s : State) (j : Nat) (f : JobState → JobState) : (s.updJob j f).barReads = s.barReads := by
  unfold State.updJob; split <;> rfl
@[simp] theorem State.updJob_awayResv (s : State) (j : Nat) (f : JobState → JobState) : (s.updJob j f).awayResv = s.awayResv := by
  unfold State.updJob; split <;> rfl
@[simp] theorem State.updJob_mail (s : State) (j : Nat) (f : JobState → JobState) : (s.updJob j f).mail = s.mail := by
  unfold State.updJob; split <;> rfl
@[simp] theorem State.updJob_hostOut (s : State) (j : Nat) (f : JobState → JobState) : (s.updJob j f).hostOut = s.hostOut := by
  unfold State.updJob; split <;> rfl
@[simp] theorem State.updJob_stamp (s : State) (j : Nat) (f : JobState → JobState) : (s.updJob j f).stamp = s.stamp := by
  unfold State.updJob; split <;> rfl
@[simp] theorem State.updJob_free (s : State) (j : Nat) (f : JobState → JobState) : (s.updJob j f).free = s.free := by
  unfold State.updJob; split <;> rfl
@[simp] theorem State.updJob_selected (s : State) (j : Nat) (f : JobState → JobState) : (s.updJob j f).selected = s.selected := by
  unfold State.updJob; split <;> rfl
@[simp] theorem State.updJob_cur (s : State) (j : Nat) (f : JobState → JobState) : (s.updJob j f).cur = s.cur := by
  unfold State.updJob; split <;> rfl
@[simp] theorem State.updJob_agenda (s : State) (j : Nat) (f : JobState → JobState) : (s.updJob j f).agenda = s.agenda := by
  unfold State.updJob; split <;> rfl

end Sys2Proof.Machine
end

