-- ==== Sys2Proof/Laws/Exceptions.lean ====
section
/-! SUPPORT. What the operations that write records and stop blocks can change: everything that taking an exception does
not touch, and the canonical form of memory, which it keeps. -/

namespace Sys2Proof.Machine

open Sys2Proof

/-! ## What a record and its stops may touch -/

/-- Nothing has changed but what a record's entry and its stops touch: memory and its marks, reservations, blocks, the
ring's registers, the record lists, the jobs, what was sent to the hosts, and the source of stamps. -/
def State.RecordsOnly (s t : State) : Prop :=
  t.scopes = s.scopes ∧ t.cores = s.cores ∧ t.dies = s.dies ∧ t.fabric = s.fabric ∧ t.grids = s.grids ∧ t.forks = s.forks ∧
  t.heldWrites = s.heldWrites ∧ t.posted = s.posted ∧ t.hostReads = s.hostReads ∧ t.barReads = s.barReads ∧ t.mail = s.mail ∧ t.free = s.free ∧
  t.selected = s.selected ∧ t.cur = s.cur ∧ t.agenda = s.agenda ∧ t.padPoison = s.padPoison ∧
  (s.mem.wf = true → t.mem.wf = true)

theorem State.RecordsOnly.refl (s : State) : s.RecordsOnly s := by simp [State.RecordsOnly]

theorem State.RecordsOnly.trans {s t u : State} (h : s.RecordsOnly t) (k : t.RecordsOnly u) : s.RecordsOnly u := by
  unfold State.RecordsOnly at *
  simp_all

/-! ## Writing a record -/

theorem State.clearResv_only (s : State) (loc : Loc) (n : Nat) (keep : Nat → Nat → Nat → Bool) :
    s.clearResv loc n keep =
      { s with awayResv := (s.clearResv loc n keep).awayResv, blocks := (s.clearResv loc n keep).blocks } := by
  unfold State.clearResv
  dsimp only
  split <;> split <;> rfl

theorem State.cleanUnits_only (s : State) (pa n : Nat) :
    s.cleanUnits pa n = { s with poison := (s.cleanUnits pa n).poison } := by
  unfold State.cleanUnits
  split <;> rfl

theorem State.noteWritten_only (s : State) (pa n : Nat) :
    s.noteWritten pa n = { s with migrations := (s.noteWritten pa n).migrations } := by
  unfold State.noteWritten
  split <;> rfl

/-- A write by an agent that is no lane: its bytes, the marks of the units that it covers, reservations, and the lines that
migrations record. -/
theorem State.pokePhys_only (s : State) (pa : Nat) (bs : List Byte) :
    s.pokePhys pa bs =
      { s with mem := memPuts s.mem pa bs, poison := (s.pokePhys pa bs).poison,
               awayResv := (s.pokePhys pa bs).awayResv, blocks := (s.pokePhys pa bs).blocks,
               migrations := (s.pokePhys pa bs).migrations } := by
  unfold State.pokePhys
  dsimp only
  rw [State.clearResv_only, State.cleanUnits_only, State.noteWritten_only]

theorem State.pokePhys_records (s : State) (pa : Nat) (bs : List Byte) : s.RecordsOnly (s.pokePhys pa bs) := by
  rw [State.pokePhys_only]
  simp only [State.RecordsOnly, true_and]
  exact memWf_puts s.mem pa bs

theorem State.windowWrite_records (s : State) (p off : Nat) (bs : List Byte) :
    s.RecordsOnly (s.windowWrite p off bs) := by
  unfold State.windowWrite
  split <;> simp [State.RecordsOnly]

theorem State.msix_records (s : State) (p vec : Nat) : s.RecordsOnly (s.msix p vec) := by
  unfold State.msix
  split <;> simp [State.RecordsOnly]

theorem State.msixIf_records (s : State) (b : Bool) (p vec : Nat) : s.RecordsOnly (if b then s.msix p vec else s) := by
  split
  · exact s.msix_records p vec
  · exact .refl s

/-- One record's entry: its bytes at the ring, the ring's producer index, and the vectors. -/
theorem State.writeRecord_records (s : State) (r : FaultRec) : s.RecordsOnly (s.writeRecord r) := by
  unfold State.writeRecord
  dsimp only
  cases hostWindow? (s.mgmt.frbase + 64 * (s.mgmt.frprod.toNat % 2 ^ s.mgmt.frlog2n))
  all_goals
    dsimp only
    refine .trans ?_ (State.msixIf_records _ _ _ _)
    refine .trans ?_ (State.msixIf_records _ _ _ _)
  · refine .trans (s.pokePhys_records (s.mgmt.frbase + 64 * (s.mgmt.frprod.toNat % 2 ^ s.mgmt.frlog2n))
      (r.bytes (s.mgmt.frprod.toNat % 2 ^ 32))) ?_
    split <;> simp [State.RecordsOnly]
  · rename_i p
    refine .trans (s.windowWrite_records p ((s.mgmt.frbase + 64 * (s.mgmt.frprod.toNat % 2 ^ s.mgmt.frlog2n)) % 2 ^ 40)
      (r.bytes (s.mgmt.frprod.toNat % 2 ^ 32))) ?_
    split <;> simp [State.RecordsOnly]

theorem State.drainHeld_records (n : Nat) (s : State) : s.RecordsOnly (s.drainHeld n) := by
  induction n generalizing s with
  | zero => exact .refl s
  | succ n ih =>
    unfold State.drainHeld
    split
    · exact .refl s
    · split
      · refine .trans (t := { s with held := _ }) ?_ (.trans (State.writeRecord_records _ _) (ih _))
        simp [State.RecordsOnly]
      · exact .refl s

/-- A record detected, written or held. -/
theorem State.note_records (s : State) (r : FaultRec) : s.RecordsOnly (s.note r) := by
  unfold State.note State.drainRecords
  dsimp only
  refine .trans (t := { s with held := s.held ++ [r] }) (by simp [State.RecordsOnly]) ?_
  refine .trans (State.drainHeld_records (s.held ++ [r]).length { s with held := s.held ++ [r] }) ?_
  split <;> simp [State.RecordsOnly]

theorem State.inform_records (s : State) (cls sub : Nat) (f : FaultRec → FaultRec) : s.RecordsOnly (s.inform cls sub f) := by
  unfold State.inform State.fresh
  exact .trans (by simp [State.RecordsOnly]) (State.note_records { s with stamp := s.stamp + 1 } _)

/-! ## Stops -/

theorem State.holdFrontier_only (s : State) (g : Nat) : s.holdFrontier g = { s with blocks := (s.holdFrontier g).blocks } := by
  unfold State.holdFrontier
  split
  · rfl
  · split
    · rfl
    · split <;> rfl

/-- A block that stops for a fault, its partner, and what stands above it in its DET grid. -/
theorem State.stopFault_only (s : State) (b : Block) : s.stopFault b = { s with blocks := (s.stopFault b).blocks } := by
  unfold State.stopFault
  dsimp only
  split <;> rw [State.holdFrontier_only] <;> rfl

theorem State.stopFault_records (s : State) (b : Block) : s.RecordsOnly (s.stopFault b) := by
  rw [State.stopFault_only]
  simp [State.RecordsOnly]

theorem State.stopJob_records (s : State) (job : Nat) (why : StopWhy) : s.RecordsOnly (s.stopJob job why) := by
  unfold State.stopJob
  simp [State.RecordsOnly]

theorem State.informJob_records (s : State) (cls sub job : Nat) (f : FaultRec → FaultRec) :
    s.RecordsOnly (s.informJob cls sub job f) := by
  unfold State.informJob State.fresh
  dsimp only
  refine .trans ?_ (State.stopJob_records _ _ _)
  refine .trans ?_ (State.note_records _ _)
  simp [State.RecordsOnly]

/-! ## Taking an exception -/

/-- TAKING AN EXCEPTION touches nothing of the machine but memory at the ring, blocks, the ring's registers, the record
lists and what is sent to the hosts: no core, no die, no grid, no fork, no fabric. -/
theorem State.raise_records (s : State) (fs : List LaneFault) : s.RecordsOnly (s.raise fs) := by
  unfold State.raise State.fresh
  split
  · dsimp only
    refine .trans ?_ (State.note_records _ _)
    refine .trans ?_ (State.stopFault_records _ _)
    simp [State.RecordsOnly]
  · exact .refl s

theorem State.raiseAll_records (s : State) (cls sub addr info info2 : Nat) :
    s.RecordsOnly (s.raiseAll cls sub addr info info2) := s.raise_records _

end Sys2Proof.Machine
end

