-- ==== Sys2Proof/Laws/Access.lean ====
section
/-! SUPPORT. What the operations on the path of loads and stores can change: the TLBs and retention, L1 and its
write-back, the scratchpad, scope records, cache actions. -/

namespace Sys2Proof.Machine

open Sys2Proof

/-! ## Translations held (R111, R112, R118) -/

theorem State.retainAccess_only (s : State) (core job va : Nat) :
    s.retainAccess core job va = { s with cores := (s.retainAccess core job va).cores } := by
  unfold State.retainAccess
  split <;> rfl

/-- An access fills TLBs and counts for retention, and touches nothing else. -/
theorem State.fillTlb_only (s : State) (core job va : Nat) :
    s.fillTlb core job va = { s with cores := (s.fillTlb core job va).cores, dies := (s.fillTlb core job va).dies } := by
  unfold State.fillTlb
  split
  · rfl
  · dsimp only
    rw [State.retainAccess_only]
    rfl

/-! ## L2 (R110) -/

theorem State.charge_only (s : State) (d c n : Nat) : s.charge d c n = { s with dies := (s.charge d c n).dies } := by
  unfold State.charge
  split <;> rfl

theorem State.chargeIf_only (s : State) (p : Bool) (d c n : Nat) :
    (if p then s else s.charge d c n) = { s with dies := (if p then s else s.charge d c n).dies } := by
  split
  · rfl
  · exact s.charge_only d c n

/-- A request that passes an L2 changes nothing but the dies: their credit and their lines. -/
theorem State.traffic_only (s : State) (d c pa n : Nat) (write : Bool) (range : Option Nat) :
    s.traffic d c pa n write range = { s with dies := (s.traffic d c pa n write range).dies } := by
  unfold State.traffic
  dsimp only
  rw [State.chargeIf_only (s.charge d c n), s.charge_only d c n]

/-! ## L1 (R107, R108) -/

/-- Nothing has changed but memory, which is still canonical, reservations and blocks, L1s and TLBs, the dies, and the lines
that migrations record. -/
def State.WritesOnly (s t : State) : Prop :=
  t = { s with mem := t.mem, awayResv := t.awayResv, blocks := t.blocks, cores := t.cores, dies := t.dies,
               migrations := t.migrations } ∧ (s.mem.wf = true → t.mem.wf = true)

theorem State.WritesOnly.trans {s t u : State} (h : s.WritesOnly t) (k : t.WritesOnly u) : s.WritesOnly u := by
  refine ⟨k.1.trans ?_, fun hm => k.2 (h.2 hm)⟩
  rw [h.1]

theorem State.foldl_writesOnly {α : Type} (F : State → α → State) (h : ∀ (s : State) (e : α), s.WritesOnly (F s e)) (es : List α)
    (s : State) : s.WritesOnly (es.foldl F s) := by
  induction es generalizing s with
  | nil => exact ⟨rfl, id⟩
  | cons e r ih => exact (h s e).trans (ih (F s e))

theorem State.traffic_writes (s : State) (d c pa n : Nat) (write : Bool) (range : Option Nat) :
    s.WritesOnly (s.traffic d c pa n write range) := by
  rw [State.traffic_only]
  exact ⟨rfl, id⟩

theorem State.noteWritten_writes (s : State) (pa n : Nat) : s.WritesOnly (s.noteWritten pa n) := by
  rw [State.noteWritten_only]
  exact ⟨rfl, id⟩

/-- A write-back changes memory, which stays canonical, and what a write touches. -/
theorem State.writeBack_writes (s : State) (core : Nat) (r : ByteSet) : s.WritesOnly (s.writeBack core r) := by
  unfold State.writeBack
  dsimp only
  split
  · exact ⟨rfl, id⟩
  · refine State.WritesOnly.trans (State.foldl_writesOnly _ (fun s e => ?_) _ s) <|
      State.WritesOnly.trans (State.foldl_writesOnly _ (fun s l => ?_) _ _) ⟨rfl, id⟩
    · cases e.2 with
      | none => exact ⟨rfl, id⟩
      | some b =>
        dsimp only
        rw [State.clearResv_only]
        exact ⟨rfl, memWf_put _ _ _⟩
    · exact (State.traffic_writes s _ _ _ _ _ _).trans (State.noteWritten_writes _ _ _)

theorem State.updCore_writes (s : State) (core : Nat) (f : Core → Core) : s.WritesOnly (s.updCore core f) := ⟨rfl, id⟩

theorem State.dropLine_writes (s : State) (core line : Nat) : s.WritesOnly (s.dropLine core line) :=
  (s.writeBack_writes core (l1Line line)).trans (State.updCore_writes _ _ _)

theorem State.trimL1_writes (s : State) (core : Nat) : s.WritesOnly (s.trimL1 core) := by
  unfold State.trimL1
  split
  · exact State.dropLine_writes _ _ _
  · exact ⟨rfl, id⟩

/-- A load changes what an L1 and an L2 hold, and with a line that makes room, what a write-back does. -/
theorem State.loadPhys_writes (s : State) (core pa n : Nat) (cached fresh : Bool) (kept : Option Nat) :
    s.WritesOnly (s.loadPhys core pa n cached fresh kept).2 := by
  unfold State.loadPhys
  dsimp only
  split
  · split
    · exact ⟨rfl, id⟩
    · exact ((s.traffic_writes (dieOf core) 0 pa 128 false kept).trans (State.updCore_writes _ _ _)).trans
        (State.trimL1_writes _ _)
  · refine (s.traffic_writes (dieOf core) 0 pa n false kept).trans ?_
    split <;> exact ⟨rfl, id⟩

/-! ## Cache actions and scope records (R109, R152, R155) -/

theorem State.acquireSet_only (s : State) (core scope : Nat) (r : ByteSet) :
    s.acquireSet core scope r =
      { s with cores := (s.acquireSet core scope r).cores, fabric := (s.acquireSet core scope r).fabric } := by
  unfold State.acquireSet State.discard State.stopFills
  split
  · rfl
  · split <;> rfl

/-- A scope below TEAM discards nothing. -/
theorem State.acquireSet_low (s : State) (core scope : Nat) (r : ByteSet) (h : scope ≤ 2) : s.acquireSet core scope r = s := by
  simp [State.acquireSet, h]

/-- A scope below TEAM writes nothing back, and waits for nothing. -/
theorem State.releaseSet_low (s : State) (core scope : Nat) (r : ByteSet) (h : scope ≤ 2) :
    s.releaseSet core scope r = (s, []) := by simp [State.releaseSet, h]

theorem State.setScope_only (s : State) (b : Block) (i scope : Nat) (loc : Loc) :
    s.setScope b i scope loc = { s with scopes := (s.setScope b i scope loc).scopes } := by
  unfold State.setScope
  split <;> rfl

/-! ## The scratchpad (R98) -/

/-- Bytes written to a scratchpad are read back, and every other offset reads as before. -/
theorem padPuts_get (c : Cells Byte) (off x : Nat) (bs : List Byte) :
    cellsGet 0 x (padPuts c off bs) = if off ≤ x ∧ x < off + bs.length then bs.getD (x - off) 0 else cellsGet 0 x c := by
  induction bs generalizing c off with
  | nil => rw [padPuts, if_neg (by simp)]
  | cons b bs ih =>
    simp only [padPuts, ih, cellsGet_put, List.length_cons]
    by_cases hx : x = off
    · subst hx; simp
    · by_cases hr : off + 1 ≤ x ∧ x < off + 1 + bs.length
      · rw [if_pos hr, if_pos (by omega), show x - off = (x - (off + 1)) + 1 by omega]; simp
      · rw [if_neg hr, if_neg hx, if_neg (by omega)]

theorem State.padWrite_only (s : State) (k off : Nat) (bs : List Byte) :
    s.padWrite k off bs =
      { s with blocks := (s.padWrite k off bs).blocks, padPoison := (s.padWrite k off bs).padPoison } := by
  unfold State.padWrite
  dsimp only
  split <;> rfl

end Sys2Proof.Machine
end

