-- ==== Sys2Proof/Laws/State.lean ====
section
/-! SUPPORT. One lemma for each field after each of the updates that instructions are made of: blocks, strands, lanes,
registers. -/

namespace Sys2Proof.Machine

open Sys2Proof

/-! ## Blocks -/

@[simp] theorem State.updBlock_rest (s : State) (k : Nat) (f : Block → Block) :
    { s with blocks := (s.updBlock k f).blocks } = s.updBlock k f := rfl

theorem find_map_key (bs : List Block) (k x : Nat) (f : Block → Block) (h : ∀ b, (f b).key = b.key) :
    (bs.map fun b => if b.key == k then f b else b).find? (fun b => b.key == x) =
      (bs.find? fun b => b.key == x).map fun b => if x = k then f b else b := by
  have hp : ((fun b : Block => b.key == x) ∘ fun b => if b.key == k then f b else b) = fun b => b.key == x := by
    funext b
    by_cases hb : b.key = k <;> simp [hb, h]
  rw [List.find?_map, hp]
  cases hf : bs.find? fun b => b.key == x with
  | none => rfl
  | some b =>
    have hb : b.key = x := by simpa using List.find?_some hf
    by_cases hx : x = k <;> simp [hb, hx]

/-- Looking a block up after an update that keeps the blocks' keys. -/
theorem State.block?_updBlock (s : State) (k x : Nat) (f : Block → Block) (h : ∀ b, (f b).key = b.key) :
    (s.updBlock k f).block? x = (s.block? x).map fun b => if x = k then f b else b := by
  simp only [State.block?, State.updBlock]
  exact find_map_key s.blocks k x f h

theorem State.block?_updBlock_self (s : State) (k : Nat) (f : Block → Block) (h : ∀ b, (f b).key = b.key) :
    (s.updBlock k f).block? k = (s.block? k).map f := by
  rw [State.block?_updBlock s k k f h]; simp

theorem State.block?_updBlock_other (s : State) (k x : Nat) (f : Block → Block) (h : ∀ b, (f b).key = b.key)
    (hx : x ≠ k) : (s.updBlock k f).block? x = s.block? x := by
  rw [State.block?_updBlock s k x f h]; simp [hx]

/-! ## Strands -/

@[simp] theorem Block.strand_modify_self (b : Block) (i : Nat) (f : Strand → Strand) (h : i < b.strands.length) :
    ({ b with strands := b.strands.modify i f } : Block).strand i = f (b.strand i) := by
  simp [Block.strand, List.getD_eq_getElem?_getD, h]

theorem Block.strand_modify_other (b : Block) (i j : Nat) (f : Strand → Strand) (h : j ≠ i) :
    ({ b with strands := b.strands.modify i f } : Block).strand j = b.strand j := by
  simp [Block.strand, List.getD_eq_getElem?_getD, List.getElem?_modify, Ne.symm h]

/-! ## Lanes -/

@[simp] theorem Strand.updLane_regs (st : Strand) (l : Nat) (f : Lane → Lane) : (st.updLane l f).regs = st.regs := rfl

@[simp] theorem Strand.updLane_length (st : Strand) (l : Nat) (f : Lane → Lane) :
    (st.updLane l f).lanes.length = st.lanes.length := by simp [Strand.updLane]

theorem Strand.updLane_rest (st : Strand) (l : Nat) (f : Lane → Lane) :
    st.updLane l f = { st with lanes := (st.updLane l f).lanes } := rfl

theorem Strand.lane_updLane (st : Strand) (l m : Nat) (f : Lane → Lane) (h : l < st.lanes.length) :
    (st.updLane l f).lane m = if m = l then f (st.lane l) else st.lane m := by
  by_cases hm : m = l
  · subst hm; simp [Strand.lane, Strand.updLane, List.getD_eq_getElem?_getD, h]
  · simp [Strand.lane, Strand.updLane, List.getD_eq_getElem?_getD, List.getElem?_modify, hm, Ne.symm hm]

theorem Strand.updLanes_keeps (st : Strand) (ls : List Nat) (f : Nat → Lane → Lane) :
    st.updLanes ls f = { st with lanes := (st.updLanes ls f).lanes } ∧
      (st.updLanes ls f).lanes.length = st.lanes.length := by
  induction ls generalizing st with
  | nil => exact ⟨rfl, rfl⟩
  | cons l r ih =>
    have h := ih (st.updLane l (f l))
    simp only [Strand.updLanes, List.foldl_cons] at h ⊢
    refine ⟨?_, h.2.trans (by simp)⟩
    rw [h.1]; rfl

@[simp] theorem Strand.updLanes_regs (st : Strand) (ls : List Nat) (f : Nat → Lane → Lane) :
    (st.updLanes ls f).regs = st.regs := by rw [(Strand.updLanes_keeps st ls f).1]

/-- Each of the lanes, none of them twice, changes once. -/
theorem Strand.lane_updLanes (st : Strand) (ls : List Nat) (f : Nat → Lane → Lane) (m : Nat) (hn : ls.Nodup)
    (h : ∀ l ∈ ls, l < st.lanes.length) :
    (st.updLanes ls f).lane m = if m ∈ ls then f m (st.lane m) else st.lane m := by
  induction ls generalizing st with
  | nil => simp [Strand.updLanes]
  | cons l r ih =>
    have hl := h l (by simp)
    have h2 := ih (st.updLane l (f l)) (by simp_all) (by intro x hx; simpa using h x (by simp [hx]))
    simp only [Strand.updLanes, List.foldl_cons] at h2 ⊢
    rw [h2, Strand.lane_updLane _ _ _ _ hl]
    have hnr : l ∉ r := (List.nodup_cons.1 hn).1
    by_cases hm : m = l
    · subst hm; simp [hnr]
    · by_cases hr : m ∈ r
      · simp [hr, hm]
      · simp [hr, hm]

end Sys2Proof.Machine
end

