-- ==== Sys2Proof/Laws/Compute.lean ====
section
/-! SUPPORT. The shared course of an instruction: what the checks answer when nothing is wrong, and everything that
`State.compute` does then. -/

namespace Sys2Proof.Machine

open Sys2Proof

/-! ## The checks -/

theorem Uses.shapeFlaw_none (u : Uses) (n : Nat) (h : u.allocated n) : u.shapeFlaw n = none := by
  have h1 : (u.spans.filter fun x => x.2.1 % x.2.2.2 != 0) = [] := by
    rw [List.filter_eq_nil_iff]; intro x hx; simp [(h x hx).1]
  have h2 : (u.spans.filter fun x => decide (n ≤ x.2.2.1)) = [] := by
    rw [List.filter_eq_nil_iff]; intro x hx; simpa using (h x hx).2
  simp only [Uses.shapeFlaw, h1, h2, leastBy]

theorem Uses.ownEmpty_nil (u : Uses) (st : Strand) (l : Nat) (h : u.laneRuns st l) : u.ownEmpty st l = [] := by
  simp only [Uses.ownEmpty, List.filter_eq_nil_iff, List.mem_flatMap, List.mem_filter, List.mem_map]
  rintro k ⟨x, ⟨hx, hw⟩, r, hr, rfl⟩
  have := h.1 x hx (.inl hw) r hr
  simp only [Strand.reg] at this
  simp [Strand.full, this]

theorem Uses.missing_nil (u : Uses) (st : Strand) (l : Nat) (h : u.laneRuns st l) : u.missing st l = [] := by
  have h1 := u.ownEmpty_nil st l h
  have h2 : ((u.onceKeys l).filter fun k => !st.full k) = [] := by
    rw [List.filter_eq_nil_iff]; intro k hk; simp [h.2.1 k hk]
  have h3 : (((u.more st l) ++ (u.dsts.flatMap fun d => d.regs.map (regKey l))).filter fun k => !st.full k) = [] := by
    simp only [List.filter_eq_nil_iff, List.mem_append, List.mem_flatMap, List.mem_map]
    rintro k (hk | ⟨d, hd, r, hr, rfl⟩)
    · simp [h.2.2.1 k hk]
    · have := h.2.2.2.1 d hd r hr
      simp only [Strand.reg] at this
      simp [Strand.full, this]
  simp only [Uses.missing, h1, h2, h3, List.append_nil, List.isEmpty_nil, if_true]

theorem Uses.laneFlaws_nil (u : Uses) (st : Strand) (safe : Bool) (l : Nat) (h : u.laneRuns st l)
    (hr : st.role ∈ u.roles) : u.laneFlaws st safe l = [] := by
  have ht : ((u.srcsOf l).flatMap fun x => if x.trap then
      (x.regs.filter fun r => !(st.reg l r).full).map fun r =>
        ({ lane := l, cls := 6, sub := trapSub x.field, addr := 0, info := r, info2 := (st.word l r).toNat } : LaneFault)
      else []) = [] := by
    simp only [List.flatMap_eq_nil_iff]
    intro x hx
    split
    · simp only [List.map_eq_nil_iff, List.filter_eq_nil_iff]
      intro r hr; simp [h.1 x hx (.inr ‹_›) r hr]
    · rfl
  have hm : ((u.more st l).filter fun k => !st.full k) = [] := by
    rw [List.filter_eq_nil_iff]; intro k hk; simp [h.2.2.1 k hk]
  have hp : ((u.srcsOf l).flatMap fun x => if x.poison then
      (x.regs.filter fun r => (st.reg l r).full && (st.reg l r).poison).map fun r =>
        ({ lane := l, cls := 0x0A, sub := x.field, addr := 0, info := r, info2 := 0 } : LaneFault)
      else []) = [] := by
    simp only [List.flatMap_eq_nil_iff]
    intro x hx
    split
    · simp only [List.map_eq_nil_iff, List.filter_eq_nil_iff]
      intro r hr; simp [h.2.2.2.2.1 x hx ‹_› r hr]
    · rfl
  have hc : decide (16384 ≤ (st.lane l).count) = false := by simpa using h.2.2.2.2.2.1
  have hrole : u.roles.contains st.role = true := by simpa using hr
  simp only [Uses.laneFlaws, ht, hm, hp, hc, hrole, List.map_nil, Bool.and_false, Bool.false_eq_true, if_false, if_true,
    List.append_nil, ite_self]

theorem Uses.due_none (u : Uses) (st : Strand) (l : Nat) (h : u.laneRuns st l) : u.due st l = none := by
  simp [Uses.due, h.2.2.2.2.2.2]

/-- Where nothing is wrong and nothing is waited for, the checks let every active lane run. -/
theorem State.gate_go (s : State) (u : Uses) (late : Late) (safe : Bool) (b : Block) (h : s.clearFor b u)
    (hl : late s b (b.strand s.cur.strand) s.cur.lanes = []) :
    s.gate u late safe = .go s b (b.strand s.cur.strand) s.cur.lanes := by
  obtain ⟨⟨hb, -, hne, -, -⟩, ha, hr, hlanes⟩ := h
  have hmiss (l : Nat) (hl : l ∈ s.cur.lanes) := u.missing_nil _ l (hlanes l hl)
  have hready : (s.cur.lanes.filter fun l => (u.missing (b.strand s.cur.strand) l).isEmpty) = s.cur.lanes := by
    rw [List.filter_eq_self]; intro l hl; simp [hmiss l hl]
  have hwait : (s.cur.lanes.filter fun l => !(u.missing (b.strand s.cur.strand) l).isEmpty) = [] := by
    rw [List.filter_eq_nil_iff]; intro l hl; simp [hmiss l hl]
  have hfl : s.cur.lanes.flatMap (u.laneFlaws (b.strand s.cur.strand) safe) = [] := by
    simp only [List.flatMap_eq_nil_iff]; intro l hl; exact u.laneFlaws_nil _ safe l (hlanes l hl) hr
  have hd : (s.cur.lanes.filterMap fun l => (u.due (b.strand s.cur.strand) l).map fun d => (l, d)) = [] := by
    rw [List.filterMap_eq_nil_iff]; intro l hl; simp [u.due_none _ l (hlanes l hl)]
  have hne' : s.cur.lanes.isEmpty = false := by simpa using hne
  simp only [State.gate, hb, u.shapeFlaw_none _ ha, hready, hwait, hfl, hd, hl, List.nil_append, List.isEmpty_nil,
    Bool.and_self, if_true, hne', Bool.false_eq_true, if_false]

/-! ## Updates of the strand in progress, one after the other -/

theorem State.updBlock_updBlock (s : State) (k : Nat) (f g : Block → Block) (h : ∀ b, (f b).key = b.key) :
    (s.updBlock k f).updBlock k g = s.updBlock k fun b => g (f b) := by
  simp only [State.updBlock, List.map_map]
  congr 1
  apply List.map_congr_left
  intro b _
  by_cases hb : b.key = k <;> simp [hb, h]

theorem State.updStrand_updStrand (s : State) (k i : Nat) (f g : Strand → Strand) :
    (s.updStrand k i f).updStrand k i g = s.updStrand k i fun st => g (f st) := by
  simp only [State.updStrand]
  refine (State.updBlock_updBlock s k (fun b => { b with strands := b.strands.modify i f }) _ fun _ => rfl).trans ?_
  congr 1
  funext b
  simp [List.modify_modify_eq, Function.comp_def]

/-! ## Registers written -/

theorem Strand.reg_setReg (st : Strand) (l r m q : Nat) (w : RegWord) (hr : r < 256) (hq : q < 256) :
    (st.setReg l r w).reg m q = if m = l ∧ q = r then w else st.reg m q := by
  simp only [Strand.reg, Strand.setReg, cellsGet_put]
  by_cases h : m = l ∧ q = r
  · simp [h]
  · rw [if_neg h, if_neg]
    simp only [regKey]; omega

/-- The last of the words written to a register stands in it. -/
def lastOut (os : List RegOut) (l r : Nat) : Option RegOut := (os.filter fun o => o.lane == l && o.reg == r).getLast?

theorem Strand.writes_keeps (st : Strand) (os : List RegOut) : st.writes os = { st with regs := (st.writes os).regs } := by
  induction os generalizing st with
  | nil => rfl
  | cons o r ih =>
    have h := ih (st.write o)
    simp only [Strand.writes, List.foldl_cons] at h ⊢
    rw [h]; rfl

theorem Strand.reg_writes (st : Strand) (os : List RegOut) (h : ∀ o ∈ os, o.reg < 256) (l r : Nat) (hr : r < 256) :
    (st.writes os).reg l r = match lastOut os l r with
      | some o => ⟨o.val, true, o.taint, o.poison⟩
      | none => st.reg l r := by
  induction os generalizing st with
  | nil => rfl
  | cons o os ih =>
    have h2 := ih (st.write o) fun x hx => h x (by simp [hx])
    have ho := h o (by simp)
    simp only [Strand.writes, List.foldl_cons] at h2 ⊢
    rw [h2]
    simp only [lastOut, List.filter_cons]
    by_cases hit : o.lane = l ∧ o.reg = r
    · obtain ⟨rfl, rfl⟩ := hit
      simp only [BEq.rfl, Bool.and_self, if_true, List.getLast?_cons]
      cases hf : (os.filter fun x => x.lane == o.lane && x.reg == o.reg).getLast? with
      | none => simp only [Option.getD_none, Strand.write]; rw [Strand.reg_setReg _ _ _ _ _ _ ho ho]; simp
      | some x => rfl
    · have : (o.lane == l && o.reg == r) = false := by
        simp only [Bool.and_eq_false_iff, beq_eq_false_iff_ne]; omega
      simp only [this, Bool.false_eq_true, if_false]
      cases hf : (os.filter fun o => o.lane == l && o.reg == r).getLast? with
      | none => simp only [Strand.write]; rw [Strand.reg_setReg _ _ _ _ _ _ ho hr, if_neg]; omega
      | some x => rfl

theorem lastOut_outs (u : Uses) (st : Strand) (ls : List Nat) (g : Nat → List (Nat × Word)) (xs : List Nat)
    (hn : xs.Nodup) (l r : Nat) :
    lastOut (xs.flatMap fun x => u.outs st ls x (g x)) l r =
      (if l ∈ xs then lastWord (g l) r else none).map fun w =>
        ⟨l, r, w, u.marked st ls (fun x => x.taint) l, u.marked st ls (fun x => x.poison) l⟩ := by
  induction xs with
  | nil => simp [lastOut]
  | cons x xs ih =>
    have hx : x ∉ xs := (List.nodup_cons.1 hn).1
    have ih := ih (List.nodup_cons.1 hn).2
    simp only [lastOut, List.flatMap_cons, List.filter_append, List.getLast?_append] at ih ⊢
    rw [ih]
    by_cases hl : l = x
    · subst hl
      simp only [hx, if_false, Option.map_none, Option.none_or, List.mem_cons, true_or, if_true, Uses.outs, lastWord,
        List.filter_map, List.getLast?_map, Option.map_map]
      simp only [Function.comp_def, BEq.rfl, Bool.true_and]
      cases hf : (List.filter (fun w => w.1 == r) (g l)).getLast? with
      | none => rfl
      | some w =>
        have : w ∈ List.filter (fun w => w.1 == r) (g l) := List.mem_of_getLast? hf
        simp only [List.mem_filter, beq_iff_eq] at this
        simp [this.2]
    · have : (List.filter (fun o => o.lane == l && o.reg == r) (u.outs st ls x (g x))) = [] := by
        rw [List.filter_eq_nil_iff]
        intro o ho
        simp only [Uses.outs, List.mem_map] at ho
        obtain ⟨w, -, rfl⟩ := ho
        simp [Ne.symm hl]
      rw [this]
      simp [hl]

/-! ## The whole course -/

theorem Block.settle_keeps (b : Block) (i : Nat) (ks : List Nat) :
    b.settle i ks = { b with handles := (b.settle i ks).handles } := by
  unfold Block.settle
  split
  · rfl
  · simp only [Block.freeHandles]
    split <;> rfl

/-- What settling, writing, setting flags and going on do together, as one update of the block. -/
theorem State.finish_eq (s : State) (u : Uses) (b : Block) (st : Strand) (ls : List Nat) (os : List RegOut)
    (fl : List (Nat × BitVec 5)) :
    ∃ hs : Block → List Handle,
      (((s.settle u b st ls).writes os).setFlags fl).retire ls =
        s.updBlock s.cur.blk fun x => { x with
          handles := hs x
          strands := x.strands.modify s.cur.strand fun y =>
            (fl.foldl (fun y e => y.updLane e.1 fun l => { l with fstat := l.fstat ||| e.2 }) (y.writes os)).updLanes ls
              fun _ l => l.retire s.cur.next } := by
  have tail (s : State) : ((s.writes os).setFlags fl).retire ls = s.updBlock s.cur.blk fun x => { x with
      strands := x.strands.modify s.cur.strand fun y =>
        (fl.foldl (fun y e => y.updLane e.1 fun l => { l with fstat := l.fstat ||| e.2 }) (y.writes os)).updLanes ls
          fun _ l => l.retire s.cur.next } := by
    simp only [State.retire, State.updCur, State.setFlags, State.writes, State.updStrand_cur]
    rw [State.updStrand_updStrand, State.updStrand_updStrand]
    rfl
  rw [tail]
  unfold State.settle
  split
  · exact ⟨fun x => x.handles, rfl⟩
  · refine ⟨fun x => (x.settle s.cur.strand (u.touched st ls)).handles, ?_⟩
    simp only [State.updBlock_cur]
    refine (State.updBlock_updBlock s _ _ _ fun x => ?_).trans ?_
    · rw [Block.settle_keeps]
    · congr 1
      funext x
      rw [Block.settle_keeps x]

theorem Strand.flags_keeps (st : Strand) (fl : List (Nat × BitVec 5)) :
    let now := fl.foldl (fun y e => y.updLane e.1 fun l => { l with fstat := l.fstat ||| e.2 }) st
    now = { st with lanes := now.lanes } ∧ now.lanes.length = st.lanes.length := by
  induction fl generalizing st with
  | nil => exact ⟨rfl, rfl⟩
  | cons e r ih =>
    have h := ih (st.updLane e.1 fun l => { l with fstat := l.fstat ||| e.2 })
    simp only [List.foldl_cons] at h ⊢
    exact ⟨by rw [h.1]; rfl, h.2.trans (by simp)⟩

theorem Strand.lane_flags (st : Strand) (g : Nat → BitVec 5) (ls : List Nat) (hn : ls.Nodup)
    (h : ∀ l ∈ ls, l < st.lanes.length) (m : Nat) :
    ((ls.map fun l => (l, g l)).foldl (fun y e => y.updLane e.1 fun l => { l with fstat := l.fstat ||| e.2 }) st).lane m =
      if m ∈ ls then { st.lane m with fstat := (st.lane m).fstat ||| g m } else st.lane m := by
  have := Strand.lane_updLanes st ls (fun l ln => { ln with fstat := ln.fstat ||| g l }) m hn h
  rw [← this]
  simp only [Strand.updLanes, List.foldl_map]

/-- EVERYTHING THAT `State.compute` DOES when no check fails and no lane waits. -/
theorem State.compute_next (s : State) (u : Uses) (f : LaneFn) (late : Late) (b : Block) (h : s.clearFor b u)
    (hl : late s b (b.strand s.cur.strand) s.cur.lanes = [])
    (hw : ∀ l ∈ s.cur.lanes, ∀ w ∈ (f (b.strand s.cur.strand) s.cur.lanes l).words, w.1 < 256) :
    ∃ t, s.compute u f late = .next t ∧
      s.computed t b u (fun l => (f (b.strand s.cur.strand) s.cur.lanes l).words)
        (fun l => (f (b.strand s.cur.strand) s.cur.lanes l).flags) := by
  obtain ⟨hb, hi, hne, hn, hlen⟩ := h.1
  generalize hst : b.strand s.cur.strand = st at *
  have hgo := s.gate_go u late false b h (by rw [hst]; exact hl)
  rw [hst] at hgo
  let os := s.cur.lanes.flatMap fun l => u.outs st s.cur.lanes l (f st s.cur.lanes l).words
  let fl := s.cur.lanes.map fun l => (l, (f st s.cur.lanes l).flags)
  obtain ⟨hs, he⟩ := s.finish_eq u b st s.cur.lanes os fl
  refine ⟨(((s.settle u b st s.cur.lanes).writes os).setFlags fl).retire s.cur.lanes, ?_, ?_⟩
  · simp only [State.compute, hgo]
    simp only [os, fl, List.flatMap_map, List.map_map, Function.comp_def]
  rw [he]
  let F (y : Strand) : Strand :=
    (fl.foldl (fun y e => y.updLane e.1 fun l => { l with fstat := l.fstat ||| e.2 }) (y.writes os)).updLanes s.cur.lanes
      fun _ l => l.retire s.cur.next
  let c : Block := { b with handles := hs b, strands := b.strands.modify s.cur.strand F }
  have hc : c.strand s.cur.strand = F st := by
    rw [← hst]; exact Block.strand_modify_self { b with handles := hs b } s.cur.strand F hi
  have hwl : (st.writes os).lanes = st.lanes := by rw [Strand.writes_keeps]
  have hfl := Strand.flags_keeps (st.writes os) fl
  have hF : F st = { st with regs := (F st).regs, lanes := (F st).lanes } := by
    have h1 := (Strand.updLanes_keeps (fl.foldl (fun y e => y.updLane e.1 fun l =>
      { l with fstat := l.fstat ||| e.2 }) (st.writes os)) s.cur.lanes fun _ l => l.retire s.cur.next).1
    simp only [F]
    rw [h1, hfl.1, Strand.writes_keeps]
  refine ⟨c, ⟨rfl, ?_, ?_, rfl⟩, ⟨?_, ?_⟩, ?_, ?_⟩
  · intro k hk
    exact State.block?_updBlock_other s s.cur.blk k
      (fun x => { x with handles := hs x, strands := x.strands.modify s.cur.strand F }) (fun _ => rfl) hk
  · have := State.block?_updBlock_self s s.cur.blk
      (fun x => { x with handles := hs x, strands := x.strands.modify s.cur.strand F }) fun _ => rfl
    rw [hb] at this
    exact this
  · intro j hj; exact Block.strand_modify_other { b with handles := hs b } s.cur.strand j F hj
  · rw [hc, hst]; exact hF
  · intro l
    rw [hc]
    simp only [F]
    rw [Strand.lane_updLanes _ _ _ _ hn (by intro l hl; rw [hfl.2, hwl]; exact hlen l hl)]
    simp only [fl]
    rw [Strand.lane_flags _ _ _ hn (by intro l hl; rw [hwl]; exact hlen l hl)]
    have hlane (l : Nat) : (st.writes os).lane l = st.lane l := by simp only [Strand.lane, hwl]
    by_cases hm : l ∈ s.cur.lanes
    · simp only [hm, if_true, hlane, hst]; rfl
    · simp only [hm, if_false, hlane, hst]
  · intro l r hr
    rw [hc]
    have hregs : (F st).regs = (st.writes os).regs := by
      simp only [F, Strand.updLanes_regs]; rw [hfl.1]
    have : (F st).reg l r = (st.writes os).reg l r := by simp only [Strand.reg, hregs]
    rw [this, Strand.reg_writes _ _ _ _ _ hr]
    · simp only [os]
      rw [lastOut_outs u st s.cur.lanes _ s.cur.lanes hn, hst]
      cases if l ∈ s.cur.lanes then lastWord (f st s.cur.lanes l).words r else none <;> rfl
    · intro o ho
      simp only [os, List.mem_flatMap, Uses.outs, List.mem_map] at ho
      obtain ⟨l, hl, w, hwm, rfl⟩ := ho
      exact hw l hl w hwm

end Sys2Proof.Machine
end

