-- ==== Sys2Proof/Laws/Lists.lean ====
section
/-! SUPPORT. What the helpers over lists, bytes and bits answer: the least element, bytes of a number and back, bytes of
memory, lists without repeats. -/

namespace Sys2Proof.Machine

open Sys2Proof

/-! ## The least element -/

theorem leastBy_none {α : Type} (key : α → Nat) (xs : List α) : leastBy key xs = none ↔ xs = [] := by
  cases xs with
  | nil => simp [leastBy]
  | cons x r =>
    simp only [leastBy, reduceCtorEq, iff_false]
    split
    · simp
    · split <;> simp

/-- It is one of the list's elements, and no element has a smaller key. -/
theorem leastBy_some {α : Type} (key : α → Nat) (xs : List α) (x : α) (h : leastBy key xs = some x) :
    x ∈ xs ∧ ∀ y ∈ xs, key x ≤ key y := by
  induction xs generalizing x with
  | nil => simp [leastBy] at h
  | cons z r ih =>
    simp only [leastBy] at h
    split at h
    · next hn =>
      rw [leastBy_none] at hn
      simp_all
    · next w hw =>
      have := ih w hw
      split at h
      · obtain rfl : w = x := by simpa using h
        refine ⟨by simp [this.1], fun y hy => ?_⟩
        rcases List.mem_cons.1 hy with rfl | hy
        · omega
        · exact this.2 y hy
      · obtain rfl : z = x := by simpa using h
        refine ⟨by simp, fun y hy => ?_⟩
        rcases List.mem_cons.1 hy with rfl | hy
        · omega
        · have := this.2 y hy; omega

/-! ## Bytes of a number -/

@[simp] theorem leBytes_length (n x : Nat) : (leBytes n x).length = n := by
  induction n generalizing x with
  | zero => rfl
  | succ n ih => simp [leBytes, ih]

/-- A number written out as bytes reads back. -/
theorem leNat_leBytes (n x : Nat) : leNat (leBytes n x) = x % 256 ^ n := by
  induction n generalizing x with
  | zero => simp [leBytes, leNat, Nat.mod_one]
  | succ n ih =>
    simp only [leBytes, leNat, ih, BitVec.toNat_ofNat]
    rw [show (2 : Nat) ^ 8 = 256 by decide, Nat.pow_succ, Nat.mul_comm (256 ^ n) 256, Nat.mod_mul]

theorem leNat_lt (bs : List Byte) : leNat bs < 256 ^ bs.length := by
  induction bs with
  | nil => simp [leNat]
  | cons b r ih =>
    have := b.isLt
    simp only [leNat, List.length_cons, Nat.pow_succ]
    omega

/-! ## Bytes of memory -/

@[simp] theorem memBytes_length (m : Memory) (a n : Nat) : (memBytes m a n).length = n := by
  induction n generalizing a with
  | zero => rfl
  | succ n ih => simp [memBytes, ih]

theorem memBytes_getD (m : Memory) (a n j : Nat) (d : Byte) (h : j < n) : (memBytes m a n).getD j d = memGet m (a + j) := by
  induction n generalizing a j with
  | zero => omega
  | succ n ih =>
    cases j with
    | zero => simp [memBytes]
    | succ j =>
      simp only [memBytes, List.getD_cons_succ]
      rw [ih (a + 1) j (by omega), show a + 1 + j = a + (j + 1) by omega]

/-- Equal bytes of two memories. -/
theorem memBytes_congr (m k : Memory) (a n : Nat) (h : ∀ x, a ≤ x → x < a + n → memGet m x = memGet k x) :
    memBytes m a n = memBytes k a n := by
  induction n generalizing a with
  | zero => rfl
  | succ n ih =>
    simp only [memBytes]
    rw [h a (by omega) (by omega), ih (a + 1) fun x h1 h2 => h x (by omega) (by omega)]

/-! ## Lists without repeats -/

theorem dedupe_go {α : Type} [DecidableEq α] (xs acc : List α) (h : acc.Nodup) :
    (xs.foldl (fun acc x => if acc.contains x then acc else acc ++ [x]) acc).Nodup ∧
    ∀ y, y ∈ xs.foldl (fun acc x => if acc.contains x then acc else acc ++ [x]) acc ↔ y ∈ acc ∨ y ∈ xs := by
  induction xs generalizing acc with
  | nil => simp [h]
  | cons x r ih =>
    simp only [List.foldl_cons]
    by_cases hx : x ∈ acc
    · rw [if_pos (by simpa using hx)]
      refine ⟨(ih acc h).1, fun y => ?_⟩
      rw [(ih acc h).2]
      simp only [List.mem_cons]
      constructor
      · rintro (h | h) <;> simp [h]
      · rintro (h | rfl | h) <;> simp [*]
    · rw [if_neg (by simpa using hx)]
      have hn : (acc ++ [x]).Nodup := by
        rw [List.nodup_append]
        refine ⟨h, by simp, fun a ha b hb => ?_⟩
        simp only [List.mem_singleton] at hb
        rintro rfl
        exact hx (hb ▸ ha)
      refine ⟨(ih _ hn).1, fun y => ?_⟩
      rw [(ih _ hn).2]
      simp [or_assoc]

theorem dedupe_nodup {α : Type} [DecidableEq α] (xs : List α) : (dedupe xs).Nodup := (dedupe_go xs [] (by simp)).1

@[simp] theorem mem_dedupe {α : Type} [DecidableEq α] (xs : List α) (y : α) : y ∈ dedupe xs ↔ y ∈ xs := by
  rw [dedupe, (dedupe_go xs [] (by simp)).2]; simp

/-! ## Masks -/

/-- Bit `i` of a mask says whether `i` is listed. -/
theorem maskOf_testBit (is : List Nat) (i : Nat) : (maskOf is).testBit i = decide (i ∈ is) := by
  have h (m : Nat) : (is.foldl (fun m i => m ||| 2 ^ i) m).testBit i = (m.testBit i || decide (i ∈ is)) := by
    induction is generalizing m with
    | nil => simp
    | cons x r ih =>
      simp only [List.foldl_cons, ih, Nat.testBit_or, Nat.testBit_two_pow, List.mem_cons]
      by_cases hx : x = i
      · simp [hx]
      · simp [hx, Ne.symm hx]
  simpa [maskOf] using h 0

end Sys2Proof.Machine
end

