-- ==== Sys2Proof/Tests/Slice0.lean ====
section
/-! SUPPORT. Tests: ill-formed instructions that the checks refuse; words written out from the encoding tables and what they
decode to; worked numbers of the spec; and a witness for the hypotheses of each statement. -/

namespace Sys2Proof.Tests

open Sys2Proof Sys2Proof.Machine Sys2Proof.Spec

set_option Elab.async false
set_option maxRecDepth 100000

/-- Short forms, Table 12-3. -/
noncomputable def wordsShort : List (Nat × Instr) :=
  [(0x0000, .nopHalfword), (0x1740, .movShort false 5 26), (0xABE2, .addShort true 10 31),
   (0x3C84, .subShort false 15 4), (0xD126, .mulloShort true 20 9), (0x65C8, .andShort false 25 14),
   (0xFA6A, .orShort true 30 19), (0x0F0C, .xorShort false 3 24), (0xA3AE, .shlShort true 8 29),
   (0x3450, .shrShort false 13 2), (0xC8F2, .shaShort true 18 7), (0x5D94, .minShort false 23 12),
   (0xF236, .maxShort true 28 17), (0x06D8, .faddShort false 1 22), (0x9B7A, .fsubShort true 6 27),
   (0x2C1C, .fmulShort false 11 0), (0xC0BE, .fmaxShort true 16 5)]

theorem test_decode_short : wordsShort.all (fun x => decide (decodeTableWord 16 x.1 = some x.2)) = true := by
  decide +kernel

/-- Major INT, Tables 12-4 and 12-6. -/
noncomputable def wordsInt : List (Nat × Instr) :=
  [(0x000D7501, .add 106 53 0 .none), (0x14B68781, .sub 15 90 37 .none), (0x295FDA01, .mullo 52 127 74 .none),
   (0x3DE92C81, .mulhi 89 36 111 .none), (0x42927F01, .mulhin 126 73 20 .none), (0x573B9181, .min 35 110 57 .none),
   (0x6BC4E401, .max 72 19 94 .none), (0x706E3681, .minn 109 56 3 .none), (0x85174901, .maxn 18 93 40 .none),
   (0x99A09B81, .and 55 2 77 .none), (0xAE49EE01, .or 92 39 114 .none), (0xB2F30081, .xor 1 76 23 .none),
   (0xC79C5301, .andn 38 113 60 .none), (0xDC25A581, .shl 75 22 97 .none), (0xE0CEF801, .shr 112 59 6 .none),
   (0xF5780A81, .sha 21 96 43 .none)]

theorem test_decode_int : wordsInt.all (fun x => decide (decodeTableWord 32 x.1 = some x.2)) = true := by
  decide +kernel

/-- Major BIT, Tables 12-4 and 12-6. -/
noncomputable def wordsBit : List (Nat × Instr) :=
  [(0x0A015D05, .rotl 58 5 80 .none), (0x1EAAAF85, .rotr 95 42 117 .none), (0x2353C205, .funl 4 79 26 .none),
   (0x37FD1485, .funr 41 116 63 .none), (0x4C866705, .bfe 78 25 100 .none), (0x512FB985, .bfen 115 62 9 .none),
   (0x65D8CC05, .bfi 24 99 46 .none), (0x7014C405, .popc 8 83 .none), (0x801E1685, .clz 45 120 .none),
   (0x90076905, .ctz 82 29 .none), (0xA010BB85, .brev 119 66 .none), (0xBCE72885, .permb 81 28 103 .none),
   (0xC0032085, .abs 65 12 .none), (0xD6398D85, .sel 27 102 49 .none)]

theorem test_decode_bit : wordsBit.all (fun x => decide (decodeTableWord 32 x.1 = some x.2)) = true := by
  decide +kernel

/-- Major INTI, Tables 12-4 and 12-6. -/
noncomputable def wordsInti : List (Nat × Instr) :=
  [(0xD602E009, .addi 64 11 214 .none), (0xFB2C3289, .andi 101 48 251 .none), (0x20554509, .ori 10 85 32 .none),
   (0x457E9789, .xori 47 122 69 .none), (0x6A87EA09, .shli 84 31 106 .none), (0x8FB13C89, .shri 121 68 143 .none),
   (0xB4DA4F09, .shai 30 105 180 .none), (0xD9E3A189, .muli 67 14 217 .none)]

theorem test_decode_inti : wordsInti.all (fun x => decide (decodeTableWord 32 x.1 = some x.2)) = true := by
  decide +kernel

/-- Major CMP, Tables 12-4 and 12-6. -/
noncomputable def wordsCmp : List (Nat × Instr) :=
  [(0x0FCCF40D, .cmpEq 104 51 126 .none), (0x1476068D, .cmpNe 13 88 35 .none), (0x291F590D, .cmpLt 50 125 72 .none),
   (0x3DA8AB8D, .cmpLe 87 34 109 .none), (0x4251FE0D, .cmpGt 124 71 18 .none), (0x56FB108D, .cmpGe 33 108 55 .none),
   (0x6B84630D, .cmpLtn 70 17 92 .none), (0x702DB58D, .cmpLen 107 54 1 .none), (0x84D6C80D, .cmpGtn 16 91 38 .none),
   (0x99601A8D, .cmpGen 53 0 75 .none)]

theorem test_decode_cmp : wordsCmp.all (fun x => decide (decodeTableWord 32 x.1 = some x.2)) = true := by
  decide +kernel

/-- Major CMPI, Tables 12-4 and 12-6. -/
noncomputable def wordsCmpi : List (Nat × Instr) :=
  [(0x70096D11, .cmpiEq 90 37 112 .none), (0x9532BF91, .cmpiNe 127 74 149 .none), (0xBA5BD211, .cmpiLt 36 111 186 .none),
   (0xDF652491, .cmpiLe 73 20 223 .none), (0x048E7711, .cmpiGt 110 57 4 .none), (0x29B78991, .cmpiGe 19 94 41 .none),
   (0x4EC0DC11, .cmpiLtn 56 3 78 .none), (0x73EA2E91, .cmpiGen 93 40 115 .none)]

theorem test_decode_cmpi : wordsCmpi.all (fun x => decide (decodeTableWord 32 x.1 = some x.2)) = true := by
  decide +kernel

/-- Major WIDE, Tables 12-4 and 12-6. -/
noncomputable def wordsWide : List (Nat × Instr) :=
  [(0x03134115, .addx 2 77 24 .none), (0x17BC9395, .subx 39 114 61 .none), (0x2C45E615, .mulx 76 23 98 .none),
   (0x30EF3895, .mulxn 113 60 7 .none), (0x45984B15, .shlx 22 97 44 .none), (0x5A219D95, .shrx 59 6 81 .none),
   (0x6ECAF015, .shax 96 43 118 .none), (0x73740295, .cmpxEq 5 80 27 .none), (0x881D5515, .cmpxLt 42 117 64 .none),
   (0x9CA6A795, .cmpxLtn 79 26 101 .none), (0xA14FFA15, .div 116 63 10 .none), (0xB5F90C95, .divn 25 100 47 .none),
   (0xCA825F15, .rem 62 9 84 .none), (0xDF2BB195, .remn 99 46 121 .none)]

theorem test_decode_wide : wordsWide.all (fun x => decide (decodeTableWord 32 x.1 = some x.2)) = true := by
  decide +kernel

/-- Major MOVI, Tables 12-4 and 12-6. -/
noncomputable def wordsMovi : List (Nat × Instr) :=
  [(0x0327A999, .movi 83 3230 .none)]

theorem test_decode_movi : wordsMovi.all (fun x => decide (decodeTableWord 32 x.1 = some x.2)) = true := by
  decide +kernel

/-- Major LUI, Tables 12-4 and 12-6. -/
noncomputable def wordsLui : List (Nat × Instr) :=
  [(0x0330FC1D, .lui 120 3267 .none)]

theorem test_decode_lui : wordsLui.all (fun x => decide (decodeTableWord 32 x.1 = some x.2)) = true := by
  decide +kernel

/-- Major ADR, Tables 12-4 and 12-6. -/
noncomputable def wordsAdr : List (Nat × Instr) :=
  [(0x033A0EA1, .adr 29 3304 .none)]

theorem test_decode_adr : wordsAdr.all (fun x => decide (decodeTableWord 32 x.1 = some x.2)) = true := by
  decide +kernel

/-- Major SAFEPT, Tables 12-4 and 12-6. -/
noncomputable def wordsSafept : List (Nat × Instr) :=
  [(0x03434025, .safept 3341)]

theorem test_decode_safept : wordsSafept.all (fun x => decide (decodeTableWord 32 x.1 = some x.2)) = true := by
  decide +kernel

/-- Major FP, Tables 12-4 and 12-6. -/
noncomputable def wordsFp : List (Nat × Instr) :=
  [(0x0659CE29, .fadd 28 103 50 .none), (0x1AE320A9, .fsub 65 12 87 .none), (0x2F8C7329, .fmul 102 49 124 .none),
   (0x343585A9, .ffma 11 86 33 .none), (0x48DED829, .fmin 48 123 70 .none), (0x5D682AA9, .fmax 85 32 107 .none),
   (0x62117D29, .fminnum 122 69 16 .none), (0x76BA8FA9, .fmaxnum 31 106 53 .none), (0x8B43E229, .fdiv 68 15 90 .none),
   (0x9FED34A9, .fcpys 105 52 127 .none), (0xA4964729, .fldexp 14 89 36 .none)]

theorem test_decode_fp : wordsFp.all (fun x => decide (decodeTableWord 32 x.1 = some x.2)) = true := by
  decide +kernel

/-- Major FPX, Tables 12-4 and 12-6. -/
noncomputable def wordsFpx : List (Nat × Instr) :=
  [(0x00127F2D, .fsqrt 126 73 .none), (0x101B91AD, .frcp 35 110 .none), (0x2004E42D, .frsq 72 19 .none),
   (0x300E36AD, .fexp2 109 56 .none), (0x4017492D, .flog2 18 93 .none), (0x50009BAD, .fsinpi 55 2 .none),
   (0x6009EE2D, .fcospi 92 39 .none), (0x701300AD, .ftanh 1 76 .none), (0x801C532D, .ffract 38 113 .none),
   (0x9005A5AD, .frnd 75 22 .none), (0xA00EF82D, .fclass 112 59 .none)]

theorem test_decode_fpx : wordsFpx.all (fun x => decide (decodeTableWord 32 x.1 = some x.2)) = true := by
  decide +kernel

/-- Major FCMP, Tables 12-4 and 12-6. -/
noncomputable def wordsFcmp : List (Nat × Instr) :=
  [(0x0C056531, .fcmpEq 74 21 96 .none), (0x10AEB7B1, .fcmpNe 111 58 5 .none), (0x2557CA31, .fcmpLt 20 95 42 .none),
   (0x39E11CB1, .fcmpLe 57 4 79 .none), (0x4E8A6F31, .fcmpGt 94 41 116 .none), (0x533381B1, .fcmpGe 3 78 25 .none),
   (0x67DCD431, .fcmpUn 40 115 62 .none), (0x7C6626B1, .fcmpOrd 77 24 99 .none)]

theorem test_decode_fcmp : wordsFcmp.all (fun x => decide (decodeTableWord 32 x.1 = some x.2)) = true := by
  decide +kernel

/-- Major PACK, Tables 12-4 and 12-6. -/
noncomputable def wordsPack : List (Nat × Instr) :=
  [(0x010F7935, .hadd2 114 61 8 .none), (0x15B88BB5, .hsub2 23 98 45 .none), (0x2A41DE35, .hmul2 60 7 82 .none),
   (0x3EEB30B5, .hfma2 97 44 119 .none), (0x43944335, .hmin2 6 81 28 .none), (0x583D95B5, .hmax2 43 118 65 .none),
   (0x6CC6E835, .hdot2 80 27 102 .none), (0x71703AB5, .badd2 117 64 11 .none), (0x86194D35, .bsub2 26 101 48 .none),
   (0x9AA29FB5, .bmul2 63 10 85 .none), (0xAF4BF235, .bfma2 100 47 122 .none), (0xB3F504B5, .bmin2 9 84 31 .none),
   (0xC89E5735, .bmax2 46 121 68 .none), (0xDD27A9B5, .bdot2 83 30 105 .none)]

theorem test_decode_pack : wordsPack.all (fun x => decide (decodeTableWord 32 x.1 = some x.2)) = true := by
  decide +kernel

/-- Major DBL, Tables 12-4 and 12-6. -/
noncomputable def wordsDbl : List (Nat × Instr) :=
  [(0x01D0FC39, .dadd 120 67 14 .none), (0x167A0EB9, .dsub 29 104 51 .none), (0x2B036139, .dmul 66 13 88 .none),
   (0x3FACB3B9, .dfma 103 50 125 .none), (0x4455C639, .ddiv 12 87 34 .none), (0x5011FE39, .dsqrt 124 71 .none),
   (0x6D886B39, .dmin 86 33 108 .none), (0x7231BDB9, .dmax 123 70 17 .none), (0x86DAD039, .dcmpEq 32 107 54 .none),
   (0x9B6422B9, .dcmpLt 69 16 91 .none), (0xA00D7539, .dcmpLe 106 53 0 .none), (0xB4B687B9, .dcmpUn 15 90 37 .none)]

theorem test_decode_dbl : wordsDbl.all (fun x => decide (decodeTableWord 32 x.1 = some x.2)) = true := by
  decide +kernel

/-- Major CVT, Tables 12-4 and 12-6. -/
noncomputable def wordsCvt : List (Nat × Instr) :=
  [(0xA1ED34BD, .cvt .f32 .e3m5 105 52 .none)]

theorem test_decode_cvt : wordsCvt.all (fun x => decide (decodeTableWord 32 x.1 = some x.2)) = true := by
  decide +kernel

/-- Major QNT, Tables 12-4 and 12-6. -/
noncomputable def wordsQnt : List (Nat × Instr) :=
  [(0x0DE92CC1, .qpack4 89 36 111 .none), (0x12927F41, .qpack8e4 126 73 20 .none),
   (0x273B91C1, .qpack8e5 35 110 57 .none), (0x3BC4E441, .qunpk4 72 19 94 .none), (0x406E36C1, .scacc 109 56 3 .none),
   (0x55174941, .scamax 18 93 40 .none), (0x69A09BC1, .qalign 55 2 77 .none)]

theorem test_decode_qnt : wordsQnt.all (fun x => decide (decodeTableWord 32 x.1 = some x.2)) = true := by
  decide +kernel

/-- Major XLANE, Tables 12-4 and 12-6. -/
noncomputable def wordsXlane : List (Nat × Instr) :=
  [(0x0E49EE45, .shflIdx 92 39 114 .none), (0x12F300C5, .shflUp 1 76 23 .none), (0x279C5345, .shflDn 38 113 60 .none),
   (0x3C25A5C5, .shflXor 75 22 97 .none), (0x40019DC5, .voteAny 59 6 .none), (0x500AF045, .voteAll 96 43 .none),
   (0x601402C5, .voteEq 5 80 .none), (0x701D5545, .ballot 42 117 .none), (0x8006A7C5, .reduxAdd 79 26 .none),
   (0x900FFA45, .reduxMin 116 63 .none), (0xA0190CC5, .reduxMax 25 100 .none), (0xB0025F45, .reduxMinn 62 9 .none),
   (0xC00BB1C5, .reduxMaxn 99 46 .none), (0xD014C445, .reduxAnd 8 83 .none), (0xE01E16C5, .reduxOr 45 120 .none),
   (0xF0076945, .matchLanes 82 29 .none)]

theorem test_decode_xlane : wordsXlane.all (fun x => decide (decodeTableWord 32 x.1 = some x.2)) = true := by
  decide +kernel

/-- Major LD, Tables 12-4 and 12-6. -/
noncomputable def wordsLd : List (Nat × Instr) :=
  [(0xC21DD649, .ldI8 44 119 194 .none), (0xE72728C9, .ldN8 81 28 231 .none), (0x0C507B49, .ldI16 118 65 12 .none),
   (0x31798DC9, .ldN16 27 102 49 .none), (0x5682E049, .ldB32 64 11 86 .none), (0x7BAC32C9, .ldB64 101 48 123 .none),
   (0xA0D54549, .ldB128 10 85 160 .none), (0xC5FE97C9, .ldcon 47 122 197 .none)]

theorem test_decode_ld : wordsLd.all (fun x => decide (decodeTableWord 32 x.1 = some x.2)) = true := by
  decide +kernel

/-- Major ST, Tables 12-4 and 12-6. -/
noncomputable def wordsSt : List (Nat × Instr) :=
  [(0xEA07EA4D, .stB8 84 31 234 .none), (0x0F313CCD, .stB16 121 68 15 .none), (0x345A4F4D, .stB32 30 105 52 .none),
   (0x5963A1CD, .stB64 67 14 89 .none), (0x7E8CF44D, .stB128 104 51 126 .none)]

theorem test_decode_st : wordsSt.all (fun x => decide (decodeTableWord 32 x.1 = some x.2)) = true := by
  decide +kernel

/-- Major LDS, Tables 12-4 and 12-6. -/
noncomputable def wordsLds : List (Nat × Instr) :=
  [(0xA31606D1, .ldsI8 13 88 163 .none), (0xC83F5951, .ldsN8 50 125 200 .none), (0xED48ABD1, .ldsI16 87 34 237 .none),
   (0x1271FE51, .ldsN16 124 71 18 .none), (0x379B10D1, .ldsB32 33 108 55 .none), (0x5CA46351, .ldsB64 70 17 92 .none),
   (0x81CDB5D1, .ldsB128 107 54 129 .none)]

theorem test_decode_lds : wordsLds.all (fun x => decide (decodeTableWord 32 x.1 = some x.2)) = true := by
  decide +kernel

/-- Major STS, Tables 12-4 and 12-6. -/
noncomputable def wordsSts : List (Nat × Instr) :=
  [(0xA616C855, .stsB8 16 91 166 .none), (0xCB201AD5, .stsB16 53 0 203 .none), (0xF0496D55, .stsB32 90 37 240 .none),
   (0x1572BFD5, .stsB64 127 74 21 .none), (0x3A9BD255, .stsB128 36 111 58 .none)]

theorem test_decode_sts : wordsSts.all (fun x => decide (decodeTableWord 32 x.1 = some x.2)) = true := by
  decide +kernel

/-- Major ATOM, Tables 12-4 and 12-6. -/
noncomputable def wordsAtom : List (Nat × Instr) :=
  [(0x0BE524D9, .atomAdd 73 20 95 .none), (0x108E7759, .atomMin 110 57 4 .none), (0x253789D9, .atomMax 19 94 41 .none),
   (0x39C0DC59, .atomMinn 56 3 78 .none), (0x4E6A2ED9, .atomMaxn 93 40 115 .none), (0x53134159, .atomAnd 2 77 24 .none),
   (0x67BC93D9, .atomOr 39 114 61 .none), (0x7C45E659, .atomXor 76 23 98 .none), (0x80EF38D9, .atomXchg 113 60 7 .none),
   (0x95984B59, .atomCas 22 97 44 .none), (0xAA219DD9, .atomFadd 59 6 81 .none), (0xB01D95D9, .atomLdres 43 118 .none),
   (0xC37402D9, .atomStcond 5 80 27 .none), (0xD81D5559, .atomAappend 42 117 64 .none)]

theorem test_decode_atom : wordsAtom.all (fun x => decide (decodeTableWord 32 x.1 = some x.2)) = true := by
  decide +kernel

/-- Major SYNC, Tables 12-4 and 12-6. -/
noncomputable def wordsSync : List (Nat × Instr) :=
  [(0x0000005D, .bar .none), (0x1000005D, .tbar .none), (0x2000005D, .fenceSc .none), (0x3000005D, .fenceAr .none),
   (0x401E575D, .acq 46 121 .none), (0x53D4C05D, .rel 83 30 .none), (0x6010C05D, .ticketTake 67 .none),
   (0x7D07405D, .ticketWait 29 104 .none), (0x8003405D, .ticketDecl 13 .none), (0x9000005D, .publish .none),
   (0xA0002BDD, .seal 87 .none), (0xB000005D, .rally), (0xC000005D, .yield)]

theorem test_decode_sync : wordsSync.all (fun x => decide (decodeTableWord 32 x.1 = some x.2)) = true := by
  decide +kernel

/-- Major MAT, Tables 12-4 and 12-6. -/
noncomputable def wordsMat : List (Nat × Instr) :=
  [(0x00118061, .mgang 70 .none), (0x1D682861, .mmaF64 ⟨0, false, true, false, true⟩ 32 107 .none),
   (0x22115361, .mmaF32 ⟨6, false, false, true, false⟩ 69 16 .none),
   (0x36BAA9E1, .mmaBf16 ⟨3, false, true, false, true⟩ 106 53 .none),
   (0x4B43D061, .mmaF16 ⟨0, false, false, true, false⟩ 15 90 .none),
   (0x5FED2AE1, .mmaF8e4 ⟨5, false, true, false, true⟩ 52 127 .none),
   (0x64965161, .mmaF8e5 ⟨2, false, false, true, false⟩ 89 36 .none),
   (0x793F9061, .mmaF4 ⟨0, false, false, true, false⟩ 126 73 .none),
   (0x8DC8D261, .mmaI8 ⟨4, false, false, true, false⟩ 35 110 .none),
   (0x927223E1, .mscale ⟨7, false, false, false, true⟩ 72 19 .none),
   (0xA00002E1, .accz ⟨5, false, false, false, false⟩ .none),
   (0xB01743E1, .accld ⟨7, false, false, false, false⟩ 93 .none),
   (0xC0008261, .accst ⟨4, false, false, false, false⟩ 2 .none),
   (0xD009C0E1, .accsp ⟨1, false, false, false, false⟩ 39 .none)]

theorem test_decode_mat : wordsMat.all (fun x => decide (decodeTableWord 32 x.1 = some x.2)) = true := by
  decide +kernel

/-- Major ENG, Tables 12-4 and 12-6. -/
noncomputable def wordsEng : List (Nat × Instr) :=
  [(0x09805B65, .cpy4 54 1 76 .none), (0x1E29ADE5, .cpy8 91 38 113 .none), (0x22D2C065, .cpy16 0 75 22 .none),
   (0x300EF865, .cpyt 112 59 .none), (0x40180AE5, .cpyz 21 96 .none), (0x50015D65, .cpyx 58 5 .none),
   (0x600AAFE5, .coll 95 42 .none), (0x7013C265, .htest 4 79 .none), (0x801D0065, .hcancel 116 .none),
   (0x93338065, .stgarm 78 25 .none), (0xA7DCC065, .stgwait 115 62 .none), (0xBC660065, .stgflip 24 99 .none),
   (0xC0021EE5, .ckpt 61 8 .none)]

theorem test_decode_eng : wordsEng.all (fun x => decide (decodeTableWord 32 x.1 = some x.2)) = true := by
  decide +kernel

/-- Major VIEW, Tables 12-4 and 12-6. -/
noncomputable def wordsView : List (Nat × Instr) :=
  [(0x05B88BE9, .fork 23 98 45 .none), (0x10148069, .join 82 .none), (0x201DD669, .viewq 44 119 .none)]

theorem test_decode_view : wordsView.all (fun x => decide (decodeTableWord 32 x.1 = some x.2)) = true := by
  decide +kernel

/-- Major RNGX, Tables 12-4 and 12-6. -/
noncomputable def wordsRngx : List (Nat × Instr) :=
  [(0x000728ED, .rng 81 28 .none), (0x183D806D, .rngsk 118 65 .none)]

theorem test_decode_rngx : wordsRngx.all (fun x => decide (decodeTableWord 32 x.1 = some x.2)) = true := by
  decide +kernel

/-- Major BRC, Tables 12-4 and 12-6. -/
noncomputable def wordsBrc : List (Nat × Instr) :=
  [(0x49CC0DF1, .bnz 27 9446 .none), (0x4A166071, .bz 64 9483 .none), (0x4A60B2F1, .bany 101 9520 .none),
   (0x4AAAC571, .ball 10 9557 .none), (0x4AF517F1, .bnone 47 9594 .none)]

theorem test_decode_brc : wordsBrc.all (fun x => decide (decodeTableWord 32 x.1 = some x.2)) = true := by
  decide +kernel

/-- Major JMPL, Tables 12-4 and 12-6. -/
noncomputable def wordsJmpl : List (Nat × Instr) :=
  [(0x0012CFF5, .jmpl 9631)]

theorem test_decode_jmpl : wordsJmpl.all (fun x => decide (decodeTableWord 32 x.1 = some x.2)) = true := by
  decide +kernel

/-- Major CALLL, Tables 12-4 and 12-6. -/
noncomputable def wordsCalll : List (Nat × Instr) :=
  [(0x0012E279, .calll 9668)]

theorem test_decode_calll : wordsCalll.all (fun x => decide (decodeTableWord 32 x.1 = some x.2)) = true := by
  decide +kernel

/-- Major SYS, Tables 12-4 and 12-6. -/
noncomputable def wordsSys : List (Nat × Instr) :=
  [(0x007A4F7D, .srd 30 489 .none), (0x0183A1FD, .swr 67 526 .none), (0x020019FD, .jmpr 51 .none),
   (0x03002C7D, .callr 88 .none), (0x0400007D, .ret), (0x05A8ABFD, .brx 87 674 .none), (0x0600007D, .exit),
   (0x07BB10FD, .trap 33 748 .none), (0x0800007D, .nop), (0x09CDB5FD, .flush 107 822 .none),
   (0x0AD6C87D, .inval 16 859 .none), (0x0BE01AFD, .range 53 896 .none), (0x0C096D7D, .evt 90 37 .none),
   (0x0D00007D, .halt)]

theorem test_decode_sys : wordsSys.all (fun x => decide (decodeTableWord 32 x.1 = some x.2)) = true := by
  decide +kernel

/-! ## Ill-formed terms: one for each check -/

/-- A MOD adverb with no field set. -/
def none0 : Mod := Mod.zero

/-- Each MOD field on an instruction that does not admit it (R265, Table 20-1: class 0x01 SUB 3). -/
noncomputable def unusedFields : List Instr :=
  [.add 1 2 3 (.mod { none0 with rnd := 1 }), .and 1 2 3 (.mod { none0 with sat := true }),
   .add 1 2 3 (.mod { none0 with ftz := true }), .jmpr 4 (.mod { none0 with teb := true }),
   .popc 1 2 (.mod { none0 with bh := true }), .lui 1 2 (.mod { none0 with ah := true }),
   .bar (.mod { none0 with dh := true }), .fadd 1 2 3 (.mod { none0 with c := 9 }),
   .add 1 2 3 (.mod { none0 with nega := true }), .cvt .f32 .i32 1 2 (.mod { none0 with absa := true }),
   .qpack4 1 8 3 (.mod { none0 with negb := true }), .fsqrt 1 2 (.mod { none0 with absb := true }),
   .sel 1 2 3 (.mod { none0 with scope := 2 }), .movi 1 2 (.mod { none0 with tea := true })]

theorem test_unused_fields_refused : unusedFields.all (fun i => i.flaw == some 3 && !i.ok) = true := by decide +kernel

theorem test_imm_not_admitted : (Instr.add 1 2 3 (.imm 5)).flaw = some 3 := by decide

theorem test_imm_with_high_bit_of_imm8 : (Instr.addi 1 2 0x80 (.imm 5)).flaw = some 1 ∧
    (Instr.addi 1 2 0x7F (.imm 5)).flaw = none := by decide

theorem test_reserved_mod_values :
    [Instr.fadd 1 2 3 (.mod { none0 with rnd := 6 }), .fadd 1 2 3 (.mod { none0 with rnd := 7 }),
     .ldB32 1 2 0 (.mod { none0 with scope := 7 })].all (fun i => i.flaw == some 4) = true := by decide

theorem test_matrix_control_fields :
    [Instr.accz ⟨0, false, true, false, false⟩ .none, .mscale ⟨0, false, false, true, false⟩ 2 4 .none,
     .accld ⟨0, false, false, false, true⟩ 2 .none, .mmaF4 ⟨0, false, false, false, true⟩ 2 4 .none,
     .mmaF4 ⟨1, false, false, false, false⟩ 2 4 .none].all (fun i => i.flaw == some 1) = true ∧
    [Instr.mmaF32 ⟨0, true, false, false, false⟩ 2 4 .none,
     .mmaF64 ⟨3, false, false, false, false⟩ 2 4 .none].all (fun i => i.flaw == some 4) = true := by decide

theorem test_reserved_selector : (Instr.srd 1 21 .none).flaw = some 4 ∧ (Instr.srd 1 20 .none).flaw = none ∧
    (Instr.swr 1 1023 .none).flaw = some 4 := by decide

theorem test_lowest_sub_wins :
    (Instr.accz ⟨0, true, true, false, false⟩ (.mod { none0 with c := 1 })).flaw = some 1 := by decide

/-! ## Words that the front end refuses (Table 20-1, R414) -/

/-- Reserved functions of BIT, CMP, BRC and SYS, a reserved adverb kind, bit 31 of a MOD adverb, an adverb before an
instruction that is never paired; each with its SUB. -/
def refusedUnits : List (BitVec 64 × Nat) :=
  [(0xE0608085, 0), (0xF060808D, 0), (0x0040C2F1 ||| 0x00014000, 0), (0x0E00007D, 0),
   (0x0060808100000003 ||| 0x0000000000000008, 2), (0x0060808180000003, 1), (0xB000005D00000003, 3)]

theorem test_refused_units :
    (refusedUnits.map fun x => (checkUnit x.1 true).map fun y => y.2) = refusedUnits.map fun x => some x.2 := by
  decide +kernel

/-- Adverbs in the wrong place: off an 8-byte boundary, before a short form, before another adverb (R258, class 0x02). -/
theorem test_refused_adverbs : (checkUnit 0x0060808100000003 false).map (fun y => y.1) = some 2 ∧
    (checkUnit 0x0000946200000003 true).map (fun y => y.1) = some 2 ∧
    (checkUnit 0x0000000300000003 true).map (fun y => y.1) = some 2 := by decide +kernel

theorem test_bits_of_unused_fields_refused : decodeTableWord 32 (0x0800007D ||| 2 ^ 14) = none ∧
    decodeTableWord 32 (0x000104AD ||| 2 ^ 21) = none := by decide +kernel

/-! ## Worked numbers of the spec -/

/-- −2.75 (Table 8-2). -/
def v275 : Val := .fin true 11 (-2) false

def ctx0 : Ctx := ⟨.rne, false⟩

/-- Table 8-2: −2.75 and others in every format. -/
theorem test_worked_formats :
    (Fmt.f64.round .rne false false v275).1 = 0xC006000000000000 ∧
    (Fmt.f32.round .rtz false false v275).1 = 0xC0300000 ∧ (Fmt.bf16.round .rup false false v275).1 = 0xC030 ∧
    (Fmt.f16.round .rdn false false v275).1 = 0xC180 ∧ (Fmt.f8e4.round .rna false false v275).1 = 0xC3 ∧
    (Fmt.f8e5.round .rne false false v275).1 = 0xC2 ∧ (Fmt.f8e5.round .rtz false false v275).1 = 0xC1 ∧
    (Fmt.f4.round .rne false false v275).1 = 0xD ∧
    (Fmt.e3m5.round .rne false false (.fin false 3 (-2) false)).1 = 0x50 ∧
    (Fmt.f8e4.round .rne false false (.fin false 1 (-9) false)).1 = 1 := by decide +kernel

/-- Tables 8-2 and 8-3: values that the narrow formats round or cannot hold. -/
theorem test_worked_ends :
    Fmt.f8e4.round .rne false false (Fmt.f32.value 0x43960000) = (0x79, FpFlags.nx) ∧
    Fmt.f8e4.round .rne false false (.fin false 460 0 false) = (0x7E, FpFlags.nx) ∧
    Fmt.f8e4.round .rne false false (.fin false 500 0 false) = (0x7F, FpFlags.of ||| FpFlags.nx) ∧
    Fmt.f8e4.round .rne true false (.fin false 500 0 false) = (0x7E, FpFlags.of ||| FpFlags.nx) ∧
    Fmt.f4.round .rne false false (Fmt.f32.value 0xC0300000) = (0xD, FpFlags.nx) ∧
    Fmt.e3m5.round .rne false false (.fin true 1 0 false) = (0, FpFlags.nx) := by decide +kernel

/-- Table 14-4 and R321: conversions. -/
theorem test_worked_conversions :
    convert .i32 .f32 ctx0 false false false 0x406CCCCD = (4, FpFlags.nx) ∧
    convert .i32 .f32 ⟨.rtz, false⟩ false false false 0x406CCCCD = (3, FpFlags.nx) ∧
    convert .i32 .f32 ctx0 false false false 0x50DF8476 = (0x7FFFFFFF, FpFlags.nv) ∧
    convert .n8 .i32 ctx0 false false false 0xFFFFFFFF = (0xFF, 0) ∧
    convert .n8 .i32 ctx0 true false false 0xFFFFFFFF = (0, 0) ∧
    convert .f32 .f8e5 ctx0 false false false 0x7C = (0x7F800000, 0) := by decide +kernel

/-- R314: one rounding of a fused product against two. -/
theorem test_worked_fma :
    Fmt.f32.fma ctx0 0x3F800800 0x3F800800 0xBF800000 = (0x3A000400, 0) ∧
    Fmt.f32.mul ctx0 0x3F800800 0x3F800800 = (0x3F801000, FpFlags.nx) ∧
    Fmt.f32.add ctx0 0x3F801000 0xBF800000 = (0x3A000000, 0) := by decide +kernel

/-- R182, R186, R326, R322: scaled partials, alignment, packing. -/
theorem test_worked_scale :
    scaleSum false 0x3F800000 [(25, 0x50, 0x80), (-6, 0x60, 0x20)] 0x3F80 0x3F00 = (0x40B00000, 0) := by decide +kernel

theorem test_worked_qalign :
    Machine.qalign false 0x40400000 1 2 = (0x1800000000000000, 0) ∧
    Machine.qalign false 0x3EC00000 1 2 = (0x0300000000000000, 0) ∧
    Machine.qalign false 0xBFA00000 1 2 = (0xF600000000000000, 0) ∧
    Machine.qalign false 0x40200000 1 2 = (0x1400000000000000, 0) := by decide +kernel

theorem test_worked_qpack :
    quotient .e3m5 .rup false false 0x40900000 0x40C00000 = (0x50, 0) ∧
    (joined 4 8 fun i => quotient .f4 .rne false false
      ([0x40900000, 0xC0400000, 0x3E99999A, 0x3F99999A, 0xBF400000, 0, 0x40100000, 0xC0900000].getD i 0) 0x3F400000).1 =
      0xF50A31E7 := by decide +kernel

/-- R188: the generator's rounds. -/
theorem test_worked_gust :
    gustRound 1 (0, 0, 0, 0) = (0x00000001, 0x10000000, 0x00010000, 0x00010000) ∧
    gustRound 0 (gustRound 1 (0, 0, 0, 0)) = (0x10000001, 0x21001100, 0x00021001, 0x00011001) := by decide +kernel

/-- R263, R267, R268: an offset of 2^14 halfwords back, a full 32-bit immediate through IMM, a register above v127. -/
theorem test_operand_forms :
    (Spec.after 0x10000 (-16384)).toNat = 0x8000 ∧ immOf (.imm 0x2468AC) 18 0x78 = 0x12345678 ∧
    immOf .none 8 0xF9 = -7 ∧ dReg (.mod { none0 with dh := true }) 72 = 200 := by decide +kernel

/-! ## States for the witnesses -/

/-- The block that `State.probe` places, its key 1. -/
def block0 : Block := Block.start (probeGrid 0 false) 1 0 0 .root [⟨0, 0, 256⟩]

/-- The strand of that block. -/
def strand0 : Strand := block0.strand 0

/-- Strand 0 of block 1 runs the unit at 2^30 in these lanes. -/
def issueOf (ls : List Nat) : Issue := ⟨1, 0, ls, 0x40000000, 0x40000004, 0, Option.none⟩

/-- The module running with one block `b`, whose strand 0 has an instruction in progress in its eight lanes. -/
def running (b : Block) : State := { State.reset.probe 0 with blocks := [b], cur := issueOf (List.range 8) }

/-- The same with lane 3 alone. -/
def runningLane (b : Block) : State := { running b with cur := issueOf [3] }

/-- The block with word `w` in register `r` of every lane. -/
def withWord (r : Nat) (w : RegWord) (b : Block) : Block :=
  { b with strands := b.strands.map fun st => (List.range 8).foldl (fun st l => st.setReg l r w) st }

def withVal (r : Nat) (v : Word) (b : Block) : Block := withWord r ⟨v, true, false, false⟩ b

/-- A MOD adverb that names v128 and above in each operand, with `C`. -/
def modHigh : Adverb := .mod { none0 with dh := true, ah := true, bh := true, c := 127 }

/-! ## Register instructions: the operands of each shape, at the ends of the register numbers -/

theorem witness_IntegerFunctions :
    ∀ u ∈ [usesR .none 0 127 64, usesR modHigh 127 0 127], (running block0).clearFor block0 u := by decide +kernel

theorem witness_BitFunctions :
    ∀ u ∈ [usesR .none 5 4 3, usesR4 .none 0 127 1, usesR4 modHigh 127 127 127, usesR1 .none 127 0],
      (running block0).clearFor block0 u := by decide +kernel

theorem witness_ImmediatesComparisonsAndShortForms :
    ∀ u ∈ [usesR1 (.imm 0x1FFFFFF) 127 127, usesR .none 5 5 5, usesShort true 31 31, usesShort false 0 31,
        ({ dsts := [{ reg := 31 }] } : Uses), { srcs := [{ reg := 31, field := 2 }], dsts := [{ reg := 0 }] }],
      (running block0).clearFor block0 u := by decide +kernel

theorem witness_WideFunctions :
    ∀ u ∈ [({ srcs := [(srcA .none 126).pair, (srcB .none 0).pair], dsts := [(dstD .none 2).pair] } : Uses),
        { srcs := [(srcA modHigh 126).pair, srcB modHigh 127], dsts := [(dstD modHigh 126).pair] },
        { srcs := [(srcA .none 4).pair, (srcB .none 6).pair], dsts := [dstD .none 127] },
        { dsts := [dstD .none 127] }, { dsts := [(dstD .none 126).pair] }],
      (running block0).clearFor block0 u := by decide +kernel

theorem witness_FloatInstructions :
    ∀ u ∈ [usesR .none 1 2 3, usesR4 modHigh 127 127 127, usesR4 .none 4 4 4, usesR1 .none 9 9, usesShort true 31 0,
        usesShort false 31 31], (running block0).clearFor block0 u := by decide +kernel

theorem witness_PackedAndDoubleInstructions :
    ∀ u ∈ [usesR .none 1 2 3, usesR4 .none 4 5 6,
        ({ srcs := [(srcA .none 126).pair, (srcB .none 0).pair, (srcC .none 126).pair],
           dsts := [(dstD .none 126).pair] } : Uses),
        { srcs := [(srcA .none 4).pair], dsts := [(dstD .none 6).pair] },
        { srcs := [(srcA .none 4).pair, (srcB .none 6).pair], dsts := [dstD .none 1] }],
      (running block0).clearFor block0 u := by decide +kernel

theorem witness_ConversionAndNarrowInstructions :
    ∀ u ∈ [({ srcs := [(srcA .none 126).pair], dsts := [(dstD .none 0).pair] } : Uses),
        { srcs := [srcA .none 127], dsts := [dstD .none 127] },
        { srcs := [(srcA .none 120).group 8, srcB .none 127], dsts := [dstD .none 3] },
        { srcs := [(srcA .none 124).group 4, srcB .none 127], dsts := [dstD .none 3] },
        { srcs := [srcA .none 1, srcB .none 2], dsts := [(dstD .none 120).group 8] },
        usesScacc .none 1 4 8, usesScacc modHigh 127 124 124,
        { srcs := [srcA .none 1, srcB .none 2], dsts := [(dstD .none 126).pair] }],
      (running block0).clearFor block0 u := by decide +kernel

theorem witness_CrossLaneInstructions :
    ∀ u ∈ [usesShfl .idx .none 1 2 3, usesShfl .up .none 1 2 3, usesShfl .dn .none 1 2 3, usesShfl .xor .none 1 2 3,
        { usesR1 .none 4 5 with across := true },
        { usesR1 .none 4 5 with dsts := [(dstD .none 126).pair], across := true }],
      (running block0).clearFor block0 u := by decide +kernel

theorem witness_RandomNumbers :
    ∀ u ∈ [({ srcs := [(srcA .none 120).group 8], dsts := [{ reg := 124, n := 4, field := 1 }, dstD .none 5] } : Uses),
        { srcs := [(srcA .none 8).group 8, (srcB .none 124).group 4], dsts := [{ reg := 12, n := 4, field := 1 }] }],
      (running block0).clearFor block0 u := by decide +kernel

/-! ## Numbers -/

/-- 1.0 and −1.0 in f32. -/
theorem value_one : Fmt.f32.value 0x3F800000 = .fin false 8388608 (-23) false ∧
    Fmt.f32.value 0xBF800000 = .fin true 8388608 (-23) false ∧ Fmt.f32.value 0 = .fin false 0 (-149) false := by
  decide +kernel

theorem real_one : realOf (Fmt.f32.value 0x3F800000) = 1 ∧ realOf (Fmt.f32.value 0xBF800000) = -1 ∧
    realOf (Fmt.f32.value 0) = 0 := by
  rw [value_one.1, value_one.2.1, value_one.2.2]
  norm_num [realOf]

theorem witness_FormatValues : (0xFF : Nat) < 2 ^ (Fmt.e3m5.exp + Fmt.e3m5.man + if Fmt.e3m5.signed then 1 else 0) := by
  decide

theorem witness_RoundingIsCorrect : Fmt.f64 ∈ vectorFmts ∧ (1 : Nat) ≠ 0 := by decide

/-- Sums, differences, products and quotients that are 0 and that are not, and a square root. -/
theorem witness_ArithmeticIsCorrectlyRounded :
    Fmt.f32 ∈ vectorFmts ∧ Exact (Fmt.f32.value 0x3F800000) ∧ Exact (Fmt.f32.value 0xBF800000) ∧ Exact (Fmt.f32.value 0) ∧
    realOf (Fmt.f32.value 0x3F800000) + realOf (Fmt.f32.value 0) ≠ 0 ∧
    realOf (Fmt.f32.value 0x3F800000) + realOf (Fmt.f32.value 0xBF800000) = 0 ∧
    realOf (Fmt.f32.value 0x3F800000) - realOf (Fmt.f32.value 0xBF800000) ≠ 0 ∧
    realOf (Fmt.f32.value 0x3F800000) * realOf (Fmt.f32.value 0xBF800000) ≠ 0 ∧
    realOf (Fmt.f32.value 0x3F800000) * realOf (Fmt.f32.value 0) = 0 ∧
    realOf (Fmt.f32.value 0x3F800000) * realOf (Fmt.f32.value 0xBF800000) + realOf (Fmt.f32.value 0) ≠ 0 ∧
    0 < realOf (Fmt.f32.value 0x3F800000) := by
  refine ⟨by decide, ⟨_, _, _, value_one.1⟩, ⟨_, _, _, value_one.2.1⟩, ⟨_, _, _, value_one.2.2⟩, ?_⟩
  rw [real_one.1, real_one.2.1, real_one.2.2]
  norm_num

/-- A conversion to each kind of result: an integer, clamped and not, from a NaN, from an infinity, and to f32. -/
theorem witness_ConversionValues :
    (modifiedVal false false (Fmt.f32.read false 0x7FC00000)).isNan ∧
    (modifiedVal true false (Fmt.f32.read false 0x7F800000)).isInf ∧
    Exact (modifiedVal false true (Fmt.f32.read false 0xBF800000)) ∧
    IntRounded .rne (realOf (Fmt.f32.value 0x3F800000)) 1 := by
  refine ⟨by decide +kernel, by decide +kernel, ⟨false, 8388608, -23, by decide +kernel⟩, ?_⟩
  rw [real_one.1]
  norm_num [IntRounded]

theorem witness_NarrowFormatsFlushingAndSpecialOperands :
    (∀ t ∈ [Fmt.f8e4, .f8e5, .f4, .e3m5],
      (t.round .rne false false (.fin false 1 20 false)).2 &&& FpFlags.of ≠ 0) ∧
    ((Fmt.f32.round .rne false false (.fin false 1 (-149) false)).1 % 2 ^ Fmt.f32.mag ≠ 0 ∧
      (Fmt.f32.round .rne false false (.fin false 1 (-149) false)).1 % 2 ^ Fmt.f32.mag < 2 ^ Fmt.f32.man) ∧
    (Fmt.f32.read false 0x7F800000).isInf ∧ (Fmt.f32.read false 0x7FC00000).isNan ∧
    (Fmt.f32.read false 0x7F800001).isSignalling ∧ (Fmt.f32.read false 0x80000000).isZero ∧
    (Fmt.f32.read true 1).isZero ∧ (Fmt.f32.read false 0xBF800000).isNeg := by decide +kernel

/-- An integer, a half and a number of 256 or more. -/
theorem witness_transcendental_ends :
    realOf (Fmt.f32.value 0x3F800000) = ((1 : Int) : ℝ) ∧ realOf (.fin false 1 (-1) false) = ((0 : Int) : ℝ) + 1 / 2 ∧
    (256 : ℝ) ≤ realOf (.fin false 1 8 false) := by
  rw [real_one.1]
  norm_num [realOf]

/-! ## Faults, control flow and memory -/

theorem issues_running {b : Block} (h : b.state = .running) : Block.issues b := .inl h

/-- Whether an access of a byte of a block reaches DRAM at `pa`, as `Spec.Reaches` says. -/
def reachesCheck (s : State) (b : Block) (va n : Nat) (perm : Perm) (pa : Nat) (cached : Bool) : Bool :=
  match s.place b (s.jobOf b) va n perm with
  | .ok ⟨.phys p, some lf⟩ => p == pa && !lf.view && ((lf.cache == 0) == cached)
  | _ => false

theorem reaches_of_check {s : State} {b : Block} {va n : Nat} {perm : Perm} {pa : Nat} {cached : Bool}
    (h : reachesCheck s b va n perm pa cached = true) : Reaches s b va n perm pa cached := by
  unfold reachesCheck at h
  split at h
  · rename_i p lf he
    simp only [Bool.and_eq_true, beq_iff_eq, Bool.not_eq_true'] at h
    obtain ⟨⟨rfl, hv⟩, hc⟩ := h
    exact ⟨lf, he, hv, by rw [← hc]; simp⟩
  · simp at h

/-- Whether code at `va` stands in DRAM on a page that is not viewed, as `Spec.CodeAt` says, and holds `x`. -/
def codeCheck (s : State) (b : Block) (va x : Nat) : Bool :=
  match s.codePlace b va with
  | .ok ⟨.phys pa, some lf⟩ => !lf.view && (x == memNat s.mem pa 8)
  | _ => false

theorem codeAt_of_check {s : State} {b : Block} {va x : Nat} (h : codeCheck s b va x = true) : CodeAt s b va x := by
  unfold codeCheck at h
  split at h
  · rename_i pa lf he
    simp only [Bool.and_eq_true, beq_iff_eq, Bool.not_eq_true'] at h
    exact ⟨_, pa, he, rfl, fun f hf => by simp only [Option.some.injEq] at hf; subst hf; exact h.1, h.2⟩
  · simp at h

/-- Code of NOP halfwords is a good target at every even address of the probe's code page. -/
theorem good_target {s : State} {b : Block} {t : Dword} (h1 : t.toNat % 2 = 0)
    (h2 : codeCheck s b (t.toNat / 8 * 8) 0 = true) : GoodTarget s b t :=
  ⟨h1, 0, codeAt_of_check h2, by simp, by simp⟩

/-- The block with an address pair in v20:v21. -/
def withPair (va : Nat) (b : Block) : Block := withVal 20 (BitVec.ofNat 32 va) (withVal 21 (BitVec.ofNat 32 (va / 2 ^ 32)) b)

/-! ### Faults of registers -/

/-- Two lanes meet a poisoned register, one an odd pair: the odd pair stands first. -/
theorem witness_TakingAnException :
    let s := running block0
    let fs : List LaneFault := [⟨2, 0x0A, 0, 0, 5, 0, 0, none, none⟩, ⟨1, 0x04, 1, 0, 7, 0, 0, none, none⟩]
    let order (c : Nat) : Nat :=
      (([0x01, 0x02, 0x03, 0x04, 0x05, 0x06, 0x07, 0x08, 0x09, 0x0A, 0x0B, 0x12, 0x13, 0x10, 0x11] ++
        (List.range 0x100).filter fun c => 0x14 ≤ c).idxOf c)
    s.block? s.cur.blk = some block0 ∧ Block.issues block0 ∧ fs ≠ [] ∧
    (∀ f ∈ fs, f.cls < 0x100 ∧ f.kind = 0 ∧ f.child = none ∧ f.die = none) ∧
    ∃ top ∈ fs, 0x01 ≤ top.cls ∧ top.cls ≤ 0x0B ∧
      (∀ f ∈ fs, 0x01 ≤ f.cls ∧ (f.cls ≤ 0x0B ∨ 0x10 ≤ f.cls) ∧ order top.cls ≤ order f.cls) ∧
      ∀ f ∈ fs, f.cls = top.cls → f ≠ top → top.addr < f.addr :=
  ⟨by decide +kernel, issues_running (by decide +kernel), by decide, by decide, by decide +kernel⟩

/-- A fault ring in DRAM with room, for the record of an exception. -/
def ringed (b : Block) : State :=
  let s := running b
  { s with mgmt := { s.mgmt with frbase := 2 ^ 32, frlog2n := 2, frprod := 5, frcons := 2 } }

theorem witness_Recorded : (ringed block0).ringOn = true ∧ isDram (ringed block0).mgmt.frbase = true ∧
    (ringed block0).held = [] ∧
    ((ringed block0).mgmt.frprod - (ringed block0).mgmt.frcons).toNat < 2 ^ (ringed block0).mgmt.frlog2n ∧
    (running block0).ringOn = false := by decide +kernel

/-- A block whose strand has 64 registers. -/
def block64 : Block := Block.start { probeGrid 0 false with launch := { probeLaunch false with rcode := 2 } } 1 0 0 .root
  [⟨0, 0, 64⟩]

/-- Register faults at the first registers beyond the allocation and at odd pairs, an empty register under TEA, a spent
count and a poisoned event value. -/
theorem witness_RegisterFaults :
    ((running block64).issuing block64 ∧ Block.issues block64 ∧
      dReg .none 5 % 2 = 1 ∧ dReg .none 4 % 2 = 0 ∧ aReg .none 63 % 2 = 1 ∧ aReg .none 2 % 2 = 0 ∧ bReg .none 1 % 2 = 1 ∧
      block64.regs ≤ dReg .none 64 ∧ dReg .none 63 < block64.regs ∧ block64.regs ≤ aReg .none 127 ∧
      aReg .none 0 < block64.regs ∧ block64.regs ≤ bReg .none 64) ∧
    (let b := withWord 9 ⟨7, false, false, false⟩ block0
     let m := { none0 with tea := true }
     (running b).issuing b ∧ dReg (.mod m) 1 < b.regs ∧ m.tea = true ∧ m.teb = false ∧
     (∀ l ∈ (running b).cur.lanes, ((b.strand 0).lane l).due = []) ∧
     ((running b).cur.lanes.filter fun l => !((b.strand 0).reg l (aReg (.mod m) 9)).full) ≠ []) ∧
    (let b := { block0 with strands := block0.strands.map fun st => st.updLane 7 fun l => { l with count := 16384 } }
     (running b).issuing b ∧ (∀ l ∈ (running b).cur.lanes, ((b.strand 0).lane l).due = []) ∧
     ((running b).cur.lanes.filter fun l => decide (16384 ≤ ((b.strand 0).lane l).count)) ≠ []) ∧
    (let b := withWord 9 ⟨7, true, false, true⟩ block0
     (running b).issuing b ∧ (∀ l ∈ (running b).cur.lanes, ((b.strand 0).reg l (dReg .none 9)).full = true ∧
       ((b.strand 0).lane l).count < 16384 ∧ ((b.strand 0).lane l).due = []) ∧
     ((running b).cur.lanes.filter fun l => ((b.strand 0).reg l (dReg .none 9)).poison) ≠ []) :=
  ⟨⟨by decide +kernel, issues_running (by decide +kernel), by decide +kernel⟩, by decide +kernel, by decide +kernel,
    by decide +kernel⟩

/-- The source is empty in lane 3 and the destination in lane 5. -/
def blockEmpty : Block :=
  { block0 with strands := block0.strands.map fun st =>
      (st.setReg 3 9 ⟨0, false, false, false⟩).setReg 5 1 ⟨0, false, false, false⟩ }

theorem witness_WaitingOnEmptyWords : (running blockEmpty).issuing blockEmpty ∧ dReg .none 1 < blockEmpty.regs ∧
    aReg .none 9 < blockEmpty.regs ∧ bReg .none 2 < blockEmpty.regs ∧
    (∀ l ∈ (running blockEmpty).cur.lanes, ((blockEmpty.strand 0).lane l).count < 16384 ∧
      ((blockEmpty.strand 0).lane l).due = []) ∧
    ((blockEmpty.strand 0).reg 3 9).full = false ∧ ((blockEmpty.strand 0).reg 5 1).full = false := by decide +kernel

/-! ### Control flow -/

/-- Branches that some lanes take, at the least and the greatest offset that stays on the page. -/
theorem witness_ConditionalBranches :
    (running (withVal 5 1 block0)).clearFor (withVal 5 1 block0) { srcs := [{ reg := dReg .none 5, field := 0, poison := true }] } ∧
    GoodTarget (running (withVal 5 1 block0)) (withVal 5 1 block0) (Spec.after 0x40000000 0) ∧
    GoodTarget (running (withVal 5 1 block0)) (withVal 5 1 block0) (Spec.after 0x40000000 0x3FFF) :=
  ⟨by decide +kernel, good_target (by decide +kernel) (by decide +kernel), good_target (by decide +kernel) (by decide +kernel)⟩

/-- Jumps through pairs, with a link, and a table of halfwords whose entries are 0. -/
theorem witness_JumpsAndCalls :
    let b := withPair 0x40000010 block0
    let s := running b
    s.clearFor b { srcs := [(srcD .none 20).pair.clean], dsts := [{ reg := 2, n := 2, align := 2 }] } ∧
    (∀ l ∈ s.cur.lanes, GoodTarget s b (pairAt strand0 l (dReg .none 20) + 0x40000010)) ∧
    s.clearFor b { srcs := [{ reg := 2, n := 2, align := 2, field := 0, poison := true }] } ∧
    s.clearFor b { srcs := [(srcD .none 9).clean] } ∧
    (∀ l ∈ s.cur.lanes, CodeAt s b ((Spec.after s.cur.next (Min.min ((b.strand 0).word l 9).toNat 1023 : Nat)).toNat / 8 * 8) 0 ∧
      GoodTarget s b (Spec.after s.cur.next (0#16).toInt)) := by
  refine ⟨by decide +kernel, fun l hl => good_target ?_ ?_, by decide +kernel, by decide +kernel,
    fun l hl => ⟨codeAt_of_check ?_, good_target (by decide +kernel) (by decide +kernel)⟩⟩
  · revert l; decide +kernel
  · revert l; decide +kernel
  · revert l; decide +kernel

/-- A target that is odd, one inside a pair, one on an adverb off its boundary. -/
theorem witness_BadTargets :
    let b := withPair 0x40000004 block0
    let s : State := { running b with mem := memPuts (running b).mem 0x40000000 (leBytes 8 0x0060808100000003) }
    s.clearFor b { srcs := [(srcD .none 20).pair.clean], dsts := [{ reg := 2, n := 2, align := 2 }] } ∧
    (∀ l ∈ s.cur.lanes, CodeAt s b 0x40000000 0x0060808100000003) ∧
    ((0x40000004 % 8 = 4) ∧ 0x0060808100000003 % 4 = 3 ∧ 0x0060808100000003 / 256 ^ 4 % 4 ≠ 3) ∧
    CodeAt { s with mem := memPuts s.mem 0x40000000 (leBytes 8 0x0000000000030000) } b 0x40000000 0x30000 ∧
    0x30000 / 256 ^ 2 % 4 = 3 :=
  ⟨by decide +kernel, fun _ _ => codeAt_of_check (by decide +kernel), by decide, codeAt_of_check (by decide +kernel), by decide⟩

/-- RALLY with a lane behind the others and without; SAFEPT at the last entry and beyond; EXIT with and without others. -/
theorem witness_RallyYieldSafePointNopExit :
    let b := { block0 with strands := block0.strands.map fun st => st.updLane 6 fun l => { l with pc := 0x3FFFFFF0 } }
    let s : State := { running b with cur := issueOf [0, 1] }
    s.clearFor b {} ∧
    (∃ l, l < (b.strand 0).lanes.length ∧ ((b.strand 0).lane l).status = .live ∧
      ((b.strand 0).lane l).park.rallied = none ∧ s.waits b (b.strand 0) 0 ((b.strand 0).lane l).park = false ∧
      ((b.strand 0).lane l).pc.toNat < s.cur.pc.toNat) ∧
    (running block0).clearFor block0 {} ∧
    (¬∃ l, l < strand0.lanes.length ∧ (strand0.lane l).status = .live ∧ (strand0.lane l).park.rallied = none ∧
      (running block0).waits block0 strand0 0 (strand0.lane l).park = false ∧
      (strand0.lane l).pc.toNat < (running block0).cur.pc.toNat) ∧
    (running block0).grid? block0.grid = some (probeGrid 0 false) ∧ (0x3FFFF#18).toNat < (probeGrid 0 false).nsafe ∧
    (∀ k, (block0.strand k).arrived = none) ∧ (running block0).isDet block0 = false ∧
    (running block0).partner? block0 = none := by
  refine ⟨by decide +kernel, ⟨6, by decide +kernel⟩, by decide +kernel, ?_, by decide +kernel, by decide +kernel, ?_,
    by decide +kernel, by decide +kernel⟩
  · rintro ⟨l, h1, -, -, -, h5⟩
    have : ∀ l, l < strand0.lanes.length → ¬(strand0.lane l).pc.toNat < (running block0).cur.pc.toNat := by decide +kernel
    exact this l h1 h5
  · intro k
    rcases k with _ | k
    · decide +kernel
    · simp [Block.strand, block0, Block.start]; try rfl

/-- SAFEPT beyond the table, and at a stop that is under way. -/
theorem witness_safe_point_clauses :
    let g := { probeGrid 0 false with nsafe := 5 }
    let b := { block0 with state := .stopping .preempt }
    g.nsafe ≤ (5#18).toNat ∧ (4#18).toNat < g.nsafe ∧ b.mat = none ∧ StopWhy.preempt.atOnce = false := by decide +kernel

/-! ### Memory -/

/-- Class `c` has credit on every die of the list. -/
theorem credited_of {s : State} {c : Nat} (hc : c < 7) (h : ∀ d ∈ s.dies, d.credited c = true) (d : Nat) :
    (s.die d).credited c = true := by
  unfold State.die
  rw [List.getD_eq_getElem?_getD]
  cases e : s.dies[d]? with
  | none => interval_cases c <;> decide +kernel
  | some x => exact h _ (List.mem_of_getElem? e)

theorem quiet_running : Quiet (running block0) := ⟨by decide +kernel, by decide +kernel, by decide +kernel, by decide +kernel⟩

/-- Loads and stores of 16 bytes at the last aligned address of the probe's data page, and the L1 may hold it. -/
theorem witness_Loads :
    let b := withPair 0x3FFFFFF0 block0
    let s := running b
    s.clearFor b (loadUses 16 false 4 20 .none) ∧ Quiet s ∧ s.isDet b = false ∧ Credited s ∧
    Listed s b.core ∧
    (∀ l ∈ s.cur.lanes, address (b.strand 0) .none 20 0 16 false l % 16 = 0 ∧
      Reaches s b (address (b.strand 0) .none 20 0 16 false l) 16 .read 0xBFFFFFF0 true ∧
      s.scopeFlaw b s.cur.strand (scopeOf .none) (.phys 0xBFFFFFF0) = none) ∧
    (∀ l ∈ s.cur.lanes, (loadUses 16 false 4 20 .none).marked (b.strand 0) s.cur.lanes (fun w => w.taint) l = false) := by
  refine ⟨by decide +kernel, ⟨by decide +kernel, by decide +kernel, by decide +kernel, by decide +kernel⟩, by decide +kernel,
    credited_of (by decide) (by decide +kernel), by unfold Listed; decide +kernel,
    fun l hl => ⟨?_, reaches_of_check ?_, by decide +kernel⟩, by decide +kernel⟩
  · revert l; decide +kernel
  · revert l; decide +kernel

/-- The lanes' own scratchpad, its last 16 bytes; through the window too. -/
theorem witness_LoadsPad :
    let b := withVal 20 2016 block0
    let s := running b
    s.clearFor b (loadUses 16 true 4 20 .none) ∧ Quiet s ∧
    (∀ l ∈ s.cur.lanes, address (b.strand 0) .none 20 0 16 true l % 16 = 0 ∧
      ReachesPad s b true (address (b.strand 0) .none 20 0 16 true l) 16 .read 1 2016 ∧ s.block? 1 = some b ∧
      (∀ j, j < 16 → (2016 + j) / 512 ∉ b.absent) ∧ s.matHold b s.cur.strand (.scratch 1 2016) 16 false = none) ∧
    ReachesPad s b false 0x01FF000000000000 4 .read 1 0 := by
  refine ⟨by decide +kernel, ⟨by decide +kernel, by decide +kernel, by decide +kernel, by decide +kernel⟩,
    fun l hl => ⟨?_, ?_, by decide +kernel, by decide +kernel, by decide +kernel⟩, ?_⟩
  · revert l; decide +kernel
  · revert l; unfold ReachesPad; decide +kernel
  · unfold ReachesPad; decide +kernel

theorem witness_Stores :
    let b := withPair 0x1000 block0
    let s := running b
    s.clearFor b (storeUses 4 false 6 20 (.mod { none0 with scope := 4 })) ∧ Clean s b.core ∧ b.mat = none ∧
    b.core < s.cores.length ∧ s.cur.lanes.length ≤ 64 ∧ Credited s ∧ Listed s b.core ∧
    (∀ l ∈ s.cur.lanes, address (b.strand 0) .none 20 0xFF 4 false l % 4 = 0 ∧
      Reaches s b (address (b.strand 0) .none 20 0xFF 4 false l) 4 .write 0x80000FFC true) := by
  refine ⟨by decide +kernel, ⟨by decide +kernel, ?_⟩, by decide +kernel, by decide +kernel, by decide +kernel,
    credited_of (by decide) (by decide +kernel), by unfold Listed; decide +kernel, fun l hl => ⟨?_, reaches_of_check ?_⟩⟩
  · decide +kernel
  · revert l; decide +kernel
  · revert l; decide +kernel

theorem witness_StoresPad :
    let b := withVal 20 0 block0
    let s := running b
    s.clearFor b (storeUses 8 true 6 20 .none) ∧
    (∀ l ∈ s.cur.lanes, address (b.strand 0) .none 20 0x7F 8 true l % 8 = 0 ∧
      ReachesPad s b true (address (b.strand 0) .none 20 0x7F 8 true l) 8 .write 1 1016 ∧
      s.matHold b s.cur.strand (.scratch 1 1016) 8 true = none) := by
  refine ⟨by decide +kernel, fun l hl => ⟨?_, ?_, by decide +kernel⟩⟩
  · revert l; decide +kernel
  · revert l; unfold ReachesPad; decide +kernel

theorem witness_AtomicsOnDram :
    let b := withPair 0x1000 block0
    let s := running b
    s.clearFor b { srcs := [(srcA .none 20).pair.clean, (srcB .none 6).clean, (srcC .none 7).clean], dsts := [dstD .none 7] } ∧
    Quiet s ∧ Clean s b.core ∧ Credited s ∧ s.scopeFlaw b s.cur.strand 4 (.phys 0x80001000) = none ∧ b.mat = none ∧
    (∀ l ∈ s.cur.lanes, (pairAt (b.strand 0) l 20).toNat % 4 = 0 ∧
      Reaches s b (pairAt (b.strand 0) l 20).toNat 4 .read 0x80001000 true ∧
      Reaches s b (pairAt (b.strand 0) l 20).toNat 4 .write 0x80001000 true) := by
  refine ⟨by decide +kernel, ⟨by decide +kernel, by decide +kernel, by decide +kernel, by decide +kernel⟩,
    ⟨by decide +kernel, by decide +kernel⟩, credited_of (by decide) (by decide +kernel), by decide +kernel, by decide +kernel,
    fun l hl => ⟨?_, reaches_of_check ?_, reaches_of_check ?_⟩⟩
  · revert l; decide +kernel
  · revert l; decide +kernel
  · revert l; decide +kernel

/-- A lane that holds its reservation, alone. -/
theorem witness_LoadReserveStoreConditional :
    let b := withPair 0x1000 { block0 with strands := block0.strands.map fun st => st.updLane 3 fun l =>
      { l with resv := some ⟨0x1000, .phys 0x80001000⟩ } }
    let s := runningLane b
    s.clearFor b { srcs := [(srcA .none 20).pair.clean, (srcB .none 6).clean], dsts := [dstD .none 7] } ∧
    s.poison = [] ∧ s.isDet b = false ∧ Credited s ∧ Clean s b.core ∧ s.cur.lanes = [3] ∧ (pairAt (b.strand 0) 3 20).toNat = 0x1000 ∧
    Reaches s b 0x1000 4 .read 0x80001000 true ∧ Reaches s b 0x1000 4 .write 0x80001000 true ∧
    ((b.strand 0).lane 3).resv = some ⟨0x1000, .phys 0x80001000⟩ :=
  ⟨by decide +kernel, by decide +kernel, by decide +kernel, credited_of (by decide) (by decide +kernel),
    ⟨by decide +kernel, by decide +kernel⟩, by decide +kernel, by decide +kernel, reaches_of_check (by decide +kernel),
    reaches_of_check (by decide +kernel), by decide +kernel⟩

/-- Misaligned lanes, and single lanes at the first address of each range that faults. -/
theorem witness_AccessFaults :
    (running (withPair 0x1001 block0)).clearFor (withPair 0x1001 block0) (loadUses 2 false 4 20 .none) ∧
    ((running block0).cur.lanes.filter fun l =>
      address ((withPair 0x1001 block0).strand 0) .none 20 0 2 false l % 2 != 0) ≠ [] := by decide +kernel

/-- The state of a single lane with a pair in v20:v21, and what its address then is. -/
def laneAt (va : Nat) : Prop :=
  (runningLane (withPair va block0)).clearFor (withPair va block0) (loadUses 4 false 4 20 .none) ∧
  address ((withPair va block0).strand 0) .none 20 0 4 false 3 = va

theorem witness_AccessFaults_ranges : laneAt (2 ^ 57) ∧ laneAt 0x01FF000000800000 ∧ laneAt 0x80000000 := by
  refine ⟨?_, ?_, ?_⟩ <;> (unfold laneAt; decide +kernel)

theorem witness_AccessFaults_leaves :
    (running block0).leaf? block0.core ((running block0).jobOf block0) 0x80000000 = none ∧
    ((running block0).leaf? block0.core ((running block0).jobOf block0) 0x40000000).map (fun lf =>
      (lf.perm, lf.cache, lf.addr, lf.base)) = some (5, 0, 0x40000000, 0x40000000) := by decide +kernel

/-- The same for an offset in v20. -/
def offsetAt (x : Nat) : Prop :=
  (runningLane (withVal 20 (BitVec.ofNat 32 x) block0)).clearFor (withVal 20 (BitVec.ofNat 32 x) block0)
    (loadUses 4 true 4 20 .none) ∧
  address ((withVal 20 (BitVec.ofNat 32 x) block0).strand 0) .none 20 0 4 true 3 = x

theorem witness_AccessFaults_offsets : offsetAt (2 ^ 23) ∧ offsetAt (2 ^ 22) ∧ offsetAt 2032 ∧
    (runningLane block0).partner? block0 = none ∧ block0.rows * 2032 = 2032 := by
  refine ⟨?_, ?_, ?_, by decide +kernel⟩ <;> (unfold offsetAt; decide +kernel)

/-! ## Synchronisation -/

theorem cells_l1_reset : cellsWf none ((running block0).core 0).l1 = true := by decide +kernel

theorem witness_Fences :
    (running block0).clearFor block0 {} ∧ block0.mat = none ∧ Quiet (running block0) ∧ Drained (running block0) block0.core ∧
    syncScopeOf .none = 4 ∧ syncScopeOf (.mod { none0 with scope := 2 }) = 2 ∧
    syncScopeOf (.mod { none0 with scope := 6 }) = 6 :=
  ⟨by decide +kernel, by decide +kernel, quiet_running, ⟨by decide +kernel, by decide +kernel⟩, by decide⟩

/-- Two blocks of one TEAMED grid on a pair of cores; the second one's lanes wait at TBAR. -/
def teamGrid : Grid := { probeGrid 0 false with launch := { probeLaunch false with nblk := 2, teamed := true } }

def teamMate : Block :=
  let b := Block.start teamGrid 2 1 1 .root [⟨0, 0, 256⟩]
  { b with strands := b.strands.map fun st => (List.range 8).foldl (fun st l => st.updLane l fun x =>
      { x with park := .tbar 0x40000008 }) st }

def teamed : State := { running block0 with grids := [teamGrid], blocks := [block0, teamMate] }

theorem mate_found : teamed.partner? block0 = some teamMate := by decide +kernel

/-- At a barrier with lanes still to come, with none to come, and with a partner whose lanes have all arrived. -/
theorem witness_Barriers :
    (∀ l ∈ (running block0).cur.lanes, (strand0.lane l).status = .live) ∧
    (let s : State := { running block0 with cur := issueOf [0, 7] }
     s.clearFor block0 {} ∧ (strand0.lane 3).status = .live ∧ (barNext (strand0.lane 3).park).isSome = false) ∧
    (∀ l, l < 8 → l ∈ (running block0).cur.lanes) ∧
    teamed.clearFor block0 {} ∧ Quiet teamed ∧ Drained teamed block0.core ∧
    teamed.block? teamMate.key = some teamMate ∧ teamMate.key ≠ block0.key ∧ teamMate.core ≠ block0.core ∧
    cellsWf none (teamed.core teamMate.core).l1 = true ∧
    (∀ l, l < 8 → (tbarNext ((teamMate.strand 0).lane l).park).isSome) :=
  ⟨by decide +kernel, by decide +kernel, by decide +kernel, by decide +kernel,
    ⟨by decide +kernel, by decide +kernel, by decide +kernel, by decide +kernel⟩, ⟨by decide +kernel, by decide +kernel⟩,
    by decide +kernel⟩

/-- A sync object at 0x1000 with one range, its own first 16 bytes; and one at 0x2000 that guards everything. -/
def objects : State :=
  let b := withPair 0x1000 block0
  let s := running b
  { s with mem := memPuts (memPut s.mem 0x80001008 1) 0x80001014 [1] }

def objectBlock : Block := withPair 0x1000 block0

/-- The bytes of the object at 0x1000, and the leaf of its page. -/
def objectByte (j : Nat) : Byte := current objects objectBlock.core (0x80001000 + j)

def dataLeaf : Leaf := ⟨0, 2 ^ 30, 3, 0, false, 0, 0, 0, 1, 0, false, 2 ^ 31⟩

theorem object_ranges : nrange objectByte = 1 ∧ guardRange 0x1000 objectByte 0 = (0x1000, 16) := by decide +kernel

theorem witness_SyncObjects :
    let b := objectBlock
    let s := objects
    s.clearFor b { srcs := [(srcA .none 20).pair.clean], dsts := [(dstD .none 4).pair] } ∧
    s.clearFor b { srcs := [(srcA .none 20).pair.clean, (srcB .none 4).pair.clean] } ∧
    Quiet s ∧ s.isDet b = false ∧ Drained s b.core ∧ b.core < s.cores.length ∧ b.mat = none ∧
    Listed s b.core ∧ s.scopeFlaw b s.cur.strand 4 (.phys 0x80001000) = none ∧
    (s.core b.core).serves 0x80001000 64 (s.coreClock b.core) = false ∧
    (s.core b.core).lines.length + s.cur.lanes.length ≤ 2048 ∧
    (∀ l ∈ s.cur.lanes, (pairAt (b.strand 0) l 20).toNat = 0x1000 ∧
      s.place b (s.jobOf b) 0x1000 64 .read = .ok ⟨.phys 0x80001000, some dataLeaf⟩ ∧
      s.place b (s.jobOf b) 0x1000 8 .write = .ok ⟨.phys 0x80001000, some dataLeaf⟩) ∧
    OnePage s b dataLeaf 0x1000 objectByte ∧ guarded dataLeaf 0x1000 objectByte 0x8000100F ∧
    ¬guarded dataLeaf 0x1000 objectByte 0x80001010 := by
  refine ⟨by decide +kernel, by decide +kernel, ⟨by decide +kernel, by decide +kernel, by decide +kernel, by decide +kernel⟩,
    by decide +kernel, ⟨by decide +kernel, by decide +kernel⟩, by decide +kernel, by decide +kernel,
    by unfold Listed; decide +kernel, by decide +kernel, by decide +kernel, by decide +kernel, by decide +kernel, ?_, ?_, ?_⟩
  · refine ⟨by rw [object_ranges.1]; decide, fun i hi => ?_⟩
    rw [object_ranges.1] at hi
    obtain rfl : i = 0 := by omega
    rw [object_ranges.2]
    decide +kernel
  · refine .inr ⟨0, by rw [object_ranges.1]; decide, ?_⟩
    rw [object_ranges.2]
    decide
  · rintro (h | ⟨i, hi, h⟩)
    · rw [object_ranges.1] at h; omega
    · rw [object_ranges.1] at hi
      obtain rfl : i = 0 := by omega
      rw [object_ranges.2] at h
      revert h
      decide

theorem witness_Publication :
    let s := running block0
    s.clearFor block0 {} ∧ s.grid? block0.grid = some (probeGrid 0 false) ∧ s.hosts.length = 2 ∧
    (probeGrid 0 false).port < 2 ∧ (∀ r ∈ s.hostReads, ¬(r.port = 1 ∧ r.bytes = 0)) ∧ (s.host 1).dirty = false ∧
    (let t : State := { s with hosts := s.hosts.modify 1 fun h => { h with dirty := true, up := true } }
     (t.host 1).dirty = true ∧ t.portGone 1 = false) := by decide +kernel

/-- Block 2 of a DET grid with two ordered streams, of which block 0 has passed the first. -/
def detGrid (x : Stream) : Grid :=
  { probeGrid 0 false with launch := { probeLaunch false with nblk := 4, det := true, nstream := 2 },
                           streams := [x, ⟨[], none, none⟩] }

def detBlock : Block := { block0 with index := 2 }

def ordered (x : Stream) (b : Block) : State := { running b with grids := [detGrid x] }

/-- Uses of a stream number in v9 and a goal in v10, both 0 and 2 here. -/
def ticketUses : Uses := { srcs := [{ (srcA .none 9).clean with once := true }, { (srcB .none 10).clean with once := true }] }

/-- A ticket whose stream waits, one whose frontier has come, one void below the wait, one already passed; a goal of 0 and
one beyond the block. -/
theorem witness_Tickets :
    (∀ x ∈ [(⟨[0], none, none⟩ : Stream), ⟨[0, 1], none, none⟩, ⟨[0, 1], none, some 1⟩],
      (ordered x detBlock).clearFor detBlock ticketUses ∧ (ordered x detBlock).grid? detBlock.grid = some (detGrid x)) ∧
    (detGrid ⟨[0], none, none⟩).launch.det = true ∧ ((strand0.word 0 (aReg .none 9)).toNat = 0) ∧
    0 < (detGrid ⟨[0], none, none⟩).launch.nstream ∧ detBlock.index = 2 ∧ detBlock.passed = [] ∧
    ¬Reached ⟨[0], none, none⟩ 2 ∧ Reached ⟨[0, 1], none, some 1⟩ 2 ∧ Reached ⟨[0], none, none⟩ 0 ∧
    (running block0).clearFor block0 { srcs := [{ (srcA .none 9).clean with once := true }] } ∧
    (probeGrid 0 false).launch.det = false ∧
    ((withVal 9 2 detBlock).strand 0).word 0 9 = 2 ∧ (detGrid ⟨[], none, none⟩).launch.nstream ≤ 2 := by
  refine ⟨by decide +kernel, by decide, by decide +kernel, by decide, by decide, by decide +kernel, fun h => ?_,
    fun m hm => ?_, fun m hm => ?_, by decide +kernel, by decide, by decide +kernel, by decide⟩
  · have := h 1 (by omega)
    simp at this
  · rcases m with _ | _ | m
    · simp
    · simp
    · omega
  · omega

/-- An append of every lane to a container of 5 words at 0x2000, through the descriptor at 0x1000. -/
def appendBlock : Block := withVal 6 7 (withVal 8 1 (withPair 0x1000 detBlock))

def appending (x : Stream) : State :=
  let s := ordered x appendBlock
  { s with mem := memPuts (memPuts s.mem 0x80001008 (leBytes 8 0x2000)) 0x80001010 (leBytes 8 5) }

def appendUses : Uses :=
  { srcs := [{ (srcA .none 20).pair.clean with once := true }, (srcB .none 6).clean, (srcC .none 8).clean], dsts := [dstD .none 8] }

theorem witness_OrderedAppend :
    (∀ x ∈ [(⟨[0], none, none⟩ : Stream), ⟨[0, 1], none, none⟩, ⟨[0, 1], some 0x3000, none⟩],
      (appending x).clearFor appendBlock appendUses ∧ (appending x).grid? appendBlock.grid = some (detGrid x)) ∧
    (let s := appending ⟨[0, 1], none, none⟩
     Quiet s ∧ Credited s ∧ appendBlock.mat = none ∧ Clean s appendBlock.core ∧ Drained s appendBlock.core ∧ appendBlock.core < s.cores.length ∧
     (s.core appendBlock.core).tlb ++ (s.die (dieOf appendBlock.core)).l2tlb = [] ∧
     (pairAt (appendBlock.strand 0) 0 20).toNat = 0x1000 ∧
     s.place appendBlock (s.jobOf appendBlock) 0x1000 64 .read = .ok ⟨.phys 0x80001000, some dataLeaf⟩ ∧
     s.place appendBlock (s.jobOf appendBlock) 0x1000 64 .write = .ok ⟨.phys 0x80001000, some dataLeaf⟩ ∧
     s.place appendBlock (s.jobOf appendBlock) 0x1018 8 .write = .ok ⟨.phys 0x80001018, some dataLeaf⟩ ∧
     (∀ l < 5, Reaches s appendBlock (0x2000 + 4 * l) 4 .write (0x80002000 + 4 * l) true)) := by
  refine ⟨by decide +kernel, ⟨by decide +kernel, by decide +kernel, by decide +kernel, by decide +kernel⟩,
    credited_of (by decide) (by decide +kernel), by decide +kernel,
    ⟨by decide +kernel, by decide +kernel⟩, ⟨by decide +kernel, by decide +kernel⟩, by decide +kernel, by decide +kernel,
    by decide +kernel, by decide +kernel, by decide +kernel, by decide +kernel, fun l hl => reaches_of_check ?_⟩
  revert l
  decide +kernel

/-! ## The matrix engine -/

def matrixBlock : Block := Block.start (probeGrid 0 true) 1 0 0 .root [⟨0, 0, 256⟩]

def matrixState (b : Block) : State := { running b with grids := [probeGrid 0 true] }

theorem witness_Gangs :
    let u : Uses := { srcs := [{ (srcA .none 9).clean with once := true }], roles := [.matrix] }
    (matrixState matrixBlock).clearFor matrixBlock u ∧
    (matrixState matrixBlock).grid? matrixBlock.grid = some (probeGrid 0 true) ∧
    ((matrixBlock.strand 0).word 0 9).extractLsb' 0 16 = 0#16 ∧
    (((withVal 9 1 matrixBlock).strand 0).word 0 9).extractLsb' 0 16 = 1#16 ∧
    ((List.range 16).filter fun k => (1#16).getLsbD k).length < 2 := by decide +kernel

/-- Two strands of one gang; the second waits at the latch with the instruction `w`, unless `w` is none. -/
def pairBlock (w : Option (BitVec 32)) : Block :=
  let st := { matrixBlock.strand 0 with gang := 3 }
  let peer := { st with lanes := st.lanes.map (fun l => { l with park := .latch }), arrivals := 1,
                        arrived := w.map fun x => (x, Option.none) }
  { matrixBlock with strands := [st, if w.isSome then peer else st] }

def pairState (b : Block) : State :=
  { running b with grids := [{ probeGrid 0 true with launch := { probeLaunch true with nstrand := 2, nmat := 2 } }] }

theorem anyLive_of (st : Strand) (h : (st.lanes.any fun l => l.status == .live) = true) : AnyLive st := by
  obtain ⟨l, h1, h2⟩ := List.any_eq_true.1 h
  exact ⟨l, h1, by simpa using h2⟩

/-- The words that say how an arrival stands: whether the gang is as the instruction needs it. -/
def arrivesCheck (s : State) (b : Block) (k : Nat) : Bool :=
  (b.strand k).gang == (b.strand 0).gang && ((b.strand k).lanes.any fun l => l.status == .live) &&
  ((b.strand k).arrived.all fun x => x == (s.cur.word, s.cur.adverb))

theorem arrives_of {s : State} {b : Block} {q : MatAsk} {v : Adverb} (h0 : s.cur.strand = 0)
    (h1 : s.clearFor b (s.usesMat b 0 q v)) (h2 : (s.usesMat b 0 q v).emptyKeys (b.strand 0) s.cur.lanes = [])
    (h3 : ((gangOf s b 0).all fun k => arrivesCheck s b k) = true)
    (h4 : q.formA = .pad → RowsFit s b q.fn (padOf (b.strand 0) (s.cur.lanes.headD 0) (aReg v q.a)))
    (h5 : q.formB = .pad → RowsFit s b q.fn (padOf (b.strand 0) (s.cur.lanes.headD 0) (bReg v q.b))) :
    Arrives s b q v := by
  unfold Arrives
  rw [h0]
  refine ⟨h1, h2, fun k hk _ => ?_, fun _ => ⟨h4, h5⟩⟩
  have h := List.all_eq_true.1 h3 k hk
  simp only [arrivesCheck, Bool.and_eq_true, beq_iff_eq] at h
  exact ⟨h.1.1, anyLive_of _ h.1.2, fun x hx _ => by simpa [hx] using h.2⟩

/-- A strand on its own, and one whose partner has arrived or has not; with room in the queue and without. -/
theorem witness_MatrixAcceptance :
    Arrives (matrixState matrixBlock) matrixBlock ⟨.f32, ⟨0, false, false, false, false⟩, 0, 64⟩ .none ∧
    Arrives (pairState (pairBlock (some 0))) (pairBlock (some 0)) ⟨.zero, ⟨7, false, false, false, false⟩, 0, 0⟩ .none ∧
    Waits (pairBlock (some 0)) 0 1 ∧
    Arrives (pairState (pairBlock Option.none)) (pairBlock Option.none) ⟨.f4, ⟨0, false, false, false, false⟩, 0, 64⟩ .none ∧
    ¬Waits (pairBlock Option.none) 0 1 ∧
    (matrixBlock.mat.map fun m => m.queue) = some [] ∧
    ({ tiles := [], bank := [], executed := 0, queue := List.replicate 16
        ⟨.zero, ⟨0, false, false, false, false⟩, .none, .none, 0, [0], 0⟩ } : MatCtx).queue.length = 16 := by
  refine ⟨arrives_of rfl ?_ ?_ ?_ ?_ ?_, arrives_of rfl ?_ ?_ ?_ ?_ ?_, ?_, arrives_of rfl ?_ ?_ ?_ ?_ ?_, ?_, ?_, ?_⟩
  all_goals first
    | decide +kernel
    | exact fun h => absurd h (by decide)
    | (unfold Waits; decide +kernel)

/-- An accumulator load from the block's own scratchpad (64 rows of 256 bytes need 9 rows of 2,032). -/
theorem witness_RowsFit :
    RowsFit (matrixState { matrixBlock with rows := 9 }) { matrixBlock with rows := 9 } .load (.pad 0 256 0) :=
  ⟨by decide, by decide, .inl ⟨by decide, by decide +kernel⟩⟩

theorem witness_RendezvousMismatches :
    (running block0).issuing block0 ∧ strand0.role = .general ∧
    ((gangOf (running block0) block0 0).filter fun k => k != 0) = [] ∧
    (let b := pairBlock (some 5)
     let s := pairState b
     s.issuing b ∧ (b.strand 0).role = .matrix ∧ ((gangOf s b 0).filter fun k => k != 0) = [1] ∧
     (b.strand 1).gang = (b.strand 0).gang ∧ ((b.strand 1).lanes.any fun l => l.status == .live) ∧
     (b.strand 1).arrived = some (5, Option.none) ∧ (b.strand 1).arrivals = (b.strand 0).arrivals + 1 ∧
     ((5 : BitVec 32), (Option.none : Option (BitVec 32))) ≠ (s.cur.word, s.cur.adverb)) ∧
    (let b := { pairBlock Option.none with strands := [(pairBlock Option.none).strand 0, { (pairBlock Option.none).strand 0 with gang := 7 }] }
     (b.strand 1).gang ≠ (b.strand 0).gang ∧ ((gangOf (pairState b) b 0).filter fun k => k != 0) = [1]) ∧
    (let st := (pairBlock Option.none).strand 0
     (st.lanes.map fun l => { l with status := LaneStatus.exited }).all (fun l => l.status != .live) = true) := by
  refine ⟨?_, ?_, ?_, ?_, ?_, ?_⟩ <;> decide +kernel

theorem witness_MatrixNumbers :
    Exact (Fmt.f32.value 0x3F800000) ∧ Exact (Fmt.bf16.value 0x3F80) ∧ Exact (Fmt.e3m5.value 0x50) ∧
    realOf (Fmt.f32.value 0x3F800000) ≠ 0 :=
  ⟨⟨_, _, _, value_one.1⟩, ⟨false, 128, -7, by decide +kernel⟩, ⟨false, 48, -6, by decide +kernel⟩,
    by rw [real_one.1]; norm_num⟩

/-- The engine with one accepted instruction. -/
def engineBlock (op : MatOp) : Block :=
  { matrixBlock with rows := 9, mat := some { tiles := [], bank := [], executed := 0, queue := [op] } }

def ctl0 : MatCtl := ⟨0, false, false, false, false⟩

theorem runs_of (op : MatOp) (h1 : Shaped op)
    (h2 : ([op.a, op.b].all fun x => x.rows.all fun r =>
      let y := (running (engineBlock op)).padByte (engineBlock op) r
      y.1 == 1) = true) :
    Runs (running (engineBlock op)) 1 (engineBlock op) ⟨[], [], [op], 0⟩ op [] := by
  refine ⟨rfl, rfl, rfl, rfl, rfl, .inl rfl, rfl, rfl, h1, fun x hx r hr => ?_⟩
  have h := List.all_eq_true.1 (List.all_eq_true.1 h2 x hx) r hr
  simp only [beq_iff_eq] at h
  exact ⟨engineBlock op, by rw [h]; rfl, fun j _ => by simp [engineBlock, matrixBlock, Block.start]⟩

def zeros (n : Nat) : MatSrc := .regs (List.replicate n 0)

/-- One instruction for each clause: a product, f64, i8, f4, a scaling, a zeroing, a load and the two stores. -/
theorem witness_MatrixExecution :
    (∀ op ∈ [(⟨.f32, ctl0, zeros 1024, zeros 1024, 0, [0], 0⟩ : MatOp), ⟨.f64, ctl0, zeros 1024, zeros 1024, 0, [0], 0⟩,
        ⟨.i8, ctl0, zeros 1024, zeros 1024, 0, [0], 0⟩, ⟨.f4, ctl0, zeros 512, zeros 512, 0, [0], 0⟩,
        ⟨.scale, ctl0, .pad 0 8 0, .pad 0 8 0, 0, [0], 0⟩, ⟨.zero, ctl0, .none, .none, 0, [0], 0⟩,
        ⟨.load, ctl0, .pad 0 256 0, .none, 0, [0], 0⟩, ⟨.store, ctl0, .pad 0 256 0, .none, 0, [0], 0⟩,
        ⟨.storePart, ctl0, .pad 0 128 0, .none, 0, [0], 0⟩],
      Runs (running (engineBlock op)) 1 (engineBlock op) ⟨[], [], [op], 0⟩ op []) ∧
    MatFn.f32 ∉ [MatFn.zero, .load, .store, .storePart] ∧ dieOf matrixBlock.core < (running matrixBlock).dies.length ∧
    ((matrixBlock.strand 0).lane 0).status = .live ∧ [0].Nodup := by
  refine ⟨fun op hop => ?_, by decide, by decide +kernel, by decide +kernel, by decide⟩
  simp only [List.mem_cons, List.not_mem_nil, or_false] at hop
  rcases hop with rfl | rfl | rfl | rfl | rfl | rfl | rfl | rfl | rfl <;>
    exact runs_of _ (by simp [Shaped, zeros]) (by decide +kernel)

/-! ## The asynchronous engines -/

theorem room_of {s : State} {b : Block} {n : Nat}
    (h1 : (s.blocks.all fun k => k.strands.all fun st => st.lanes.all fun ln => ln.park == .none) = true)
    (h2 : n ≤ (s.entriesFree b.core (b.strand s.cur.strand).role).1 + (s.entriesFree b.core (b.strand s.cur.strand).role).2)
    (h3 : s.slotsUsed b.core < 4096 ∧ b.handles.length < 4096) : Room s b n := by
  refine ⟨fun k hk _ st hst ln hln m hm => ?_, h2, h3.1, h3.2⟩
  have h := List.all_eq_true.1 (List.all_eq_true.1 (List.all_eq_true.1 h1 k hk) st hst) ln hln
  simp [hm] at h

theorem room_running : Room (running block0) block0 8 := room_of (by decide +kernel) (by decide +kernel) (by decide +kernel)

/-- Lane copies of 16 bytes from one aligned address to another and into scratchpad; single lanes that are misaligned, and
a 4-byte copy into the window. -/
theorem witness_EngineIssue_lanes :
    let u : Uses := { srcs := [(srcA .none 20).pair.clean, (srcB .none 22).pair.clean], dsts := [dstD .none 5],
                      roles := [.general, .copy] }
    let b := withPair 0x1000 block0
    (running b).clearFor b u ∧ Quiet (running b) ∧ Clean (running b) b.core ∧ Room (running b) b 1 ∧
    (pairAt (b.strand 0) 3 20).toNat % 16 = 0 ∧ ¬InWindow (pairAt (b.strand 0) 3 20).toNat ∧
    (pairAt (b.strand 0) 3 22).toNat % 16 = 0 ∧ InWindow 0x01FF000000000000 ∧
    (∃ p, (running b).padPlace b 0 16 = .ok p) ∧
    (runningLane (withPair 2 block0)).clearFor (withPair 2 block0) u ∧
    (pairAt ((withPair 2 block0).strand 0) 3 20).toNat % 4 ≠ 0 := by
  refine ⟨by decide +kernel, ⟨by decide +kernel, by decide +kernel, by decide +kernel, by decide +kernel⟩,
    ⟨by decide +kernel, by decide +kernel⟩, room_of (by decide +kernel) (by decide +kernel) (by decide +kernel), by decide +kernel,
    ?_, by decide +kernel, ?_, ⟨⟨.scratch 1 0, Option.none⟩, by decide +kernel⟩, by decide +kernel, by decide +kernel⟩
  · unfold InWindow; decide +kernel
  · unfold InWindow; decide

/-- Descriptors in DRAM; a SEAL of a lane that has issued a handle. -/
theorem witness_EngineIssue_descriptors :
    let u : Uses := { srcs := [(srcA .none 20).pair.clean], dsts := [dstD .none 5], roles := [.general, .copy] }
    let b := withPair 0x1000 block0
    (running b).clearFor b u ∧ Quiet (running b) ∧ Clean (running b) b.core ∧ Credited (running b) ∧
    (running b).isDet b = false ∧ Room (running b) b (running b).cur.lanes.length ∧
    (∀ l ∈ (running b).cur.lanes, u.tainted (b.strand 0) l = false ∧ (pairAt (b.strand 0) l 20).toNat % 64 = 0 ∧
      Reaches (running b) b (pairAt (b.strand 0) l 20).toNat 64 .read 0x80001000 true ∧
      ((running b).core b.core).serves 0x80001000 64 ((running b).coreClock b.core) = false) ∧
    (running block0).clearFor block0 { dsts := [dstD .none 5] } ∧ (running block0).slotsUsed block0.core < 4096 := by
  refine ⟨by decide +kernel, ⟨by decide +kernel, by decide +kernel, by decide +kernel, by decide +kernel⟩,
    ⟨by decide +kernel, by decide +kernel⟩, credited_of (by decide) (by decide +kernel), by decide +kernel, room_of (by decide +kernel) (by decide +kernel) (by decide +kernel),
    fun l hl => ⟨?_, ?_, reaches_of_check ?_, by decide +kernel⟩, by decide +kernel, by decide +kernel⟩
  · revert l; decide +kernel
  · revert l; decide +kernel
  · revert l; decide +kernel

/-- A handle in slot 7 whose word is v5 of lane 3, with operation `op`. -/
def handleOf (op : EngOp) : Handle :=
  { slot := 7, kind := 0, gen := 0, done := false, strand := 0, words := [(0, regKey 3 5)], op := op, entries := 1,
    shared := 0, cleared := [], guarded := false, joined := false, replies := [], tags := [], written := false, rest := [], last := [] }

/-- The block that holds it: the handle's value is 7, and the word is empty. -/
def pendingBlock (op : EngOp) : Block :=
  { withWord 5 ⟨7, false, false, false⟩ block0 with handles := [handleOf op], hcount := 1 }

/-- A ring of one slot at the start of scratchpad, of one piece, with no slot in use. -/
def ringBlock : Block := { block0 with scratch := [(0, 1), (1, 1)] }

theorem witness_HandlesAndStages :
    (running (pendingBlock (.lanes 4 []))).clearFor (pendingBlock (.lanes 4 []))
      { srcs := [{ (srcA .none 5).clean with wait := false }], dsts := [dstD .none 6] } ∧
    ((pendingBlock (.lanes 4 [])).handles.map fun h => (h.slot, h.gen)).Nodup ∧
    (runningLane (pendingBlock (.lanes 4 []))).clearFor (pendingBlock (.lanes 4 []))
      { srcs := [{ (srcA .none 5).clean with wait := false }], roles := [.general, .copy] } ∧
    isDone block0 7 = true ∧
    (pendingBlock (.coll [])).handle? 7 0 = some (handleOf (.coll [])) ∧
    (pendingBlock (.lanes 4 [])).handle? 7 0 = some (handleOf (.lanes 4 [])) ∧
    (((pendingBlock (.lanes 4 [])).strand 0).word 3 (aReg .none 5)).toNat = 7 ∧
    ((pendingBlock (.lanes 4 [])).strand 0).full (regKey 3 (aReg .none 5)) = false := by
  refine ⟨?_, ?_, ?_, ?_, ?_, ?_, ?_, ?_⟩ <;> decide +kernel

theorem witness_stages :
    (running ringBlock).clearFor ringBlock
      { srcs := [{ (srcA .none 8).clean with once := true }, { (srcB .none 9).clean with once := true }] } ∧
    RingOk ringBlock 0 0 ∧ ringField ringBlock 0 64 1 = 0 ∧ ringField ringBlock 0 128 1 = 0 ∧
    ringField ringBlock 0 192 4 + 1 = ringField ringBlock 0 8 8 ∧ ¬RingOk ringBlock 0 1 ∧ ¬RingOk block0 0 0 := by
  unfold RingOk
  decide +kernel

/-! ### Operations that end -/

/-- The core's TLB holds the data page and a page of a host window at 2^30. -/
def windowLeaf : Leaf := ⟨2 ^ 30, 2 ^ 30, 3, 0, false, 0, 0, 0, 1, 0, false, 2 ^ 40⟩

def copying (b : Block) : State :=
  let s := running b
  { s with cores := s.cores.modify 0 fun c => { c with tlb := [⟨1, dataLeaf⟩, ⟨1, windowLeaf⟩] } }

theorem copying_tlb (b : Block) : ((copying b).core 0).tlb = [⟨1, dataLeaf⟩, ⟨1, windowLeaf⟩] := rfl

theorem held_data (b : Block) (h0 : b.core = 0) (hj : (copying b).jobOf b = 1) (va n : Nat) (h : va + n ≤ 2 ^ 30) (p : Perm)
    (hp : dataLeaf.perm.getLsbD p.ix = true) : Held (copying b) b va n p (2 ^ 31 + va) := by
  refine ⟨by omega, fun j hn => ⟨⟨1, dataLeaf⟩, ?_, hp, hj.symm, rfl, by decide, rfl, by decide, by decide, ?_, ?_⟩⟩
  · rw [h0, copying_tlb, hj, List.find?_cons_of_pos]
    simp [TlbEntry.hits, dataLeaf]; omega
  · simp [dataLeaf]; omega
  · simp [isDram]; omega

def copyOp : EngOp := .lanes 16 [(3, 0x2000, 0x1000)]

def tileOf (rowb : Nat) (many : Bool) (dst : Nat) (targets : List Nat) : TileDesc :=
  ⟨0x1000, dst, rowb, 2, 64, 64, many, 1, 2, 0, 0, false, targets, 0x3000⟩

def packDesc : PackDesc := ⟨0x1000, 0x2000, 33, false, 0x3F800000, 4096, 0x4000, 0x3000⟩

theorem copying_unlimited (b : Block) (h0 : b.core = 0) : ((copying b).die (dieOf b.core)).limited 1 = false := by
  rw [h0]
  exact (by decide +kernel : ((State.reset.probe 0).die 0).limited 1 = false)

theorem pending_of (b : Block) (h : Handle) (h1 : (copying b).block? 1 = some b) (h2 : b.state = .running)
    (h3 : (b.handles.find? fun g => g.slot == h.slot && !g.done) = some h) (h4 : h.tags = []) (h5 : h.words ≠ [])
    (h5' : h.rest = [] ∧ h.last = [] ∧ ((copying b).die (dieOf b.core)).limited (if h.kind = 4 then 4 else 1) = false)
    (h6 : (b.handles.map fun h => (h.slot, h.gen)).Nodup) (h7 : ∀ g ∈ b.handles, ∀ hs, g.op ≠ .batch hs)
    (h8 : (b.strands.all fun st => st.lanes.all fun l => l.resv == none) = true)
    (h9 : (copying b).isDet b = false) : Pending (copying b) 1 b h := by
  refine ⟨h1, .inl h2, rfl, h3, h4, h5, h5'.1, h5'.2.1, h5'.2.2, h6, h7, ⟨rfl, rfl, rfl, fun x hx st hst l hl => ?_⟩, h9⟩
  obtain rfl : x = b := List.mem_singleton.1 hx
  have h := List.all_eq_true.1 h8 st hst
  exact by simpa using List.all_eq_true.1 h l hl

/-- For each kind of operation a pending one, with its addresses held. -/
theorem witness_CopiesComplete :
    (∀ op ∈ [copyOp, .tile [(3, tileOf 16 false 0x2000 [])], .tile [(3, tileOf 0 false 0x2000 [])],
        .tile [(3, tileOf 16 true 0x01FF000000000000 [1])], .pack [(3, packDesc)], .expand [(3, packDesc)],
        .ckpt [(3, ⟨[], 0, 65536, 2 ^ 30, 2 ^ 20, 0x4000, false, 0, 0, shaStart, [], false, 0x3000⟩)]],
      Pending (copying (pendingBlock op)) 1 (pendingBlock op) (handleOf op)) ∧
    (∀ op, ∀ va n p, va + n ≤ 2 ^ 30 → dataLeaf.perm.getLsbD p.ix = true →
      Held (copying (pendingBlock op)) (pendingBlock op) va n p (2 ^ 31 + va)) ∧
    dataLeaf.perm.getLsbD Perm.read.ix = true ∧ dataLeaf.perm.getLsbD Perm.write.ix = true := by
  refine ⟨fun op hop => ?_, fun op va n p h hp => held_data _ rfl rfl va n h p hp, by decide, by decide⟩
  simp only [List.mem_cons, List.not_mem_nil, or_false] at hop
  refine pending_of _ _ rfl rfl ?_ rfl (by simp [handleOf]) ⟨rfl, rfl, by simpa [handleOf] using copying_unlimited _ rfl⟩ (by simp [pendingBlock]) ?_ ?_ ?_
  · rcases hop with rfl | rfl | rfl | rfl | rfl | rfl | rfl <;> decide +kernel
  · intro g hg hs
    obtain rfl : g = handleOf op := by simpa [pendingBlock] using hg
    rcases hop with rfl | rfl | rfl | rfl | rfl | rfl | rfl <;> simp [handleOf, copyOp]
  · rcases hop with rfl | rfl | rfl | rfl | rfl | rfl | rfl <;> decide +kernel
  · rcases hop with rfl | rfl | rfl | rfl | rfl | rfl | rfl <;> decide +kernel

/-- The stream of two values that fits, and the window of a checkpoint. -/
theorem witness_CopiesComplete_streams :
    (packStream false 0x3F800000 [0x3F800000, 0x40000000]).length ≤ packDesc.dcap ∧
    (Machine.packValue .f32 0x3F800000 0 0x40000000).isSome ∧
    (((copying (pendingBlock (.ckpt []))).core 0).tlb.find? fun x => x.hits 1 (2 ^ 30 + 65535)) = some ⟨1, windowLeaf⟩ ∧
    windowLeaf.perm.getLsbD 1 = true ∧ (copying (pendingBlock (.ckpt []))).portGone 0 = false := by decide +kernel

/-- A multicast to the ring of block 1 of the grid, at another core. -/
def targetBlock : Block := { Block.start (probeGrid 0 false) 2 1 1 .root [⟨0, 0, 256⟩] with scratch := [(1984, 1), (1985, 1)] }

theorem witness_multicast :
    let s : State := { copying (pendingBlock copyOp) with blocks := [pendingBlock copyOp, targetBlock] }
    (s.blocks.find? fun x => x.grid == (pendingBlock copyOp).grid && x.index == 1) = some targetBlock ∧
    s.block? targetBlock.key = some targetBlock ∧ targetBlock.key ≠ 1 ∧ targetBlock.state = .running ∧ 1984 % 64 = 0 ∧
    ringField targetBlock 1984 0 8 ≠ 0 ∧ ringField targetBlock 1984 64 1 = 0 ∧ ringField targetBlock 1984 128 1 = 0 := by
  decide +kernel

/-! ## Collectives and views -/

/-- A broadcast of 64 bytes of i8 by one rank, its log at 0x5000. -/
def requestBlock : List Byte :=
  leBytes 4 2 ++ leBytes 4 1 ++ leBytes 4 0 ++ leBytes 4 256 ++ leBytes 8 64 ++ leBytes 8 0x8000 ++ leBytes 8 0x9000 ++
  leBytes 8 0x5000 ++ List.replicate 16 0 ++ leBytes 4 0xFFFFFFFF ++ List.replicate 28 0

/-- The block with its address in v20:v21, and its log ring of one entry at 0x6000. -/
def collBlock : Block := withPair 0x1000 block0

def collState : State :=
  let s := copying collBlock
  { s with cur := issueOf [3],
           mem := memPuts (memPuts s.mem 0x80001000 requestBlock) 0x80005000 (leBytes 8 0x6000) }

theorem held_coll (va n : Nat) (h : va + n ≤ 2 ^ 30) (p : Perm) (hp : dataLeaf.perm.getLsbD p.ix = true) :
    Held collState collBlock va n p (2 ^ 31 + va) := held_data collBlock rfl rfl va n h p hp

theorem witness_CollectiveIssue :
    collState.clearFor collBlock { srcs := [(srcA .none 20).pair.clean], dsts := [dstD .none 5], roles := [.general, .copy] } ∧
    Quiet collState ∧ Credited collState ∧ collState.isDet collBlock = false ∧ (collState.core collBlock.core).wcb = [] ∧
    collBlock.handles = [] ∧ Room collState collBlock 1 ∧ collState.cur.lanes = [3] ∧
    ((collBlock.strand 0).lane 3).status = .live ∧ (collState.core collBlock.core).l1 = [] ∧
    requestBlock.length = 96 ∧ leNat ((requestBlock.drop 4).take 4) = 1 ∧ (pairAt (collBlock.strand 0) 3 20).toNat = 0x1000 ∧
    Held collState collBlock 0x1000 96 .read 0x80001000 ∧ Stands collState.mem 0x80001000 requestBlock ∧
    (collOf 0x1000 requestBlock).2 = true ∧ LogRing collState collBlock 0x5000 0x80005000 0x80006000 0x6000 0 0 ∧
    (collOf 0x1000 (requestBlock.take 64)).2 = false := by
  refine ⟨by decide +kernel, ⟨by decide +kernel, by decide +kernel, by decide +kernel, by decide +kernel⟩,
    credited_of (by decide) (by decide +kernel), by decide +kernel, by decide +kernel, by decide +kernel,
    room_of (by decide +kernel) (by decide +kernel) (by decide +kernel), rfl, by decide +kernel, by decide +kernel,
    by decide +kernel, by decide +kernel, by decide +kernel, held_coll 0x1000 96 (by decide) .read (by decide), ?_,
    by decide +kernel, ⟨?_, by decide, by decide, by decide, held_coll 0x5000 32 (by decide) .read (by decide),
    held_coll (0x5000 + 16) 8 (by decide) .write (by decide), held_coll (0x6000 + 64 * (0 % 2 ^ 0)) 64 (by decide) .write (by decide)⟩,
    by decide +kernel⟩
  · have : requestBlock.length = 96 := by decide +kernel
    unfold Stands
    rw [this]
    decide +kernel
  · have : (leBytes 8 0x6000 ++ leBytes 8 0 ++ leBytes 8 0 ++ leBytes 8 0).length = 32 := by decide +kernel
    unfold Stands
    rw [this]
    decide +kernel

/-- A rank of each kind: a broadcast's leaf below a rank of module 1, a root above one, and a leaf that sends upward. -/
def rankOp (kind this : Nat) (ranks : List RankEntry) : CollOp :=
  { block := requestBlock, kind := kind, rop := 1, typ := .i8, this := this, chunk := 256, count := 64, src := 0x8000,
    dst := 0x9000, ranks := ranks, upNext := 0, dnNext := 0, inbox := [], desc := 0x1000, failed := false }

def ranksOf (d0 d1 : Nat) : List RankEntry := [⟨0xFFFFFFFF, [1], d0, 0⟩, ⟨0, [], d1, 0⟩]

theorem witness_CollectiveProgress :
    (∀ c ∈ [rankOp 2 1 (ranksOf 1 0), rankOp 0 0 (ranksOf 0 1), rankOp 0 1 (ranksOf 1 0)],
      Pending (copying (pendingBlock (.coll [(3, c)]))) 1 (pendingBlock (.coll [(3, c)])) (handleOf (.coll [(3, c)])) ∧
      c.failed = false ∧ c.inbox = [] ∧ (c.count * (NumType.width c.typ / 8) + c.chunk - 1) / c.chunk = 1) ∧
    ((ranksOf 1 0).getD 1 ⟨0, [], 0, 0⟩).parent = 0 ∧ ((ranksOf 0 1).getD 0 ⟨0, [], 0, 0⟩).children = [1] ∧
    ((ranksOf 1 0).getD 0 ⟨0, [], 0, 0⟩).dev ≠ (running block0).mgmt.dev := by
  refine ⟨fun c hc => ⟨pending_of _ _ rfl rfl ?_ rfl (by simp [handleOf])
      ⟨rfl, rfl, by simpa [handleOf] using copying_unlimited _ rfl⟩ (by simp [pendingBlock]) ?_ ?_ ?_, ?_⟩,
    by decide, by decide, by decide +kernel⟩
  · simp only [List.mem_cons, List.not_mem_nil, or_false] at hc
    rcases hc with rfl | rfl | rfl <;> decide +kernel
  · intro g hg hs
    obtain rfl : g = handleOf (.coll [(3, c)]) := by simpa [pendingBlock] using hg
    simp [handleOf]
  · simp only [List.mem_cons, List.not_mem_nil, or_false] at hc
    rcases hc with rfl | rfl | rfl <;> decide +kernel
  · simp only [List.mem_cons, List.not_mem_nil, or_false] at hc
    rcases hc with rfl | rfl | rfl <;> decide +kernel
  · simp only [List.mem_cons, List.not_mem_nil, or_false] at hc
    rcases hc with rfl | rfl | rfl <;> decide +kernel

/-- A fork record at 0x1000 that names a container at 0x10000 with one kernel; the count stands in v9. -/
def forkRecord : List Byte := leBytes 8 0 ++ leBytes 8 0x10000 ++ List.replicate 112 0

def forkBlock (count : Word) : Block := withVal 9 count (withPair 0x1000 block0)

def forkState (count : Word) : State :=
  let s := copying (forkBlock count)
  let header := leBytes 4 0x48475545 ++ leBytes 4 1 ++ leBytes 4 0 ++ leBytes 4 1 ++ leBytes 8 0 ++ leBytes 8 64 ++
    leBytes 8 0 ++ leBytes 8 256
  { s with cur := issueOf [3], mem := memPuts (memPuts s.mem 0x80001000 forkRecord) 0x80010000 header }

/-- What reading the kernel gives. -/
def kernelGood (count : Word) (n : KernelInfo) : Bool :=
  match (forkState count).readKernel 1 [] { forkRec (leNat forkRecord) count.toNat with job := 1 } with
  | .good k => k == n
  | _ => false

theorem kernel_of {count : Word} {n : KernelInfo} (h : kernelGood count n = true) :
    (forkState count).readKernel 1 [] { forkRec (leNat forkRecord) count.toNat with job := 1 } = .good n := by
  unfold kernelGood at h
  split at h
  · rename_i k hk; rw [hk]; simpa using h
  · simp at h

theorem witness_Forks (count : Word) (hc : count ∈ [0#32, 65536#32]) :
    (forkState count).clearFor (forkBlock count)
      { srcs := [(srcA .none 20).pair.clean, (srcB .none 9).clean], dsts := [dstD .none 5] } ∧
    Quiet (forkState count) ∧ Credited (forkState count) ∧ (forkState count).isDet (forkBlock count) = false ∧ (forkBlock count).mat = none ∧
    (forkState count).slotsUsed 0 < 4096 ∧ (forkBlock count).handles.length < 4096 ∧ (forkState count).grids.length < 2 ^ 62 ∧
    ((forkState count).core 0).l1 = [] ∧ ((forkState count).core 0).lines = [] ∧ ((forkState count).core 0).wcb = [] ∧
    forkRecord.length = 128 ∧
    Held (forkState count) (forkBlock count) 0x1000 128 .read 0x80001000 ∧
    Stands (forkState count).mem 0x80001000 forkRecord ∧ (forkBlock count).view.depth (forkState count) < 8 ∧
    { forkRec (leNat forkRecord) count.toNat with job := 1 }.bad = false ∧
    (forkState count).viewedHome 1 = false ∧
    (forkState count).readKernel 1 [] { forkRec (leNat forkRecord) count.toNat with job := 1 } = .good ⟨0x10000, 0, 0, 0⟩ := by
  have hl : forkRecord.length = 128 := by decide +kernel
  simp only [List.mem_cons, List.not_mem_nil, or_false] at hc
  rcases hc with rfl | rfl <;>
  · refine ⟨by decide +kernel, ⟨by decide +kernel, by decide +kernel, by decide +kernel, by decide +kernel⟩,
      credited_of (by decide) (by decide +kernel), by decide +kernel, by decide +kernel, by decide +kernel, by decide +kernel,
      by decide +kernel, by decide +kernel, by decide +kernel, by decide +kernel, hl, held_data _ rfl rfl _ _ (by decide) .read (by decide), ?_,
      by decide +kernel, by decide +kernel, by decide +kernel, kernel_of (by decide +kernel)⟩
    unfold Stands
    rw [hl]
    decide +kernel

/-- A block whose lanes hold the handle of a fork, with the fork's state `z`. -/
def joinHandle (done joined : Bool) : Handle :=
  { handleOf (.fork 9) with kind := 6, done := done, joined := joined, words := [] }

def joinBlock (done joined : Bool) : Block :=
  { withVal 5 (0x6007) block0 with handles := [joinHandle done joined], hcount := 1 }

def joinFork (z : Option Conflict) : Fork :=
  { Fork.fresh 0 9 1 4 0 2 0 .root with owner := some (1, 0, 3), folded := 2, conflict := z }

def joinState (b : Block) (z : Option Conflict) : State := { runningLane b with forks := [joinFork z] }

theorem witness_Joins :
    (runningLane block0).clearFor block0 { srcs := [(srcA .none 5).clean] } ∧ block0.handle? 0 0 = none ∧
    (∀ p ∈ [(false, false), (true, false), (true, true)],
      (joinState (joinBlock p.1 p.2) Option.none).clearFor (joinBlock p.1 p.2) { srcs := [(srcA .none 5).clean] } ∧
      (joinBlock p.1 p.2).handle? 7 0 = some (joinHandle p.1 p.2) ∧
      ((joinBlock p.1 p.2).handles.map fun h => (h.slot, h.gen)).Nodup ∧
      (((joinBlock p.1 p.2).strand 0).word 3 (aReg .none 5)).toNat = 7 + 6 * 2 ^ 12) ∧
    (joinState (joinBlock true false) Option.none).fork? 9 = some (joinFork Option.none) ∧
    (joinFork (some ⟨1, 0x1000, 0, 1, 0⟩)).conflict = some ⟨1, 0x1000, 0, 1, 0⟩ ∧ (joinFork Option.none).reported = false ∧
    (joinState (joinBlock true false) Option.none).heldWrites = [] := by
  refine ⟨?_, ?_, ?_, ?_, ?_, ?_, ?_⟩ <;> decide +kernel

/-- One granule written by child 1 of two, which folds last. -/
def foldFork : Fork :=
  { Fork.fresh 0 9 1 0 0 2 0 .root with
    folded := 1, twins := [(0x1000, List.replicate 128 0)], copies := [(1, 0x1000, 1 :: List.replicate 127 0)] }

def foldState : State :=
  let s := copying block0
  { s with forks := [foldFork], grids := [{ probeGrid 0 false with ended := [0, 1] }] }

theorem witness_ChildrenSeeAndFold :
    foldState.fork? 9 = some foldFork ∧ foldState.frozen 1 (.child 9 0) = false ∧
    copyOf foldFork 1 0x1000 = some (1 :: List.replicate 127 0) ∧ copyOf foldFork 0 0x1000 = none ∧
    twinOf foldFork 0x2000 = none ∧ (0x107F % 128) + 1 ≤ 128 ∧
    foldState.clocksRun = true ∧ foldFork.folded < foldFork.children ∧ foldFork.folded + 1 = foldFork.children ∧
    foldState.grid? foldFork.grid = some { probeGrid 0 false with ended := [0, 1] } ∧
    ({ foldFork with folded := 0 } : Fork).folded + 1 < foldFork.children ∧
    foldState.walkJob 1 0x107F = some dataLeaf ∧ dataLeaf.base % 128 = 0 ∧
    (foldFork.after = [] ∧ foldFork.poisoned = [] ∧ foldFork.away = [] ∧ foldFork.owner = Option.none ∧ Quiet foldState) ∧
    (∀ d, (foldState.die d).credited 2 = true) := by
  refine ⟨?_, ?_, ?_, ?_, ?_, ?_, ?_, ?_, ?_, ?_, ?_, ?_, ?_,
    ⟨by decide +kernel, by decide +kernel, by decide +kernel, by decide +kernel,
      ⟨by decide +kernel, by decide +kernel, by decide +kernel, by decide +kernel⟩⟩,
    credited_of (by decide) (by decide +kernel)⟩ <;> decide +kernel

theorem witness_EngineArithmetic :
    let f := Fmt.f32
    Exact (f.value 0x3F800000) ∧ 0 < realOf (f.value 0x3F800000) ∧ Exact (f.value 0) ∧
    (Machine.packValue f 0x3F800000 0 0x40000000).isSome ∧ Machine.NumType.int? .i8 = some (true, 8) ∧ (255 : Nat) < 2 ^ 8 ∧
    (f.value 0x7FC00000).isNan ∧ f.value 0x7F800000 = .inf false ∧ f.value 0xFF800000 = .inf true := by
  refine ⟨⟨_, _, _, value_one.1⟩, by rw [real_one.1]; norm_num, ⟨_, _, _, value_one.2.2⟩, ?_, ?_, ?_, ?_, ?_, ?_⟩ <;>
    decide +kernel

/-! ## System instructions -/

theorem witness_SpecialRegistersAndViews :
    (∀ u ∈ [({ dsts := [(dstD .none 126).pair] } : Uses), { dsts := [dstD .none 127] }, { srcs := [(srcD .none 5).clean] },
        { srcs := [(srcA .none 20).pair.clean], dsts := [dstD .none 5] }], (running block0).clearFor block0 u) ∧
    (20#10).toNat ≤ 20 ∧ ((running block0).grid? block0.grid).isSome = true := by decide +kernel

/-- Lines of the data page, by the core's TLB. -/
theorem witness_CacheInstructions :
    let b := withPair 0x1000 block0
    let s := copying b
    s.clearFor b { srcs := [(srcD .none 20).pair.clean] } ∧ s.clearFor b { srcs := [{ srcD .none 21 with n := 2 }] } ∧ Quiet s ∧ Drained s b.core ∧
    LinesHeld s b (dReg .none 20) 1023 (fun _ => 0x80001000) := by
  refine ⟨by decide +kernel, by decide +kernel, ⟨by decide +kernel, by decide +kernel, by decide +kernel, by decide +kernel⟩,
    ⟨by decide +kernel, by decide +kernel⟩, fun l hl => ?_⟩
  have h : linesFrom (copying (withPair 0x1000 block0)) (withPair 0x1000 block0) (dReg .none 20) l = 0x1000 := by
    revert l; decide +kernel
  rw [h]
  exact held_data _ rfl rfl 0x1000 _ (by decide) .read (by decide)

theorem witness_TrapEventHalt :
    (running block0).clearFor block0 { srcs := [srcD .none 9] } ∧ Block.issues block0 ∧
    (running block0).clearFor block0 { srcs := [(srcD .none 9).clean] } ∧ (running block0).clearFor block0 {} ∧
    (∀ x ∈ (running block0).blocks, ∀ st ∈ x.strands, st.run = none) :=
  ⟨by decide +kernel, issues_running (by decide +kernel), by decide +kernel, by decide +kernel, by decide +kernel⟩

/-! ## The step -/

/-- The probe's first step: the strand issues, and its unit passes the checks or does not. -/
theorem witness_StepRunsTheDecodedInstruction :
    let s := State.reset.probe 0x00608081
    s.agenda = [(1, .issue 1 0)] ∧
    (let s0 := ({ s with agenda := [] } : State).tick 1
     (s0.block? 1).isSome = true ∧ (strand0.run = none) ∧ s0.mayIssue block0 = true ∧
     (match s0.gang block0 0 with
      | some (st, pc, ls) =>
        let s1 := s0.takeSlot block0 0 st true
        match s1.fetchUnit block0 0 ls pc with
        | .unit y => y == 0x00608081 && pc == 0x40000000 && ls == List.range 8 &&
            (s1.codeShort block0 (s1.codePieces block0 pc y)).isNone
        | _ => false
      | none => false) = true) ∧
    checkUnit 0x00608081 true = none ∧ decodeUnit 0x00608081 true = .instr (.add 1 2 3 .none) 4 ∧
    checkUnit 0xE0608085 true = some (1, 0) := by
  refine ⟨?_, ?_, ?_, ?_, ?_⟩ <;> decide +kernel

/-- Code at an address and at the next eight bytes, and an event of the agenda. -/
theorem witness_fetch : CodeAt (running block0) block0 0x40000000 0 ∧ CodeAt (running block0) block0 0x40000008 0 ∧
    Instr.code (.tlbiDone 0) = .event :=
  ⟨codeAt_of_check (by decide +kernel), codeAt_of_check (by decide +kernel), rfl⟩

theorem witness_EncodingsDecode : (Instr.add 1 2 3 .none).WellFormed ∧ (Instr.add 1 2 3 .none).code ≠ .event ∧
    0x00608081 % 2 ^ (8 * (Instr.add 1 2 3 .none).code.len) = (encode (.add 1 2 3 .none)).toNat := by
  refine ⟨?_, ?_, ?_⟩
  · unfold Instr.WellFormed; decide +kernel
  · decide +kernel
  · decide +kernel

theorem witness_OnlyEncodingsPass : checkUnit 0x0060808100000003 true = none ∧ checkUnit 0x9462 false = none := by
  decide +kernel

/-- The first step of the probe runs the word that it places: ADD v1, v2, v3 completes in every lane. -/
theorem test_step_runs_add :
    (match step (State.reset.withFetchWord 32 0x00608081) with
      | .next s => s.blocks.all fun b => (List.range 8).all fun l =>
          (b.strand 0).pc l == 0x40000004 && ((b.strand 0).reg l 1).full && ((b.strand 0).lane l).count == 1
      | _ => false) = true := by decide +kernel

theorem witness_MemoryStaysCanonical : (State.reset.withFetchWord 32 0x00608081).mem.wf = true := by decide +kernel

/-! ## Events: reset, launching -/

/-- The module after a boot, nothing launched. -/
def idle : State := { State.reset with mgmt := { State.reset.mgmt with boot := 3 } }

theorem whole_reset : PortsWhole State.reset ∧ PortsWhole idle := ⟨⟨by decide, by decide +kernel⟩, ⟨by decide, by decide +kernel⟩⟩

theorem witness_ResetAndBoot :
    (State.reset.mgmt.perst0 = false ∧ State.reset.mgmt.boot = 0 ∧ (idle.mgmt.boot = 3)) ∧ PortsWhole State.reset ∧
    (State.reset.host 1).gone = false ∧ State.reset.ringOn = false ∧ State.reset.held = [] ∧
    ((State.reset.updHost 1 fun h => { h with gone := true }).host 1).gone = true ∧
    ((State.reset.updHost 1 fun h => { h with gone := true }).host 1).perst = false :=
  ⟨by decide, whole_reset.1, by decide +kernel⟩

/-- The ring on, and a notice of it. -/
theorem witness_RingTakes : RingTakes (ringed block0) := by
  unfold RingTakes; decide +kernel

/-- A queue with one record at 0x10000, and a launch of it. -/
def queued : State :=
  { idle with hosts := idle.hosts.modify 0 fun h => { h with queues := h.queues.modify 63 fun q =>
      { q with base := 0x10000, prod := 1, stamps := [5] } } }

theorem witness_Launching_doorbell :
    PortsWhole idle ∧ idle.mgmt.boot = 3 ∧ State.reset.mgmt.boot ≠ 3 ∧ (idle.host 0).gone = false ∧ (idle.host 0).perst = false ∧
    PortsWhole queued ∧ queued.clocksRun = true ∧ (queued.queue 0 63).stamps = [5] ∧
    (∀ g ∈ queued.grids, ¬(g.state = .held ∧ g.port = 0 ∧ g.queue = 63)) ∧ isDram 0x10000 = true ∧
    isDram (0x10000 + 127) = true ∧ queued.poison = [] ∧ queued.posting 0 = false :=
  ⟨whole_reset.2, by decide, by decide, by decide, by decide, ⟨by decide, by decide +kernel⟩, by decide +kernel⟩

/-- The head of a queue, with a good record and with one whose fields are bad; container and kernel are those of the forks. -/
def headGrid (threads : Nat) : Grid :=
  { probeGrid 3 false with
    launch := { probeLaunch false with cont := 0x10000, threads := threads, job := 1 }
    state := .held
    age := 5
    key := 3
    started := [] }

def admitting (threads : Nat) : State := { forkState 0 with grids := [headGrid threads] }

def admitsGood : Bool :=
  match (admitting 8).readKernel 1 [] (headGrid 8).launch with
  | .good k => k == ⟨0x10000, 0, 0, 0⟩
  | _ => false

theorem witness_Launching_admission :
    (admitting 8).clocksRun = true ∧ (admitting 8).admittedCount < 128 ∧ (admitting 8).grid? 3 = some (headGrid 8) ∧
    (admitting 8).eligibleHead (headGrid 8) = true ∧ (headGrid 8).prio < 8 ∧ (headGrid 8).tags = [] ∧
    (headGrid 8).launch.badLaunch = false ∧ (headGrid 9).launch.badLaunch = true ∧ admitsGood = true ∧
    (admitting 9).eligibleHead (headGrid 9) = true := by
  refine ⟨?_, ?_, ?_, ?_, ?_, ?_, ?_, ?_, ?_, ?_⟩ <;> decide +kernel

/-- A grid whose block 0 can be dispatched to core 127. -/
def dispatchGrid : Grid := { probeGrid 0 false with started := [] }

def dispatching : State := { running block0 with grids := [dispatchGrid], blocks := [] }

theorem witness_Launching_dispatch :
    dispatching.grid? 0 = some dispatchGrid ∧ dispatching.mayStart dispatchGrid 0 = true ∧
    (dispatching.fit 127 dispatchGrid.launch).isSome = true ∧ dispatching.outranked dispatchGrid 0 = false ∧
    dispatchGrid.launch.teamed = false ∧ dispatchGrid.launch.det = false ∧ dispatchGrid.fork = none ∧
    dispatchGrid.parent = none := by
  refine ⟨?_, ?_, ?_, ?_, ?_, ?_, ?_, ?_⟩ <;> decide +kernel

/-- The block whose threads have all exited, and its grid. -/
def endedBlock : Block :=
  { block0 with strands := block0.strands.map fun st => { st with lanes := st.lanes.map fun l => { l with status := .exited } } }

theorem witness_Launching_end :
    (running endedBlock).block? 1 = some endedBlock ∧ (running endedBlock).grid? 0 = some (probeGrid 0 false) ∧
    (∀ st ∈ endedBlock.strands, ∀ ln ∈ st.lanes, ln.status ≠ .live) ∧ endedBlock.stops = [] ∧ endedBlock.handles = [] ∧
    (running endedBlock).stops = [] ∧ ((running endedBlock).job 1).halting = none ∧ (running endedBlock).padPoison = [] ∧
    (running endedBlock).forks = [] ∧ (running endedBlock).clocksRun = true ∧ endedBlock.state = .running ∧
    endedBlock.view = .root ∧ (running endedBlock).partner? endedBlock = none := by
  refine ⟨?_, ?_, ?_, ?_, ?_, ?_, ?_, ?_, ?_, ?_, ?_, ?_, ?_⟩ <;> decide +kernel

def retiring : Grid := { probeGrid 0 false with ended := [0], launch := { probeLaunch false with done := 0x1000 } }

def retireState : State := { running block0 with grids := [retiring], blocks := [] }

theorem witness_Launching_retirement :
    retireState.grid? 0 = some retiring ∧ retiring.parent = none ∧ retiring.fork = none ∧ retiring.state = .active ∧
    retiring.ended.length = retiring.launch.nblk ∧ retiring.aborted = false ∧ retireState.clocksRun = true ∧ (∀ c ∈ retireState.cores, c.wcb = [] ∧ c.l1 = []) ∧ Quiet retireState ∧
    retireState.placeJob noCore 1 0x1000 .write = .ok ⟨.phys 0x80001000, some dataLeaf⟩ ∧
    retireState.fabric.reqs = [] ∧ retireState.hostReads = [] ∧ (retireState.host 1).dirty = false ∧ PortsWhole retireState :=
  ⟨by decide +kernel, rfl, rfl, rfl, rfl, rfl, by decide +kernel, by decide +kernel, ⟨rfl, rfl, rfl, by simp [retireState]⟩, by decide +kernel, rfl, rfl,
    by decide +kernel, ⟨by decide, by decide +kernel⟩⟩

/-! ## Saving and resuming -/

/-- The job table's entry of job 1 with its save area: 1 MiB at 0x100000 of its data pages, and its twin pool. -/
def withArea (s : State) : State := { s with mem := memPuts s.mem (s.mgmt.jobbase + 64 + 24) (leBytes 8 0x100000 ++ leBytes 8 0x100000) }

/-- 128 blocks that fill every core's scratchpad, and a launch of priority 1 that needs one row. -/
def fullCores : List Block :=
  (List.range 128).map fun c => { block0 with key := c + 1, index := c, core := c, rows := 1600, strands := [] }

def victimGrid : Grid :=
  { probeGrid 7 false with launch := { probeLaunch false with rows := 1 }, prio := 1, started := [], key := 7 }

def crowded : State :=
  { running block0 with
    grids := [{ probeGrid 0 false with launch := { probeLaunch false with nblk := 128 } }, victimGrid]
    blocks := fullCores }

theorem witness_SavingAndResuming_victims :
    crowded.grid? 7 = some victimGrid ∧ crowded.nextBlock victimGrid = some 0 ∧ crowded.fitsEver victimGrid.launch = false ∧
    crowded.victimsPending = false ∧ victimGrid.parent = none ∧
    (crowded.takeVictims victimGrid.launch [] (crowded.victimOrder victimGrid.prio)).isSome = true := by
  refine ⟨?_, ?_, ?_, ?_, ?_, ?_⟩ <;> decide +kernel

/-- A block that has stopped at a safe point, to be saved. -/
def smallGrid : Grid := { probeGrid 0 false with launch := { probeLaunch false with rcode := 0, rows := 0 } }

def stoppedBlock (why : StopWhy) : Block :=
  let b := Block.start smallGrid 1 0 0 .root [⟨0, 0, 16⟩]
  { b with
    state := .stopping why
    strands := b.strands.map fun st => { st with lanes := st.lanes.map fun l => { l with stopped := some 2, safe := some 0 } } }

def saving (b : Block) : State := { withArea (running b) with grids := [smallGrid] }

theorem pokeJob_append (job : Nat) (ys : List Byte) : ∀ (xs : List Byte) (s : State) (va : Nat),
    s.pokeJob job va (xs ++ ys) = (s.pokeJob job va xs).pokeJob job (va + xs.length) ys
  | [], _, _ => rfl
  | x :: xs, s, va => by
    simp only [List.cons_append, State.pokeJob, List.length_cons]
    rw [pokeJob_append job ys xs, show va + (xs.length + 1) = va + 1 + xs.length by omega]

theorem pokeJob_mem (job : Nat) : ∀ (xs : List Byte) (s : State) (va : Nat),
    s.pokeJob job va xs = { s with mem := (s.pokeJob job va xs).mem }
  | [], _, _ => rfl
  | x :: xs, s, va => by
    simp only [State.pokeJob]
    rw [pokeJob_mem job xs]
    split <;> rfl

/-- That block's frame: its header, its handles' part, and the eight lanes' contexts at 0x40000000 with status 2 and FLAGS. -/
def stoppedFrame : List Byte :=
  [1, 0, 0, 0, 0, 0, 0, 0, 0, 0, 0, 0, 0, 1, 0, 0, 1] ++ List.replicate 111 0 ++
    (List.range 8).flatMap fun _ => [0, 0, 0, 64, 0, 0, 0, 0, 130, 0, 0, 0, 0, 0, 0, 0]

theorem frame_stopped :
    (stoppedBlock .hold).frame smallGrid ((stoppedBlock .hold).strands.map fun st =>
      (saving (stoppedBlock .hold)).liveRegs (stoppedBlock .hold) smallGrid st StopWhy.hold.atOnce) = stoppedFrame := by
  decide +kernel

/-- The state with 32 k bytes of the frame in its save area, at physical 2^31 + 0x100040. -/
def partSaved (k : Nat) : State :=
  let s := saving (stoppedBlock .hold)
  { s with mem := memPuts s.mem (2 ^ 31 + 0x100040) (stoppedFrame.take (32 * k)) }

def pokePart (k : Nat) : Prop :=
  ((partSaved k).pokeJob 1 (0x100040 + 32 * k) ((stoppedFrame.drop (32 * k)).take 32)).mem = (partSaved (k + 1)).mem

theorem pokePart_0 : pokePart 0 := by unfold pokePart; decide +kernel
theorem pokePart_1 : pokePart 1 := by unfold pokePart; decide +kernel
theorem pokePart_2 : pokePart 2 := by unfold pokePart; decide +kernel
theorem pokePart_3 : pokePart 3 := by unfold pokePart; decide +kernel
theorem pokePart_4 : pokePart 4 := by unfold pokePart; decide +kernel
theorem pokePart_5 : pokePart 5 := by unfold pokePart; decide +kernel
theorem pokePart_6 : pokePart 6 := by unfold pokePart; decide +kernel
theorem pokePart_7 : pokePart 7 := by unfold pokePart; decide +kernel

theorem poke_next (k : Nat) (hk : 32 * k + 32 ≤ stoppedFrame.length) (h : pokePart k)
    (ih : (partSaved 0).pokeJob 1 0x100040 (stoppedFrame.take (32 * k)) = partSaved k) :
    (partSaved 0).pokeJob 1 0x100040 (stoppedFrame.take (32 * (k + 1))) = partSaved (k + 1) := by
  rw [show 32 * (k + 1) = 32 * k + 32 by omega, List.take_add, pokeJob_append, ih, List.length_take,
    Nat.min_eq_left (by omega), pokeJob_mem, h]
  rfl

theorem poke_frame : (saving (stoppedBlock .hold)).pokeJob 1 (0x100000 + 64) stoppedFrame = partSaved 8 :=
  have n : stoppedFrame.length = 256 := by decide
  poke_next 7 (by omega) pokePart_7 <| poke_next 6 (by omega) pokePart_6 <| poke_next 5 (by omega) pokePart_5 <|
  poke_next 4 (by omega) pokePart_4 <| poke_next 3 (by omega) pokePart_3 <| poke_next 2 (by omega) pokePart_2 <|
  poke_next 1 (by omega) pokePart_1 <| poke_next 0 (by omega) pokePart_0 rfl

theorem saveArea_written : (partSaved 8).saveArea 1 = some (0x100000, 0x100000) := by decide +kernel

theorem witness_SavingAndResuming_save :
    let b := stoppedBlock .hold
    let s := saving b
    s.block? 1 = some b ∧ s.grid? 0 = some smallGrid ∧ s.blockStopped b = true ∧ s.clocksRun = true ∧ smallGrid.tags = [] ∧ smallGrid.launch.teamed = false ∧
    s.entriesAway b smallGrid StopWhy.hold.atOnce = [] ∧ Clean s b.core ∧ s.saveArea 1 = some (0x100000, 0x100000) ∧
    (s.job 1).halting = none ∧ s.stops = [] ∧
    (let bs := b.frame smallGrid (b.strands.map fun st => s.liveRegs b smallGrid st StopWhy.hold.atOnce)
     64 + bs.length ≤ 0x100000 ∧ (s.pokeJob 1 (0x100000 + 64) bs).saveArea 1 = some (0x100000, 0x100000)) := by
  refine ⟨?_, ?_, ?_, ?_, ?_, ?_, ?_, ⟨?_, ?_⟩, ?_, ?_, ?_, ?_, ?_⟩
  iterate 12 decide +kernel
  · rw [frame_stopped]; decide
  · rw [frame_stopped, poke_frame]; exact saveArea_written

/-- An area that is too small. -/
theorem witness_SavingAndResuming_overflow :
    let b := stoppedBlock .hold
    let s := { saving b with mem := memPuts (saving b).mem (64 + 32) (leBytes 8 64) }
    s.saveArea 1 = some (0x100000, 64) ∧ s.ringOn = false ∧ s.held = [] ∧
    64 < 64 + (b.frame smallGrid (b.strands.map fun st => s.liveRegs b smallGrid st StopWhy.hold.atOnce)).length := by
  decide +kernel

/-- A saved block whose frame marks no register. -/
def savedBlock : Block := { Block.start smallGrid 1 0 0 .root [⟨0, 0, 16⟩] with state := .saved .hold 64 }

theorem witness_SavingAndResuming_resume :
    let s := saving savedBlock
    s.block? 1 = some savedBlock ∧ s.resumable savedBlock = true ∧ s.outranked smallGrid 0 = false ∧
    s.resumeFits savedBlock smallGrid.launch 127 = true ∧ savedBlock.strands ≠ [] ∧
    savedBlock.regs ≤ 256 ∧ s.frameNat 1 (64 + 64) 64 / 2 ^ 64 % 2 ^ 9 = 0 ∧
    ((List.range 256).filter fun r => (s.frameNat 1 (64 + 64) 64).testBit (256 + r)) = [] := by
  have h : (saving savedBlock).frameNat 1 (64 + 64) 64 = 0 := by decide +kernel
  refine ⟨?_, ?_, ?_, ?_, ?_, ?_, by simp only [h]; decide, by simp only [h]; decide +kernel⟩ <;> decide +kernel

/-- A job before a squall, during one, and switched out. -/
theorem witness_SavingAndResuming_squall :
    let s := withArea (running block0)
    let j := { s.job 1 with switching := true, marked := true }
    (s.job 1).out = false ∧ (s.job 1).resuming = false ∧ (s.job 1).switching = false ∧ j.switching = true ∧ j.marked = true ∧
    (∀ p ∈ s.fabric.ports, p.clean 1 = true) ∧ ({ j with out := true } : JobState).out = true ∧ s.roomForPacket 1 = true := by
  decide +kernel

/-- A trained port whose peer's flits are in order, and a squall's marker at it. -/
def linked (s : State) : State :=
  { s with fabric := { s.fabric with ports := s.fabric.ports.modify 23 fun p => { p with trained := true, rxval := 1, insvc := true } } }

/-- A flit from module 1 with no tag, and with the tag of a slot that has never been loaded. -/
def bareFlit (typ : FlitType) (payload : Payload) : Flit :=
  { port := 23, vc := 3, typ := typ, dst := 0, src := 1, via := 0, gen := false, kslot := false, job := 1, seq := 0, score := 0,
    tag := 0, counter := 0, verdict := .ok, payload := payload }

def tagged (f : Flit) : Flit := { f with mac := KeySlot.zero.mac f }

def flitOf (typ : FlitType) (payload : Payload) : Flit := tagged (bareFlit typ payload)

theorem mac_tagged (f : Flit) : (tagged f).mac = KeySlot.zero.mac (tagged f) := rfl

/-- What a port says of a flit, but for its tag. -/
def inOrderCheck (s : State) (f : Flit) : Bool :=
  let q := s.port f.port
  s.clocksRun && decide (f.port < 24) && decide (f.port < s.fabric.ports.length) && decide (f.vc < 4) &&
  decide (f.vc < q.vcs.length) && q.trained && !q.down && f.verdict == .ok && q.rxval.getLsbD (slotIx f.kslot) &&
  q.rx.getD (slotIx f.kslot) KeySlot.zero == KeySlot.zero && f.seq == (q.vcs.getD f.vc Channel.reset).rxNext

theorem inOrder_of (s : State) (f : Flit) (h : inOrderCheck s f = true) (hm : f.mac = KeySlot.zero.mac f) : InOrder s f := by
  simp only [inOrderCheck, Bool.and_eq_true, decide_eq_true_eq, Bool.not_eq_true', beq_iff_eq] at h
  obtain ⟨⟨⟨⟨⟨⟨⟨⟨⟨⟨h1, h2⟩, h3⟩, h4⟩, h5⟩, h6⟩, h7⟩, h8⟩, h9⟩, h10⟩, h11⟩ := h
  refine ⟨h1, h2, h3, h4, h5, h6, h7, h8, ?_, h11⟩
  simp only [FabPort.authentic, Bool.and_eq_true, beq_iff_eq]
  exact ⟨h9, by rw [h10]; exact hm⟩

theorem witness_markers :
    InOrder (linked (running block0)) (flitOf .squall (.squall 0)) ∧
    InOrder (linked (running block0)) (flitOf .readReq (.readReq 0x1000 16)) ∧
    isPacket (flitOf .readReq (.readReq 0x1000 16)) = true ∧ (linked (running block0)).ringOn = false :=
  ⟨inOrder_of _ _ (by decide +kernel) (mac_tagged _), inOrder_of _ _ (by decide +kernel) (mac_tagged _), by decide, by decide +kernel⟩

/-! ## Timers and translations -/

/-- The block whose lanes stand at two addresses, its fairness timers at 64. -/
def splitBlock : Block :=
  { block0 with strands := block0.strands.map fun st =>
      let st := [4, 5, 6, 7].foldl (fun st l => st.updLane l fun x => { x with pc := 0x40000100 }) (st.updLane 1 fun x => { x with pc := 0x40000200 })
      { st with fair := ⟨64, [], [0, 2, 3]⟩, quads := List.replicate 2 ⟨64, [], [0]⟩, waited := 256 } }

theorem witness_Timers_fairness :
    let s := running splitBlock
    let st := splitBlock.strand 0
    Distinct s ∧ s.block? 1 = some splitBlock ∧ 0 < splitBlock.strands.length ∧ 64 ≤ st.fair.count ∧
    ([0, 2, 3].all fun l => st.pc l == 0x40000000) = true ∧
    ((st.issuePcs (s.pending splitBlock 0)).filter fun q => q.2.1 != 0x40000000) ≠ [] ∧
    0 < (st.width + 3) / 4 ∧ 64 ≤ (st.quad 0).count ∧
    (((s.pending splitBlock 0).filter fun l => l / 4 == 0).filter fun l => st.pc l != 0x40000000) ≠ [] ∧
    256 ≤ st.waited ∧ st.promoted = false ∧ s.mayIssue splitBlock = true := by
  refine ⟨by unfold Distinct; decide +kernel, ?_, ?_, ?_, ?_, ?_, ?_, ?_, ?_, ?_, ?_, ?_⟩ <;> decide +kernel

/-- Lanes 2 and 3 have been at a RALLY since clock 0; the clock stands at 256. -/
def rallyBlock : Block :=
  { block0 with strands := block0.strands.map fun st => [2, 3].foldl (fun st l => st.updLane l fun x => { x with park := .rally 0 }) st }

def rallying : State := { running rallyBlock with dies := (running rallyBlock).dies.modify 0 fun d => { d with clock := 256 } }

theorem witness_Timers_rally :
    rallying.mayIssue rallyBlock = true ∧ rallyBlock.haltsNow = false ∧ rallying.coreClock rallyBlock.core = 256 ∧
    ((rallyBlock.strand 0).lane 2).status = .live ∧ (rallyBlock.strand 0).pc 2 = 0x40000000 ∧
    ((rallyBlock.strand 0).lane 2).park = .rally 0 ∧
    (∀ l, l < 8 → (rallyBlock.strand 0).pc l = 0x40000000) := by decide +kernel

/-- A run predicted past the branch at 0x40000000. -/
noncomputable def runPast : SubjRun :=
  { branch := 0x40000000, code := .bz 5 8 .none, unit := issueOf (List.range 8), taken := false, lanes := List.range 8,
    start := 0x40000004, pc := 0x40000004, mood := [], stats := [], issued := 0 }

noncomputable def predictedBlock : Block :=
  { withVal 5 1 block0 with strands := (withVal 5 1 block0).strands.map fun st => { st with run := some runPast } }

theorem witness_Timers_resolve :
    let s := running predictedBlock
    let clean := s.updStrand 1 0 Strand.cancelRun
    s.block? 1 = some predictedBlock ∧ ((predictedBlock.strand 0).run).isSome = true ∧ s.mayIssue predictedBlock = true ∧
    (clean.block? 1).isSome = true ∧
    ((clean.block? 1).bind fun c => (clean.gang c 0).map fun g => g.2.1) = some 0x40000000 := by decide +kernel

/-- A line at 2^31 of core 127 that has been dirty since clock 0; the clock stands at 2,048. -/
def agedState : State :=
  let s := running block0
  { s with
    dies := s.dies.map fun d => { d with clock := 2048 }
    cores := s.cores.modify 127 fun c =>
      { c with l1 := [(2 ^ 31, some ⟨7, true⟩)], lines := [{ line := 2 ^ 24, lease := 0, since := some 0 }] } }

/-- Tickets that wait, a page held in the TLBs, a small leaf to migrate. -/
theorem witness_Timers_translations :
    ((running block0).clocksRun = true ∧ 3 < (running block0).dies.length ∧ ((running block0).die 3).tlbiBusy = false) ∧
    (let b := { block0 with strands := block0.strands.map fun st => st.updLane 7 fun x => { x with count := 16384 } }
     (running b).issuing b ∧ ((running b).cur.lanes.filter fun l => ((b.strand 0).lane l).status == .live &&
       ((b.strand 0).lane l).pc == (running b).cur.pc && decide (16384 ≤ ((b.strand 0).lane l).count)) ≠ []) ∧
    (127 < (agedState.cores.length) ∧ cellsWf none (agedState.core 127).l1 = true ∧ 2 ^ 24 * 128 < 2 ^ 52 ∧ agedState.clocksRun = true ∧
      (∃ x ∈ (agedState.core 127).lines, x.line = 2 ^ 24 ∧ ∃ c, x.since = some c ∧ c + 2048 ≤ agedState.coreClock 127)) ∧
    ((agedState.die 3).clock.toNat / 2048 ≠ (agedState.die 3).period) := by
  refine ⟨?_, ?_, ⟨?_, ?_, ?_, ?_, ⟨_, .head _, rfl, 0, rfl, ?_⟩⟩, ?_⟩ <;> decide +kernel

/-- The leaf at VA 2 GiB, of 64 KiB at physical 0xC0000000, under the probe's tables. -/
def smallLeaf : Leaf := ⟨2 ^ 31, 2 ^ 16, 3, 0, false, 0, 0, 0, 1, 0, false, 0xC0000000⟩

def linkTo (a : Nat) : List Byte := leBytes 8 1 ++ leBytes 8 a

def migrating : State :=
  let s := running block0
  let m := memPuts s.mem (2 ^ 20 + 8192 + 32) (linkTo 0x110000)
  let m := memPuts m 0x110000 (linkTo 0x120000)
  { s with mem := memPuts m 0x120000 (leBytes 8 (3 + 3 * 4 + 2 ^ 20) ++ leBytes 8 0xC0000000) }

theorem witness_Timers_migration :
    migrating.walkJob 1 (2 ^ 31) = some smallLeaf ∧ migrating.jobEntry 1 8 8 = some (2 ^ 20) ∧
    walkEntry migrating.mem (2 ^ 31) 4 (2 ^ 20) = some 0x120000 ∧ migrating.clocksRun = true ∧ migrating.scopes = [] ∧
    Memory.wf migrating.mem = true ∧ (∀ c ∈ migrating.cores, c.l1 = []) ∧ smallLeaf.bytes ≤ 2 ^ 21 ∧
    smallLeaf.home = migrating.mgmt.dev ∧ isDram smallLeaf.addr = true ∧ (7 * 2 ^ 37) / 2 ^ 37 = 7 ∧
    smallLeaf.addr / 2 ^ 37 ≠ 7 ∧ isDram (7 * 2 ^ 37) = true ∧ isDram (7 * 2 ^ 37 + 2 ^ 16 - 1) = true ∧
    (∀ c ∈ migrating.mem, c.1 < 7 * 2 ^ 37 ∨ 7 * 2 ^ 37 + 2 ^ 16 ≤ c.1) ∧ migrating.migrations = [] ∧ smallLeaf.pin = false ∧
    (∀ d, (migrating.die d).credited 3 = true) := by
  refine ⟨?_, ?_, ?_, ?_, ?_, ?_, ?_, ?_, ?_, ?_, ?_, ?_, ?_, ?_, ?_, ?_, ?_, credited_of (by decide) (by decide +kernel)⟩ <;> decide +kernel

/-! ## The fabric -/

/-- Port 23 is trained, in service, and reaches module 1; generation 0 routes to it directly; the domain table is the
job's page table. -/
def fabric1 (s : State) : State :=
  { s with
    mem := memPuts s.mem 80 (leBytes 8 (2 ^ 20))
    fabric := { s.fabric with
      ports := s.fabric.ports.modify 23 fun p => { p with trained := true, insvc := true, peer := 1, txval := 1, rxval := 1 }
      routes := s.fabric.routes.map fun r => r.set 1 ⟨BitVec.ofNat 24 (2 ^ 23), 0, true⟩ } }

def fab0 : State := fabric1 (running block0)

theorem sound23 : Sound fab0 23 := by unfold Sound; decide +kernel

theorem channel_23 : inOrderCheck fab0 (flitOf .idle .idle) = true ∧ Moving fab0 (flitOf .idle .idle) := by
  unfold Moving; decide +kernel

/-- Any packet with a tag arrives in its place at port 23. -/
theorem arrives_at (typ : FlitType) (x : Payload) : Comes fab0 (flitOf typ x) typ :=
  ⟨rfl, inOrder_of _ _ (by rw [show inOrderCheck fab0 (flitOf typ x) = inOrderCheck fab0 (flitOf .idle .idle) from rfl]; exact channel_23.1)
    (mac_tagged _), channel_23.2, rfl⟩

theorem asks_of (typ : FlitType) (x : Payload) : Asks fab0 (flitOf typ x) typ :=
  ⟨arrives_at typ x, rfl, by decide +kernel, by decide +kernel, credited_of (by decide) (by decide +kernel)⟩

/-- Requests in order that reach DRAM and that reach nothing. -/
theorem witness_FabricPackets_requests :
    (∀ typ x, Asks fab0 (flitOf typ x) typ) ∧ fab0.chooseRoute 1 = some (23, 1) ∧ Sound fab0 23 ∧ Quiet fab0 ∧
    Finds fab0 (flitOf .readReq (.readReq 0x1000 128)) 0x1000 [.read, .write] 0x80001000 ∧
    Finds fab0 (flitOf .write (.write 0x1001 1 [])) (0x1001 / 128 * 128) [.write] 0x80001000 ∧
    fab0.domainPlace (flitOf .readReq (.readReq (2 ^ 51) 128)) .root (2 ^ 51) [.read] = none ∧ fab0.awayResv = [] ∧
    (∀ b ∈ fab0.blocks, ∀ st ∈ b.strands, ∀ l ∈ st.lanes, l.resv = none) ∧ AtomFn.ofCode 10 = some .fadd :=
  ⟨asks_of, by decide +kernel, sound23, ⟨by decide +kernel, by decide +kernel, by decide +kernel, by decide +kernel⟩, ⟨dataLeaf, by decide +kernel⟩, ⟨dataLeaf, by decide +kernel⟩,
    by decide +kernel, by decide +kernel, by decide +kernel, by decide⟩

/-- A request of lane 3 in progress, which waits for its answer. -/
def requestOf (typ : FlitType) (who : Asker) (phase : ReqPhase) (tries : Nat) : RemoteReq :=
  { tag := 0, flit := { bareFlit typ .writeAck with dst := 1 }, core := 0, who := who, va := 0x1000, loc := .remote 1 0x2000,
    bytes := 4, tries := tries, phase := phase, since := 0, reported := false, fills := true }

def asking (r : RemoteReq) : State :=
  let b := { block0 with strands := block0.strands.map fun st => st.updLane 3 fun x => { x with park := .reply [0] } }
  let s := fabric1 (running b)
  { s with fabric := { s.fabric with reqs := [r] }, dies := s.dies.map fun d => { d with clock := 2 ^ 26 } }

theorem asking_comes (r : RemoteReq) (typ : FlitType) (x : Payload) : Comes (asking r) (flitOf typ x) typ :=
  ⟨rfl, inOrder_of _ _ (by rw [show inOrderCheck (asking r) (flitOf typ x) = inOrderCheck fab0 (flitOf .idle .idle) from rfl]; exact channel_23.1)
    (mac_tagged _), channel_23.2, rfl⟩

theorem witness_FabricPackets_answers :
    (∀ r typ x, Comes (asking r) (flitOf typ x) typ) ∧
    (∀ p ∈ [(FlitType.readResp, FlitType.readReq), (.writeAck, .write), (.atomicResp, .atomic)],
      Answers (asking (requestOf p.2 (.lane 1 0 3) .flying 0)) (flitOf p.1 .writeAck) (requestOf p.2 (.lane 1 0 3) .flying 0) p.2) ∧
    Answers (asking (requestOf .write .core .flying 0)) (flitOf .writeAck .writeAck) (requestOf .write .core .flying 0) .write ∧
    Listed fab0 0 ∧ (fab0.core 0).lines.length < 2048 ∧ 0x2000 % 128 = 0 ∧
    (asking (requestOf .atomic (.lane 1 0 3) .flying 8)).fabric.rnrlim = 8 ∧
    (((asking (requestOf .atomic (.lane 1 0 3) .flying 8)).block? 1).map fun b => ((b.strand 0).lane 3).awaits 0) = some true := by
  refine ⟨asking_comes, ?_, ?_, (by unfold Listed; decide +kernel), ?_, ?_, ?_, ?_⟩
  · unfold Answers; decide +kernel
  · unfold Answers; decide +kernel
  all_goals decide +kernel

/-- A request turned away at clock 0, and a packet on its way through this module. -/
theorem witness_FabricPackets_retries :
    (let r := requestOf .write .core (.backoff 0) 1
     let s := asking r
     s.clocksRun = true ∧ s.fabric.reqs = [r] ∧ 0 + 2048 * 2 ^ r.tries ≤ s.coreClock r.core ∧ (s.job 1).out = false ∧
     (s.port r.flit.port).down = false ∧ (s.port r.flit.port).canSend = true) ∧ Sound fab0 23 ∧
    (let f := tagged { bareFlit .write .writeAck with dst := 1 }
     isPacket f = true ∧ InOrder fab0 f ∧ Moving fab0 f ∧ f.via = fab0.mgmt.dev ∧ f.dst ≠ fab0.mgmt.dev ∧
     fab0.fabric.relay = [] ∧ fab0.shallowest (fab0.directPorts f.gen f.dst) = some 23 ∧ (fab0.die (23 / 6)).credited 5 = true) := by
  refine ⟨by decide +kernel, sound23, by decide, inOrder_of _ _ ?_ (mac_tagged _), channel_23.2, ?_, ?_, ?_, ?_, ?_⟩ <;> decide +kernel

/-- A port with one flit in channel 2 sent `n` times. -/
def unanswered (n : Nat) : State :=
  { fab0 with
    dies := fab0.dies.map fun d => { d with clock := 4096 }
    fabric := { fab0.fabric with ports := fab0.fabric.ports.modify 23 fun p =>
      { p with vcs := p.vcs.modify 2 fun c => { c with retry := [(bareFlit .readResp .writeAck, n)], txSeq := 1 } } } }

theorem passes_of (s : State) (f : Flit) (h : inOrderCheck s f = true) (hm : f.mac = KeySlot.zero.mac f) : Passes s f :=
  let ⟨h1, h2, h3, h4, _, h6, h7, h8, h9, _⟩ := inOrder_of s f h hm
  ⟨h1, h2, h3, h4, h6, h7, h8, h9⟩

def ackAll : Payload := .release [0, 0, 0, 0] [] [0xFFFFFFFF, 0xFFFFFFFF, 0xFFFFFFFF, 0xFFFFFFFF] 4

theorem witness_Links_flits :
    (∀ f ∈ [flitOf .release ackAll, flitOf .idle .idle], Passes (unanswered 1) f) ∧ ((unanswered 1).port 23).vcs.length = 4 ∧
    (unacked (channel (unanswered 1) 23 2) 0xFFFFFFFF).length = 1 ∧ (unacked (channel (unanswered 1) 23 2) 0) = [] ∧
    (∀ e ∈ unacked (channel (unanswered 6) 23 2) 0xFFFFFFFF, e.2 < 7) ∧
    (∃ e ∈ unacked (channel (unanswered 7) 23 2) 0xFFFFFFFF, 7 ≤ e.2) ∧ ((unanswered 7).port 23).inService = true ∧
    (4 : BitVec 4) = BitVec.ofNat 4 (2 ^ 2) ∧
    InOrder fab0 (flitOf .keyMark .keyMark) ∧ InOrder fab0 (flitOf .drain (.drain true)) := by
  refine ⟨?_, ?_, ?_, ?_, ?_, ?_, ?_, by decide, (arrives_at _ _).2.1, (arrives_at _ _).2.1⟩
  · have h : ∀ typ x, Passes (unanswered 1) (flitOf typ x) := fun typ x =>
      passes_of _ _ (by rw [show inOrderCheck (unanswered 1) (flitOf typ x) = inOrderCheck (unanswered 1) (flitOf .idle .idle) from rfl]; decide +kernel)
        (mac_tagged _)
    intro f hf
    simp only [List.mem_cons, List.not_mem_nil, or_false] at hf
    rcases hf with rfl | rfl <;> exact h _ _
  all_goals decide +kernel

/-- Every port that can send has drained but for the marker's own channel. -/
def drainingState : State :=
  { fab0 with fabric := { fab0.fabric with
      draining := true
      ports := fab0.fabric.ports.modify 23 fun p => { p with vcs := p.vcs.mapIdx fun v c => { c with drained := if v = 3 then none else some true } } } }

theorem witness_Links_drain :
    InOrder drainingState (flitOf .drain (.drain true)) ∧ drainingState.fabric.draining = true ∧
    true = !drainingState.fabric.cur ∧ drainingState.fabric.relay = [] ∧
    (∀ p, p < drainingState.fabric.ports.length → (drainingState.port p).inService = true → (drainingState.port p).counts = true →
      (drainingState.port p).vcs.length = 4 ∧ ∀ v, v < 4 → (p ≠ 23 ∨ v ≠ 3) → (channel drainingState p v).drained = some true) := by
  have h : (∀ p, p < drainingState.fabric.ports.length → p ≠ 23 → (drainingState.port p).inService = false) ∧
      (drainingState.port 23).vcs.length = 4 ∧ ∀ v, v < 4 → v ≠ 3 → (channel drainingState 23 v).drained = some true := by
    decide +kernel
  refine ⟨inOrder_of _ _ (by decide +kernel) (mac_tagged _), by decide +kernel, by decide +kernel, by decide +kernel, ?_⟩
  intro p hp hi _
  by_cases e : p = 23
  · subst e; exact ⟨h.2.1, fun v hv h3 => h.2.2 v hv (by omega)⟩
  · rw [h.1 p hp e] at hi; cases hi

/-- A read request with a link error, with a tag that does not verify (the first one and the sixteenth), after a gap, and
that repeats. -/
def askFlit : Flit := bareFlit .readReq (.readReq 0x1000 16)

theorem witness_Links_window :
    (fab0.port 23).authEpoch = portClock fab0 23 / 2 ^ 34 ∧ (fab0.port 23).authWindow = 0 := by decide +kernel

theorem witness_Links_sequence :
    (fab0.clocksRun = true ∧ 3 < (fab0.port 23).vcs.length ∧ (fab0.port 23).trained = true ∧ (fab0.port 23).down = false) ∧
    ({ askFlit with verdict := .linkError } : Flit).verdict = .linkError ∧
    (let f := { askFlit with kslot := true }
     f.verdict = .ok ∧ (fab0.port 23).authentic f = false ∧ (0 + 1) % 16 ≠ 0 ∧ (15 + 1) % 16 = 0) ∧
    (∀ q ∈ [(1 : Word), 0x7FFFFFFF, 0x80000000, 0xFFFFFFFF], (fab0.port 23).authentic (tagged { askFlit with seq := q }) = true) ∧
    (channel fab0 23 3).rxNext = 0 ∧ 1 ≤ ((1 : Word) - 0).toNat ∧ ((0x7FFFFFFF : Word) - 0).toNat < 2 ^ 31 ∧
    2 ^ 31 ≤ ((0x80000000 : Word) - 0).toNat := by
  have h : (fab0.port 23).rxval.getLsbD 0 = true ∧ (fab0.port 23).rx.getD 0 KeySlot.zero = KeySlot.zero := by decide +kernel
  refine ⟨by decide +kernel, rfl, ⟨rfl, by decide +kernel, by decide, by decide⟩, ?_, by decide +kernel, by decide, by decide, by decide⟩
  intro q _
  simp only [FabPort.authentic, Bool.and_eq_true, beq_iff_eq]
  exact ⟨h.1, by rw [show slotIx (tagged { askFlit with seq := q }).kslot = 0 from rfl, h.2]; exact mac_tagged _⟩

/-- A port to release its buffers, one whose retry timer has run, ports out of training in service and out of it. -/
def lostPort (n : List (Flit × Nat)) : State :=
  { fab0 with fabric := { fab0.fabric with ports := fab0.fabric.ports.modify 23 fun p =>
      { p with trained := false, retraining := true, vcs := p.vcs.modify 2 fun c => { c with retry := n } } } }

theorem witness_Links_training :
    (fab0.port 23).canSend = true ∧ Sound fab0 23 ∧
    (((unanswered 7).port 23).sending = true ∧ (channel (unanswered 7) 23 2).retry ≠ [] ∧
      (channel (unanswered 7) 23 2).quiet + 4096 ≤ portClock (unanswered 7) 23) ∧
    ((fab0.port 22).trained = false ∧ (fab0.port 22).down = false ∧ (fab0.port 22).insvc = false ∧
      (∀ c ∈ (fab0.port 22).vcs, c.retry = []) ∧ 22 < fab0.fabric.ports.length ∧ FabricIdle fab0) ∧
    (((lostPort []).port 23).trained = false ∧ ((lostPort []).port 23).inService = true ∧ ((lostPort []).port 23).counts = true ∧
      ((lostPort []).port 23).retraining = true ∧ FabricIdle (lostPort []) ∧
      (∀ c ∈ ((lostPort []).port 23).vcs, c.retry = [])) ∧ Sound (lostPort []) 23 ∧
    (((lostPort [(bareFlit .write .writeAck, 1)]).port 23).vcs.flatMap fun c => c.retry) = [(bareFlit .write .writeAck, 1)] ∧
    isPacket (bareFlit .write .writeAck) = true ∧ (lostPort []).ringOn = false := by
  refine ⟨?_, sound23, ?_, ?_, ?_, ?_, ?_, ?_, ?_⟩ <;> (try unfold FabricIdle) <;> (try unfold Sound) <;> decide +kernel

/-- A request without a route; a generation that is not the current one; a write-combining entry that has been quiet. -/
def combining : State :=
  let s : State := { fab0 with dies := fab0.dies.map fun d => { d with clock := 512 } }
  { s with cores := s.cores.modify 127 fun c =>
      { c with wcb := [{ dev := 1, line := 0x2000, va := 0x1000, job := 1, view := none, bytes := [(0, some 5)], since := 0, sent := none, writers := [] }] } }

theorem witness_Links_waits :
    (let r := requestOf .write .core .noRoute 0
     let s := asking r
     s.clocksRun = true ∧ s.fabric.reqs = [r] ∧ r.flit.tag < 4096 ∧ r.since + 2 ^ 26 ≤ s.coreClock r.core ∧
     (s.job r.flit.job).out = false ∧ s.ringOn = false ∧ s.held = []) ∧ true ≠ fab0.fabric.cur ∧
    (∀ p, p < 24 → (fab0.port p).inService = true → (fab0.port p).counts = true → p = 23) ∧ Sound fab0 23 ∧
    (slotOf (fab0.port 23)).ctr.toNat + 4 < Min.min (2 ^ 48) (fab0.port 23).kswitch.toNat ∧
    (fab0.port 23).inService = true ∧ (fab0.port 23).counts = true ∧ (channel fab0 23 0).drained ≠ some fab0.fabric.cur ∧
    combining.clocksRun = true ∧ 127 < combining.cores.length ∧
    (combining.core 127).wcb.length = 1 ∧ ((1 + 1) * 2 ^ 52 + 0x2000) / 128 = (2 ^ 53 + 0x2000) / 128 ∧
    0 + combining.fabric.lull ≤ combining.coreClock 127 ∧ combining.fabric.reqs = [] ∧ combining.hostReads = [] ∧
    (combining.job 1).out = false ∧ combining.chooseRoute 1 = some (23, 1) ∧ Sound combining 23 := by
  refine ⟨?_, ?_, ?_, sound23, ?_, ?_, ?_, ?_, ?_, ?_, ?_, ?_, ?_, ?_, ?_, ?_, ?_, by unfold Sound; decide +kernel⟩ <;> decide +kernel

/-- Keys: the other slot valid or not, the counter at its switch and at its limit, a slot idle and one in use. -/
def keyed (f : FabPort → FabPort) : State := { fab0 with fabric := { fab0.fabric with ports := fab0.fabric.ports.modify 23 f } }

theorem witness_Links_keys :
    (fab0.port 23).vcs.length = 4 ∧ (fab0.port 23).tx.length = 2 ∧
    (let s := keyed fun q => { q with txval := 3, kswitch := 0 }
     (s.port 23).sending = true ∧ (s.port 23).switchDue = true ∧ (s.port 23).txval.getLsbD 1 = true) ∧
    (let s := keyed fun q => { q with kswitch := 0 }
     (s.port 23).switchDue = true ∧ (s.port 23).txval.getLsbD 1 = false ∧ (s.port 23).noSlotSeen = false) ∧
    (let s := keyed fun q => { q with tx := q.tx.map fun k => { k with ctr := BitVec.ofNat 64 (2 ^ 48) } }
     2 ^ 48 ≤ (slotOf (s.port 23)).ctr.toNat) ∧
    FabricIdle fab0 ∧ (fab0.port 23).klimit = false ∧ (fab0.port 23).slotIdle 1 = true ∧ (fab0.port 23).slotIdle 0 = false := by
  refine ⟨?_, ?_, ?_, ?_, ?_, ?_, ?_, ?_, ?_⟩ <;> (try unfold FabricIdle) <;> decide +kernel

/-! ## The hosts, housekeeping, and the answers to records -/

/-- The module running, host 0's aperture of 1 GiB at `base`. -/
def apertured (base : Nat) (en : Bool) : State :=
  let s := running block0
  { s with hosts := s.hosts.modify 0 fun h => { h with apbase := base, apjob := 1, apen := en } }

theorem holds_running : Holds (running block0) := ⟨by decide +kernel, by decide +kernel⟩

theorem hostsCredited_of {s : State} (h : ∀ d ∈ s.dies, d.credited 6 = true) : HostsCredited s := credited_of (by decide) h

/-- The aperture reads and writes its page, is off, and shows no page; at the first byte and at the last one. -/
theorem witness_HostAccesses_aperture :
    Open (apertured 0 true) 0 0x1000 4 ∧ Open (apertured 0 true) 0 (64 * 2 ^ 30 - 4) 4 ∧
    ((apertured 0 true).host 0).apen = true ∧ ((apertured 0 false).host 0).apen = false ∧
    (match (apertured 0 true).jobRead 1 [] 0x1000 4 with | .ok bs => bs == [0, 0, 0, 0] | _ => false) = true ∧
    (match (apertured (2 ^ 40) true).jobRead 1 [] (2 ^ 40) 4 with | .flaw _ => true | _ => false) = true ∧
    segmentsOf (apertureVa (apertured 0 true) 0 0x1000) 4 = [(0x1000, 4)] ∧
    (apertured 0 true).placeJob noCore 1 0x1000 .write = .ok ⟨.phys 0x80001000, some dataLeaf⟩ ∧ dataLeaf.view = false ∧
    (match (apertured (2 ^ 40) true).placeJob noCore 1 (2 ^ 40) .write with | .error _ => true | .ok _ => false) = true ∧
    Quiet (apertured 0 true) ∧ (apertured 0 true).posting 0 = false ∧ HostsCredited (apertured 0 true) ∧ Holds (apertured (2 ^ 40) true) :=
  ⟨by unfold Open; decide +kernel, by unfold Open; decide +kernel, by decide +kernel, by decide +kernel, by decide +kernel,
    by decide +kernel, by decide +kernel, by decide +kernel, rfl, by decide +kernel,
    ⟨by decide +kernel, by decide +kernel, by decide +kernel, by decide +kernel⟩, by decide +kernel,
    hostsCredited_of (by decide +kernel), ⟨by decide +kernel, by decide +kernel⟩⟩

/-- A read of a host window that lane 3 waits for, whose time is over; no launch has a pass under way. -/
def windowRead : HostRead := { tag := 9, port := 1, addr := 0x1000, bytes := 4, who := .lane 1 0 3, since := 0 }

def hostReading : State :=
  { running block0 with
    hostReads := [windowRead]
    dies := (running block0).dies.map fun d => { d with clock := 2 ^ 26 } }

theorem witness_HostAccesses_completion :
    hostReading.clocksRun = true ∧ (∀ g ∈ hostReading.grids, g.passing = []) ∧ hostReading.block? 1 = some block0 ∧
    hostReading.jobOf block0 ≠ 0xFFF ∧ Holds hostReading ∧ ([1, 2, 3, 4] : List Byte).length = windowRead.bytes ∧
    windowRead.since + 2 ^ 26 ≤ hostReading.coreClock 0 := by
  refine ⟨?_, ?_, ?_, ?_, ⟨?_, ?_⟩, ?_, ?_⟩ <;> decide +kernel

theorem witness_HostAccesses_registers :
    (idle.portAnswers 0 = true ∧ idle.portAnswers 1 = true ∧ PortsWhole idle ∧
      (idle.queue 0 63).prod = (idle.queue 0 63).cons ∧ idle.mgmt.primary = 0) ∧
    idle.mgmt.primary ≠ 1 ∧ (0x800000 + 0xFC0) + 64 ≤ 0x801000 ∧ idle.portReads 0 = true ∧ idle.hostSpeaks = true :=
  ⟨⟨by decide, by decide, whole_reset.2, by decide, by decide⟩, by decide, by decide, by decide, by decide⟩

/-- A nonce of 32 bytes, and a request under way. -/
theorem witness_HostAccesses_attestation :
    (List.replicate 32 (7 : Byte)).length = 32 ∧
    (let s : State := { idle with mgmt := { idle.mgmt with attBusy := true } }
     s.mgmt.attBusy = true ∧ s.mgmt.nonce.length = 32 ∧ s.dies.length = 4) := by
  decide +kernel

/-- Units at the ends of their numbers; a die whose spare pairs are used up; a port trained beside the one it replaces; a
core pair that a fatal error and a spare bank that 64 corrections wore out. -/
def worn (w : Wear) : State := idle.updDie 3 fun d => { d with wear := [w] }

theorem witness_Housekeeping_sparing :
    idle.hostSpeaks = true ∧ idle.mgmt.spareBusy = false ∧ idle.dies.length = 4 ∧ (idle.die 3).spares.getD 0 0 < 2 ∧
    2 ≤ ((idle.updDie 3 fun d => { d with spares := [2, 0, 0, 0, 0] }).die 3).spares.getD 0 0 ∧
    (31 * 128 + 126) / 128 < 32 ∧ (31 * 128 + 126) % 128 < 127 ∧ 32 * 3 + 31 < idle.cores.length ∧
    127 ∉ (idle.core (32 * 3 + 31)).banks ∧ 32 ∉ (idle.die 3).slices ∧ (idle.die 3).channels = [] ∧
    (fabric1 idle).sparePort 23 (List.range 24) = none ∧
    ({ idle with fabric := { idle.fabric with ports := idle.fabric.ports.modify 22 fun p => { p with trained := true } } } : State).sparePort
      (6 * 3 + 5) ((List.range 6).map fun i => 6 * 3 + i) = some 22 ∧
    (idle.spare 0 3 15 (List.range 24)).isSome = true ∧ (idle.spare 0 3 16 (List.range 24)).isNone = true ∧
    (∀ b ∈ (running block0).blocks, b.resident = true → b.core ∉ (running block0).mgmt.sparing) ∧
    (let s := worn ⟨2, 31, 0, 0, 1, 0⟩
     s.clocksRun = true ∧ s.wornUnits = [(2, 3, 31)] ∧ ((s.forgetWear 2 3 31).spare 2 3 31 (List.range 24)).isSome = true) ∧
    (let s := (worn ⟨2, 31, 0, 0, 1, 0⟩).updDie 3 fun d => { d with slices := d.slices.set 0 32 }
     s.wornUnits = [(2, 3, 31)] ∧ ((s.forgetWear 2 3 31).spare 2 3 31 (List.range 24)).isNone = true) := by
  refine ⟨?_, ?_, ?_, ?_, ?_, ?_, ?_, ?_, ?_, ?_, ?_, ?_, ?_, ?_, ?_, ?_, ?_, ?_⟩ <;> decide +kernel

/-- Power and temperature beside their limits, and the hold and the trip. -/
theorem witness_Housekeeping_power :
    idle.dies.length = 4 ∧ (2400 < 2401 ∨ 95 < 20) ∧ (2280 * 100 ≤ 2400 * 95 ∧ 90 * 100 ≤ 95 * 95) ∧
    (idle.die 3).budgetNext.length = 7 ∧
    (let s : State := { idle with mgmt := { idle.mgmt with calm := 1000, hot := 10, throttled := true, tj := 115, thIrq := false } }
     100 ≤ s.mgmt.calm + 1 ∧ s.mgmt.throttled = true ∧ s.mgmt.hold = false ∧ 10 ≤ s.mgmt.hot ∧ s.mgmt.thIrq = false ∧
     1000 ≤ s.mgmt.calm ∧ s.mgmt.trip = false ∧ 115 ≤ s.mgmt.tj) ∧
    (let s : State := { idle with mgmt := { idle.mgmt with tin := 45, thIrq := true } }
     s.mgmt.thIrq = true ∧ s.portGone s.mgmt.primary = false ∧ 45 ≤ s.mgmt.tin) := by
  decide +kernel

/-- A register of a running strand, a line of DRAM whose L2 copy is dirty or clean, a word of the scratchpad. -/
def cached (dirty : Bool) : State := (running block0).updDie 3 fun d => { d with l2 := [{ line := 0x10000 / 128, dirty := dirty, range := none }] }

theorem witness_Housekeeping_scrubbing :
    (running block0).block? block0.key = some block0 ∧ (running block0).clocksRun = true ∧ block0.state = .running ∧
    (255 < 256 ∧ 255 < block0.regs ∧ 0 < block0.strands.length ∧ 7 < (block0.strand 0).width) ∧
    (∀ d ∈ [true, false], (((cached d).die 3).l2.find? fun y => y.line == 0x10000 / 128) =
      some { line := 0x10000 / 128, dirty := d, range := none }) ∧
    0x10000 / 32 ∉ (running block0).poison ∧ (block0.key, 8 / 8) ∉ (running block0).padPoison ∧ Holds (running block0) := by
  refine ⟨?_, ?_, ?_, ?_, ?_, ?_, ?_, holds_running⟩ <;> decide +kernel

/-- One record held, and the ring's base in DRAM. -/
def heldState : State :=
  { idle with held := [notice idle 0x31 2 1 0 0], mgmt := { idle.mgmt with frbase := 0x10000 } }

theorem witness_FaultAnswers_ring :
    Holds idle ∧ idle.hostSpeaks = true ∧ heldState.held = [notice idle 0x31 2 1 0 0] ∧ isDram heldState.mgmt.frbase = true ∧
    isDram (heldState.mgmt.frbase + 64 * 2 ^ 20 - 1) = true ∧ isDram (heldState.mgmt.frbase + 64 * 2 ^ 4 - 1) = true ∧
    heldState.mgmt.frbase / 2 ^ 37 = (heldState.mgmt.frbase + 64 * 2 ^ 20 - 1) / 2 ^ 37 ∧
    (heldState.mgmt.frprod - heldState.mgmt.frcons).toNat < 2 ^ 4 := by
  refine ⟨⟨?_, ?_⟩, ?_, ?_, ?_, ?_, ?_, ?_, ?_⟩ <;> decide +kernel

/-- A saved block that a record with number 5 stopped. -/
def answered : State :=
  let b := { block0 with state := .saved .fault 64, stops := [77] }
  { running b with stops := [Stop.mk 77 (some 5) (.block 1)] }

theorem witness_FaultAnswers_answers :
    answered.hostSpeaks = true ∧ answered.stops = [Stop.mk 77 (some 5) (.block 1)] ∧ (Stop.mk 77 (some 5) (.block 1)).answer = none ∧
    ((answered.block? 1).map fun b => b.state) = some (.saved .fault 64) ∧ (answered.grid? 0).isSome = true ∧
    (∀ c ∈ answered.cores, c.wcb = []) ∧ answered.fabric.reqs = [] ∧ (answered.job 1).frames = [] ∧
    (probeGrid 0 false).launch.det = false ∧ Distinct answered ∧
    (∀ x ∈ answered.stops, ∀ q, x.seq = some q → q.setWidth 32 ≠ (6 : Word)) := by
  refine ⟨by decide +kernel, rfl, rfl, ?_, ?_, ?_, ?_, ?_, ?_, by unfold Distinct; decide +kernel, ?_⟩
  iterate 6 decide +kernel
  intro x hx q hq
  simp only [answered, List.mem_singleton] at hx
  subst hx
  simp only [Stop.mk, Option.some.injEq] at hq
  subst hq
  decide

theorem witness_FaultAnswers_illegal :
    (running block0).issuing block0 ∧ Block.issues block0 ∧
    (running block0).codeWord block0 (running block0).cur.strand (running block0).cur.lanes (running block0).cur.pc.toNat = some 0 ∧
    (running block0).codeWord block0 (running block0).cur.strand (running block0).cur.lanes ((running block0).cur.pc.toNat + 4)
      = some 0 :=
  ⟨by decide +kernel, issues_running (by decide +kernel), by decide +kernel, by decide +kernel⟩

/-! ## Ciphers, digests and the boot ROM -/

/-- FIPS 197, section 5.1.1: every eighth entry of the S-box from the field's inverse (the 254th power) and the affine map. -/
def fieldMul (a b : Nat) : Nat :=
  ((List.range 8).foldl (fun za i => (if b.testBit i then za.1 ^^^ za.2 else za.1, xtime za.2)) (0, a)).1

def boxEntry (b : Nat) : Nat :=
  let inv := (List.range 7).foldl (fun ps _ => let q := fieldMul ps.1 ps.1; (q, fieldMul ps.2 q)) (b, 1) |>.2
  let rot (n : Nat) : Nat := (inv * 2 ^ n + inv / 2 ^ (8 - n)) % 256
  inv ^^^ rot 1 ^^^ rot 2 ^^^ rot 3 ^^^ rot 4 ^^^ 0x63

theorem test_aes_box : (List.range 32).all (fun i => aesSub (8 * i) == boxEntry (8 * i)) = true := by decide +kernel

/-- FIPS 197, appendix C.3. -/
theorem test_aes_block :
    aesBlock (aesKeys (List.range 32)) ((List.range 16).map fun i => 17 * i) =
      bytesNat (beBytes 16 0x8ea2b7ca516745bfeafc49904b496089) := by decide +kernel

/-- The GCM specification's test case 14: a key, an IV and 16 bytes of zeros. -/
theorem test_gcm :
    let keys := aesKeys (List.replicate 32 0)
    let cipher := gcmCrypt keys 0 (List.replicate 16 0)
    cipher = beBytes 16 0xcea7403d4d606b6e074ec5d3baf39d18 ∧
    gcmTag keys 0 [] cipher = 0xd0d1c8a799996bf0265b98b5d48ab919 := by decide +kernel

/-- FIPS 180-4's example "abc". -/
theorem test_sha512 : beNat (sha512 [0x61, 0x62, 0x63]) =
    0xddaf35a193617abacc417349ae20413112e6fa4e89a97ea20a9eeee64b55d39a2192992a274fc1a836ba3c23a3feebbd454d4423643ce80e2a9ac94fa54ca49f := by
  decide +kernel

/-- A boot whose flash cannot be read ends in STATE 4 with reason 1; the last step of a good one leaves STATE 3 (Table 23-5). -/
theorem test_boot :
    (match execBootComplete 1 { State.reset with mgmt := { State.reset.mgmt with boot := 1, perst0 := false } } with
      | .next s => s.mgmt.boot == 4 && s.mgmt.bootReason == 1 | _ => false) = true ∧
    (match execBootComplete 0 { State.reset with mgmt := { State.reset.mgmt with boot := 2, perst0 := false } } with
      | .next s => s.mgmt.boot == 3 | _ => false) = true := by decide +kernel

end Sys2Proof.Tests
end

/-! PROOFS. Records of events: held while the ring is off, written to a ring in DRAM, and the stop of the job that they name
(R409, R411, Table 19-2). -/

namespace Sys2Proof.Machine

open Sys2Proof Sys2Proof.Spec

/-! ## Records that are held (R411) -/

/-- With the ring off nothing held is written. -/
theorem State.drainRecords_ringOff (s : State) (hoff : s.ringOn = false) : s.drainRecords = s := by
  unfold State.drainRecords
  cases s.held with
  | nil => rfl
  | cons r rs =>
    simp only [List.length_cons, State.drainHeld, hoff, Bool.false_and, Bool.false_eq_true, if_false]
    split <;> rfl

/-- A single record is never one of the more than 256 that are dropped. -/
theorem length_filter_singleton_le (p : FaultRec → Bool) (r : FaultRec) : ([r].filter p).length ≤ 256 :=
  (List.length_filter_le p [r]).trans (by simp)

/-- With the ring off and nothing held, a record is held. -/
theorem State.note_holds (s : State) (r : FaultRec) (hs : Holds s) : s.note r = { s with held := [r] } := by
  obtain ⟨hoff, hheld⟩ := hs
  have hdrain : ({ s with held := s.held ++ [r] } : State).drainRecords = { s with held := [r] } := by
    rw [hheld]
    exact State.drainRecords_ringOff { s with held := [r] } hoff
  simp only [State.note, hdrain]
  rw [if_neg]
  simp only [Bool.and_eq_true, decide_eq_true_eq, not_and, not_lt]
  exact fun _ => length_filter_singleton_le _ r

/-- With room in the ring and nothing held, a record is written. -/
theorem State.note_written (s : State) (r : FaultRec) (hs : RingTakes s)
    (hw : (s.writeRecord r).held = []) : s.note r = s.writeRecord r := by
  obtain ⟨hon, -, hheld, hroom⟩ := hs
  have hdrain : ({ s with held := s.held ++ [r] } : State).drainRecords = s.writeRecord r := by
    have hempty : ({ s with held := [] } : State) = s := by rw [← hheld]
    have hon' : ({ s with held := [r] } : State).ringOn = true := hon
    simp only [State.drainRecords, hheld, List.nil_append, List.length_cons, List.length_nil, State.drainHeld, hon',
      hroom, decide_true, Bool.and_self, if_true, hempty]
  simp only [State.note, hdrain, hw, List.filter_nil, List.length_nil, Nat.not_lt_zero, decide_false, Bool.and_false,
    Bool.false_eq_true, if_false]

/-! ## Records that are written (R411, Table 19-3) -/

theorem FaultRec.bytes_length (r : FaultRec) (seq : Nat) : (r.bytes seq).length = 64 := by
  simp [FaultRec.bytes]

/-- The entry of the ring that the next record takes. -/
def State.ringEntry (s : State) : Nat := s.mgmt.frbase + 64 * (s.mgmt.frprod.toNat % 2 ^ s.mgmt.frlog2n)

theorem hostWindow_eq_none {pa : Nat} (h : pa / 2 ^ 40 = 0) : hostWindow? pa = none := by
  unfold hostWindow?
  rw [h]
  rfl

theorem isDram_high {pa : Nat} (h : isDram pa = true) : pa / 2 ^ 40 = 0 := by
  simp only [isDram, Bool.and_eq_true, beq_iff_eq] at h
  exact h.1

/-- A ring whose base is in DRAM has all of its entries outside the hosts' windows. -/
theorem State.ringEntry_no_window (s : State) (hon : s.ringOn = true) (hbase : isDram s.mgmt.frbase = true) :
    hostWindow? s.ringEntry = none := by
  have hzero := isDram_high hbase
  have hstack : s.mgmt.frbase / 2 ^ 37 = (s.mgmt.frbase + 64 * 2 ^ s.mgmt.frlog2n - 1) / 2 ^ 37 := by
    simp only [State.ringOn, hostWindow_eq_none hzero, Bool.or_false, Bool.and_eq_true, beq_iff_eq] at hon
    exact hon.2.2
  have hindex : s.mgmt.frprod.toNat % 2 ^ s.mgmt.frlog2n < 2 ^ s.mgmt.frlog2n := Nat.mod_lt _ (by positivity)
  apply hostWindow_eq_none
  unfold State.ringEntry
  generalize 2 ^ s.mgmt.frlog2n = n at *
  omega

theorem State.msixIf_only (s : State) (b : Bool) (p vec : Nat) :
    ∃ out, (if b then s.msix p vec else s) = { s with hostOut := out } := by
  cases b
  · exact ⟨s.hostOut, rfl⟩
  · refine ⟨(s.msix p vec).hostOut, ?_⟩
    simp only [State.msix, if_true]
    split <;> rfl

/-- What a write by an agent that is no lane clears of a block, its lanes' reservations, no function of the rest sees. -/
theorem State.clearResv_blocks_map {β : Type} (g : Block → β) (hg : ∀ (b : Block) ss, g { b with strands := ss } = g b)
    (s : State) (loc : Loc) (n : Nat) (keep : Nat → Nat → Nat → Bool) :
    (s.clearResv loc n keep).blocks.map g = s.blocks.map g := by
  unfold State.clearResv
  dsimp only
  split <;> split <;> simp [hg]

theorem State.pokePhys_blocks_map {β : Type} (g : Block → β) (hg : ∀ (b : Block) ss, g { b with strands := ss } = g b)
    (s : State) (pa : Nat) (bs : List Byte) : (s.pokePhys pa bs).blocks.map g = s.blocks.map g := by
  simp only [State.pokePhys]
  rw [State.clearResv_blocks_map g hg, State.cleanUnits_only, State.noteWritten_only]

@[simp] theorem State.pokePhys_mem (s : State) (pa : Nat) (bs : List Byte) :
    (s.pokePhys pa bs).mem = memPuts s.mem pa bs := by rw [State.pokePhys_only]

@[simp] theorem State.pokePhys_mgmt (s : State) (pa : Nat) (bs : List Byte) : (s.pokePhys pa bs).mgmt = s.mgmt := by
  rw [State.pokePhys_only]

@[simp] theorem State.pokePhys_held (s : State) (pa : Nat) (bs : List Byte) : (s.pokePhys pa bs).held = s.held := by
  rw [State.pokePhys_only]

/-- The two vectors of a record send messages, and do nothing else. -/
theorem State.vectors_only (s : State) (b c : Bool) (p q v w : Nat) :
    ∃ out, (if c then (if b then s.msix p v else s).msix q w else if b then s.msix p v else s) =
      { s with hostOut := out } := by
  obtain ⟨o, ho⟩ := State.msixIf_only s b p v
  rw [ho]
  obtain ⟨o', ho'⟩ := State.msixIf_only { s with hostOut := o } c q w
  exact ⟨o', ho'⟩

/-- A record that names no block, in a ring in DRAM: its entry is written, and FRPROD goes on. -/
theorem State.writeRecord_dram (s : State) (r : FaultRec) (hwin : hostWindow? s.ringEntry = none) (hb : r.block = none) :
    ∃ out stops, s.writeRecord r =
      { s.pokePhys s.ringEntry (r.bytes (s.mgmt.frprod.toNat % 2 ^ 32)) with
        mgmt := { s.mgmt with frprod := s.mgmt.frprod + 1 }
        stops := stops
        hostOut := out } := by
  have hwin' : hostWindow? (s.mgmt.frbase + 64 * (s.mgmt.frprod.toNat % 2 ^ s.mgmt.frlog2n)) = none := hwin
  simp only [State.writeRecord, hwin', hb, State.pokePhys_mgmt]
  exact (State.vectors_only _ _ _ _ _ _ _).imp fun out h => ⟨_, h⟩

/-- A record that names no block is written to a ring in DRAM that takes it: its 64 bytes, and FRPROD. -/
theorem State.note_recorded (s : State) (r : FaultRec) (hs : RingTakes s) (hb : r.block = none) :
    ∃ out stops, s.note r =
      { s.pokePhys s.ringEntry (r.bytes (s.mgmt.frprod.toNat % 2 ^ 32)) with
        mgmt := { s.mgmt with frprod := s.mgmt.frprod + 1 }
        stops := stops
        hostOut := out } := by
  have ⟨hon, hbase, hheld, _⟩ := hs
  obtain ⟨out, stops, hw⟩ := s.writeRecord_dram r (s.ringEntry_no_window hon hbase) hb
  refine ⟨out, stops, (s.note_written r hs ?_).trans hw⟩
  rw [hw]
  simp [hheld]

theorem memBytes_puts (m : Memory) (a : Nat) (bs : List Byte) : memBytes (memPuts m a bs) a bs.length = bs := by
  apply List.ext_getElem (by simp)
  intro j h1 h2
  have hj := memBytes_getD (memPuts m a bs) a bs.length j 0 h2
  rw [memGet_puts, if_pos (by omega), Nat.add_sub_cancel_left] at hj
  simpa [List.getD_eq_getElem, h1, h2] using hj

/-- A record written to the ring meets `Recorded`. -/
theorem State.note_is_recorded (s : State) (r : FaultRec) (hs : RingTakes s) (hb : r.block = none) :
    Recorded s (s.note r) r := by
  obtain ⟨out, stops, hn⟩ := s.note_recorded r hs hb
  refine ⟨fun hoff => ?_, fun _ _ hheld _ => ?_⟩
  · rw [hs.1] at hoff
    cases hoff
  · rw [hn]
    refine ⟨by simp [hheld], rfl, ?_, fun a ha => ?_⟩
    · have := memBytes_puts s.mem s.ringEntry (r.bytes (s.mgmt.frprod.toNat % 2 ^ 32))
      rw [FaultRec.bytes_length] at this
      simpa [State.ringEntry] using this
    · simp only [State.pokePhys_mem, memGet_puts, FaultRec.bytes_length]
      rw [if_neg (by unfold State.ringEntry; omega)]

/-! ## Records without a job (Table 19-2) -/

/-- What `State.inform` does, for every record without a block. -/
theorem State.inform_informs (s : State) (cls sub : Nat) (f : FaultRec → FaultRec)
    (hb : (f (FaultRec.async s.stamp cls sub 0xFFF s.mgmt.dev)).block = none) :
    Informs s (s.inform cls sub f) (f (FaultRec.async s.stamp cls sub 0xFFF s.mgmt.dev)) := by
  simp only [State.inform, State.fresh]
  generalize f (FaultRec.async s.stamp cls sub 0xFFF s.mgmt.dev) = r at *
  refine ⟨fun hoff hheld => State.note_holds { s with stamp := s.stamp + 1 } r ⟨hoff, hheld⟩, fun hs => ?_⟩
  have hs' : RingTakes { s with stamp := s.stamp + 1 } := hs
  obtain ⟨out, stops, hn⟩ := State.note_recorded { s with stamp := s.stamp + 1 } r hs' hb
  refine ⟨State.note_is_recorded { s with stamp := s.stamp + 1 } r hs' hb, ?_, ?_⟩
  · rw [hn, State.pokePhys_only]
  · rw [hn]
    exact State.pokePhys_blocks_map _ (fun _ _ => rfl) _ _ _

/-! ## Records that stop a job (R409, Table 19-2) -/

theorem State.job_updJob (s : State) (j : Nat) (f : JobState → JobState) (hf : ∀ x, (f x).job = x.job) :
    (s.updJob j f).job j = f (s.job j) := by
  have hp : ((fun x : JobState => x.job == j) ∘ fun x => if x.job == j then f x else x) = fun x => x.job == j := by
    funext x
    by_cases hx : x.job = j <;> simp [hx, hf]
  unfold State.updJob State.job
  by_cases h : s.jobs.any fun x => x.job == j
  · obtain ⟨x, hx⟩ := Option.isSome_iff_exists.1 (List.find?_isSome.2 (List.any_eq_true.1 h))
    have hj : x.job = j := by simpa using List.find?_some hx
    rw [if_pos h]
    dsimp only
    rw [List.find?_map, hp, hx]
    simp [hj]
  · have hx : s.jobs.find? (fun x => x.job == j) = none := by simpa using h
    rw [if_neg h]
    simp [List.find?_append, hx, hf, JobState.fresh]

/-- With the ring off and nothing held, a record that names a job is held, and the job stops. -/
theorem State.informJob_holds (s : State) (cls sub job : Nat) (f : FaultRec → FaultRec) (hs : Holds s) :
    s.informJob cls sub job f =
      { s with
        held := [f (FaultRec.async s.stamp cls sub job s.mgmt.dev)]
        stops := s.stops ++ [Stop.mk s.stamp none (.job job false)]
        stamp := s.stamp + 1 }.stopJob job .halt := by
  have hs' : Holds { s with stamp := s.stamp + 1, stops := s.stops ++ [Stop.mk s.stamp none (.job job false)] } := hs
  exact congrArg (fun t => State.stopJob t job .halt) (State.note_holds _ _ hs')

theorem State.stopJob_blocks (s : State) (job : Nat) (why : StopWhy) :
    (s.stopJob job why).blocks = s.blocks.map fun b => if s.jobOf b = job then b.stopFor why else b := by
  simp [State.stopJob]

theorem State.stopJob_stopped (s : State) (job : Nat) (why : StopWhy) : ((s.stopJob job why).job job).stopped = true := by
  unfold State.stopJob
  rw [State.job_updJob]
  intro x
  rfl

/-- With the ring off and nothing held, an asynchronous record that names a job stops that job, and nothing more. -/
theorem State.informJob_stopsJob (s : State) (cls sub job : Nat) (f : FaultRec → FaultRec) (r : FaultRec) (hs : Holds s)
    (hr : f (FaultRec.async s.stamp cls sub job s.mgmt.dev) = r) (hid : r.id = s.stamp) :
    StopsJob s (s.informJob cls sub job f) job false r := by
  rw [State.informJob_holds s cls sub job f hs, hr, hid.symm]
  refine ⟨?_, State.stopJob_stopped _ _ _, ?_, State.stopJob_blocks _ _ _⟩ <;> simp [State.stopJob]

theorem State.informJob_frame (s : State) (cls sub job : Nat) (f : FaultRec → FaultRec) (hs : Holds s) :
    (s.informJob cls sub job f).mem = s.mem ∧ (s.informJob cls sub job f).hostOut = s.hostOut ∧
      (s.informJob cls sub job f).hostReads = s.hostReads := by
  rw [State.informJob_holds s cls sub job f hs]
  simp [State.stopJob]

end Sys2Proof.Machine

/-! PROOFS. What the hosts reach through BAR2 (R234, R246, R470). -/

namespace Sys2Proof.Machine

open Sys2Proof Sys2Proof.Spec

/-! ## What a read of a job's memory does not depend on -/

theorem State.readWindow_stamp (s : State) (k d off n : Nat) :
    ({ s with stamp := k } : State).readWindow d off n = s.readWindow d off n := by
  induction n generalizing off with
  | zero => rfl
  | succ n ih =>
    simp only [State.readWindow, ih]
    rfl

theorem State.viewByte_stamp (s : State) (k fuel job va : Nat) (v : View) :
    ({ s with stamp := k } : State).viewByte fuel job v va = s.viewByte fuel job v va := by
  induction fuel generalizing v with
  | zero => rfl
  | succ fuel ih =>
    cases v with
    | root => rfl
    | child f c =>
      simp only [State.viewByte, ih]
      rfl

theorem State.viewBytes_stamp (s : State) (k job va n : Nat) (v : View) :
    ({ s with stamp := k } : State).viewBytes job v va n = s.viewBytes job v va n := by
  induction n generalizing va with
  | zero => rfl
  | succ n ih => simp only [State.viewBytes, ih, State.viewByte_stamp]

theorem State.viewPoisoned_stamp (s : State) (k fuel job va : Nat) (v : View) :
    ({ s with stamp := k } : State).viewPoisoned fuel job v va = s.viewPoisoned fuel job v va := by
  induction fuel generalizing v with
  | zero => rfl
  | succ fuel ih =>
    cases v with
    | root => rfl
    | child f c =>
      simp only [State.viewPoisoned, ih]
      rfl

theorem State.placeJob_stamp (s : State) (k core job va : Nat) (w : Perm) :
    ({ s with stamp := k } : State).placeJob core job va w = s.placeJob core job va w := rfl

theorem State.poisonIn_stamp (s : State) (k job n : Nat) (p : Place) :
    ({ s with stamp := k } : State).poisonIn job p n = s.poisonIn job p n := by
  simp only [State.poisonIn, State.viewPoisoned_stamp]
  rfl

theorem State.homeBytes_stamp (s : State) (k job n : Nat) (p : Place) :
    ({ s with stamp := k } : State).homeBytes job p n = s.homeBytes job p n := by
  simp only [State.homeBytes, State.viewBytes_stamp, State.readWindow_stamp]
  rfl

theorem State.jobRead1_stamp (s : State) (k job va n : Nat) (rs : List Reply) :
    ({ s with stamp := k } : State).jobRead1 job rs va n = s.jobRead1 job rs va n := by
  simp only [State.jobRead1, State.placeJob_stamp, State.poisonIn_stamp, State.viewBytes_stamp, State.homeBytes_stamp]

/-- A key that is taken before a read does not change what is read. -/
theorem State.jobRead_stamp (s : State) (k job va n : Nat) (rs : List Reply) :
    ({ s with stamp := k } : State).jobRead job rs va n = s.jobRead job rs va n := by
  simp only [State.jobRead, State.jobRead1_stamp]

/-! ## The aperture (R246) -/

theorem State.apertureOpen_of_open {s : State} {p off n : Nat} (ho : Open s p off n) : s.apertureOpen p off n = true := by
  obtain ⟨hanswers, hboot, hfrozen, hsize⟩ := ho
  simp only [State.apertureOpen, hanswers, hboot, hfrozen, hsize, BEq.rfl, Bool.not_false, decide_true, Bool.and_self]

/-- Where every die has credit for the hosts, no access of theirs waits for it (R71). -/
theorem State.hostShort_none {s : State} (hc : HostsCredited s) (ps : List (Nat × Nat)) : s.hostShort ps = none := by
  simp only [State.hostShort, State.shortOf, List.find?_eq_none]
  intro d _
  simp [hc d]

/-- A host's traffic changes the dies alone. -/
theorem State.hostTraffic_only (s : State) (ps : List (Nat × Nat)) (w : Bool) :
    s.hostTraffic ps w = { s with dies := (s.hostTraffic ps w).dies } := by
  induction ps generalizing s with
  | nil => rfl
  | cons q ps ih =>
    have hstep : s.hostTraffic (q :: ps) w = (s.traffic (dieOfAddr q.1) 6 q.1 q.2 w none).hostTraffic ps w := rfl
    rw [hstep, ih, State.traffic_only]

/-- With EN 1 a failed access stops the aperture's job (R246, Table 19-2). -/
theorem State.apertureFault_enabled (s : State) (p va : Nat) (hen : (s.host p).apen = true) (hs : Holds s) :
    StopsJob s (s.apertureFault p va) (s.host p).apjob false (notice s 0x31 3 (s.host p).apjob va p) ∧
      (s.apertureFault p va).mem = s.mem ∧ (s.apertureFault p va).hostOut = s.hostOut := by
  simp only [State.apertureFault, hen, if_true]
  obtain ⟨hmem, hout, -⟩ := State.informJob_frame s 0x31 3 (s.host p).apjob _ hs
  exact ⟨State.informJob_stopsJob s _ _ _ _ _ hs rfl rfl, hmem, hout⟩

/-- With EN 0 the record names no job, and informs. -/
theorem State.apertureFault_disabled (s : State) (p va : Nat) (hen : (s.host p).apen = false) :
    Informs s (s.apertureFault p va) (notice s 0x31 3 0xFFF va p) := by
  simp only [State.apertureFault, hen, Bool.false_eq_true, if_false]
  exact s.inform_informs 0x31 3 _ rfl

/-! ## BAR2_READ -/

theorem exec_bar2Read (s : State) (p off n : Nat) : exec (.bar2Read p off n) s = execBar2Read p off n s := rfl

/-- An enabled aperture reads in the name of its job, after it has taken a key. -/
theorem bar2Read_enabled {s : State} {p off n : Nat} (ho : Open s p off n) (hen : (s.host p).apen = true) :
    exec (.bar2Read p off n) s =
      .next (({ s with stamp := s.stamp + 1 } : State).barRead
        ⟨s.stamp, p, (s.host p).apjob, apertureVa s p off, n, [], []⟩) := by
  simp only [exec_bar2Read, execBar2Read, State.apertureOpen_of_open ho, hen, Bool.not_true, Bool.false_eq_true, if_false]
  rfl

/-- What the aperture shows is completed at once (R246). -/
theorem bar2Read_completes {s : State} {p off n : Nat} {bs : List Byte} (ho : Open s p off n) (hen : (s.host p).apen = true)
    (hc : HostsCredited s) (hr : s.jobRead (s.host p).apjob [] (apertureVa s p off) n = .ok bs) :
    ∃ t, exec (.bar2Read p off n) s = .next t ∧
      t = { s with hostOut := s.hostOut ++ [.completion p bs], dies := t.dies, stamp := s.stamp + 1 } := by
  refine ⟨_, bar2Read_enabled ho hen, ?_⟩
  have hc' : HostsCredited { s with stamp := s.stamp + 1 } := hc
  simp only [State.barRead, State.jobRead_stamp, hr, State.hostShort_none hc']
  rw [State.hostTraffic_only]
  rfl

/-- An aperture that is off answers Unsupported Request, with a record that informs. -/
theorem bar2Read_disabled {s : State} {p off n : Nat} (ho : Open s p off n) (hen : (s.host p).apen = false) :
    ∃ t, exec (.bar2Read p off n) s = .next t ∧
      Informs { s with hostOut := s.hostOut ++ [.unsupported p] } t (notice s 0x31 3 0xFFF (apertureVa s p off) p) := by
  refine ⟨(s.send (.unsupported p)).apertureFault p (apertureVa s p off), ?_, ?_⟩
  · simp only [exec_bar2Read, execBar2Read, State.apertureOpen_of_open ho, hen, Bool.not_true, Bool.not_false,
      Bool.false_eq_true, if_false, if_true]
    rfl
  · exact State.apertureFault_disabled (s.send (.unsupported p)) p (apertureVa s p off) hen

/-- A read that fails answers Unsupported Request, and its record stops the aperture's job. -/
theorem bar2Read_fails {s : State} {p off n : Nat} {f : Flaw} (ho : Open s p off n) (hen : (s.host p).apen = true)
    (hr : s.jobRead (s.host p).apjob [] (apertureVa s p off) n = .flaw f) (hs : Holds s) :
    ∃ t, exec (.bar2Read p off n) s = .next t ∧ t.hostOut = s.hostOut ++ [.unsupported p] ∧ t.mem = s.mem ∧
      StopsJob s t (s.host p).apjob false
        { notice s 0x31 3 (s.host p).apjob (apertureVa s p off) p with id := s.stamp + 1 } := by
  refine ⟨_, bar2Read_enabled ho hen, ?_⟩
  simp only [State.barRead, State.jobRead_stamp, hr]
  have hs' : Holds (({ s with stamp := s.stamp + 1 } : State).send (.unsupported p)) := hs
  obtain ⟨hstop, hmem, hout⟩ := State.apertureFault_enabled
    (({ s with stamp := s.stamp + 1 } : State).send (.unsupported p)) p (apertureVa s p off) hen hs'
  exact ⟨hout, hmem, hstop⟩

/-! ## BAR2_WRITE -/

theorem exec_bar2Write (s : State) (p off : Nat) (bs : List Byte) :
    exec (.bar2Write p off bs) s = execBar2Write p off bs s := rfl

/-- Where nothing is poisoned or reserved, a write by an agent that is no lane changes memory, and what migrations record. -/
theorem State.pokePhys_quiet {s : State} (hq : Quiet s) (pa : Nat) (bs : List Byte) :
    s.pokePhys pa bs = { s with mem := memPuts s.mem pa bs, migrations := (s.pokePhys pa bs).migrations } := by
  obtain ⟨hpoison, -, haway, hresv⟩ := hq
  have hnone : (s.blocks.any fun b => b.strands.any fun st => st.lanes.any fun l => l.resv.isSome) = false := by
    simp only [List.any_eq_false, Bool.not_eq_true, Option.isSome_eq_false_iff, Option.isNone_iff_eq_none]
    exact hresv
  simp only [State.pokePhys]
  rw [State.noteWritten_only]
  simp [State.cleanUnits, State.clearResv, hpoison, haway, hnone]

/-- An access whose bytes lie in one piece, all of which can be written, is one write. -/
theorem bar2Write_one {s : State} {p off : Nat} {bs : List Byte} {q : Place} (ho : Open s p off bs.length)
    (hseg : segmentsOf (apertureVa s p off) bs.length = [(apertureVa s p off, bs.length)]) (hen : (s.host p).apen = true)
    (hplace : s.placeJob noCore (s.host p).apjob (apertureVa s p off) .write = .ok q) :
    exec (.bar2Write p off bs) s = .next (s.hostWrite ⟨p, (s.host p).apjob, apertureVa s p off, bs⟩) := by
  have hva : (s.host p).aperture off = apertureVa s p off := rfl
  simp only [exec_bar2Write, execBar2Write, State.apertureOpen_of_open ho, hva, hseg, hplace, hen, List.any_cons,
    List.any_nil, List.foldl_cons, List.foldl_nil, Nat.sub_self, List.drop_zero, List.take_length, Bool.not_true,
    Bool.or_false, Bool.false_eq_true, if_false]

/-- A write to an open page of this module's DRAM changes its bytes (R246). -/
theorem bar2Write_writes {s : State} {p off pa : Nat} {bs : List Byte} {lf : Leaf} (ho : Open s p off bs.length)
    (hseg : segmentsOf (apertureVa s p off) bs.length = [(apertureVa s p off, bs.length)]) (hen : (s.host p).apen = true)
    (hplace : s.placeJob noCore (s.host p).apjob (apertureVa s p off) .write = .ok ⟨.phys pa, some lf⟩)
    (hview : lf.view = false) (hq : Quiet s) (hpost : s.posting p = false) (hc : HostsCredited s) :
    ∃ t, exec (.bar2Write p off bs) s = .next t ∧
      t = { s with mem := t.mem, dies := t.dies, migrations := t.migrations } ∧
      ∀ x, memGet t.mem x = if pa ≤ x ∧ x < pa + bs.length then bs.getD (x - pa) 0 else memGet s.mem x := by
  refine ⟨_, bar2Write_one ho hseg hen hplace, ?_⟩
  have hwrite : s.hostWrite ⟨p, (s.host p).apjob, apertureVa s p off, bs⟩ =
      (s.hostTraffic (linesOf (bs.length / 128 + 2) pa bs.length) true).pokePhys pa bs := by
    simp [State.hostWrite, hpost, State.hostShort_none hc, hplace, State.aperturePiece, Place.viewed, hview]
  have hq' : Quiet (s.hostTraffic (linesOf (bs.length / 128 + 2) pa bs.length) true) := by
    rw [State.hostTraffic_only]
    exact hq
  rw [hwrite, State.pokePhys_quiet hq', State.hostTraffic_only]
  exact ⟨rfl, fun x => memGet_puts s.mem pa x bs⟩

/-- A write that meets a page which fails writes nothing, and its record stops the aperture's job. -/
theorem bar2Write_fails {s : State} {p off : Nat} {bs : List Byte} {f : Flaw} (ho : Open s p off bs.length)
    (hseg : segmentsOf (apertureVa s p off) bs.length = [(apertureVa s p off, bs.length)]) (hen : (s.host p).apen = true)
    (hplace : s.placeJob noCore (s.host p).apjob (apertureVa s p off) .write = .error f) (hs : Holds s) :
    ∃ t, exec (.bar2Write p off bs) s = .next t ∧ t.mem = s.mem ∧
      StopsJob s t (s.host p).apjob false (notice s 0x31 3 (s.host p).apjob (apertureVa s p off) p) := by
  refine ⟨s.apertureFault p (apertureVa s p off), ?_, ?_⟩
  · have hva : (s.host p).aperture off = apertureVa s p off := rfl
    simp only [exec_bar2Write, execBar2Write, State.apertureOpen_of_open ho, hva, hseg, hplace, hen, List.any_cons,
      List.any_nil, Bool.not_true, Bool.true_or, Bool.or_true, Bool.false_eq_true, if_false, if_true]
  · obtain ⟨hstop, hmem, -⟩ := s.apertureFault_enabled p (apertureVa s p off) hen hs
    exact ⟨hmem, hstop⟩

end Sys2Proof.Machine

/-! PROOFS. Answers to the module's own reads of the hosts, scan words, and the attestation report (R235, R250, R254, R469). -/

namespace Sys2Proof.Machine

open Sys2Proof Sys2Proof.Spec

/-! ## The end of a host read that a lane waits for (R235, R469) -/

/-- Where no pass is under way an answer lets none take effect. -/
theorem State.settlePasses_idle (s : State) (h : ∀ g ∈ s.grids, g.passing = []) : s.settlePasses = s := by
  have hall : (s.grids.all fun g => g.passing.isEmpty) = true := by
    simp only [List.all_eq_true, List.isEmpty_iff]
    exact h
  simp only [State.settlePasses, hall, if_true]

/-- One lane updated, as the statements say it. -/
theorem State.updLane_laneBecomes (s : State) (k i l : Nat) (f : Lane → Lane) : LaneBecomes s (s.updLane k i l f) k i l f := by
  simp [LaneBecomes, State.updLane, State.updStrand, State.updBlock, Strand.updLane]

/-- What a lane that waits for the read takes from its end. -/
def Lane.takes (r : HostRead) (bs : List Byte) (bad : Bool) (ln : Lane) : Lane :=
  if ln.awaits r.tag then { ln with replies := ln.replies ++ [⟨.host r.port r.addr, bs, bad, false⟩] } else ln

/-- The end of the one read in progress, which a lane made: the lane takes the bytes. -/
theorem State.endHostRead_lane {s : State} {r : HostRead} {k i l : Nat} (hr : s.hostReads = [r]) (hw : r.who = .lane k i l)
    (hp : ∀ g ∈ s.grids, g.passing = []) (bs : List Byte) (bad : Bool) :
    s.endHostRead r bs bad = ({ s with hostReads := [] } : State).updLane k i l (Lane.takes r bs bad) := by
  have hp' : ∀ g ∈ (({ s with hostReads := [] } : State).updLane k i l (Lane.takes r bs bad)).grids, g.passing = [] := hp
  have hgone : (s.hostReads.filter fun q => q.tag != r.tag) = [] := by simp [hr]
  simp only [State.endHostRead, hw, hgone, State.handOver, State.afterReply]
  exact State.settlePasses_idle _ hp'

/-- HOST_READ_COMPLETION with the bytes that were asked for. -/
theorem hostReadCompletion_brings {s : State} {r : HostRead} {k i l : Nat} {bs : List Byte} (hr : s.hostReads = [r])
    (hw : r.who = .lane k i l) (hclocks : s.clocksRun = true) (hp : ∀ g ∈ s.grids, g.passing = [])
    (hn : bs.length = r.bytes) :
    ∃ t, exec (.hostReadCompletion r.tag (some bs)) s = .next t ∧ t = { s with hostReads := [], blocks := t.blocks } ∧
      LaneBecomes s t k i l (Lane.takes r bs false) := by
  refine ⟨s.endHostRead r bs false, ?_, ?_⟩
  · change execHostReadCompletion r.tag (some bs) s = _
    simp [execHostReadCompletion, hr, hclocks, hn]
  · rw [State.endHostRead_lane hr hw hp]
    exact ⟨rfl, State.updLane_laneBecomes { s with hostReads := [] } k i l _⟩

/-- HOST_READ_COMPLETION without bytes, and HOST_READ_TIMEOUT, are the failure of the read. -/
theorem exec_failedRead {s : State} {r : HostRead} {e : Instr} (hr : s.hostReads = [r]) (hclocks : s.clocksRun = true)
    (he : e = Instr.hostReadCompletion r.tag none ∨ (e = Instr.hostReadTimeout r.tag ∧ r.since + 2 ^ 26 ≤ s.coreClock 0)) :
    exec e s = .next (s.failHostRead r) := by
  rcases he with rfl | ⟨rfl, hlate⟩
  · change execHostReadCompletion r.tag none s = _
    simp [execHostReadCompletion, hr, hclocks]
  · change execHostReadTimeout r.tag s = _
    simp only [execHostReadTimeout, hr, State.hostSilent, hclocks, hlate, List.find?_cons_of_pos, BEq.rfl, decide_true,
      Bool.and_self]

/-- A read that fails brings bytes of 0xFF, poisoned, and its record stops the job of the lane (R469). -/
theorem failHostRead_lane {s : State} {r : HostRead} {k i l : Nat} {b : Block} (hr : s.hostReads = [r])
    (hw : r.who = .lane k i l) (hp : ∀ g ∈ s.grids, g.passing = []) (hb : s.block? k = some b) (hjob : s.jobOf b ≠ 0xFFF)
    (hs : Holds s) :
    ∃ u : State, (s.failHostRead r).hostReads = [] ∧
      LaneBecomes s u k i l (Lane.takes r (List.replicate r.bytes 0xFF) true) ∧
      StopsJob { s with blocks := u.blocks } (s.failHostRead r) (s.jobOf b) false
        (notice s 0x31 1 (s.jobOf b) ((r.port + 1) * 2 ^ 40 + r.addr) 0) := by
  let u := ({ s with hostReads := [] } : State).updLane k i l (Lane.takes r (List.replicate r.bytes 0xFF) true)
  have hasker : s.askerJob r.who = s.jobOf b := by simp [hw, State.askerJob, hb]
  have hfail : s.failHostRead r = u.informJob 0x31 1 (s.jobOf b) fun q =>
      { q with addr := BitVec.ofNat 64 ((r.port + 1) * 2 ^ 40 + r.addr) } := by
    simp only [State.failHostRead, hasker, State.endHostRead_lane hr hw hp, beq_eq_false_iff_ne.2 hjob, Bool.false_eq_true,
      if_false, u]
  have hu : Holds u := hs
  rw [hfail]
  obtain ⟨-, -, hreads⟩ := State.informJob_frame u 0x31 1 (s.jobOf b) _ hu
  refine ⟨u, hreads, State.updLane_laneBecomes _ k i l _, ?_⟩
  exact State.informJob_stopsJob u 0x31 1 (s.jobOf b) _ _ hu rfl rfl

/-! ## SCAN_READ (R254) -/

theorem leBytes_zero (n : Nat) : leBytes n 0 = List.replicate n 0 := by
  induction n with
  | zero => rfl
  | succ n ih => simp [leBytes, ih, List.replicate_succ]

/-- The word that a read of SCANDATA takes: a free value of a frozen module, and 0 of one that runs. -/
theorem State.scanWord_cases (s : State) :
    ∃ x k, (if s.mgmt.frozen then s.drawPair else (0, s)) = (x, { s with free := k }) ∧
      (s.mgmt.frozen = false → x = 0 ∧ k = s.free) := by
  cases s.mgmt.frozen with
  | true => exact ⟨s.drawPair.1, s.free + 2, rfl, fun h => nomatch h⟩
  | false => exact ⟨0, s.free, rfl, fun _ => ⟨rfl, rfl⟩⟩

/-- A read of SCANDATA is completed with 8 bytes, and SCANADDR goes on. -/
theorem scanRead_sends {s : State} {p : Nat} (hp : s.portReads p = true) :
    ∃ t bs, exec (.scanRead p) s = .next t ∧
      t = { s with
        hostOut := s.hostOut ++ [.completion p bs]
        mgmt := { s.mgmt with scanaddr := s.mgmt.scanaddr + 1 }
        free := t.free } ∧
      bs.length = 8 ∧ (s.mgmt.frozen = false → bs = List.replicate 8 0 ∧ t.free = s.free) := by
  obtain ⟨x, k, hword, hzero⟩ := s.scanWord_cases
  have hexec : exec (.scanRead p) s = .next { s with
      hostOut := s.hostOut ++ [.completion p (leBytes 8 x.toNat)]
      mgmt := { s.mgmt with scanaddr := s.mgmt.scanaddr + 1 }
      free := k } := by
    change execScanRead p s = _
    simp only [execScanRead, hp, hword, Bool.not_true, Bool.false_eq_true, if_false]
    rfl
  refine ⟨_, _, hexec, rfl, leBytes_length 8 _, fun hf => ?_⟩
  obtain ⟨rfl, hk⟩ := hzero hf
  exact ⟨leBytes_zero 8, hk⟩

/-! ## Attestation (R250, R473, Table 11-10) -/

@[simp] theorem padTo_length (n : Nat) (bs : List Byte) : (padTo n bs).length = n := by simp [padTo]

theorem padTo_of_length {n : Nat} {bs : List Byte} (h : bs.length = n) : padTo n bs = bs := by
  rw [padTo, List.take_left' h]

/-- ATTESTATION_REQUEST: the report is asked for, or cannot be made. -/
theorem attestationRequest_next {s : State} {nonce : List Byte} (hs : s.hostSpeaks = true) (hn : nonce.length = 32) :
    ∃ t, exec (.attestationRequest nonce) s = .next t ∧
      (Config.keyReadable = true →
        t = { s with mgmt := { s.mgmt with nonce := nonce, attReady := false, attBusy := true } }) ∧
      (Config.keyReadable = false →
        t = { s with mgmt := { s.mgmt with nonce := nonce, attReady := false, attBusy := false, attErr := true } }) := by
  refine ⟨s.newNonce nonce, ?_, ?_, ?_⟩
  · change execAttestationRequest nonce s = _
    simp only [execAttestationRequest, hs, if_true]
  all_goals
    intro hk
    simp [State.newNonce, padTo_of_length hn, hk]

/-- Eight primes stand behind the starting value. -/
theorem eight_le_primes : 8 ≤ primes.length := by decide +kernel

theorem shaStart_length : shaStart.length = 8 := by
  rw [shaStart, List.length_map, List.length_take, Nat.min_eq_left eight_le_primes]

theorem shaRounds_length (kws : List (Dword × Dword)) (v : List Dword) (h : v.length = 8) :
    (kws.foldl shaRound v).length = 8 := by
  induction kws generalizing v with
  | nil => exact h
  | cons kw kws ih => exact ih (shaRound v kw) rfl

theorem shaBlock_length (h block : List Dword) (hh : h.length = 8) : (shaBlock h block).length = 8 := by
  simp [shaBlock, hh, shaRounds_length _ h hh]

theorem shaBlocks_length (blocks : List (List Dword)) (h : List Dword) (hh : h.length = 8) :
    (blocks.foldl shaBlock h).length = 8 := by
  induction blocks generalizing h with
  | nil => exact hh
  | cons b blocks ih => exact ih (shaBlock h b) (shaBlock_length h b hh)

/-- A digest has 64 bytes. -/
@[simp] theorem sha512_length (bs : List Byte) : (sha512 bs).length = 64 := by
  have hchain : (shaChain shaStart (bs ++ shaPad bs.length)).length = 8 := shaBlocks_length _ _ shaStart_length
  simp [sha512, shaFinish, chainBytes, beBytes, List.length_flatMap, hchain]

/-- The report before the nonce and the signature (Table 11-10). -/
def State.reportStart (s : State) : List Byte :=
  padTo 16 Config.serial ++ padTo 64 Config.romDigest ++ sha512 s.mgmt.flash.body ++
    s.dies.flatMap fun d => (List.range 5).map fun k => BitVec.ofNat 8 (d.spares.getD k 0)

theorem State.reportStart_length (s : State) (hd : s.dies.length = 4) : s.reportStart.length = 164 := by
  simp [State.reportStart, List.length_flatMap, hd]

/-- The parts of the report, in their order. -/
theorem State.attReport_parts (s : State) :
    ∃ sig, sig.length = 512 ∧ s.attReport = [0x41, 0x54, 1, 1] ++ (s.reportStart ++ (s.mgmt.nonce ++ sig)) := by
  refine ⟨padTo 512 (Config.signature (sha512 ([0x41, 0x54, 1, 1] ++ s.reportStart ++ s.mgmt.nonce))), padTo_length _ _, ?_⟩
  simp only [State.attReport, State.reportStart, List.append_assoc]

/-- ATTESTATION_READY: the report of Table 11-10, with its mark, its length and the nonce in its place. -/
theorem attestationReady_reports {s : State} (hb : s.mgmt.attBusy = true) (hn : s.mgmt.nonce.length = 32)
    (hd : s.dies.length = 4) :
    ∃ t, exec .attestationReady s = .next t ∧
      t = { s with mgmt := { s.mgmt with attBusy := false, attReady := true, report := t.mgmt.report } } ∧
      t.mgmt.report.length = 712 ∧ t.mgmt.report.take 4 = [0x41, 0x54, 1, 1] ∧
      (t.mgmt.report.drop 168).take 32 = s.mgmt.nonce := by
  refine ⟨{ s with mgmt := { s.mgmt with attBusy := false, attReady := true, report := s.attReport } }, ?_, rfl, ?_⟩
  · change execAttestationReady s = _
    simp only [execAttestationReady, hb, if_true]
  · obtain ⟨sig, hsig, hparts⟩ := s.attReport_parts
    have hstart := s.reportStart_length hd
    dsimp only
    rw [hparts]
    refine ⟨by simp [hstart, hn, hsig], by simp, ?_⟩
    have hdrop : ([0x41, 0x54, 1, 1] ++ (s.reportStart ++ (s.mgmt.nonce ++ sig))).drop 168 = s.mgmt.nonce ++ sig := by
      rw [← List.append_assoc]
      exact List.drop_left' (by simp [hstart])
    rw [hdrop]
    exact List.take_left' hn

end Sys2Proof.Machine

/-! PROOFS. What the hosts write to BAR0 (R234, R243 to R245), and the statement of the hosts' accesses. -/

namespace Sys2Proof.Machine

open Sys2Proof Sys2Proof.Spec

/-! ## Bytes of a unit -/

theorem leBytes_eq_map (n x : Nat) : leBytes n x = (List.range n).map fun i => (BitVec.ofNat 8 (x / 256 ^ i) : Byte) := by
  induction n generalizing x with
  | zero => rfl
  | succ n ih =>
    rw [leBytes, ih, List.range_succ_eq_map, List.map_cons, List.map_map, Nat.pow_zero, Nat.div_one]
    congr 1
    refine List.map_congr_left fun i _ => ?_
    simp only [Function.comp_apply, Nat.succ_eq_add_one, Nat.pow_succ']
    rw [Nat.div_div_eq_div_mul]

/-- The bytes of a number, put together again. -/
theorem leNat_bytes (n x : Nat) : leNat ((List.range n).map fun i => (BitVec.ofNat 8 (x / 256 ^ i) : Byte)) = x % 256 ^ n := by
  rw [← leBytes_eq_map, leNat_leBytes]

theorem leNat_append (xs ys : List Byte) : leNat (xs ++ ys) = leNat xs + 256 ^ xs.length * leNat ys := by
  induction xs with
  | nil => simp [leNat]
  | cons b xs ih =>
    simp only [List.cons_append, leNat, ih, List.length_cons, Nat.pow_succ']
    ring

/-- The low word of eight bytes of which the first four are a number's. -/
theorem leNat_low_bytes (f : Nat → Byte) (x : Nat) (h : ∀ i ∈ List.range 4, f i = BitVec.ofNat 8 (x / 256 ^ i)) :
    leNat ((List.range 8).map f) % 2 ^ 32 = x % 2 ^ 32 := by
  have hsplit : List.range 8 = List.range 4 ++ [4, 5, 6, 7] := by decide
  rw [hsplit, List.map_append, leNat_append, List.map_congr_left h, leNat_bytes, List.length_map, List.length_range]
  omega

/-- A write of all eight bytes of a unit leaves nothing of what it held. -/
theorem overlay_full (cur v : Nat) : overlay cur v 255 = v % 2 ^ 64 := by
  have hbytes : ∀ i ∈ List.range 8, (BitVec.ofNat 8 (if bit 255 i then v / 256 ^ i else cur / 256 ^ i) : Byte) =
      BitVec.ofNat 8 (v / 256 ^ i) := by
    intro i hi
    have hbit : ∀ i ∈ List.range 8, bit 255 i = true := by decide
    rw [if_pos (hbit i hi)]
  rw [overlay, List.map_congr_left hbytes, leNat_bytes]
  rfl

/-- A write of the low word of a unit is what the low word of the unit then reads. -/
theorem overlay_low (cur v : Nat) : BitVec.ofNat 32 (overlay cur v 15) = BitVec.ofNat 32 v := by
  have hbit : ∀ i ∈ List.range 4, bit 15 i = true := by decide
  apply BitVec.eq_of_toNat_eq
  rw [BitVec.toNat_ofNat, BitVec.toNat_ofNat, overlay]
  exact leNat_low_bytes _ v fun i hi => by rw [if_pos (hbit i hi)]

/-! ## REGISTER_WRITE as writes of units (R243) -/

/-- The bytes of the unit at `o` that an access of `n` bytes at `off` touches. -/
def hostBytes (off n o : Nat) : List Nat := (List.range 8).filter fun i => decide (off ≤ o + i) && decide (o + i < off + n)

/-- What the access writes to the unit at `o`. -/
def hostValue (off n x o : Nat) : Nat :=
  leNat ((List.range 8).map fun i =>
    if (hostBytes off n o).contains i then (BitVec.ofNat 8 (x / 256 ^ (o + i - off)) : Byte) else 0)

/-- REGISTER_WRITE of a port that answers, as one write for each of nine units. -/
theorem exec_registerWrite {s : State} {p : Nat} (hp : s.portAnswers p = true) {n : Nat} (hn : n ≤ 64) (off : Nat)
    (v : BitVec 512) :
    exec (.registerWrite p off n v) s = .next ((List.range 9).foldl (fun s u =>
      s.writeBar0 p (off / 8 * 8 + 8 * u) (hostValue off n v.toNat (off / 8 * 8 + 8 * u))
        (maskOf (hostBytes off n (off / 8 * 8 + 8 * u)))) s) := by
  change execRegisterWrite p off n v s = _
  simp only [execRegisterWrite, hp, hn, decide_true, Bool.and_self, if_true]
  rfl

theorem hostBytes_after {off n o : Nat} (h : off + n ≤ o) : hostBytes off n o = [] := by
  simp only [hostBytes, List.filter_eq_nil_iff, Bool.and_eq_true, decide_eq_true_eq]
  omega

/-- A write that names no byte does nothing. -/
theorem State.writeBar0_nothing (s : State) (p o v : Nat) : s.writeBar0 p o v (maskOf []) = s := by
  simp [State.writeBar0, maskOf]

/-- An access that lies in one unit is the write of that unit. -/
theorem registerWrite_unit {s : State} {p : Nat} (hp : s.portAnswers p = true) {off n : Nat} (hn : off + n ≤ off / 8 * 8 + 8)
    (v : BitVec 512) :
    exec (.registerWrite p off n v) s =
      .next (s.writeBar0 p (off / 8 * 8) (hostValue off n v.toNat (off / 8 * 8)) (maskOf (hostBytes off n (off / 8 * 8)))) := by
  rw [exec_registerWrite hp (by omega), List.range_succ_eq_map, List.foldl_cons, List.foldl_map]
  have hrest (t : State) (u : Nat) : t.writeBar0 p (off / 8 * 8 + 8 * u.succ) (hostValue off n v.toNat (off / 8 * 8 + 8 * u.succ))
      (maskOf (hostBytes off n (off / 8 * 8 + 8 * u.succ))) = t := by
    rw [hostBytes_after (by omega), State.writeBar0_nothing]
  simp only [hrest, List.foldl_fixed, Nat.mul_zero, Nat.add_zero]

theorem hostBytes_whole (o : Nat) : hostBytes o 8 o = List.range 8 := by
  rw [hostBytes, List.filter_eq_self]
  simp

theorem hostBytes_low (o : Nat) : hostBytes o 4 o = [0, 1, 2, 3] := by
  simp [hostBytes, List.range_succ]

theorem hostBytes_high (o : Nat) : hostBytes (o + 4) 4 o = [4, 5, 6, 7] := by
  simp [hostBytes, List.range_succ]

theorem hostValue_whole (o x : Nat) : hostValue o 8 x o = x % 2 ^ 64 := by
  have hbytes : ∀ i ∈ List.range 8,
      (if (hostBytes o 8 o).contains i then (BitVec.ofNat 8 (x / 256 ^ (o + i - o)) : Byte) else 0) =
      BitVec.ofNat 8 (x / 256 ^ i) := by
    intro i hi
    rw [if_pos (by simpa [hostBytes_whole] using hi), Nat.add_sub_cancel_left]
  rw [hostValue, List.map_congr_left hbytes, leNat_bytes]
  rfl

theorem hostValue_low (o x : Nat) : hostValue o 4 x o % 2 ^ 32 = x % 2 ^ 32 := by
  have hlow : ∀ i ∈ List.range 4, ([0, 1, 2, 3] : List Nat).contains i = true := by decide
  refine leNat_low_bytes _ x fun i hi => ?_
  rw [hostBytes_low, if_pos (hlow i hi), Nat.add_sub_cancel_left]

/-- The low bits of a number are those of the word that holds it. -/
theorem toNat_ofNat_mod {n k : Nat} (x : Nat) (hk : k ≤ n) : (BitVec.ofNat n x).toNat % 2 ^ k = x % 2 ^ k := by
  rw [BitVec.toNat_ofNat, Nat.mod_mod_of_dvd x (pow_dvd_pow 2 hk)]

/-- An access of a whole unit. -/
theorem registerWrite_whole {s : State} {p : Nat} (hp : s.portAnswers p = true) {o : Nat} (ho : 8 ∣ o) (x : Nat) :
    exec (.registerWrite p o 8 (BitVec.ofNat 512 x)) s = .next (s.writeBar0 p o (x % 2 ^ 64) 255) := by
  have hu : o / 8 * 8 = o := Nat.div_mul_cancel ho
  have hmask : maskOf (List.range 8) = 255 := by decide
  rw [registerWrite_unit hp (by omega), hu, hostValue_whole, hostBytes_whole, hmask, toNat_ofNat_mod x (by decide)]

/-- An access of the low word of a unit. -/
theorem registerWrite_low {s : State} {p : Nat} (hp : s.portAnswers p = true) {o : Nat} (ho : 8 ∣ o) (x : Nat) :
    ∃ v, exec (.registerWrite p o 4 (BitVec.ofNat 512 x)) s = .next (s.writeBar0 p o v 15) ∧ v % 2 ^ 32 = x % 2 ^ 32 := by
  have hu : o / 8 * 8 = o := Nat.div_mul_cancel ho
  have hmask : maskOf [0, 1, 2, 3] = 15 := by decide
  refine ⟨hostValue o 4 (BitVec.ofNat 512 x).toNat o, ?_, ?_⟩
  · rw [registerWrite_unit hp (by omega), hu, hostBytes_low, hmask]
  · rw [hostValue_low, toNat_ofNat_mod x (by decide)]

/-- An access of the high word of a unit. -/
theorem registerWrite_high {s : State} {p : Nat} (hp : s.portAnswers p = true) {o : Nat} (ho : 8 ∣ o) (x : Nat) :
    ∃ v, exec (.registerWrite p (o + 4) 4 (BitVec.ofNat 512 x)) s = .next (s.writeBar0 p o v 240) := by
  have hu : (o + 4) / 8 * 8 = o := by omega
  have hmask : maskOf [4, 5, 6, 7] = 240 := by decide
  refine ⟨hostValue (o + 4) 4 (BitVec.ofNat 512 x).toNat o, ?_⟩
  rw [registerWrite_unit hp (by omega), hu, hostBytes_high, hmask]

/-! ## Launch queues (R245) -/

/-- Bytes of a launch queue's registers go to the queue. -/
theorem State.writeBar0_queue (s : State) {p q o v mask : Nat} (hq : q < 64) (ho : o < 32) (hm : mask ≠ 0) :
    s.writeBar0 p (0x1000 + 32 * q + o) v mask = s.writeQueue p q o v mask := by
  have hrange : (decide (0x1000 ≤ 0x1000 + 32 * q + o) && decide (0x1000 + 32 * q + o < 0x1800)) = true := by
    simp only [Bool.and_eq_true, decide_eq_true_eq]
    omega
  have hindex : (0x1000 + 32 * q + o - 0x1000) / 32 = q := by omega
  have hoff : (0x1000 + 32 * q + o) % 32 = o := by omega
  simp only [State.writeBar0, beq_iff_eq, hm, if_false, hrange, if_true, hindex, hoff]

/-- A write of LQDOOR is the doorbell. -/
theorem registerWrite_doorbell {s : State} {p q : Nat} (hp : s.portAnswers p = true) (hq : q < 64) (prod : Nat) :
    exec (.registerWrite p (0x1010 + 32 * q) 4 (BitVec.ofNat 512 prod)) s = exec (.lqdoor p q (BitVec.ofNat 32 prod)) s := by
  obtain ⟨v, hwrite, hv⟩ := registerWrite_low hp (o := 0x1000 + 32 * q + 16) (by omega) prod
  have hprod : BitVec.ofNat 32 (overlay ((s.queue p q).read 16) v 15) = BitVec.ofNat 32 prod := by
    rw [overlay_low]
    exact BitVec.eq_of_toNat_eq (by simpa using hv)
  rw [show 0x1010 + 32 * q = 0x1000 + 32 * q + 16 by omega, hwrite, State.writeBar0_queue s hq (by decide) (by decide)]
  change Host.Outcome.next (s.writeQueue p q 16 v 15) = .next (s.doorbell p q (BitVec.ofNat 32 prod))
  rw [← hprod]
  rfl

/-- A write of a queue's base, while the queue is empty. -/
theorem registerWrite_queueBase {s : State} {p q x : Nat} (hp : s.portAnswers p = true) (hq : q < 64) (hx : x < 2 ^ 52)
    (hempty : (s.queue p q).prod = (s.queue p q).cons) :
    ∃ t, exec (.registerWrite p (0x1000 + 32 * q) 8 (BitVec.ofNat 512 x)) s = .next t ∧
      t = s.updQueue p q fun k => { k with base := x / 128 * 128 } := by
  refine ⟨_, registerWrite_whole hp (by omega) x, ?_⟩
  have hbase : bits (overlay ((s.queue p q).read 0) (x % 2 ^ 64) 255) 7 45 = x / 128 := by
    rw [overlay_full, bits]
    omega
  rw [show 0x1000 + 32 * q = 0x1000 + 32 * q + 0 by omega, State.writeBar0_queue s hq (by decide) (by decide)]
  simp only [State.writeQueue, hempty, BEq.rfl, if_true, hbase]

/-! ## The management block (R234, R244, Table 11-1) -/

/-- The management block takes the primary host's writes, and ignores the other port's. -/
theorem State.writeBar0_mgmt (s : State) {p o v mask : Nat} (ho : o < 0x1000) (hm : mask ≠ 0) :
    s.writeBar0 p (0x800000 + o) v mask = if s.mgmt.primary = p then s.writeMgmt o v mask else s := by
  have hqueues : (decide (0x1000 ≤ 0x800000 + o) && decide (0x800000 + o < 0x1800)) = false := by
    simp only [Bool.and_eq_false_iff, decide_eq_false_iff_not]
    omega
  have hpub : (decide (0x3000 ≤ 0x800000 + o) && decide (0x800000 + o < 0x3040)) = false := by
    simp only [Bool.and_eq_false_iff, decide_eq_false_iff_not]
    omega
  have haperture : (0x800000 + o == 0x3080 || 0x800000 + o == 0x3088) = false := by
    simp only [Bool.or_eq_false_iff, beq_eq_false_iff_ne]
    omega
  have hmgmt : (decide (0x800000 ≤ 0x800000 + o) && decide (0x800000 + o < 0x801000)) = true := by
    simp only [Bool.and_eq_true, decide_eq_true_eq]
    omega
  simp only [State.writeBar0, beq_iff_eq, hm, hqueues, hpub, haperture, hmgmt, Bool.false_eq_true, if_false, if_true,
    Nat.add_sub_cancel_left]

/-- A port that is not the primary host's writes nothing to the management block, whatever it touches of it. -/
theorem registerWrite_not_primary {s : State} {p o n : Nat} (hp : s.portAnswers p = true) (hprim : s.mgmt.primary ≠ p)
    (hlo : 0x800000 ≤ o) (hhi : o + n ≤ 0x801000) (hn : n ≤ 64) (v : BitVec 512) :
    exec (.registerWrite p o n v) s = .next s := by
  rw [exec_registerWrite hp hn]
  congr 1
  have hstep (u : Nat) : s.writeBar0 p (o / 8 * 8 + 8 * u) (hostValue o n v.toNat (o / 8 * 8 + 8 * u))
      (maskOf (hostBytes o n (o / 8 * 8 + 8 * u))) = s := by
    by_cases hu : o / 8 * 8 + 8 * u < 0x801000
    · obtain ⟨a, ha⟩ : ∃ a, o / 8 * 8 + 8 * u = 0x800000 + a := ⟨o / 8 * 8 + 8 * u - 0x800000, by omega⟩
      by_cases hm : maskOf (hostBytes o n (o / 8 * 8 + 8 * u)) = 0
      · simp only [hm, State.writeBar0, BEq.rfl, if_true]
      · rw [ha] at hm ⊢
        rw [State.writeBar0_mgmt s (by omega) hm, if_neg hprim]
    · rw [hostBytes_after (by omega), State.writeBar0_nothing]
  exact List.foldl_fixed' hstep _

section

variable {s : State} {p : Nat} (hp : s.portAnswers p = true) (hprim : s.mgmt.primary = p)

include hp hprim

theorem primary_speaks : s.hostSpeaks = true := by rw [State.hostSpeaks, hprim, hp]

/-- A whole register of the management block written by the primary host. -/
theorem registerWrite_mgmt {o : Nat} (ho : o < 0x1000) (hd : 8 ∣ o) {x : Nat} (hx : x < 2 ^ 64) :
    exec (.registerWrite p (0x800000 + o) 8 (BitVec.ofNat 512 x)) s = .next (s.writeMgmt o x 255) := by
  rw [registerWrite_whole hp (by omega), Nat.mod_eq_of_lt hx, State.writeBar0_mgmt s ho (by decide), if_pos hprim]

/-- The high half of a register whose fields of a command are all in the low half: nothing (R7). -/
theorem registerWrite_beside_command {o : Nat} (ho : o < 0x1000) (hd : 8 ∣ o) (hc : 240 &&& commandBytes o = 0) (x : Nat) :
    exec (.registerWrite p (0x800000 + o + 4) 4 (BitVec.ofNat 512 x)) s = .next s := by
  obtain ⟨v, hwrite⟩ := registerWrite_high hp (o := 0x800000 + o) (by omega) x
  rw [hwrite, State.writeBar0_mgmt s ho (by decide), if_pos hprim]
  simp only [State.writeMgmt, hc, BEq.rfl, if_true]

/-- JOBBASE keeps a multiple of 256 KiB. -/
theorem registerWrite_jobbase {x : Nat} (hx : x < 2 ^ 52) :
    ∃ t, exec (.registerWrite p 0x800020 8 (BitVec.ofNat 512 x)) s = .next t ∧
      t = { s with mgmt := { s.mgmt with jobbase := x / 2 ^ 18 * 2 ^ 18 } } := by
  refine ⟨_, registerWrite_mgmt hp hprim (o := 0x20) (by decide) (by decide) (hx.trans (by decide)), ?_⟩
  have hbase : bits (overlay (s.readMgmt 0x20) x 255) 18 34 = x / 2 ^ 18 := by
    rw [overlay_full, bits]
    omega
  simp [State.writeMgmt, commandBytes, State.updMgmt, hbase]

theorem registerWrite_ringBase {x : Nat} (hx : x < 2 ^ 52) :
    exec (.registerWrite p 0x8000C0 8 (BitVec.ofNat 512 x)) s = exec (.faultRingBase x) s := by
  have hvalue : overlay (s.readMgmt 0xC0) x 255 = x := by rw [overlay_full]; omega
  rw [registerWrite_mgmt hp hprim (o := 0xC0) (by decide) (by decide) (hx.trans (by decide))]
  change _ = execFaultRingBase x s
  simp [State.writeMgmt, commandBytes, hvalue, execFaultRingBase, primary_speaks hp hprim]

theorem registerWrite_ringConsume {x : Nat} (hx : x < 2 ^ 64) :
    exec (.registerWrite p 0x8000D8 8 (BitVec.ofNat 512 x)) s = exec (.faultRingConsume (BitVec.ofNat 64 x)) s := by
  have hvalue : overlay (s.readMgmt 0xD8) x 255 = x := by rw [overlay_full, Nat.mod_eq_of_lt hx]
  rw [registerWrite_mgmt hp hprim (o := 0xD8) (by decide) (by decide) hx]
  change _ = execFaultRingConsume (BitVec.ofNat 64 x) s
  simp [State.writeMgmt, commandBytes, hvalue, execFaultRingConsume, primary_speaks hp hprim]

/-- FCMD: SEQ in its low word, ACT above it (R413). -/
theorem registerWrite_answer {seq act : Nat} (hseq : seq < 2 ^ 32) (hact : act < 4) :
    exec (.registerWrite p 0x8000E8 8 (BitVec.ofNat 512 (seq + act * 2 ^ 32))) s =
      .next (s.answer (BitVec.ofNat 32 seq) act) := by
  have hlow : BitVec.ofNat 32 (seq + act * 2 ^ 32) = BitVec.ofNat 32 seq := by
    apply BitVec.eq_of_toNat_eq
    simp only [BitVec.toNat_ofNat]
    omega
  have hhigh : bits (seq + act * 2 ^ 32) 32 2 = act := by rw [bits]; omega
  have hx : seq + act * 2 ^ 32 < 2 ^ 64 := by omega
  generalize seq + act * 2 ^ 32 = x at *
  have hvalue : overlay 0 x 255 = x := by rw [overlay_full, Nat.mod_eq_of_lt hx]
  rw [registerWrite_mgmt hp hprim (o := 0xE8) (by decide) (by decide) hx]
  simp [State.writeMgmt, commandBytes, hvalue, hlow, hhigh]

theorem registerWrite_abort {job : Nat} (hjob : job < 2 ^ 12) :
    exec (.registerWrite p 0x800148 8 (BitVec.ofNat 512 job)) s = exec (.jobabort job) s := by
  have hx : job < 2 ^ 64 := hjob.trans (by decide)
  have hbits : bits (overlay 0 job 255) 0 12 = job := by rw [overlay_full, bits]; omega
  rw [registerWrite_mgmt hp hprim (o := 0x148) (by decide) (by decide) hx]
  change _ = execJobabort job s
  simp [State.writeMgmt, commandBytes, hbits, execJobabort, primary_speaks hp hprim]

theorem registerWrite_freeze :
    exec (.registerWrite p 0x800060 8 (BitVec.ofNat 512 1)) s = exec .freeze s := by
  have hbit : bit (overlay 0 1 255) 0 = true := by decide
  rw [registerWrite_mgmt hp hprim (o := 0x60) (by decide) (by decide) (by decide)]
  change _ = execFreeze s
  simp [State.writeMgmt, commandBytes, hbit, execFreeze, primary_speaks hp hprim]

/-- The three ACTs of FCMD are the three answers (R413). -/
theorem registerWrite_answers {seq : Nat} (hseq : seq < 2 ^ 32) :
    exec (.registerWrite p 0x8000E8 8 (BitVec.ofNat 512 (seq + 2 ^ 32))) s =
        exec (.faultAnswerResume (BitVec.ofNat 32 seq)) s ∧
      exec (.registerWrite p 0x8000E8 8 (BitVec.ofNat 512 (seq + 2 * 2 ^ 32))) s =
        exec (.faultAnswerAbortBlock (BitVec.ofNat 32 seq)) s ∧
      exec (.registerWrite p 0x8000E8 8 (BitVec.ofNat 512 (seq + 3 * 2 ^ 32))) s =
        exec (.faultAnswerAbortGrid (BitVec.ofNat 32 seq)) s := by
  have hspeaks (act : Nat) : (if s.hostSpeaks then s.answer (BitVec.ofNat 32 seq) act else s) =
      s.answer (BitVec.ofNat 32 seq) act := if_pos (primary_speaks hp hprim)
  refine ⟨?_, ?_, ?_⟩
  · change _ = Host.Outcome.next (if s.hostSpeaks then s.answer (BitVec.ofNat 32 seq) 1 else s)
    rw [hspeaks, ← registerWrite_answer hp hprim hseq (by decide), Nat.one_mul]
  · change _ = Host.Outcome.next (if s.hostSpeaks then s.answer (BitVec.ofNat 32 seq) 2 else s)
    rw [hspeaks, registerWrite_answer hp hprim hseq (by decide)]
  · change _ = Host.Outcome.next (if s.hostSpeaks then s.answer (BitVec.ofNat 32 seq) 3 else s)
    rw [hspeaks, registerWrite_answer hp hprim hseq (by decide)]

/-- Bytes that hold no field of SPARECMD, JOBABORT or SQCMD. -/
theorem registerWrite_no_field : ∀ o ∈ [0x800044, 0x80014C, 0x800184], ∀ x,
    exec (.registerWrite p o 4 (BitVec.ofNat 512 x)) s = .next s := by
  intro o ho x
  simp only [List.mem_cons, List.not_mem_nil, or_false] at ho
  rcases ho with rfl | rfl | rfl
  · exact registerWrite_beside_command hp hprim (o := 0x40) (by decide) (by decide) (by decide) x
  · exact registerWrite_beside_command hp hprim (o := 0x148) (by decide) (by decide) (by decide) x
  · exact registerWrite_beside_command hp hprim (o := 0x180) (by decide) (by decide) (by decide) x

end

/-! ## The statement -/

/-- Settles O58: it holds. Each event of the hosts and each register that the statement names has its lemma above. -/
theorem hostAccesses : Obligations.HostAccesses := by
  unfold Obligations.HostAccesses
  refine ⟨?_, ?_, ?_, ?_, fun s p hp => scanRead_sends hp, fun s nonce hs hn => attestationRequest_next hs hn,
    fun s hb hn hd => attestationReady_reports hb hn hd⟩
  case refine_1 =>
    intro s p off n ho
    exact ⟨fun bs hen hc hr => bar2Read_completes ho hen hc hr, bar2Read_disabled ho,
      fun f hen hr hs => bar2Read_fails ho hen hr hs⟩
  case refine_2 =>
    intro s p off bs ho va job hseg
    exact ⟨fun pa lf hen hplace hview hq hpost hc => bar2Write_writes ho hseg hen hplace hview hq hpost hc,
      fun f hen hplace hs => bar2Write_fails ho hseg hen hplace hs⟩
  case refine_3 =>
    intro s r k i l hr hw hclocks hpass
    refine ⟨fun bs hn => hostReadCompletion_brings hr hw hclocks hpass hn, fun b hb hjob hs e he => ?_⟩
    obtain ⟨u, hdone, hlane, hstop⟩ := failHostRead_lane hr hw hpass hb hjob hs
    exact ⟨_, u, exec_failedRead hr hclocks he, hdone, hlane, hstop⟩
  case refine_4 =>
    intro s p hp _ write
    refine ⟨fun q prod hq => registerWrite_doorbell hp hq prod,
      fun q x hq hx hempty => registerWrite_queueBase hp hq hx hempty, fun hprim => ?_,
      fun hprim o n x hlo hhi _ hn => registerWrite_not_primary hp hprim hlo hhi hn _⟩
    exact ⟨fun x hx => ⟨registerWrite_jobbase hp hprim hx, registerWrite_ringBase hp hprim hx⟩,
      fun x hx => registerWrite_ringConsume hp hprim hx, fun seq hseq => registerWrite_answers hp hprim hseq,
      fun job hjob => registerWrite_abort hp hprim hjob, registerWrite_freeze hp hprim, registerWrite_no_field hp hprim⟩

end Sys2Proof.Machine

/-! PROOFS. Sparing, power and temperature, freezing and scrubbing (R12, R13, R102, R252 to R256, R427, R429, R436, R449,
R450, R466, R474). -/

namespace Sys2Proof.Machine

open Sys2Proof Sys2Proof.Spec

/-! ## Updates of one die -/

theorem State.updDie_updDie (s : State) (d : Nat) (f g : Die → Die) :
    (s.updDie d f).updDie d g = s.updDie d fun x => g (f x) := by
  simp only [State.updDie, List.modify_modify_eq, Function.comp_def]

/-- An update of a die depends on nothing but what it does to that die as it stands. -/
theorem State.updDie_congr (s : State) (d : Nat) {f g : Die → Die} (h : f (s.die d) = g (s.die d)) :
    s.updDie d f = s.updDie d g := by
  have hdies : s.dies.modify d f = s.dies.modify d g := by
    apply List.ext_getElem?
    intro i
    rw [List.getElem?_modify, List.getElem?_modify]
    by_cases hi : d = i
    · subst hi
      cases hx : s.dies[d]? with
      | none => rfl
      | some x =>
        have hdie : s.die d = x := by simp [State.die, List.getD_eq_getElem?_getD, hx]
        simp [← hdie, h]
    · simp [hi]
  simp only [State.updDie, hdies]

/-! ## Sparing (R12, R13, R16, R20, R102, R255, R256) -/

/-- A spare counted on a die, with the count as it stood before. -/
theorem State.countSpare_eq (s : State) (d k : Nat) :
    s.countSpare d k = { s.updDie d (fun x => { x with spares := (s.die d).spares.modify k fun n => n + 1 }) with
      mgmt := { s.mgmt with spareBusy := true } } := by
  rw [← s.updDie_congr d (f := fun x => { x with spares := x.spares.modify k fun n => n + 1 }) rfl]
  rfl

/-- A spare counted on a die whose map has just changed. -/
theorem State.countSpare_updDie (s : State) (d k : Nat) {f : Die → Die} (hf : (f (s.die d)).spares = (s.die d).spares) :
    (s.updDie d f).countSpare d k =
      { s.updDie d (fun x => { f x with spares := (s.die d).spares.modify k fun n => n + 1 }) with
        mgmt := { s.mgmt with spareBusy := true } } := by
  have hcount : (s.updDie d f).updDie d (fun x => { x with spares := x.spares.modify k fun n => n + 1 }) =
      s.updDie d fun x => { f x with spares := (s.die d).spares.modify k fun n => n + 1 } :=
    (s.updDie_updDie d f _).trans (s.updDie_congr d (by simp only [hf]))
  simp only [State.countSpare, hcount, State.updDie_mgmt]

/-- Of a die's two spare pairs one is left: it takes the pair's place, and the blocks on the two cores are asked to leave. -/
theorem State.spare_pair {s : State} {d unit : Nat} (ports : List Nat) (hu : unit < 16) (hleft : (s.die d).spares.getD 0 0 < 2) :
    s.spare 0 d unit ports = some
      { s.updDie d (fun x => { x with
          spares := (s.die d).spares.modify 0 fun n => n + 1
          pairs := x.pairs.set unit (16 + (s.die d).spares.getD 0 0) }) with
        mgmt := { s.mgmt with spareBusy := true, sparing := [32 * d + 2 * unit, 32 * d + 2 * unit + 1] }
        blocks := s.blocks.map fun b =>
          if b.core ∈ [32 * d + 2 * unit, 32 * d + 2 * unit + 1] ∧ b.resident = true then b.stopFor .spare else b } := by
  simp only [State.spare, decide_eq_false (Nat.not_le.2 hu), decide_eq_false (Nat.not_le.2 hleft), Bool.or_self,
    Bool.false_eq_true, if_false, State.clearCores, Bool.and_eq_true, List.contains_iff_mem]
  rw [s.countSpare_updDie d 0 rfl]
  rfl

theorem State.spare_pair_none {s : State} {d unit : Nat} (ports : List Nat)
    (h : 16 ≤ unit ∨ 2 ≤ (s.die d).spares.getD 0 0) : s.spare 0 d unit ports = none := by
  simp only [State.spare, Bool.or_eq_true, decide_eq_true_eq, h, if_true]

/-- Physical bank 127 is not in use on the core: it takes the bank's place. -/
theorem State.spare_bank {s : State} {d unit : Nat} (ports : List Nat) (hc : unit / 128 < 32) (hb : unit % 128 < 127)
    (hleft : 127 ∉ (s.core (32 * d + unit / 128)).banks) :
    s.spare 1 d unit ports = some
      { (s.updCore (32 * d + unit / 128) fun c => { c with banks := c.banks.set (unit % 128) 127 }).updDie d
          (fun x => { x with spares := (s.die d).spares.modify 1 fun n => n + 1 }) with
        mgmt := { s.mgmt with spareBusy := true } } := by
  have hbanks : (s.core (32 * d + unit / 128)).banks.contains 127 = false := by simpa using hleft
  simp only [State.spare, decide_eq_false (Nat.not_le.2 hc), decide_eq_false (Nat.not_le.2 hb), hbanks, Bool.or_self,
    Bool.false_eq_true, if_false, State.countSpare_eq]
  rfl

/-- Physical slice 32 is not in use: it takes the slice's place, whose dirty lines are written back. -/
theorem State.spare_slice {s : State} {d unit : Nat} (ports : List Nat) (hu : unit < 32) (hleft : 32 ∉ (s.die d).slices) :
    s.spare 2 d unit ports = some
      { s.updDie d (fun x => { x with
          spares := (s.die d).spares.modify 2 fun n => n + 1
          slices := x.slices.set unit 32
          l2 := x.l2.map fun y => if sliceOf (y.line * 128) = unit then { y with dirty := false } else y }) with
        mgmt := { s.mgmt with spareBusy := true } } := by
  have hslices : (s.die d).slices.contains 32 = false := by simpa using hleft
  have hcommute (u : State) (m : Mgmt) (f : Die → Die) :
      ({ u with mgmt := m } : State).updDie d f = { u.updDie d f with mgmt := m } := rfl
  simp only [State.spare, decide_eq_false (Nat.not_le.2 hu), hslices, Bool.or_self, Bool.false_eq_true, if_false]
  rw [s.countSpare_updDie d 2 rfl, hcommute, State.updDie_updDie]
  simp only [Die.cleanSlice, beq_iff_eq]

/-- The die has spared no pseudo-channel yet: the first spare of the stack takes the channel's place. -/
theorem State.spare_channel {s : State} {d unit : Nat} (ports : List Nat) (hu : unit < 1024) (hnone : (s.die d).channels = []) :
    s.spare 3 d unit ports = some
      { s.updDie d (fun x => { x with
          spares := (s.die d).spares.modify 3 fun n => n + 1
          channels := [(unit, 512)] }) with
        mgmt := { s.mgmt with spareBusy := true } } := by
  have hused : (s.die d).channelsUsed (unit / 512) = 0 := by rw [Die.channelsUsed, hnone]; rfl
  have hput : cellsPut (unit % 512) unit (512 + 0) (s.die d).channels = [(unit, 512)] := by
    rw [hnone, cellsPut, if_neg (by omega)]
    rfl
  simp only [State.spare, hused, decide_eq_false (Nat.not_le.2 hu), show decide (32 ≤ 0) = false from rfl, Bool.or_self,
    Bool.false_eq_true, if_false]
  rw [s.countSpare_updDie d 3 rfl, s.updDie_congr d (g := fun x => { x with
    spares := (s.die d).spares.modify 3 fun n => n + 1
    channels := [(unit, 512)] }) (by rw [hput])]

/-- A port of the die can replace the port: it is marked as the port's spare. -/
theorem State.spare_port {s : State} {d unit q : Nat} (hu : unit < 6)
    (hq : s.sparePort (6 * d + unit) ((List.range 6).map fun i => 6 * d + i) = some q) :
    s.spare 4 d unit ((List.range 6).map fun i => 6 * d + i) = some
      { s.updDie d (fun x => { x with spares := (s.die d).spares.modify 4 fun n => n + 1 }) with
        mgmt := { s.mgmt with spareBusy := true }
        fabric := { s.fabric with ports := s.fabric.ports.modify q fun x => { x with marked := true } } } := by
  have hdie : q / 6 = d := by
    obtain ⟨i, hi, rfl⟩ := List.mem_map.1 (List.mem_of_find?_eq_some hq)
    have := List.mem_range.1 hi
    omega
  simp only [State.spare, hu, if_true, hq, hdie, State.countSpare_eq]
  rfl

/-- A unit spared leaves the count of records and the module's number alone. -/
theorem State.spare_frame {s t : State} {kind d unit : Nat} {ports : List Nat} (h : s.spare kind d unit ports = some t) :
    t.stamp = s.stamp ∧ t.mgmt.dev = s.mgmt.dev := by
  unfold State.spare at h
  dsimp only at h
  split at h
  case h_1 | h_2 | h_3 | h_4 =>
    split at h
    · cases h
    · cases h
      exact ⟨rfl, rfl⟩
  case h_5 =>
    split at h
    · cases h
    · cases h
      exact ⟨rfl, rfl⟩
  case h_6 => cases h

theorem State.forgetWear_frame (s : State) (kind die unit : Nat) :
    (s.forgetWear kind die unit).stamp = s.stamp ∧ (s.forgetWear kind die unit).mgmt = s.mgmt := by
  unfold State.forgetWear
  split <;> exact ⟨rfl, rfl⟩

/-! ### SPARECMD (R255) -/

/-- A command to spare a unit, of a kind and die that there are, while no other is in progress. -/
theorem State.hostSpare_idle {s : State} {kind die : Nat} (hs : s.hostSpeaks = true) (hidle : s.mgmt.spareBusy = false)
    (hkind : kind < 5) (hdie : die < 4) (unit : Nat) :
    s.hostSpare kind die unit = (s.spare kind die unit ((List.range 6).map fun i => 6 * die + i)).getD s.noSpare := by
  simp only [State.hostSpare, hs, State.spareCommand, hidle, decide_eq_false (Nat.not_le.2 hkind),
    decide_eq_false (Nat.not_le.2 hdie), Bool.or_self, Bool.false_eq_true, if_false, if_true]

theorem State.hostSpare_takes {s t : State} {kind die unit : Nat} (hs : s.hostSpeaks = true) (hidle : s.mgmt.spareBusy = false)
    (hkind : kind < 5) (hdie : die < 4) (ht : s.spare kind die unit ((List.range 6).map fun i => 6 * die + i) = some t) :
    s.hostSpare kind die unit = t := by
  rw [State.hostSpare_idle hs hidle hkind hdie, ht, Option.getD_some]

/-- A command that comes while another is in progress is ignored. -/
theorem State.hostSpare_busy {s : State} (hs : s.hostSpeaks = true) (hbusy : s.mgmt.spareBusy = true) (kind die unit : Nat) :
    s.hostSpare kind die unit = s := by
  simp only [State.hostSpare, hs, State.spareCommand, hbusy, Bool.true_or, if_true]

/-- Every sparing command is the write of its kind to SPARECMD. -/
theorem exec_spareCommands (s : State) (die unit : Nat) :
    exec (.spareCorePair die unit) s = .next (s.hostSpare 0 die unit) ∧
      exec (.spareScratchpadBank die unit) s = .next (s.hostSpare 1 die unit) ∧
      exec (.spareL2Slice die unit) s = .next (s.hostSpare 2 die unit) ∧
      exec (.sparePseudoChannel die unit) s = .next (s.hostSpare 3 die unit) ∧
      exec (.spareFabricPort die unit) s = .next (s.hostSpare 4 die unit) :=
  ⟨rfl, rfl, rfl, rfl, rfl⟩

/-! ### The controller's own sparing (R449, R450, R466) -/

section AutoSpare

variable {s : State} {kind die unit : Nat} (hclocks : s.clocksRun = true) (hidle : s.mgmt.spareBusy = false)
  (hworn : (kind, die, unit) ∈ s.wornUnits)

include hclocks hidle hworn

/-- A worn unit that has a spare is spared, and a record tells which. -/
theorem autoSpare_spares {v : State} (hv : (s.forgetWear kind die unit).spare kind die unit (List.range 24) = some v) :
    ∃ t, exec (.autoSpare kind die unit) s = .next t ∧
      Informs v t (notice s 0x1A 3 0xFFF 0 (kind + die * 2 ^ 3 + unit * 2 ^ 5)) := by
  obtain ⟨hstamp, hdev⟩ := State.spare_frame hv
  obtain ⟨hstamp', hmgmt⟩ := s.forgetWear_frame kind die unit
  refine ⟨v.inform 0x1A 3 fun r => { r with info := BitVec.ofNat 32 (kind + die * 2 ^ 3 + unit * 2 ^ 5) }, ?_, ?_⟩
  · change execAutoSpare kind die unit s = _
    simp only [execAutoSpare, hclocks, hidle, List.contains_iff_mem.2 hworn, hv, Bool.not_true, Bool.or_self,
      Bool.false_eq_true, if_false]
  · have hinf := v.inform_informs 0x1A 3
      (fun r => { r with info := BitVec.ofNat 32 (kind + die * 2 ^ 3 + unit * 2 ^ 5) }) rfl
    rw [hstamp, hdev, hstamp', hmgmt] at hinf
    exact hinf

/-- A worn unit without a spare sets SPARENONE, and a record tells that there was none. -/
theorem autoSpare_none (hv : (s.forgetWear kind die unit).spare kind die unit (List.range 24) = none) :
    ∃ t, exec (.autoSpare kind die unit) s = .next t ∧
      Informs (s.forgetWear kind die unit).noSpare t (notice s 0x1A 4 0xFFF 0 0) := by
  obtain ⟨hstamp, hmgmt⟩ := s.forgetWear_frame kind die unit
  refine ⟨(s.forgetWear kind die unit).noSpare.inform 0x1A 4 fun r => r, ?_, ?_⟩
  · change execAutoSpare kind die unit s = _
    simp only [execAutoSpare, hclocks, hidle, List.contains_iff_mem.2 hworn, hv, Bool.not_true, Bool.or_self,
      Bool.false_eq_true, if_false]
  · have hinf := (s.forgetWear kind die unit).noSpare.inform_informs 0x1A 4 (fun r => r) rfl
    simp only [State.noSpare, hstamp, hmgmt] at hinf ⊢
    exact hinf

end AutoSpare

/-- A sparing action is over once no block is left on the cores that it clears (R256). -/
theorem spareDone_ends {s : State} (hleft : ∀ b ∈ s.blocks, b.resident = true → b.core ∉ s.mgmt.sparing) :
    exec .spareDone s = .next { s with mgmt := { s.mgmt with spareBusy := false, sparing := [] } } := by
  have hnone : (s.blocks.any fun b => b.resident && s.mgmt.sparing.contains b.core) = false := by
    simpa only [List.any_eq_false, Bool.and_eq_true, List.contains_iff_mem, not_and] using hleft
  change execSpareDone s = _
  rw [execSpareDone, hnone]
  rfl

/-! ## FREEZE (R253) -/

/-- A frozen module's clocks do not run. -/
theorem State.freeze_clocksRun (s : State) : s.freeze.clocksRun = false := by
  simp [State.freeze, State.clocksRun]

theorem State.tick_stopped {s : State} (h : s.clocksRun = false) (n : Nat) : s.tick n = s := by
  simp only [State.tick, h, Bool.false_eq_true, if_false]

end Sys2Proof.Machine

/-! PROOFS. The millisecond's check of power and temperature, the hold and the trip (R252, R253, R474). -/

namespace Sys2Proof.Machine

open Sys2Proof Sys2Proof.Spec

/-! ## Budgets lowered (R252) -/

/-- The least budget is not lowered. -/
theorem lowerBudget_one {b : BitVec 24 × Bool} (h : b.1 = 1) (x : Nat) : lowerBudget b x = b := by
  simp [lowerBudget, h]

/-- Any other budget becomes one below it, where 0 stands for the unlimited one above all. -/
theorem lowerBudget_below {b : BitVec 24 × Bool} (h : b.1 ≠ 1) (x : Nat) :
    ∃ y, 0 < y ∧ y < 2 ^ 24 ∧ (b.1 = 0 ∨ y < b.1.toNat) ∧ lowerBudget b x = (BitVec.ofNat 24 y, b.2) := by
  have hlt := b.1.isLt
  by_cases hzero : b.1 = 0
  · have hy : x % (2 ^ 24 - 1) < 2 ^ 24 - 1 := Nat.mod_lt _ (by decide)
    exact ⟨1 + x % (2 ^ 24 - 1), by omega, by omega, .inl hzero, by simp [lowerBudget, hzero]⟩
  · have hpos : b.1.toNat ≠ 0 := fun h0 => hzero (BitVec.eq_of_toNat_eq h0)
    have hne : b.1.toNat ≠ 1 := fun h1 => h (BitVec.eq_of_toNat_eq h1)
    have hy : x % (b.1.toNat - 1) < b.1.toNat - 1 := Nat.mod_lt _ (by omega)
    refine ⟨1 + x % (b.1.toNat - 1), by omega, by omega, .inr (by omega), ?_⟩
    simp only [lowerBudget, beq_iff_eq, hzero, hne, if_false]

/-- A budget that is lowered goes down, but not to 0, which would be unlimited. -/
theorem lowerBudget_lowered (b : BitVec 24 × Bool) (x : Nat) : Lowered b (lowerBudget b x) := by
  by_cases hone : b.1 = 1
  · rw [lowerBudget_one hone]
    exact ⟨rfl, id, by rw [hone]; decide, fun h => absurd hone h⟩
  · obtain ⟨y, hpos, hlt, hbelow, hlow⟩ := lowerBudget_below hone x
    have hval : (BitVec.ofNat 24 y).toNat = y := Nat.mod_eq_of_lt hlt
    rw [hlow]
    refine ⟨rfl, fun h => absurd h hone, fun h => ?_, fun _ => hbelow.imp id fun h => by rwa [BitVec.lt_def, hval]⟩
    have hzero := congrArg BitVec.toNat h
    rw [hval] at hzero
    exact hpos.ne' hzero

/-- The budgets of classes 1 to `n` lowered, by free values from the `k`-th on. -/
def lowerClasses (k n : Nat) (bs : List (BitVec 24 × Bool)) : List (BitVec 24 × Bool) :=
  (List.range n).foldl (fun bs c => bs.modify (c + 1) fun b => lowerBudget b (Config.freeWord (k + c)).toNat) bs

theorem lowerClasses_succ (k n : Nat) (bs : List (BitVec 24 × Bool)) :
    lowerClasses k (n + 1) bs =
      (lowerClasses k n bs).modify (n + 1) fun b => lowerBudget b (Config.freeWord (k + n)).toNat := by
  simp only [lowerClasses, List.range_succ, List.foldl_append, List.foldl_cons, List.foldl_nil]

@[simp] theorem lowerClasses_length (k n : Nat) (bs : List (BitVec 24 × Bool)) : (lowerClasses k n bs).length = bs.length := by
  induction n with
  | zero => rfl
  | succ n ih => rw [lowerClasses_succ, List.length_modify, ih]

/-- Each of the classes 1 to `n` is lowered once, and no other. -/
theorem lowerClasses_getElem? (k n c : Nat) (bs : List (BitVec 24 × Bool)) :
    (lowerClasses k n bs)[c]? =
      if 1 ≤ c ∧ c ≤ n then bs[c]?.map fun b => lowerBudget b (Config.freeWord (k + (c - 1))).toNat else bs[c]? := by
  induction n with
  | zero => rw [if_neg (by omega)]; rfl
  | succ n ih =>
    rw [lowerClasses_succ, List.getElem?_modify, ih]
    by_cases hc : n + 1 = c
    · subst hc
      simp
    · have hrange : (1 ≤ c ∧ c ≤ n + 1) = (1 ≤ c ∧ c ≤ n) := propext (by omega)
      simp only [hc, hrange, if_false]
      exact id_map' _
/-- One step down of a die's budgets, by free values from the `k`-th on. -/
def Die.lower (d : Die) (k : Nat) : Die :=
  { d with lowered := d.budgetNext :: d.lowered, budgetNext := lowerClasses k 6 d.budgetNext }

/-- Each class that is lowered takes a free value. -/
theorem State.lowerClasses_eq (s : State) (d n : Nat) :
    (List.range n).foldl (fun s c =>
      let (k, s) := s.draw
      s.updDie d fun x => { x with budgetNext := x.budgetNext.modify (c + 1) fun b => lowerBudget b (Config.freeWord k).toNat }) s =
    { s.updDie d (fun x => { x with budgetNext := lowerClasses s.free n x.budgetNext }) with free := s.free + n } := by
  induction n with
  | zero =>
    have hid : s.updDie d (fun x => { x with budgetNext := lowerClasses s.free 0 x.budgetNext }) = s := by
      change { s with dies := s.dies.modify d id } = s
      rw [List.modify_id]
    rw [hid]
    rfl
  | succ n ih =>
    rw [List.range_succ, List.foldl_append, ih]
    simp only [lowerClasses_succ]
    exact congrArg (fun u : State => { u with free := s.free + (n + 1) }) (s.updDie_updDie d _ _)

theorem State.lowerDie_eq (s : State) (d : Nat) :
    s.lowerDie d = { s.updDie d (fun x => x.lower s.free) with free := s.free + 6 } := by
  rw [State.lowerDie, State.lowerClasses_eq, State.updDie_updDie]
  rfl

/-- The dies from 0 on lowered, six free values for each. -/
theorem State.lowerDies_eq (s : State) (n : Nat) :
    (List.range n).foldl State.lowerDie s =
      { s with
        dies := s.dies.mapIdx fun i x => if i < n then x.lower (s.free + 6 * i) else x
        free := s.free + 6 * n } := by
  induction n with
  | zero =>
    have hid : (s.dies.mapIdx fun i x => if i < 0 then x.lower (s.free + 6 * i) else x) = s.dies := by
      simp [List.mapIdx_eq_iff]
    rw [hid]
    rfl
  | succ n ih =>
    have hdies : (s.dies.mapIdx fun i x => if i < n then x.lower (s.free + 6 * i) else x).modify n
        (fun x => x.lower (s.free + 6 * n)) = s.dies.mapIdx fun i x => if i < n + 1 then x.lower (s.free + 6 * i) else x := by
      apply List.ext_getElem?
      intro i
      rw [List.getElem?_modify, List.getElem?_mapIdx, List.getElem?_mapIdx]
      by_cases hi : n = i
      · subst hi
        simp
      · have : (i < n) = (i < n + 1) := propext (by omega)
        simp [hi, this]
    rw [List.range_succ, List.foldl_append, ih, List.foldl_cons, List.foldl_nil, State.lowerDie_eq, State.updDie, hdies]
    rfl

/-! ## POWER_THERMAL_CHECK (R252) -/

theorem withinMargins_iff (w tj : Nat) : withinMargins w tj = true ↔ w * 100 ≤ 2400 * 95 ∧ tj * 100 ≤ 95 * 95 := by
  simp [withinMargins]

/-- Beyond a limit the clock goes down a step, and so do the budgets of all dies. -/
theorem powerThermalCheck_over {w tj : Nat} (hover : 2400 < w ∨ 95 < tj) (s : State) (tin : Nat) :
    exec (.powerThermalCheck w tj tin) s = .next { s with
      mgmt := { s.mgmt.sense w tj tin with
        clockSteps := Min.min (Max.max Config.lowestStep s.mgmt.clockSteps) (s.mgmt.clockSteps + 1)
        throttled := true }
      dies := s.dies.mapIdx fun i x => if i < 4 then x.lower (s.free + 6 * i) else x
      free := s.free + 6 * 4 } := by
  have hlim : overLimits w tj = true := by simpa [overLimits] using hover
  change execPowerThermalCheck w tj tin s = _
  simp only [execPowerThermalCheck, hlim, if_true, State.lowerDies_eq]
  rfl

/-- Within the limits, and 100 ms within the margins: the clock and the budgets come back a step. -/
theorem powerThermalCheck_restores {w tj : Nat} (hw : w ≤ 2400) (htj : tj ≤ 95) {s : State} {tin : Nat}
    (hcalm : 100 ≤ (s.mgmt.sense w tj tin).calm) (hthr : s.mgmt.throttled = true) :
    exec (.powerThermalCheck w tj tin) s = .next { s with
      dies := s.dies.map Die.restore
      mgmt := { s.mgmt.sense w tj tin with
        clockSteps := s.mgmt.clockSteps - 1
        throttled := decide (1 < s.mgmt.clockSteps) || (s.dies.map Die.restore).any fun d => !d.lowered.isEmpty } } := by
  have hlim : overLimits w tj = false := by simp [overLimits, hw, htj]
  have hthr' : (s.mgmt.sense w tj tin).throttled = true := hthr
  change execPowerThermalCheck w tj tin s = _
  simp only [execPowerThermalCheck, hlim, hcalm, hthr', decide_true, Bool.and_self, Bool.false_eq_true, if_false, if_true]
  rfl

/-- Within the limits otherwise: only what the readings come to changes. -/
theorem powerThermalCheck_senses {w tj : Nat} (hw : w ≤ 2400) (htj : tj ≤ 95) {s : State} {tin : Nat}
    (hstill : (s.mgmt.sense w tj tin).calm < 100 ∨ s.mgmt.throttled = false) :
    exec (.powerThermalCheck w tj tin) s = .next { s with mgmt := s.mgmt.sense w tj tin } := by
  have hlim : overLimits w tj = false := by simp [overLimits, hw, htj]
  have hno : (decide (100 ≤ (s.mgmt.sense w tj tin).calm) && (s.mgmt.sense w tj tin).throttled) = false := by
    rcases hstill with h | h
    · rw [decide_eq_false (by omega), Bool.false_and]
    · exact (congrArg _ h).trans (Bool.and_false _)
  change execPowerThermalCheck w tj tin s = _
  simp only [execPowerThermalCheck, hlim, hno, Bool.false_eq_true, if_false]

/-- What the readings come to, as the statements say it. -/
theorem Mgmt.sense_eq (m : Mgmt) (w tj tin : Nat) : m.sense w tj tin =
    { m with
      watts := w
      tj := tj
      tin := tin
      calm := if w * 100 ≤ 2400 * 95 ∧ tj * 100 ≤ 95 * 95 then m.calm + 1 else 0
      hot := if 105 ≤ tj then m.hot + 1 else 0
      strained := if 2400 < w ∧ Config.lowestStep ≤ m.clockSteps then m.strained + 1 else 0 } := by
  simp only [Mgmt.sense, Bool.and_eq_true, decide_eq_true_eq, withinMargins_iff]

/-- A die that the check has lowered: each of the classes 1 to 6 of a whole table is lowered, class 0 is not. -/
theorem Die.lower_budgets (d : Die) (k : Nat) (h : d.budgetNext.length = 7) :
    (d.lower k).budgetNext.length = 7 ∧ (d.lower k).budgetNext[0]? = d.budgetNext[0]? ∧
      ∀ c, 1 ≤ c → c ≤ 6 → ∀ x y, d.budgetNext[c]? = some x → (d.lower k).budgetNext[c]? = some y → Lowered x y := by
  refine ⟨(lowerClasses_length k 6 _).trans h, ?_, fun c hlo hhi x y hx hy => ?_⟩
  · rw [Die.lower, lowerClasses_getElem?, if_neg (by omega)]
  · rw [Die.lower, lowerClasses_getElem?, if_pos ⟨hlo, hhi⟩, hx, Option.map_some, Option.some.injEq] at hy
    exact hy ▸ lowerBudget_lowered x _

/-- The check's step down, of one die. -/
theorem die_lowered {s t : State} {d n : Nat} (hd : d < n) (hlen : n ≤ s.dies.length)
    (ht : t.dies = s.dies.mapIdx fun i x => if i < n then x.lower (s.free + 6 * i) else x) :
    t.die d = (s.die d).lower (s.free + 6 * d) := by
  have hlt : d < s.dies.length := by omega
  simp [State.die, ht, List.getD_eq_getElem?_getD, hlt, hd]

/-- Whether a die still has budgets to restore. -/
theorem any_lowered_iff (ds : List Die) : (ds.any fun d => !d.lowered.isEmpty) = true ↔ ∃ d ∈ ds, d.lowered ≠ [] := by
  simp

/-! ## The hold and the trip (R474) -/

/-- A hold begins: every block is asked to leave its core. -/
theorem thermalHold_begins {s : State} (hoff : s.mgmt.hold = false) (hdue : 10 ≤ s.mgmt.hot ∨ 100 ≤ s.mgmt.strained)
    (hirq : s.mgmt.thIrq = false) :
    exec .thermalHold s = .next { s with
      mgmt := { s.mgmt with hold := true, holdSeen := true }
      blocks := s.blocks.map fun b => b.stopFor .hold } := by
  have hdue' : (decide (10 ≤ s.mgmt.hot) || decide (100 ≤ s.mgmt.strained)) = true := by simpa using hdue
  change execThermalHold s = _
  simp only [execThermalHold, State.thermalIrq, hoff, hdue', hirq, Bool.not_true, Bool.or_self, Bool.false_eq_true, if_false]

/-- A hold keeps blocks from becoming resident. -/
theorem State.jobOpen_of_hold {s : State} (h : s.mgmt.hold = true) (job : Nat) : s.jobOpen job = false := by
  simp [State.jobOpen, h]

theorem thermalHoldRelease_ends {s : State} (hcalm : 1000 ≤ s.mgmt.calm) :
    exec .thermalHoldRelease s = .next { s with mgmt := { s.mgmt with hold := false } } := by
  change execThermalHoldRelease s = _
  rw [execThermalHoldRelease, if_pos hcalm]

/-- The message of THEVT, with its vector on and the primary's port in service. -/
theorem State.thermalIrq_sends {s : State} (hirq : s.mgmt.thIrq = true) (hport : s.portGone s.mgmt.primary = false) :
    s.thermalIrq = s.send (.msix s.mgmt.primary s.mgmt.thVec) := by
  rw [State.thermalIrq, if_pos hirq, State.msix, hport]
  rfl

/-- A trip freezes the module, and sends THEVT's message to the primary's port. -/
theorem thermalTrip_freezes {s : State} (hoff : s.mgmt.trip = false) (hdue : 115 ≤ s.mgmt.tj ∨ 45 ≤ s.mgmt.tin)
    (hirq : s.mgmt.thIrq = true) (hport : s.portGone s.mgmt.primary = false) :
    exec .thermalTrip s = .next { s with
      mgmt := { s.mgmt with trip := true, frozen := true }
      hostOut := s.hostOut ++ [.msix s.mgmt.primary s.mgmt.thVec] } := by
  have hdue' : (decide (115 ≤ s.mgmt.tj) || decide (45 ≤ s.mgmt.tin)) = true := by simpa using hdue
  change execThermalTrip s = _
  rw [execThermalTrip, hoff, hdue']
  exact congrArg Host.Outcome.next
    (State.thermalIrq_sends (s := { s with mgmt := { s.mgmt with trip := true, frozen := true } }) hirq hport)

end Sys2Proof.Machine

/-! PROOFS. The scrubbers of registers and of memory (R427, R429, R436, R449). -/

namespace Sys2Proof.Machine

open Sys2Proof Sys2Proof.Spec

/-! ## REGISTER_SCRUB (R427, R429) -/

/-- The word of a register poisoned (R427). -/
def Strand.poisonReg (st : Strand) (l r : Nat) : Strand := st.setReg l r { st.reg l r with full := true, poison := true }

def Block.poisonReg (b : Block) (i l r : Nat) : Block := { b with strands := b.strands.modify i (Strand.poisonReg · l r) }

/-- Poisoning a word leaves the strand's lanes and its other words alone. -/
theorem Block.reg_poisonReg {b : Block} {i l r : Nat} (hi : i < b.strands.length) (hr : r < 256) :
    ((b.poisonReg i l r).strand i).lanes = (b.strand i).lanes ∧
      ∀ l' r', r' < 256 → ((b.poisonReg i l r).strand i).reg l' r' =
        if l' = l ∧ r' = r then { (b.strand i).reg l r with full := true, poison := true } else (b.strand i).reg l' r' := by
  rw [Block.poisonReg, Block.strand_modify_self b i (Strand.poisonReg · l r) hi]
  exact ⟨rfl, fun l' r' hr' => Strand.reg_setReg _ l r l' r' _ hr hr'⟩

section Register

variable {s : State} {b : Block} {i l r : Nat} (hb : s.block? b.key = some b) (hclocks : s.clocksRun = true)
  (hrun : b.state = .running) (hr : r < 256) (hregs : r < b.regs) (hi : i < b.strands.length) (hl : l < (b.strand i).width)

include hb hclocks hrun hr hregs hi hl

/-- An allocated register of a running strand is scrubbed: its word is lost if it cannot be corrected, and the event is counted
of its core. -/
theorem exec_registerScrub (fate : EccFate) :
    exec (.registerScrub b.key i (regKey l r) fate) s = .next (match fate with
      | .corrected => Wears s (b.core / 32) 0 (b.core % 32) Wear.correct fun d => { d with regce := d.regce + 1 }
      | .uncorrectable =>
        Wears (s.updBlock b.key (Block.poisonReg · i l r)) (b.core / 32) 0 (b.core % 32) Wear.fail fun d =>
          { d with regue := d.regue + 1 }) := by
  have hres : b.resident = true := by rw [Block.resident, hrun]
  have hlane : regKey l r / 256 = l := by unfold regKey; omega
  have hreg : regKey l r % 256 = r := by unfold regKey; omega
  change execRegisterScrub b.key i (regKey l r) fate s = _
  simp only [execRegisterScrub, hb, hclocks, hres, hlane, hreg, decide_eq_false (Nat.not_le.2 hi),
    decide_eq_false (Nat.not_le.2 hl), decide_eq_false (Nat.not_le.2 hregs), Bool.not_true, Bool.or_self,
    Bool.false_eq_true, if_false, State.wearCore, State.updDie_updDie]
  cases fate <;> rfl

/-- An error that is corrected is counted. -/
theorem registerScrub_corrects :
    ∃ t, exec (.registerScrub b.key i (regKey l r) .corrected) s = .next t ∧
      t = Wears s (b.core / 32) 0 (b.core % 32) (fun w => { w with corrected := w.corrected + 1 }) fun d =>
        { d with regce := d.regce + 1 } :=
  ⟨_, exec_registerScrub hb hclocks hrun hr hregs hi hl .corrected, rfl⟩

/-- An error that cannot be corrected is counted, and poisons its word alone. -/
theorem registerScrub_poisons :
    ∃ t c, exec (.registerScrub b.key i (regKey l r) .uncorrectable) s = .next t ∧
      t = { Wears s (b.core / 32) 0 (b.core % 32) (fun w => { w with fatal := w.fatal + 1 })
          (fun d => { d with regue := d.regue + 1 }) with blocks := t.blocks } ∧
      t.block? b.key = some c ∧ (∀ j, j ≠ i → c.strand j = b.strand j) ∧
      (∀ k, k ≠ b.key → t.block? k = s.block? k) ∧
      (c.strand i).lanes = (b.strand i).lanes ∧
      ∀ l' r', r' < 256 → (c.strand i).reg l' r' =
        if l' = l ∧ r' = r then { (b.strand i).reg l r with full := true, poison := true } else (b.strand i).reg l' r' := by
  refine ⟨_, b.poisonReg i l r, exec_registerScrub hb hclocks hrun hr hregs hi hl .uncorrectable, rfl, ?_,
    fun j hj => Block.strand_modify_other b i j _ hj,
    fun k hk => s.block?_updBlock_other b.key k (Block.poisonReg · i l r) (fun _ => rfl) hk, Block.reg_poisonReg hi hr⟩
  exact (s.block?_updBlock_self b.key (Block.poisonReg · i l r) fun _ => rfl).trans
    (congrArg (Option.map (Block.poisonReg · i l r)) hb)

end Register

/-! ## PATROL_SCRUB (R436, R449) -/

/-- A unit counted as lost, and the record of it. -/
theorem State.scrubMark_informs (s : State) (d kind unit : Nat) (addr : Dword) :
    Informs (Wears s d kind unit (fun w => { w with fatal := w.fatal + 1 }) fun d => { d with memue := d.memue + 1 })
      ((s.updDie d fun x => x.wearOut kind unit Wear.fail).scrubMark d addr)
      { notice s 0x1A 1 0xFFF 0 0 with die := d, addr := addr } := by
  rw [State.scrubMark, State.updDie_updDie]
  exact State.inform_informs (Wears s d kind unit Wear.fail fun d => { d with memue := d.memue + 1 }) 0x1A 1
    (fun r => { r with die := d, addr := addr }) rfl

/-- A 32-byte unit of DRAM, not poisoned before, that the scrubber marks. -/
def State.markUnit (s : State) (d kind unit a : Nat) : State :=
  (({ s with poison := s.poison ++ [a / 32] } : State).updDie d fun x => x.wearOut kind unit Wear.fail).scrubMark d
    (BitVec.ofNat 64 a)

theorem State.markUnit_informs (s : State) (d kind unit a : Nat) :
    Informs { Wears s d kind unit (fun w => { w with fatal := w.fatal + 1 }) (fun d => { d with memue := d.memue + 1 }) with
        poison := s.poison ++ [a / 32] } (s.markUnit d kind unit a) { notice s 0x1A 1 0xFFF a 0 with die := d } :=
  State.scrubMark_informs { s with poison := s.poison ++ [a / 32] } d kind unit (BitVec.ofNat 64 a)

section Patrol

variable {s : State} (hclocks : s.clocksRun = true)

include hclocks

/-- A unit of DRAM is corrected. -/
theorem patrolScrub_dram_corrects (a : Nat) :
    exec (.patrolScrub (.dram a) .corrected) s = .next (s.mended (dieOfAddr a) 3 (channelOf a)) := by
  change execPatrolScrub (.dram a) .corrected s = _
  simp only [execPatrolScrub, hclocks, Bool.not_true, Bool.false_eq_true, if_false]

/-- A unit of DRAM is lost. -/
theorem patrolScrub_dram_marks {a : Nat} (hclean : a / 32 ∉ s.poison) :
    exec (.patrolScrub (.dram a) .uncorrectable) s = .next (s.markUnit (dieOfAddr a) 3 (channelOf a) a) := by
  change execPatrolScrub (.dram a) .uncorrectable s = _
  simp only [execPatrolScrub, hclocks, Bool.not_true, Bool.false_eq_true, if_false, List.contains_iff_mem, hclean]
  rfl

section L2

variable {die a : Nat} {x : L2Line} (hx : (s.die die).l2.find? (fun y => y.line == a / 128) = some x)

include hx

/-- A unit of a line of an L2 is corrected. -/
theorem patrolScrub_l2_corrects :
    exec (.patrolScrub (.l2 die a) .corrected) s = .next (s.mended die 2 (sliceOf a)) := by
  change execPatrolScrub (.l2 die a) .corrected s = _
  simp only [execPatrolScrub, hclocks, hx, Bool.not_true, Bool.false_eq_true, if_false]

/-- A damaged unit of a clean line is fetched again. -/
theorem patrolScrub_l2_refetches (hclean : x.dirty = false) :
    exec (.patrolScrub (.l2 die a) .uncorrectable) s = .next (s.mended die 2 (sliceOf a)) := by
  change execPatrolScrub (.l2 die a) .uncorrectable s = _
  simp only [execPatrolScrub, hclocks, hx, hclean, Bool.not_true, Bool.false_eq_true, if_false]

/-- A damaged unit of a dirty line is lost. -/
theorem patrolScrub_l2_marks (hdirty : x.dirty = true) (hclean : a / 32 ∉ s.poison) :
    exec (.patrolScrub (.l2 die a) .uncorrectable) s = .next (s.markUnit die 2 (sliceOf a) a) := by
  change execPatrolScrub (.l2 die a) .uncorrectable s = _
  simp only [execPatrolScrub, hclocks, hx, hdirty, Bool.not_true, Bool.false_eq_true, if_false, if_true,
    List.contains_iff_mem, hclean]
  rfl

end L2

section Scratchpad

variable {b : Block} (hb : s.block? b.key = some b) (o : Nat)

include hb

/-- A word of a scratchpad is corrected. -/
theorem patrolScrub_scratch_corrects :
    exec (.patrolScrub (.scratch b.key o) .corrected) s =
      .next (s.mended (b.core / 32) 1 (b.core % 32 * 128 + bankOf o)) := by
  change execPatrolScrub (.scratch b.key o) .corrected s = _
  simp only [execPatrolScrub, hclocks, hb, Bool.not_true, Bool.false_eq_true, if_false]
  rfl

/-- A word of a scratchpad is lost; its record, which the ring does not take, is held. -/
theorem patrolScrub_scratch_marks (hs : Holds s) (hclean : (b.key, o / 8) ∉ s.padPoison) :
    ∃ t addr, exec (.patrolScrub (.scratch b.key o) .uncorrectable) s = .next t ∧
      t = { Wears s (b.core / 32) 1 (b.core % 32 * 128 + bankOf o) (fun w => { w with fatal := w.fatal + 1 })
          (fun d => { d with memue := d.memue + 1 }) with
        padPoison := s.padPoison ++ [(b.key, o / 8)]
        held := [{ notice s 0x1A 1 0xFFF 0 0 with die := b.core / 32, addr := addr }]
        stamp := s.stamp + 1
        free := s.free + 2 } := by
  let u : State := { s with padPoison := s.padPoison ++ [(b.key, o / 8)], free := s.free + 2 }
  obtain ⟨hheld, -⟩ := u.scrubMark_informs (b.core / 32) 1 (b.core % 32 * 128 + bankOf o) s.drawPair.1
  refine ⟨_, s.drawPair.1, ?_, hheld hs.1 hs.2⟩
  change execPatrolScrub (.scratch b.key o) .uncorrectable s = _
  simp only [execPatrolScrub, hclocks, hb, Bool.not_true, Bool.false_eq_true, if_false, List.contains_iff_mem, hclean]
  rfl

end Scratchpad

end Patrol

end Sys2Proof.Machine

/-! PROOFS. The module's housekeeping (O59), put together. -/

namespace Sys2Proof.Machine

open Sys2Proof Sys2Proof.Spec

/-- Settles O59: it holds. Each event of the module's housekeeping has its lemmas above. -/
theorem housekeeping : Obligations.Housekeeping := by
  unfold Obligations.Housekeeping
  refine ⟨?sparing, ?busy, ?auto, fun s hleft => ⟨_, spareDone_ends hleft, rfl⟩, ?freeze, ?check,
    fun s hoff hdue hirq => ⟨_, thermalHold_begins hoff hdue hirq, rfl, State.jobOpen_of_hold rfl⟩,
    fun s hcalm => ⟨_, thermalHoldRelease_ends hcalm, rfl⟩,
    fun s hoff hdue hirq hport => ⟨_, thermalTrip_freezes hoff hdue hirq hport, rfl⟩, ?registers, ?patrol, ?scratchpad⟩
  case sparing =>
    intro s die unit hs hidle _ hdie d busy none' one used cores
    obtain ⟨hpair, hbank, hslice, hchannel, hport⟩ := exec_spareCommands s die unit
    have takes {kind : Nat} {t : State} (hkind : kind < 5)
        (ht : s.spare kind die unit ((List.range 6).map fun i => 6 * die + i) = some t) :
        Host.Outcome.next (s.hostSpare kind die unit) = (.next t : Result) :=
      congrArg _ (State.hostSpare_takes hs hidle hkind hdie ht)
    refine ⟨fun hu hused => ⟨_, hpair.trans (takes (by decide) (State.spare_pair _ hu hused)), rfl⟩,
      fun hnone => ⟨_, hpair, ?_⟩,
      fun hc hb _ hleft => ⟨_, hbank.trans (takes (by decide) (State.spare_bank _ hc hb hleft)), rfl⟩,
      fun hu hleft => ⟨_, hslice.trans (takes (by decide) (State.spare_slice _ hu hleft)), rfl⟩,
      fun hu hnone => ⟨_, hchannel.trans (takes (by decide) (State.spare_channel _ hu hnone)), rfl⟩,
      fun q hu hq => ⟨_, hport.trans (takes (by decide) (State.spare_port hu hq)), rfl⟩⟩
    rw [State.hostSpare_idle hs hidle (by decide) hdie, State.spare_pair_none _ hnone]
    rfl
  case busy =>
    intro s die unit hs hbusy
    simpa only [State.hostSpare_busy hs hbusy] using exec_spareCommands s die unit
  case auto =>
    intro s kind die unit hclocks hidle hworn u
    exact ⟨fun v hv => autoSpare_spares hclocks hidle hworn hv, autoSpare_none hclocks hidle hworn⟩
  case freeze =>
    intro s hs
    have hstop := s.freeze_clocksRun
    exact ⟨s.freeze, congrArg Host.Outcome.next (if_pos hs), rfl, hstop, State.tick_stopped hstop⟩
  case check =>
    intro s w tj tin hlen calm
    have hcalm : (s.mgmt.sense w tj tin).calm = calm := by rw [Mgmt.sense_eq]
    by_cases hover : 2400 < w ∨ 95 < tj
    · refine ⟨_, powerThermalCheck_over hover s tin, rfl, by simp [hlen], by rw [Mgmt.sense_eq],
        fun _ => ⟨rfl, rfl, fun d hd => ?_⟩, by omega, by omega⟩
      rw [die_lowered hd hlen.ge rfl]
      exact ⟨rfl, Die.lower_budgets _ _⟩
    · have hw : w ≤ 2400 := by omega
      have htj : tj ≤ 95 := by omega
      by_cases hback : 100 ≤ calm ∧ s.mgmt.throttled = true
      · obtain ⟨hlong, hthr⟩ := hback
        refine ⟨_, powerThermalCheck_restores hw htj (hcalm ▸ hlong) hthr, rfl, by simp [hlen], by rw [Mgmt.sense_eq],
          fun h => absurd h hover, fun _ _ _ _ => ⟨rfl, rfl, ?_, rfl⟩, fun _ _ h => ?_⟩
        · rw [Bool.or_eq_true, decide_eq_true_eq, any_lowered_iff]
        · rcases h with h | h
          · omega
          · simp [hthr] at h
      · have hstill : calm < 100 ∨ s.mgmt.throttled = false := by
          rw [not_and_or, Bool.not_eq_true] at hback
          exact hback.imp_left not_le.1
        exact ⟨_, powerThermalCheck_senses hw htj (hcalm ▸ hstill), rfl, hlen, by rw [Mgmt.sense_eq],
          fun h => absurd h hover, fun _ _ hlong hthr => absurd ⟨hlong, hthr⟩ hback, fun _ _ _ => ⟨rfl, rfl, rfl, rfl⟩⟩
  case registers =>
    intro s b i l r hb hclocks hrun hr hregs hi hl die
    exact ⟨registerScrub_corrects hb hclocks hrun hr hregs hi hl, registerScrub_poisons hb hclocks hrun hr hregs hi hl⟩
  case patrol =>
    intro s a die x hclocks hx home counted marked
    exact ⟨⟨_, patrolScrub_dram_corrects hclocks a, rfl⟩, ⟨_, patrolScrub_l2_corrects hclocks hx, rfl⟩,
      fun hclean => ⟨_, patrolScrub_l2_refetches hclocks hx hclean, rfl⟩,
      fun hnew => ⟨_, patrolScrub_dram_marks hclocks hnew, s.markUnit_informs _ _ _ a⟩,
      fun hdirty hnew => ⟨_, patrolScrub_l2_marks hclocks hx hdirty hnew, s.markUnit_informs _ _ _ a⟩⟩
  case scratchpad =>
    intro s b o hclocks hb die bank
    exact ⟨⟨_, patrolScrub_scratch_corrects hclocks hb o, rfl⟩, patrolScrub_scratch_marks hclocks hb o⟩

end Sys2Proof.Machine

/-! PROOFS. The step of a strand whose unit the front end refuses (R257, R414): what its issue records as the next address. -/

namespace Sys2Proof.Machine

open Sys2Proof Sys2Proof.Spec

/-! ## A refused unit at 2^30 -/

/-- The only block of `State.reset.probe`. -/
def probeBlock : Block := Block.start (probeGrid 0 false) 1 0 0 .root [⟨0, 0, 256⟩]

/-- The probe with a unit of a reserved BIT function at its program counter: 0x01 SUB 0. -/
def refusedProbe : State := State.reset.probe 0xE0608085

/-- The probe when its strand's turn begins. -/
def refusedTurn : State := ({ refusedProbe with agenda := [] }).tick 1

/-- The strand with its timers brought up to date. -/
def refusedStrand : Strand := ((refusedTurn.gang probeBlock 0).map fun g => g.1).getD Strand.absent

/-- The probe with the issue slot taken. -/
def refusedSlot : State := refusedTurn.takeSlot probeBlock 0 refusedStrand true

/-- The probe when its unit has been fetched, with the issue that the statement records: the next address 0. -/
def refusedUnit : State :=
  { refusedSlot.noteFetch probeBlock (refusedSlot.codePieces probeBlock 0x40000000 0xE0608085#64) with
    cur := ⟨1, 0, List.range 8, 0x40000000, 0, 0, none⟩ }

theorem refusedTurn_issues :
    refusedTurn.block? 1 = some probeBlock ∧ (probeBlock.strand 0).run = none ∧ refusedTurn.mayIssue probeBlock = true ∧
    refusedTurn.gang probeBlock 0 = some (refusedStrand, 0x40000000, List.range 8) := by
  refine ⟨?_, ?_, ?_, ?_⟩ <;> decide +kernel

/-- The bits of a unit that has been read. -/
def Fetched.bits? : Fetched → Option (BitVec 64)
  | .unit y => some y
  | .bad _ | .away _ _ => none

theorem Fetched.bits?_eq_some {f : Fetched} {y : BitVec 64} (h : f.bits? = some y) : f = .unit y := by
  cases f with
  | unit x => exact congrArg Fetched.unit (Option.some.inj h)
  | bad _ | away _ _ => cases h

theorem refusedSlot_fetches :
    refusedSlot.fetchUnit probeBlock 0 (List.range 8) 0x40000000 = .unit 0xE0608085#64 ∧
    refusedSlot.codeShort probeBlock (refusedSlot.codePieces probeBlock 0x40000000 0xE0608085#64) = none ∧
    checkUnit 0xE0608085#64 (0x40000000 % 8 == 0) = some (1, 0) :=
  ⟨Fetched.bits?_eq_some (by decide +kernel), by decide +kernel, by decide +kernel⟩

/-! ## What its step records -/

/-- The outcome is a next state of which `p` holds. -/
def nextHas (p : State → Bool) : Result → Bool
  | .next t => p t
  | .fault _ | .refused _ => false

theorem exists_next_of_nextHas {p : State → Bool} {r : Result} (h : nextHas p r = true) : ∃ t, r = .next t ∧ p t = true := by
  cases r with
  | next t => exact ⟨t, rfl, h⟩
  | fault _ | refused _ => cases h

/-- The step's issue has the unit's own address as its next address. -/
theorem step_refusedProbe : nextHas (fun t => t.cur.next == 0x40000000) (step refusedProbe) = true := by
  decide +kernel

/-- ILLEGAL_ENCODING stops the block, and keeps the next address of the issue. -/
theorem exec_refusedUnit :
    nextHas (fun t => t.cur.next == 0 && (t.block? 1).map (fun c => c.stops) != some probeBlock.stops)
      (exec (.illegalEncoding 1 0 0x40000000) refusedUnit) = true := by
  decide +kernel

/-- Refutes O48 in its clause on refused units: it records 0 as the next address of the issue, where the model records the
unit's own address. `refusedProbe` steps to a state whose issue has the next address 0x40000000; ILLEGAL_ENCODING, run as the
statement says, stops the block and leaves the next address 0. -/
theorem not_stepRunsTheDecodedInstruction : ¬ Obligations.StepRunsTheDecodedInstruction := by
  unfold Obligations.StepRunsTheDecodedInstruction
  intro h
  obtain ⟨hissue, -, -⟩ := h
  obtain ⟨hblock, hrun, hmay, hgang⟩ := refusedTurn_issues
  obtain ⟨hfetch, hshort, hcheck⟩ := refusedSlot_fetches
  obtain ⟨t, hexec, ht⟩ := exists_next_of_nextHas exec_refusedUnit
  simp only [Bool.and_eq_true, beq_iff_eq, bne_iff_ne] at ht
  obtain ⟨hzero, hfaulted⟩ := ht
  obtain ⟨-, hrefused⟩ := hissue refusedProbe 1 1 0 [] probeBlock refusedStrand 0x40000000 (List.range 8) 0xE0608085#64
    rfl hblock hrun hmay hgang hfetch hshort
  obtain ⟨hstep, -⟩ := hrefused 1 0 hcheck t hexec
  obtain ⟨u, hu, hnext⟩ := exists_next_of_nextHas step_refusedProbe
  have htu : t = u := Host.Outcome.next.inj ((hstep (.inl hfaulted)).symm.trans hu)
  rw [beq_iff_eq, ← htu, hzero] at hnext
  exact absurd hnext (by decide)

end Sys2Proof.Machine

/-! PROOFS. A TLB invalidation sends buffered stores, and a port whose transmit slot has reached KSWITCH with the other slot not
loaded writes a record when it sends one (R119, R233, R463). -/

namespace Sys2Proof.Machine

open Sys2Proof Sys2Proof.Spec

/-! ## An invalidation that writes a record -/

/-- A port in service to module 1, whose current slot has counted up to its KSWITCH of 16 and whose other slot is not loaded. -/
def FabPort.keyDue (q : FabPort) : FabPort :=
  { q with
    trained := true, insvc := true, peer := 1, txval := 1, kswitch := 16
    tx := q.tx.modify 0 fun k => { k with ctr := 16 } }

/-- The byte 7 of a store of job 1 to line 0 of module 1, not yet sent. -/
def bufferedStore : WcbEntry :=
  { dev := 1, line := 0, va := 2 ^ 30, job := 1, view := none, bytes := [(0, some 7)], since := 0, sent := none, writers := [] }

/-- The module after its boot, port 0 the direct route to module 1, with that store in the buffer of core 0. -/
def keyDueState : State :=
  { State.reset with
    mgmt := { State.reset.mgmt with boot := 3 }
    cores := State.reset.cores.modify 0 fun c => { c with wcb := [bufferedStore] }
    fabric := { State.reset.fabric with
      ports := State.reset.fabric.ports.modify 0 FabPort.keyDue
      routes := State.reset.fabric.routes.map fun r => r.set 1 ⟨1, 0, true⟩ } }

theorem keyDueState_mayInvalidate :
    keyDueState.clocksRun = true ∧ 0 < keyDueState.dies.length ∧ (keyDueState.die 0).tlbiBusy = false := by
  decide +kernel

/-- The store leaves on port 0, and before it the record 0x22 SUB 1 of R463. -/
theorem keyDueState_tlbi_records :
    (keyDueState.tlbi 0 0 3).held.map (fun r => (r.cls, r.sub)) = [(0x22, 1)] := by
  decide +kernel

theorem exec_tlbiAll {s : State} (hclocks : s.clocksRun = true) (die : Nat) :
    exec (.tlbiAll die) s = .next (s.tlbi die 0 3) :=
  congrArg Host.Outcome.next (if_pos hclocks)

/-- Refutes O55 in its clause on TLBI: it lets an invalidation change the cores, the dies and the fabric alone. An invalidation
sends the buffered stores (R119), and the flit that `keyDueState` sends finds its port's slot at KSWITCH with the other slot not
loaded, of which R463 has the port write the record 0x22 SUB 1: the held records, empty before, change. -/
theorem not_timersAndTranslations : ¬ Obligations.TimersAndTranslations := by
  unfold Obligations.TimersAndTranslations
  intro h
  obtain ⟨-, -, -, -, -, -, -, -, -, htlbi, -⟩ := h
  obtain ⟨-, -, hall⟩ := htlbi 0 0
  obtain ⟨hclocks, hdie, hidle⟩ := keyDueState_mayInvalidate
  obtain ⟨t, hexec, hframe, -⟩ := hall keyDueState hclocks hdie hidle
  have hnone : t.held = [] := by rw [hframe]; rfl
  have ht : keyDueState.tlbi 0 0 3 = t := by
    rw [exec_tlbiAll hclocks] at hexec
    exact Host.Outcome.next.inj hexec
  have hrecord := keyDueState_tlbi_records
  rw [ht, hnone] at hrecord
  exact absurd hrecord (by decide)

end Sys2Proof.Machine

/-! PROOFS. Doorbells, and the scheduler's reading of launch records (R55, R56, R62, R236, R240, R245, Table 3-1). -/

namespace Sys2Proof.Machine

open Sys2Proof Sys2Proof.Spec

/-! ## Host ports and their queues -/

theorem State.host_updHost_self {s : State} {p : Nat} (hp : p < s.hosts.length) (f : HostPort → HostPort) :
    (s.updHost p f).host p = f (s.host p) := by
  simp [State.host, State.updHost, List.getD_eq_getElem?_getD, hp]

theorem State.host_updHost_other (s : State) {p p' : Nat} (h : p' ≠ p) (f : HostPort → HostPort) :
    (s.updHost p f).host p' = s.host p' := by
  simp [State.host, State.updHost, List.getD_eq_getElem?_getD, Ne.symm h]

theorem State.queue_updQueue_self {s : State} {p q : Nat} (hp : p < s.hosts.length) (hq : q < (s.host p).queues.length)
    (f : Queue → Queue) : (s.updQueue p q f).queue p q = f (s.queue p q) := by
  rw [State.queue, State.updQueue, State.host_updHost_self hp]
  simp [State.queue, List.getD_eq_getElem?_getD, hq]

theorem State.queue_updQueue_other (s : State) {p q p' q' : Nat} (h : p' ≠ p ∨ q' ≠ q) (f : Queue → Queue) :
    (s.updQueue p q f).queue p' q' = s.queue p' q' := by
  by_cases hp : p' = p
  · subst hp
    have hq : q ≠ q' := Ne.symm (h.resolve_left (by simp))
    by_cases hlen : p' < s.hosts.length
    · rw [State.queue, State.updQueue, State.host_updHost_self hlen]
      simp [State.queue, List.getD_eq_getElem?_getD, hq]
    · rw [State.updQueue, State.updHost, List.modify_eq_self (by omega)]
  · rw [State.queue, State.updQueue, State.host_updHost_other s hp, State.queue]

/-- Both ports and each of their 64 queues are listed. -/
theorem queue_listed {s : State} (hw : PortsWhole s) {p q : Nat} (hp : p < 2) (hq : q < 64) :
    p < s.hosts.length ∧ q < (s.host p).queues.length := by
  obtain ⟨hlen, hqueues⟩ := hw
  have hlt : p < s.hosts.length := by omega
  refine ⟨hlt, ?_⟩
  rw [State.host, List.getD_eq_getElem _ _ hlt, hqueues _ (List.getElem_mem hlt)]
  exact hq

theorem State.portGone_eq_false {s : State} {p : Nat} (hgone : (s.host p).gone = false) (hperst : (s.host p).perst = false) :
    s.portGone p = false := by
  rw [State.portGone, hgone, hperst]
  rfl

/-! ## LQDOOR (R56, R240, R245) -/

theorem Queue.ring_stamps (q : Queue) (prod : Word) (stamp : Nat) :
    (q.ring prod stamp).stamps =
      q.stamps.take (min (prod - q.cons).toNat (2 ^ q.log2n)) ++
        List.replicate (min (prod - q.cons).toNat (2 ^ q.log2n) - q.stamps.length) stamp := rfl

theorem Queue.ring_stamps_length (q : Queue) (prod : Word) (stamp : Nat) :
    (q.ring prod stamp).stamps.length = min (prod - q.cons).toNat (2 ^ q.log2n) := by
  rw [Queue.ring_stamps, List.length_append, List.length_take, List.length_replicate]
  omega

/-- Records that a doorbell before this one has covered keep their places in the arrival order. -/
theorem Queue.ring_stamps_kept {q : Queue} {prod : Word} {stamp i : Nat} (hold : i < q.stamps.length)
    (hnow : i < (q.ring prod stamp).stamps.length) : (q.ring prod stamp).stamps[i]? = q.stamps[i]? := by
  rw [Queue.ring_stamps_length] at hnow
  rw [Queue.ring_stamps, List.getElem?_append_left (by simp only [List.length_take]; omega), List.getElem?_take_of_lt hnow]

/-- Records that this doorbell is the first to cover take its place. -/
theorem Queue.ring_stamps_new {q : Queue} {prod : Word} {stamp i : Nat} (hold : q.stamps.length ≤ i)
    (hnow : i < (q.ring prod stamp).stamps.length) : (q.ring prod stamp).stamps[i]? = some stamp := by
  rw [Queue.ring_stamps_length] at hnow
  rw [Queue.ring_stamps, List.take_of_length_le (by omega), List.getElem?_append_right hold,
    List.getElem?_replicate_of_lt (by omega)]

theorem exec_lqdoor (s : State) (p q : Nat) (prod : Word) : exec (.lqdoor p q prod) s = .next (s.doorbell p q prod) := rfl

theorem State.doorbell_before_run {s : State} (hboot : s.mgmt.boot ≠ 3) (p q : Nat) (prod : Word) :
    s.doorbell p q prod = s := by
  simp [State.doorbell, hboot]

theorem State.doorbell_rings {s : State} {p q : Nat} (hboot : s.mgmt.boot = 3) (hopen : s.portGone p = false) (hp : p < 2)
    (hq : q < 64) (prod : Word) :
    s.doorbell p q prod = s.updQueue p q fun x => x.ring prod (s.doorbellPlace p q) := by
  have hp' : ¬ 2 ≤ p := by omega
  have hq' : ¬ 64 ≤ q := by omega
  simp [State.doorbell, hboot, hopen, hp', hq']

/-! ## The fields of a record in memory (Table 3-1) -/

theorem memBytes_add (m : Memory) (a n k : Nat) : memBytes m a (n + k) = memBytes m a n ++ memBytes m (a + n) k := by
  induction n generalizing a with
  | zero => simp [memBytes]
  | succ n ih =>
    rw [Nat.succ_add, memBytes, ih, memBytes, List.cons_append, show a + 1 + n = a + (n + 1) by omega]

theorem memNat_add (m : Memory) (a n k : Nat) : memNat m a (n + k) = memNat m a n + 256 ^ n * memNat m (a + n) k := by
  rw [memNat, memBytes_add, leNat_append, memBytes_length]
  rfl

theorem memNat_lt (m : Memory) (a n : Nat) : memNat m a n < 256 ^ n := by
  simpa [memNat] using leNat_lt (memBytes m a n)

theorem memNat_div_pow (m : Memory) (a o n : Nat) : memNat m a (o + n) / 256 ^ o = memNat m (a + o) n := by
  rw [memNat_add, Nat.add_mul_div_left _ _ (by positivity), Nat.div_eq_of_lt (memNat_lt m a o), Nat.zero_add]

theorem memNat_mod_pow (m : Memory) (a k n : Nat) : memNat m a (k + n) % 256 ^ k = memNat m a k := by
  rw [memNat_add, Nat.add_mul_mod_self_left, Nat.mod_eq_of_lt (memNat_lt m a k)]

/-- A field of `w` bits that lies, from bit `i` on, in the `k` bytes at offset `o`. -/
theorem bits_memNat (m : Memory) (a : Nat) {n o k i w : Nat} (hk : o + k ≤ n) (hw : i + w ≤ 8 * k) :
    bits (memNat m a n) (8 * o + i) w = memNat m (a + o) k / 2 ^ i % 2 ^ w := by
  obtain ⟨r, rfl⟩ := Nat.exists_eq_add_of_le hk
  have hpow : 2 ^ (8 * o + i) = 256 ^ o * 2 ^ i := by rw [pow_add, pow_mul]; rfl
  have hdvd : 2 ^ i * 2 ^ w ∣ 256 ^ k := by
    rw [← pow_add, show 256 = 2 ^ 8 by rfl, ← pow_mul]
    exact pow_dvd_pow 2 hw
  rw [bits, hpow, ← Nat.div_div_eq_div_mul, Nat.add_assoc, memNat_div_pow, ← memNat_mod_pow m (a + o) k r,
    ← Nat.mod_mul_right_div_self, ← Nat.mod_mul_right_div_self, Nat.mod_mod_of_dvd _ hdvd]

/-- A field of whole bytes. -/
theorem bits_memNat_bytes (m : Memory) (a : Nat) {n o k : Nat} (hk : o + k ≤ n) :
    bits (memNat m a n) (8 * o) (8 * k) = memNat m (a + o) k := by
  have h := bits_memNat m a (i := 0) (w := 8 * k) hk (by omega)
  rw [Nat.add_zero, pow_zero, Nat.div_one, pow_mul] at h
  exact h.trans (Nat.mod_eq_of_lt (memNat_lt m (a + o) k))

/-- A flag in the byte at offset `o`. -/
theorem bit_memNat (m : Memory) (a : Nat) {n o i : Nat} (hn : o + 1 ≤ n) (hi : i < 8) :
    bit (memNat m a n) (8 * o + i) = (memNat m (a + o) 1).testBit i := by
  have h : memNat m a n / 2 ^ (8 * o + i) % 2 = memNat m (a + o) 1 / 2 ^ i % 2 := bits_memNat m a (w := 1) hn (by omega)
  rw [bit, h, Nat.testBit_eq_decide_div_mod_eq]
  rfl

/-- The launch that a record in memory describes. -/
theorem launchRec_memNat (m : Memory) (a : Nat) :
    let field (o n : Nat) : Nat := memNat m (a + o) n
    launchRec (memNat m a 128) =
      { lid := BitVec.ofNat 64 (field 0 8)
        cont := field 8 8
        entry := field 16 4
        nblk := field 20 4 + 1
        cb := BitVec.ofNat 64 (field 24 8)
        wcode := field 32 1 % 4
        rcode := field 32 1 / 4 % 8
        det := (field 32 1).testBit 5
        teamed := (field 32 1).testBit 6
        nstream := field 32 2 / 2 ^ 7 % 32
        npre := field 33 1 / 2 ^ 4 % 8
        job := field 34 2 % 4096
        threads := field 36 2 % 2048 + 1
        nstrand := field 36 4 / 2 ^ 11 % 256 + 1
        rows := field 36 4 / 2 ^ 19
        ncopy := field 40 1
        nmat := field 41 1
        done := field 48 8
        pre := (launchRec (memNat m a 128)).pre } := by
  intro field
  have low (o k w : Nat) (hk : o + k ≤ 128) (hw : w ≤ 8 * k) : bits (memNat m a 128) (8 * o) w = field o k % 2 ^ w := by
    simpa using bits_memNat m a (i := 0) hk (by omega : 0 + w ≤ 8 * k)
  have hrows : bits (memNat m a 128) (8 * 36 + 19) 13 = field 36 4 / 2 ^ 19 := by
    rw [bits_memNat m a (k := 4) (by omega) (by omega), Nat.mod_eq_of_lt]
    exact Nat.div_lt_of_lt_mul (memNat_lt m (a + 36) 4)
  simp only [launchRec, recordCommon, LaunchRec.mk.injEq]
  refine ⟨congrArg _ (bits_memNat_bytes m a (o := 0) (k := 8) (by omega)), bits_memNat_bytes m a (o := 8) (k := 8) (by omega),
    bits_memNat_bytes m a (o := 16) (k := 4) (by omega),
    congrArg (· + 1) (bits_memNat_bytes m a (o := 20) (k := 4) (by omega)),
    congrArg _ (bits_memNat_bytes m a (o := 24) (k := 8) (by omega)), low 32 1 2 (by omega) (by omega),
    bits_memNat m a (o := 32) (k := 1) (i := 2) (w := 3) (by omega) (by omega),
    bit_memNat m a (o := 32) (i := 5) (by omega) (by omega), bit_memNat m a (o := 32) (i := 6) (by omega) (by omega),
    bits_memNat m a (o := 32) (k := 2) (i := 7) (w := 5) (by omega) (by omega),
    bits_memNat m a (o := 33) (k := 1) (i := 4) (w := 3) (by omega) (by omega), low 34 2 12 (by omega) (by omega),
    congrArg (· + 1) (low 36 2 11 (by omega) (by omega)),
    congrArg (· + 1) (bits_memNat m a (o := 36) (k := 4) (i := 11) (w := 8) (by omega) (by omega)), hrows,
    bits_memNat_bytes m a (o := 40) (k := 1) (by omega), bits_memNat_bytes m a (o := 41) (k := 1) (by omega),
    bits_memNat_bytes m a (o := 48) (k := 8) (by omega), trivial⟩

/-! ## LAUNCH_RECORD_READ (R56, R62, R236, R245) -/

/-- The grid of a launch whose record the scheduler has read from entry `pa` of queue `q` of port `p`. -/
def State.readGrid (s : State) (p q a pa : Nat) : Grid :=
  { Grid.fresh s.stamp (launchRec (memNat s.mem pa 128)).lid (launchRec (memNat s.mem pa 128)) with
    port := p
    queue := q
    prio := (s.queue p q).prio
    recAddr := pa
    age := a
    state := .held }

theorem State.heldHead_eq_false {s : State} {p q : Nat}
    (h : ∀ g ∈ s.grids, ¬(g.state = .held ∧ g.port = p ∧ g.queue = q)) : s.heldHead p q = false := by
  simpa [State.heldHead, and_assoc] using h

theorem State.poisonAt_nil {s : State} (h : s.poison = []) (pa n : Nat) : s.poisonAt pa n = none := by
  simp [State.poisonAt, h]

/-- A head that can be read joins the grids, and LQCONS goes on. -/
theorem launchRecordRead_reads {s : State} {p q a : Nat} {rest : List Nat} (hp : p < 2) (hq : q < 64)
    (hclocks : s.clocksRun = true) (hopen : s.portGone p = false) (hpost : s.posting p = false)
    (hstamps : (s.queue p q).stamps = a :: rest) (hhead : s.heldHead p q = false)
    (hfirst : isDram ((s.queue p q).recordAt (s.queue p q).cons.toNat) = true)
    (hlast : isDram ((s.queue p q).recordAt (s.queue p q).cons.toNat + 127) = true) (hclean : s.poison = []) :
    exec (.launchRecordRead p q) s = .next
      { s.updQueue p q fun x => { x with cons := x.cons + 1, stamps := rest } with
        grids := s.grids ++ [s.readGrid p q a ((s.queue p q).recordAt (s.queue p q).cons.toNat)]
        stamp := s.stamp + 1 } := by
  have hp' : ¬ 2 ≤ p := by omega
  have hq' : ¬ 64 ≤ q := by omega
  have hpoison : (s.updQueue p q fun x => { x with cons := x.cons + 1, stamps := rest }).poisonAt
      ((s.queue p q).recordAt (s.queue p q).cons.toNat) 128 = none := State.poisonAt_nil hclean _ _
  change execLaunchRecordRead p q s = _
  simp only [execLaunchRecordRead, hstamps, hclocks, hopen, hhead, hpost, hp', hq', hfirst, hlast, hpoison, decide_false,
    Bool.not_true, Bool.or_false, Bool.and_self, Option.isSome_none, Bool.false_eq_true, if_false]
  rfl

end Sys2Proof.Machine

/-! PROOFS. The admission of launches: which head comes next, and what its checks answer (R58, R59, R418). -/

namespace Sys2Proof.Machine

open Sys2Proof Sys2Proof.Spec

/-! ## The next head (R56, R59) -/

/-- An element whose key lies below every other's is the least one. -/
theorem leastBy_eq_some {α : Type} {key : α → Nat} {xs : List α} {x : α} (hx : x ∈ xs)
    (h : ∀ y ∈ xs, y ≠ x → key x < key y) : leastBy key xs = some x := by
  cases hleast : leastBy key xs with
  | none => simp [(leastBy_none key xs).1 hleast] at hx
  | some y =>
    obtain ⟨hy, hmin⟩ := leastBy_some key xs y hleast
    by_contra hne
    have := h y hy fun e => hne (by rw [e])
    have := hmin x hx
    omega

theorem State.mem_of_grid? {s : State} {k : Nat} {g : Grid} (h : s.grid? k = some g) : g ∈ s.grids :=
  List.mem_of_find?_eq_some h

/-- The eligible head that is of higher priority than every other, or older than those of its own, comes next. -/
theorem State.nextHead_eq_some {s : State} {g : Grid} (hmem : g ∈ s.grids) (hel : s.eligibleHead g = true)
    (hprio : g.prio < 8) (hage : g.age < 2 ^ 64)
    (hfirst : ∀ h ∈ s.grids, h ≠ g → s.eligibleHead h = true →
      (h.prio < g.prio ∨ h.prio = g.prio ∧ g.age < h.age) ∧ h.age < 2 ^ 64) : s.nextHead = some g := by
  refine leastBy_eq_some (List.mem_filter.2 ⟨hmem, hel⟩) fun h hh hne => ?_
  obtain ⟨hmem', hel'⟩ := List.mem_filter.1 hh
  obtain ⟨hlater, -⟩ := hfirst h hmem' hne hel'
  omega

/-! ## LAUNCH_ADMIT (R58, R59, R418) -/

/-- A launch has been admitted since reset (R241). -/
def State.entered (s : State) : State := { s with mgmt := { s.mgmt with admitted := true } }

section Admission

variable {s : State} {g : Grid} (hclocks : s.clocksRun = true) (hroom : s.admittedCount < 128) (hnext : s.nextHead = some g)
  (hidle : g.tags = [])
include hclocks hroom hnext hidle

theorem launchAdmit_fails (hbad : g.launch.badLaunch = true) :
    exec .launchAdmit s = .next (s.entered.failLaunch g 0x01 9 g.recAddr) := by
  have hroom' : ¬ 128 ≤ s.admittedCount := by omega
  change execLaunchAdmit s = _
  simp only [execLaunchAdmit, hclocks, hroom', hnext, hidle, hbad, List.any_nil, decide_false, Bool.not_true, Bool.or_self,
    Bool.false_eq_true, if_false, if_true]
  rfl

theorem launchAdmit_admits {k : KernelInfo} (hok : g.launch.badLaunch = false)
    (hkernel : s.readKernel g.launch.job g.replies g.launch = .good k) :
    exec .launchAdmit s = .next (({ s.entered with stamp := s.stamp + 1 } : State).updGrid g.key fun g =>
      { (g.withKernel k) with age := s.stamp, state := .active, tags := [] }) := by
  have hroom' : ¬ 128 ≤ s.admittedCount := by omega
  change execLaunchAdmit s = _
  simp only [execLaunchAdmit, hclocks, hroom', hnext, hidle, hok, hkernel, List.any_nil, decide_false, Bool.not_true,
    Bool.or_self, Bool.false_eq_true, if_false]
  rfl

end Admission

/-- With the ring off and nothing held, the record of a launch that fails is held, and the launch waits for its answer. -/
theorem State.failLaunch_holds {s : State} (hs : Holds s) (g : Grid) (cls sub addr : Nat) :
    s.failLaunch g cls sub addr =
      { s.updGrid g.key fun g => { g with state := .stopped } with
        stops := s.stops ++ [Stop.mk s.stamp none (.grid g.key)]
        stamp := s.stamp + 1
        held := [{ notice s cls sub g.launch.job addr 0 with
          kind := 0
          pc := BitVec.ofNat 64 g.launch.cont
          grid := g.gid
          info2 := BitVec.ofNat 32 (g.queue % 64 + g.port % 2 * 256) }] } := by
  unfold State.failLaunch State.fresh
  exact State.note_holds _ _ hs

end Sys2Proof.Machine

/-! PROOFS. Dispatch: a block at its start, and the acquire that its core makes (R29, R31, R57, R61, R62, R83, R151, R152). -/

namespace Sys2Proof.Machine

open Sys2Proof Sys2Proof.Spec

/-! ## The acquire of a core (R151, R152) -/

theorem State.core_updCore_other (s : State) {k core : Nat} (h : k ≠ core) (f : Core → Core) :
    (s.updCore core f).core k = s.core k := by
  simp [State.core, State.updCore, List.getD_eq_getElem?_getD, Ne.symm h]

/-- An update that keeps a part of a core keeps it in every core. -/
theorem State.core_updCore_keeps {β : Type} (s : State) (core k : Nat) {f : Core → Core} (part : Core → β)
    (h : ∀ c, part (f c) = part c) : part ((s.updCore core f).core k) = part (s.core k) := by
  by_cases hk : k = core
  · subst hk
    by_cases hlen : k < s.cores.length
    · simp [State.core, State.updCore, List.getD_eq_getElem?_getD, hlen, h]
    · rw [State.updCore, List.modify_eq_self (by omega)]
  · rw [State.core_updCore_other s hk]

/-- Answers that fill no L1 any longer are all that changes on the fabric. -/
theorem State.stopFills_fabricKeeps (s : State) (core : Nat) (r : ByteSet) : FabricKeeps s (s.stopFills core r) := by
  unfold State.stopFills
  split
  · refine ⟨rfl, ?_⟩
    rw [List.map_map]
    refine List.map_congr_left fun q _ => ?_
    simp only [Function.comp_apply]
    split
    · split <;> rfl
    · rfl
  · exact ⟨rfl, rfl⟩

theorem State.stopFills_cores (s : State) (core : Nat) (r : ByteSet) : (s.stopFills core r).cores = s.cores := by
  unfold State.stopFills
  split <;> rfl

/-- An acquire of a core leaves the other cores and every write-combining buffer alone, and the fabric but for fills. -/
theorem State.acquireSet_frame (s : State) (core scope : Nat) (r : ByteSet) :
    FabricKeeps s (s.acquireSet core scope r) ∧ (∀ k, k ≠ core → (s.acquireSet core scope r).core k = s.core k) ∧
      ((s.acquireSet core scope r).core core).wcb = (s.core core).wcb := by
  unfold State.acquireSet
  split
  · exact ⟨⟨rfl, rfl⟩, fun _ _ => rfl, rfl⟩
  · have hcore (k : Nat) :
        (s.discard core r).core k = (s.updCore core fun c => c.keepL1 fun x b => b.dirty || !r.has x).core k := by
      simp only [State.core, State.discard, State.stopFills_cores]
    refine ⟨State.stopFills_fabricKeeps (s.updCore core _) core r, fun k hk => ?_, ?_⟩
    · rw [hcore, State.core_updCore_other s hk]
    · rw [hcore]
      exact State.core_updCore_keeps s core core Core.wcb fun _ => rfl

/-! ## A block at its start (R29, R31, R57, R83) -/

theorem Strand.start_reg (r : LaunchRec) (pc0 : Dword) (i : Nat) (a : Alloc) (l x : Nat) :
    (Strand.start r pc0 i a).reg l x = RegWord.zero := rfl

theorem Strand.start_lane (r : LaunchRec) (pc0 : Dword) (i : Nat) (a : Alloc) {l : Nat} (hl : l < widthOf r.wcode) :
    (Strand.start r pc0 i a).lane l =
      if i * widthOf r.wcode + l < r.threads then { Lane.never with status := .live, pc := pc0 } else Lane.never := by
  simp [Strand.lane, Strand.start, List.getD_eq_getElem?_getD, hl]

theorem Block.start_strand (g : Grid) (key index core : Nat) (view : View) {places : List Alloc} {i : Nat}
    (hi : i < places.length) :
    (Block.start g key index core view places).strand i = Strand.start g.launch g.pc0 i places[i] := by
  simp [Block.strand, Block.start, List.getD_eq_getElem?_getD, hi]

theorem Block.start_strands_length (g : Grid) (key index core : Nat) (view : View) (places : List Alloc) :
    (Block.start g key index core view places).strands.length = places.length := List.length_mapIdx

theorem Block.start_mat_isSome (g : Grid) (key index core : Nat) (view : View) (places : List Alloc) :
    (Block.start g key index core view places).mat.isSome ↔ g.launch.nmat ≠ 0 := by
  by_cases h : g.launch.nmat = 0 <;> simp [Block.start, h]

theorem Block.start_mat_empty {g : Grid} {key index core : Nat} {view : View} {places : List Alloc} {m : MatCtx}
    (h : (Block.start g key index core view places).mat = some m) : m.tiles = [] ∧ m.bank = [] := by
  by_cases hm : g.launch.nmat = 0
  · simp [Block.start, hm] at h
  · obtain rfl : (⟨[], [], [], 0⟩ : MatCtx) = m := by simpa [Block.start, hm] using h
    exact ⟨rfl, rfl⟩

/-! ## BLOCK_DISPATCH (R61 to R63) -/

/-- Block `blk` counted as started in its grid. -/
def Grid.starts (blk : Nat) (g : Grid) : Grid :=
  { g with started := g.started ++ [blk], requeued := g.requeued.filter fun i => i ≠ blk }

/-- The block that a dispatch has made resident, and its grid. -/
def State.begun (s : State) (g : Grid) (blk core : Nat) (ps : List Alloc) : State :=
  { s.updGrid g.key (Grid.starts blk) with
    blocks := s.blocks ++ [Block.start g s.stamp blk core .root ps]
    stamp := s.stamp + 1 }

/-- A block of a launch that is neither a team nor deterministic begins, and its core makes an acquire at device scope. -/
theorem blockDispatch_begins {s : State} {g : Grid} {blk core : Nat} {ps : List Alloc} (hg : s.grid? g.key = some g)
    (hcore : core < 128) (hmay : s.mayStart g blk = true) (hfit : s.fit core g.launch = some ps)
    (hteam : g.launch.teamed = false) (hdet : g.launch.det = false) (hfork : g.fork = none) (hparent : g.parent = none)
    (hrank : s.outranked g blk = false) :
    exec (.blockDispatch g.key blk core) s = .next ((s.begun g blk core ps).acquireSet core 4 none) := by
  have hfits : s.fitsAt core g.launch = true := by simp [State.fitsAt, hfit, hteam]
  have hlaunch : s.launchFork g (dieOf core) = (s, true) := by simp [State.launchFork, hdet]
  change execBlockDispatch g.key blk core s = _
  simp only [execBlockDispatch, hg, hcore, hmay, hfits, hrank, hlaunch, hteam, decide_true, Bool.not_false, Bool.and_self,
    if_true, Bool.false_eq_true, if_false, State.startBlock, hfit, hfork, hparent, Option.isSome_none]
  have hother : (fun i => i != blk) = fun i => decide (i ≠ blk) := by
    funext i
    by_cases h : i = blk <;> simp [h]
  rw [hother]
  rfl

end Sys2Proof.Machine

/-! PROOFS. The end of a block that leaves no fork behind (R306, R413). -/

namespace Sys2Proof.Machine

open Sys2Proof Sys2Proof.Spec

/-! ## What the end of a block waits for -/

theorem Block.liveLanes_eq_nil {b : Block} (h : ∀ st ∈ b.strands, ∀ ln ∈ st.lanes, ln.status ≠ .live) :
    b.liveLanes = [] := by
  simp only [Block.liveLanes, List.flatMap_eq_nil_iff, List.map_eq_nil_iff, List.filter_eq_nil_iff, List.mem_range, beq_iff_eq]
  intro i hi l hl
  have hst : b.strand i = b.strands[i] := List.getD_eq_getElem _ _ hi
  rw [Strand.lane, List.getD_eq_getElem _ _ hl]
  exact h _ (hst ▸ List.getElem_mem hi) _ (List.getElem_mem hl)

theorem State.forksOf_eq_nil {s : State} {key : Nat} (h : ∀ f ∈ s.forks, ∀ o, f.owner = some o → o.1 ≠ key) :
    s.forksOf key = [] := by
  rw [State.forksOf, List.filter_eq_nil_iff]
  intro f hf
  cases howner : f.owner with
  | none => simp
  | some o => simp [h f hf o howner]

/-! ## A block leaves its grid (R97, R306) -/

/-- What an update of one grid keeps of every grid, a grid's lookup keeps. -/
theorem State.grid?_updGrid_map {β : Type} (s : State) (k x : Nat) {f : Grid → Grid} (part : Grid → β)
    (hkey : ∀ g, (f g).key = g.key) (hpart : ∀ g, part (f g) = part g) :
    ((s.updGrid k f).grid? x).map part = (s.grid? x).map part := by
  have hk : ((fun g : Grid => g.key == x) ∘ fun g => if g.key == k then f g else g) = fun g => g.key == x := by
    funext g
    simp only [Function.comp_apply]
    split <;> simp [hkey]
  have hp : (part ∘ fun g => if g.key == k then f g else g) = part := by
    funext g
    simp only [Function.comp_apply]
    split <;> simp [hpart]
  rw [State.grid?, State.updGrid, List.find?_map, hk, Option.map_map, hp]
  rfl

/-- An update of a grid that keeps its launch record parts no team. -/
theorem State.partner?_updGrid (s : State) (k : Nat) {f : Grid → Grid} (b : Block) (hkey : ∀ g, (f g).key = g.key)
    (hlaunch : ∀ g, (f g).launch = g.launch) : (s.updGrid k f).partner? b = s.partner? b := by
  have hteam : (s.updGrid k f).isTeamed b = s.isTeamed b := by
    simp only [State.isTeamed]
    rw [State.grid?_updGrid_map s k b.grid (fun g => g.launch.teamed) hkey fun g => by rw [hlaunch]]
  rw [State.partner?, hteam]
  rfl

/-- Block `index` counted as ended in its grid. -/
def Grid.ends (index : Nat) (g : Grid) : Grid :=
  { g with ended := if index ∈ g.ended then g.ended else g.ended ++ [index] }

theorem Grid.ends_eq (index : Nat) : Grid.ends index = fun g =>
    { g with ended := if g.ended.contains index then g.ended else g.ended ++ [index] } := by
  funext g
  simp [Grid.ends]

/-- The block has left: its grid counts it as ended. -/
def State.departed (s : State) (b : Block) : State :=
  { s.updGrid b.grid (Grid.ends b.index) with blocks := s.blocks.filter fun x => x.key != b.key }

/-- A block in the root view, without a team, leaves nothing behind but its count in its grid. -/
theorem State.dropBlock_alone {s : State} {b : Block} (hview : b.view = .root) (hpartner : s.partner? b = none)
    (hclean : s.padPoison = []) :
    s.dropBlock b = s.departed b := by
  have hpartner' : (s.updGrid b.grid (Grid.ends b.index)).partner? b = none :=
    (State.partner?_updGrid s b.grid (f := Grid.ends b.index) b (fun _ => rfl) fun _ => rfl).trans hpartner
  simp only [State.dropBlock, ← Grid.ends_eq, hview, hpartner']
  simp [State.departed, State.updGrid, hclean]

theorem State.haltRecord_none {s : State} {job : Nat} (h : (s.job job).halting = none) : s.haltRecord job = s := by
  simp only [State.haltRecord, h]

theorem State.settleAnswers_no_stops {s : State} (h : s.stops = []) : s.settleAnswers s.stops.length = s := by
  rw [h]
  rfl

/-! ## BLOCK_END (R306) -/

section BlockEnd

variable {s : State} {b : Block} {g : Grid} (hb : s.block? b.key = some b) (hg : s.grid? b.grid = some g)
  (hclocks : s.clocksRun = true) (hrun : b.state = .running) (hstops : b.stops = []) (hspent : b.spent = true)
  (hforks : s.forksOf b.key = []) (hfork : g.fork = none)
include hb hg hclocks hrun hstops hspent hforks hfork

/-- With no fork of its own and no place in one, a block whose threads have exited leaves its grid. -/
theorem blockEnd_drops : exec (.blockEnd b.key) s =
    .next (((s.dropBlock b).haltRecord (s.jobOf b)).settleAnswers ((s.dropBlock b).haltRecord (s.jobOf b)).stops.length) := by
  have hmay : b.mayEnd = true := by simp [Block.mayEnd, hrun, hstops]
  have hfinish : s.mayFinish b = true := by simp [State.mayFinish, hspent, hforks]
  change execBlockEnd b.key s = _
  simp only [execBlockEnd, hb, hg, hclocks, hmay, hfinish, hforks, hfork, List.filterMap_nil, List.foldl_nil, Bool.and_self,
    Bool.not_true, Bool.false_eq_true, if_false, Option.map_some, Option.isSome_none, Option.getD_some, List.isEmpty_nil,
    State.joinAll]

theorem blockEnd_ends (hview : b.view = .root) (hpartner : s.partner? b = none) (hstop : s.stops = [])
    (hhalt : (s.job g.launch.job).halting = none) (hclean : s.padPoison = []) :
    exec (.blockEnd b.key) s = .next (s.departed b) := by
  have hjob : s.jobOf b = g.launch.job := by simp [State.jobOf, hg]
  rw [blockEnd_drops hb hg hclocks hrun hstops hspent hforks hfork, State.dropBlock_alone hview hpartner hclean, hjob,
    State.haltRecord_none (s := s.departed b) hhalt, State.settleAnswers_no_stops (s := s.departed b) hstop]

end BlockEnd

end Sys2Proof.Machine

/-! PROOFS. The retirement of a launch: the release of every core, the completion word, and the publication (R60, R237). -/

namespace Sys2Proof.Machine

open Sys2Proof Sys2Proof.Spec

/-! ## The release of every core (R60, R152) -/

/-- A core without dirty bytes and buffered stores has nothing to release. -/
theorem State.releaseSet_clean {s : State} {core : Nat} (h : Clean s core) (scope : Nat) (r : ByteSet) :
    s.releaseSet core scope r = (s, []) := by
  obtain ⟨hwcb, hl1⟩ := h
  have hdirty : ((s.core core).l1.filter fun e => r.has e.1 && match e.2 with | some b => b.dirty | none => false) = [] := by
    rw [List.filter_eq_nil_iff]
    intro e he
    cases hx : e.2 with
    | none => simp
    | some x => simp [hl1 e he x hx]
  have hback : s.writeBack core r = s := by
    unfold State.writeBack
    exact if_pos (List.isEmpty_iff.2 hdirty)
  simp [State.releaseSet, hback, State.drainWhere, State.unacked, hwcb]

/-- A core beyond those listed holds nothing, so that all are clean where the listed ones are. -/
theorem clean_of_cores {s : State} (h : ∀ c ∈ s.cores, c.wcb = [] ∧ ∀ e ∈ c.l1, ∀ x, e.2 = some x → x.dirty = false)
    (core : Nat) : Clean s core := by
  by_cases hlen : core < s.cores.length
  · have hcore : s.core core = s.cores[core] := List.getD_eq_getElem _ _ hlen
    rw [Clean, hcore]
    exact h _ (List.getElem_mem hlen)
  · have hcore : s.core core = Core.reset := List.getD_eq_default _ _ (by omega)
    rw [Clean, hcore]
    exact ⟨rfl, fun e he => absurd he List.not_mem_nil⟩

theorem State.releaseAll_clean {s : State} (h : ∀ core, Clean s core) (scope : Nat) : s.releaseAll scope = (s, []) := by
  refine List.foldl_fixed' (fun core => ?_) _
  rw [State.releaseSet_clean (h core)]
  rfl

/-! ## Publication (R237) -/

/-- A port that has carried no device writes since its last flushing read is not flushed again. -/
theorem State.flushOther_clean {s : State} {p : Nat} (hreads : s.hostReads = []) (hdirty : (s.host (1 - p)).dirty = false) :
    s.flushOther p = (s, none) := by
  simp [State.flushOther, State.flushing, hreads, hdirty]

theorem State.msixIf_open {s : State} {p : Nat} (hopen : s.portGone p = false) (irq : Bool) (vec : Nat) :
    (if irq then s.msix p vec else s) = { s with hostOut := s.hostOut ++ if irq then [.msix p vec] else [] } := by
  cases irq <;> simp [State.msix, State.send, hopen]

/-- On an open port a publication writes the next counter value, and sends the vector where one is enabled. -/
theorem State.publish_open {s : State} {p : Nat} (hp : p < s.hosts.length) (hopen : s.portGone p = false) :
    s.publish p =
      { s.updHost p fun h => { h with pubval := (s.host p).pubval + 1 } with
        hostOut := s.hostOut ++ [.write p (s.host p).pubadr (leBytes 8 ((s.host p).pubval + 1).toNat) false] ++
          if (s.host p).pubirq then [.msix p (s.host p).pubvec] else [] } := by
  let u := s.updHost p fun h => { h with pubval := (s.host p).pubval + 1 }
  let m : HostMsg := .write p (s.host p).pubadr (leBytes 8 ((s.host p).pubval + 1).toNat) false
  have hstill : u.portGone p = false := by
    rw [← hopen, State.portGone, State.host_updHost_self hp, State.portGone]
  have hopen' : (u.send m).portGone p = false := hstill
  change (if u.portGone p then _ else if (s.host p).pubirq then (u.send m).msix p (s.host p).pubvec else u.send m) = _
  rw [hstill, if_neg Bool.false_ne_true, State.msixIf_open hopen']
  rfl

/-! ## LAUNCH_RETIRE (R60) -/

/-- The completion word written to DRAM. -/
theorem State.writeDone_phys {s : State} {g : Grid} {pa : Nat} {lf : Option Leaf} (halign : g.launch.done % 8 = 0)
    (hplace : s.placeJob noCore g.launch.job g.launch.done .write = .ok ⟨.phys pa, lf⟩) :
    s.writeDone g = (s.pokePhys pa (leBytes 8 g.launch.lid.toNat), none) := by
  have hdone : s.donePlace g = .ok ⟨.phys pa, lf⟩ := by simp [State.donePlace, halign, hplace]
  simp only [State.writeDone, hdone]

/-- What a dropped launch's grid had become before does not matter. -/
theorem State.updGrid_dropLaunch (s : State) (g : Grid) {f : Grid → Grid} (hkey : ∀ h, (f h).key = h.key) :
    (s.updGrid g.key f).dropLaunch g = s.dropLaunch g := by
  have hgrids : ((s.grids.map fun x => if x.key == g.key then f x else x).filter fun x => x.key != g.key) =
      s.grids.filter fun x => x.key != g.key := by
    induction s.grids with
    | nil => rfl
    | cons x r ih =>
      by_cases hx : x.key = g.key
      · simpa [hx, hkey] using ih
      · simpa [hx] using ih
  simp only [State.dropLaunch, State.updGrid, hgrids]

/-- The launch gone, its completion word at `pa`. -/
def State.completed (s : State) (g : Grid) (pa : Nat) : State := (s.pokePhys pa (leBytes 8 g.launch.lid.toNat)).dropLaunch g

theorem State.completed_quiet {s : State} (hq : Quiet s) (g : Grid) (pa : Nat) :
    s.completed g pa =
      { s with
        mem := memPuts s.mem pa (leBytes 8 g.launch.lid.toNat)
        migrations := (s.completed g pa).migrations
        grids := s.grids.filter fun x => x.key != g.key
        blocks := s.blocks.filter fun b => b.grid != g.key } := by
  rw [State.completed, State.pokePhys_quiet hq]
  rfl

/-- An active launch whose blocks have ended, with nothing to release, to flush or to wait for, writes its completion word,
leaves, and is published. -/
theorem launchRetire_publishes {s : State} {g : Grid} {pa : Nat} {lf : Option Leaf} (hg : s.grid? g.key = some g)
    (hparent : g.parent = none) (hfork : g.fork = none) (hactive : g.state = .active) (hclocks : s.clocksRun = true)
    (hdone : s.gridDone g = true) (hclean : ∀ core, Clean s core) (hquiet : Quiet s) (halign : g.launch.done % 8 = 0)
    (hplace : s.placeJob noCore g.launch.job g.launch.done .write = .ok ⟨.phys pa, lf⟩) (hreads : s.hostReads = [])
    (hdirty : (s.host (1 - g.port)).dirty = false) :
    exec (.launchRetire g.key) s = .next ((s.completed g pa).publish g.port) := by
  have hfold : s.launchFold g = (true, none) := by simp [State.launchFold, hfork]
  have hjoin : s.joinLaunch g = s := by simp [State.joinLaunch, hfork]
  have hwrite := State.writeDone_phys halign hplace
  have hflush (f : Grid → Grid) : ((s.pokePhys pa (leBytes 8 g.launch.lid.toNat)).updGrid g.key f).flushOther g.port =
      ((s.pokePhys pa (leBytes 8 g.launch.lid.toNat)).updGrid g.key f, none) := by
    rw [State.pokePhys_quiet hquiet]
    exact State.flushOther_clean hreads hdirty
  change execLaunchRetire g.key s = _
  simp only [execLaunchRetire, hg, hfold, hparent, hactive, hclocks, hdone, State.releaseAll_clean hclean, hjoin, hwrite,
    hflush, Option.isSome_none, Option.toList_none, List.any_nil, beq_self_eq_true, Bool.true_or, Bool.not_true,
    Bool.or_self, Bool.false_eq_true, if_false, if_true]
  rw [State.updGrid_dropLaunch, State.completed]
  exact fun _ => rfl

end Sys2Proof.Machine

/-! PROOFS. From the doorbell to the retirement of a launch (O53), put together. -/

namespace Sys2Proof.Machine

open Sys2Proof Sys2Proof.Spec

/-- Settles O53: it holds. Each step of a launch's course has its lemmas above. -/
theorem launching : Obligations.Launching := by
  unfold Obligations.Launching
  refine ⟨?doorbell, ?recordRead, ?admission, ?dispatch, ?blockEnd, ?retirement⟩
  case doorbell =>
    intro s p q prod hp hq hw
    obtain ⟨hport, hqueue⟩ := queue_listed hw hp hq
    refine ⟨fun hboot => by rw [exec_lqdoor, State.doorbell_before_run hboot],
      fun hboot hgone hperst => ⟨_, exec_lqdoor s p q prod, ?_⟩⟩
    rw [State.doorbell_rings hboot (State.portGone_eq_false hgone hperst) hp hq, State.queue_updQueue_self hport hqueue]
    exact ⟨rfl, rfl, Queue.ring_stamps_length _ _ _, fun i => Queue.ring_stamps_kept, fun i => Queue.ring_stamps_new,
      fun p' q' hne => State.queue_updQueue_other s hne _⟩
  case recordRead =>
    intro s p q a rest hp hq hw hclocks hgone hperst hpost hstamps hheads old pa hfirst hlast hclean
    obtain ⟨hport, hqueue⟩ := queue_listed hw hp hq
    refine ⟨_, s.readGrid p q a pa, launchRecordRead_reads hp hq hclocks (State.portGone_eq_false hgone hperst) hpost hstamps
      (State.heldHead_eq_false hheads) hfirst hlast hclean, rfl, State.queue_updQueue_self hport hqueue _,
      fun p' q' hne => State.queue_updQueue_other s hne _, rfl, rfl, rfl, rfl, rfl, rfl, rfl, ?_⟩
    have hlaunch : (s.readGrid p q a pa).launch = launchRec (memNat s.mem pa 128) := rfl
    rw [hlaunch, launchRec_memNat]
    simp only [and_self]
  case admission =>
    intro s g k hclocks hroom hg hidle hel hprio hfirst hage
    have hnext := State.nextHead_eq_some (State.mem_of_grid? hg) hel hprio hage hfirst
    refine ⟨fun hok hkernel => ⟨_, launchAdmit_admits hclocks hroom hnext hidle hok hkernel, rfl⟩,
      fun hbad hoff hheld => ⟨_, launchAdmit_fails hclocks hroom hnext hidle hbad, ?_⟩⟩
    exact State.failLaunch_holds (s := s.entered) ⟨hoff, hheld⟩ g 0x01 9 g.recAddr
  case dispatch =>
    intro s g blk core ps hg hcore hmay hfit hteam hdet hfork hparent hrank
    obtain ⟨hfabric, hothers, hwcb⟩ := (s.begun g blk core ps).acquireSet_frame core 4 none
    have honly := (s.begun g blk core ps).acquireSet_only core 4 none
    have hgrids := congrArg State.grids honly
    refine ⟨_, Block.start g s.stamp blk core .root ps,
      blockDispatch_begins hg hcore hmay hfit hteam hdet hfork hparent hrank, ?_, hfabric, hgrids, hothers, hwcb, rfl, rfl,
      rfl, rfl, rfl, rfl, rfl, Block.start_strands_length _ _ _ _ _ _, rfl, rfl, Block.start_mat_isSome _ _ _ _ _ _,
      fun m => Block.start_mat_empty, fun o => rfl, fun i hi => ?_⟩
    · rw [honly]
      rfl
    · rw [Block.start_strand _ _ _ _ _ hi]
      exact ⟨rfl, fun l r => rfl, fun l => Strand.start_lane _ _ _ _⟩
  case blockEnd =>
    intro s b g hb hg hclocks hrun hstops hexited hhandles hforks hfork hview hpartner hstop hhalt hclean
    have hspent : b.spent = true := by simpa [Block.spent, Block.liveLanes_eq_nil hexited] using hhandles
    exact ⟨_, blockEnd_ends hb hg hclocks hrun hstops hspent (State.forksOf_eq_nil hforks) hfork hview hpartner hstop hhalt
      hclean, rfl⟩
  case retirement =>
    intro s g pa lf hg hparent hfork hactive hclocks haborted hended hw hcores hquiet halign hplace _ hreads hdirty hport
      hgone hperst n
    have hdone : s.gridDone g = true := by simp [State.gridDone, haborted, hended]
    have hframe := State.completed_quiet hquiet g pa
    have hlisted : g.port < (s.completed g pa).hosts.length := by
      rw [hframe]
      exact hw.1.symm ▸ hport
    have hopen : (s.completed g pa).portGone g.port = false := by
      rw [hframe]
      exact State.portGone_eq_false hgone hperst
    have hword := memBytes_puts s.mem pa (leBytes 8 g.launch.lid.toNat)
    rw [leBytes_length] at hword
    refine ⟨_, launchRetire_publishes hg hparent hfork hactive hclocks hdone (clean_of_cores hcores) hquiet halign hplace
      hreads hdirty, ?_⟩
    rw [State.publish_open hlisted hopen, hframe]
    exact ⟨hword, fun a ha => (memGet_puts _ _ _ _).trans (if_neg (by rw [leBytes_length]; omega)), rfl⟩

end Sys2Proof.Machine

/-! PROOFS. FORK whose container stands in a register window: the load of the fork record uses up class 0's credit, which BUDGETST
shows (R71, R124, R243, R438, Table 3-4). -/

namespace Sys2Proof.Machine

open Sys2Proof Sys2Proof.Spec

/-! ## A container in the register window of die 0 -/

/-- The probe's data page, as a TLB holds it. -/
def probeDataLeaf : Leaf := ⟨0, 2 ^ 30, 3, 0, false, 0, 0, 0, 1, 0, false, probeData⟩

/-- A fork record that names entry 0 of a container at 2^32 + 0x800. -/
def windowRecord : List Byte := leBytes 8 0 ++ leBytes 8 (2 ^ 32 + 0x800) ++ leBytes 112 0

/-- The record's launch with a count of 0. -/
def windowLaunch : LaunchRec := { forkRec (leNat windowRecord) 0 with job := probeJob }

/-- The probe's block with the record's address, 0x1000, in v20:v21 of lane 3, and a count of 0 in v9. -/
def windowBlock : Block :=
  { probeBlock with strands := probeBlock.strands.map fun st => st.setReg 3 20 ⟨0x1000, true, false, false⟩ }

/-- A container's header in the event counters, at offset 0x800 of the window: MAGIC and VERS, one kernel, and its entry at offset
0x438, so that the entry's OFF is BUDGETST. Class 0 has one byte of credit. -/
def Die.holdsContainer (d : Die) : Die :=
  { d with
    budget := d.budget.set 0 (1, false), credit := d.credit.set 0 1
    evcnt := [0x148475545, 2 ^ 32, 0, 2 ^ 64 - 0x3C8, 0, 0] }

/-- Lane 3 of the probe at its FORK; the page table maps 2^32 on to the register window of die 0. -/
def windowForkState : State :=
  let s := State.reset.probe 0
  { s with
    mem := memPuts (memPuts s.mem (probeData + 0x1000) windowRecord) (probeTables + 8192 + 64)
      (probeEntry 1 0 (0xF00 * 2 ^ 40))
    cores := s.cores.modify 0 fun c => { c with tlb := [⟨probeJob, probeDataLeaf⟩] }
    dies := s.dies.modify 0 Die.holdsContainer
    blocks := [windowBlock]
    cur := ⟨1, 0, [3], 0x40000000, 0x40000004, 0, none⟩ }

/-! ## What the statement asks of it -/

theorem windowForkState_clear : windowForkState.clearFor windowBlock
    { srcs := [(srcA .none 20).pair.clean, (srcB .none 9).clean], dsts := [dstD .none 5] } := by
  decide +kernel

theorem windowForkState_quiet : Quiet windowForkState := by
  unfold Quiet
  decide +kernel

theorem windowForkState_credited : Credited windowForkState := by
  intro d
  have hlisted : ∀ x ∈ windowForkState.dies, x.credited 0 = true := by decide +kernel
  rw [State.die, List.getD_eq_getElem?_getD]
  cases hd : windowForkState.dies[d]? with
  | none => decide +kernel
  | some x => exact hlisted x (List.mem_of_getElem? hd)

theorem windowForkState_held : Held windowForkState windowBlock 0x1000 128 .read (probeData + 0x1000) := by
  have hleaf : ∀ j < 128, ((windowForkState.core windowBlock.core).tlb.find? fun x =>
      x.hits (windowForkState.jobOf windowBlock) (0x1000 + j)) = some ⟨probeJob, probeDataLeaf⟩ ∧
      isDram (probeData + 0x1000 + j) = true := by decide +kernel
  have hjob : probeDataLeaf.job = windowForkState.jobOf windowBlock := by decide +kernel
  refine ⟨by decide, fun j hj => ⟨_, (hleaf j hj).1, by decide, hjob, rfl, by decide, rfl, rfl, rfl, ?_, (hleaf j hj).2⟩⟩
  simp only [probeDataLeaf]
  omega

theorem windowForkState_stands : Stands windowForkState.mem (probeData + 0x1000) windowRecord := by
  unfold Stands
  decide +kernel

/-- The kernel of a container that can be read and passes its checks. -/
def KernelRead.good? : KernelRead → Option KernelInfo
  | .good k => some k
  | .bad | .flaw _ | .away _ => none

theorem KernelRead.good?_eq_some {r : KernelRead} {k : KernelInfo} (h : r.good? = some k) : r = .good k := by
  cases r with
  | good x => exact congrArg KernelRead.good (Option.some.inj h)
  | bad | flaw _ | away _ => cases h

/-- Before the load BUDGETST reads 0: OFF is 0, and the container is good. -/
theorem windowForkState_kernel :
    windowForkState.readKernel probeJob [] windowLaunch = .good ⟨2 ^ 32 + 0x800, 0, 0, 0⟩ :=
  KernelRead.good?_eq_some (by decide +kernel)

/-- The load of the record leaves SPENT of class 0 at 1: OFF is 256, beyond the container's SIZE of 0, and no handle is made. -/
theorem exec_windowFork :
    nextHas (fun t => (t.block? 1).map (fun c => c.handles) == some []) (exec (.fork 5 20 9 .none) windowForkState) = true := by
  decide +kernel

theorem windowForkState_room :
    windowForkState.isDet windowBlock = false ∧ windowBlock.mat = none ∧ windowForkState.slotsUsed windowBlock.core < 4096 ∧
    windowBlock.handles.length < 4096 ∧ windowForkState.grids.length < 2 ^ 62 ∧
    (windowForkState.core windowBlock.core).l1 = [] ∧ (windowForkState.core windowBlock.core).lines = [] ∧
    (windowForkState.core windowBlock.core).wcb = [] ∧ windowBlock.view.depth windowForkState < 8 ∧
    windowLaunch.bad = false := by
  decide +kernel

/-- Refutes O39 in its clause on a count of 0: it takes the kernel to be what a reading before the instruction gives. FORK reads the
container after its load of the record (R438), and where the container stands in a register window the load can change what is
read: in `windowForkState` the load uses up class 0's credit (R71), SPENT in BUDGETST is the kernel entry's OFF, and the
container that was good is refused, so that the lane goes on without a handle. -/
theorem not_forks : ¬ Obligations.Forks := by
  unfold Obligations.Forks
  intro h
  obtain ⟨hdet, hmat, hslots, hhandles, hgrids, hl1, hlines, hwcb, hdepth, hok⟩ := windowForkState_room
  obtain ⟨hfull, -⟩ := h 5 20 9 .none windowForkState windowBlock 3 windowRecord (probeData + 0x1000) ⟨2 ^ 32 + 0x800, 0, 0, 0⟩
    windowForkState_clear windowForkState_quiet windowForkState_credited hdet hmat rfl hslots hhandles hgrids hl1 hlines hwcb
    (by decide +kernel) (by decide +kernel) windowForkState_held windowForkState_stands hdepth (by decide +kernel) hok
    windowForkState_kernel
  obtain ⟨t, hexec, -, c, r, hblock, hlast, -⟩ := hfull (by decide +kernel)
  obtain ⟨u, hu, hnone⟩ := exists_next_of_nextHas exec_windowFork
  obtain rfl : t = u := Host.Outcome.next.inj (hexec.symm.trans hu)
  have hhandle : c.handles = [] := by
    have hkey : t.block? 1 = some c := hblock
    simpa [hkey] using hnone
  rw [hhandle] at hlast
  cases hlast

end Sys2Proof.Machine

/-! PROOFS. What a child of a fork reads and writes on viewed pages: its own copy, its fork's twin, its parent's view
(R127, R128). -/

namespace Sys2Proof.Machine

open Sys2Proof Sys2Proof.Spec

/-! ## Forks found by key -/

/-- An update of a fork that keeps its key is found under that key. -/
theorem State.fork?_updFork_self (s : State) (k : Nat) {F : Fork → Fork} (hF : ∀ f, (F f).key = f.key) :
    (s.updFork k F).fork? k = (s.fork? k).map F := by
  have hkey : ((fun f : Fork => f.key == k) ∘ fun f => if f.key == k then F f else f) = fun f => f.key == k := by
    funext f
    by_cases h : f.key = k <;> simp [h, hF]
  simp only [State.fork?, State.updFork, List.find?_map, hkey]
  cases hf : s.forks.find? fun f => f.key == k with
  | none => rfl
  | some f =>
    have : f.key = k := by simpa using List.find?_some hf
    simp [this]

theorem State.key_of_fork? {s : State} {k : Nat} {f : Fork} (h : s.fork? k = some f) : f.key = k := by
  simpa using List.find?_some h

/-! ## Twins and copies of a fork -/

theorem twinOf_append (f : Fork) (g x : Nat) (t : List Byte) :
    twinOf { f with twins := f.twins ++ [(g, t)] } x = (twinOf f x).or (if x = g then some t else none) := by
  simp only [twinOf, List.find?_append, Option.map_or]
  by_cases h : x = g <;> simp [h, Ne.symm]

theorem copyOf_append (f : Fork) (c g d x : Nat) (t : List Byte) :
    copyOf { f with copies := f.copies ++ [(c, g, t)] } d x = (copyOf f d x).or (if (d, x) = (c, g) then some t else none) := by
  simp only [copyOf, List.find?_append, Option.map_or]
  by_cases h : (d, x) = (c, g)
  · obtain ⟨rfl, rfl⟩ := Prod.mk.inj h
    simp
  · rw [if_neg h, List.find?_cons_of_neg]
    · rfl
    · rw [Prod.mk.injEq] at h
      simp only [Bool.and_eq_true, beq_iff_eq]
      omega

/-- The copies of a fork with that of child `c` of granule `g` edited. -/
def Fork.editedCopies (f : Fork) (c g : Nat) (e : List Byte → List Byte) : List (Nat × Nat × List Byte) :=
  f.copies.map fun t => if t.1 == c && t.2.1 == g then (c, g, e t.2.2) else t

theorem copyOf_editedCopies (f : Fork) (c g d x : Nat) (e : List Byte → List Byte) :
    copyOf { f with copies := f.editedCopies c g e } d x = (copyOf f d x).map fun t => if (d, x) = (c, g) then e t else t := by
  have hkey : ((fun t : Nat × Nat × List Byte => t.1 == d && t.2.1 == x) ∘
      fun t => if t.1 == c && t.2.1 == g then (c, g, e t.2.2) else t) = fun t => t.1 == d && t.2.1 == x := by
    funext t
    by_cases h : t.1 = c ∧ t.2.1 = g <;> simp [h]
  simp only [copyOf, Fork.editedCopies, List.find?_map, hkey]
  cases ht : f.copies.find? fun t => t.1 == d && t.2.1 == x with
  | none => rfl
  | some t =>
    have hfound : t.1 = d ∧ t.2.1 = x := by simpa using List.find?_some ht
    by_cases h : d = c ∧ x = g <;> simp [hfound, h]

/-! ## Reading in a child's view (R127) -/

/-- A child whose view is not frozen reads its own copy, else its fork's twin, else its parent's view. -/
theorem State.viewByte_child {s : State} {k c : Nat} {f : Fork} (hf : s.fork? k = some f)
    (hopen : s.frozen f.job (.child k c) = false) (n va : Nat) :
    s.viewByte (n + 1) f.job (.child k c) va =
      match copyOf f c (granule va), twinOf f (granule va) with
      | some y, _ => y.getD (va - granule va) 0
      | none, some y => y.getD (va - granule va) 0
      | none, none => s.viewByte n f.job f.parent va := by
  have hnone : s.forksFrom f.job (.child k c) = [] := by simpa [State.frozen] using hopen
  simp only [State.viewByte, hnone, List.findSome?_nil, hf]
  cases copyOf f c (granule va) with
  | some y => rfl
  | none => cases twinOf f (granule va) <;> rfl

theorem sub_granule (va : Nat) : va - granule va = va % 128 := by
  unfold granule
  omega

/-! ## The first write of a child to a granule (R128) -/

/-- What the first write of child `c` to granule `g` makes of its fork: the twin `t`, if there is none, and the copy. -/
def Fork.firstTouch (f : Fork) (c g : Nat) (t : List Byte) (bad : List (Option Nat × Nat)) : Fork :=
  { f with twins := if (twinOf f g).isSome then f.twins else f.twins ++ [(g, t)], copies := f.copies ++ [(c, g, t)],
           poisoned := bad }

theorem twinOf_firstTouch (f : Fork) (c g x : Nat) (t : List Byte) (bad : List (Option Nat × Nat)) :
    twinOf (f.firstTouch c g t bad) x = if x = g then some ((twinOf f g).getD t) else twinOf f x := by
  have hcopies : twinOf (f.firstTouch c g t bad) x =
      twinOf { f with twins := if (twinOf f g).isSome then f.twins else f.twins ++ [(g, t)] } x := rfl
  rw [hcopies]
  cases hg : twinOf f g with
  | none =>
    rw [Option.isSome_none, if_neg (by decide), twinOf_append]
    by_cases hx : x = g <;> simp [hx, hg]
  | some y =>
    by_cases hx : x = g
    · simpa [hx] using hg
    · simp [hx]

theorem copyOf_firstTouch (f : Fork) (c g d x : Nat) (t : List Byte) (bad : List (Option Nat × Nat)) :
    copyOf (f.firstTouch c g t bad) d x = (copyOf f d x).or (if (d, x) = (c, g) then some t else none) :=
  copyOf_append f c g d x t

/-- The bytes that a child's first write to a granule starts from. -/
def State.startOf (s : State) (f : Fork) (g : Nat) : List Byte := (twinOf f g).getD (s.viewBytes f.job f.parent g 128)

theorem State.getD_startOf (s : State) (f : Fork) (g : Nat) : (twinOf f g).getD (s.startOf f g) = s.startOf f g := by
  unfold State.startOf
  cases twinOf f g <;> rfl

theorem State.touchGranule_first {s : State} {k c g : Nat} {f : Fork} (hf : s.fork? k = some f) (hcopy : copyOf f c g = none) :
    ∃ bad, (s.touchGranule k c g).fork? k = some (f.firstTouch c g (s.startOf f g) bad) := by
  simp only [State.touchGranule, hf]
  rw [State.fork?_updFork_self, hf]
  · simp only [Option.map_some, hcopy, Option.isSome_none, Bool.false_eq_true, if_false]
    exact ⟨_, rfl⟩
  · exact fun _ => rfl

/-- A child's first write to a granule makes the twin, and the copy with the bytes written; other twins and copies stay. -/
theorem State.viewWrite_first {s : State} {k c : Nat} {f : Fork} (hf : s.fork? k = some f) (va : Nat) (bs : List Byte)
    (hcopy : copyOf f c (granule va) = none) :
    ∃ h, (s.viewWrite k c va bs).fork? k = some h ∧ twinOf h (granule va) = some (s.startOf f (granule va)) ∧
      copyOf h c (granule va) = some (spliceBytes (s.startOf f (granule va)) (va - granule va) bs) ∧
      (∀ x, x ≠ granule va → twinOf h x = twinOf f x) ∧
      ∀ d x, (d, x) ≠ (c, granule va) → copyOf h d x = copyOf f d x := by
  obtain ⟨bad, htouch⟩ := State.touchGranule_first hf hcopy
  have htwin (x : Nat) := twinOf_firstTouch f c (granule va) x (s.startOf f (granule va)) bad
  rw [State.getD_startOf] at htwin
  have hedit (d x : Nat) := copyOf_editedCopies (f.firstTouch c (granule va) (s.startOf f (granule va)) bad) c (granule va) d x
    fun t => spliceBytes t (va - granule va) bs
  simp only [copyOf_firstTouch] at hedit
  simp only [State.viewWrite]
  rw [State.fork?_updFork_self, htouch]
  · refine ⟨_, rfl, (htwin _).trans (if_pos rfl), ?_, fun x hx => (htwin x).trans (if_neg hx), fun d x hx => ?_⟩
    · exact (hedit c (granule va)).trans (by simp [hcopy])
    · exact (hedit d x).trans (by simp only [if_neg hx, Option.or_none, Option.map_id'])
  · exact fun _ => rfl

theorem State.viewWrite_mem (s : State) (k c va : Nat) (bs : List Byte) : (s.viewWrite k c va bs).mem = s.mem := by
  simp only [State.viewWrite, State.updFork_mem, State.touchGranule]
  cases s.fork? k <;> rfl

end Sys2Proof.Machine

/-! PROOFS. The fold of a child: while others are left it is counted, and with the last one the granules merge into the parent's
view (R132 to R136, R440). -/

namespace Sys2Proof.Machine

open Sys2Proof Sys2Proof.Spec

/-! ## CHILD_FOLD -/

theorem exec_childFold (fork child : Nat) (s : State) : exec (.childFold fork child) s = execChildFold fork child s := rfl

/-- Requests of a class that has credit on every die are made. -/
theorem State.underCredit_credited {s : State} {c : Nat} (h : ∀ d, (s.die d).credited c = true) (ds : List Nat)
    (go : State → State) : s.underCredit c ds go = go s := by
  have hnone : s.shortOf c ds = none := by simp [State.shortOf, h]
  simp only [State.underCredit, hnone]

theorem State.foldOpen_ended {s : State} {f : Fork} {g : Grid} (hclocks : s.clocksRun = true) (hleft : f.folded < f.children)
    (hg : s.grid? f.grid = some g) (hended : f.folded ∈ g.ended) (hafter : f.after = []) : s.foldOpen f f.folded = true := by
  simp [State.foldOpen, hclocks, hleft, hg, hafter, State.childEnded, hended]

theorem Fork.poisonFor_clean {f : Fork} (h : f.poisoned = []) (child : Nat) : f.poisonFor child = none := by
  simp [Fork.poisonFor, h, leastBy]

/-- An ended child of a fork without poison folds: it is counted, or the fork merges. -/
theorem childFold_folds {s : State} {key : Nat} {f : Fork} {g : Grid} (hf : s.fork? key = some f) (hclocks : s.clocksRun = true)
    (hleft : f.folded < f.children) (hg : s.grid? f.grid = some g) (hended : f.folded ∈ g.ended) (hafter : f.after = [])
    (hclean : f.poisoned = []) (hcredit : ∀ d, (s.die d).credited 2 = true) :
    exec (.childFold key f.folded) s =
      .next (if f.folded + 1 < f.children then s.updFork key fun h => { h with folded := f.folded + 1 } else s.mergeFork f) := by
  simp only [exec_childFold, execChildFold, hf, State.foldOpen_ended hclocks hleft hg hended hafter, Bool.not_true,
    Bool.false_eq_true, if_false, State.underCredit_credited hcredit, Fork.poisonFor_clean hclean]

/-! ## Elements (R133, R134) -/

/-- Bytes of an element of a page: of the page's type where it folds with an operator that Table 6-2 accepts, else one. -/
def Leaf.elementBytes (lf : Leaf) : Nat :=
  if lf.rop ≠ 0 ∧ ropAccepts lf.rop.toNat lf.rtype.toNat = true then NumType.width (numTypeOf lf.rtype.toNat) / 8 else 1

/-- Elements fill a granule. -/
theorem Leaf.elementBytes_dvd (lf : Leaf) : lf.elementBytes ∣ 128 := by
  have hall : ∀ rop rtype : BitVec 4, rop ≠ 0 ∧ ropAccepts rop.toNat rtype.toNat = true →
      NumType.width (numTypeOf rtype.toNat) / 8 ∣ 128 := by decide +kernel
  unfold Leaf.elementBytes
  split
  · next h => exact hall lf.rop lf.rtype h
  · exact Nat.one_dvd 128

theorem State.granuleRule_bytes {s : State} {job g : Nat} {lf : Leaf} (h : s.walkKey job g = some lf) :
    (s.granuleRule job g).2.2 = lf.elementBytes := by
  simp only [State.granuleRule, h, Leaf.elementBytes, Bool.and_eq_true, bne_iff_ne]
  split <;> rfl

/-- Element `j` of a granule's bytes, of `n` bytes. -/
def elementOf (n j : Nat) (bs : List Byte) : List Byte := (bs.drop (n * j)).take n

/-- Of one copy, an element that differs from the twin's replaces it, whatever the operator. -/
theorem mergeElement_one (rop : Nat) (ty : NumType) (n j c : Nat) (twin copy : List Byte) :
    mergeElement rop ty (n * j) n twin [(c, copy)] =
      if elementOf n j copy = elementOf n j twin then .same else .set (elementOf n j copy) := by
  by_cases h : elementOf n j copy = elementOf n j twin
  · have h' := h
    unfold elementOf at h'
    simp [mergeElement, h, h']
  · have h' := h
    unfold elementOf at h'
    simp [mergeElement, h', elementOf]

/-- The elements in which a copy differs from its twin. -/
def changedElements (n : Nat) (twin copy : List Byte) : List Nat :=
  (List.range (128 / n)).filter fun j => elementOf n j copy ≠ elementOf n j twin

theorem changedElements_fit {n j : Nat} {twin copy : List Byte} (hn : n ∣ 128) (hj : j ∈ changedElements n twin copy) :
    n * j + n ≤ 128 := by
  have hj' : j + 1 ≤ 128 / n := by simpa using List.mem_of_mem_filter hj
  calc n * j + n = n * (j + 1) := (Nat.mul_succ n j).symm
    _ ≤ n * (128 / n) := Nat.mul_le_mul_left n hj'
    _ = 128 := Nat.mul_div_cancel' hn

/-- Element `j` of a copy of granule `g`, with its address. -/
def pieceOf (g n : Nat) (copy : List Byte) (j : Nat) : Nat × List Byte := (g + n * j, elementOf n j copy)

theorem filterMap_eq_map_filter {α β : Type} (p : α → Bool) (h : α → β) (xs : List α) :
    xs.filterMap (fun x => if p x then some (h x) else none) = (xs.filter p).map h := by
  induction xs with
  | nil => rfl
  | cons x xs ih => cases hp : p x <;> simp [hp, ih]

/-- A granule that one child wrote merges into the elements that it changed, without a conflict. -/
theorem State.mergeGranule_one {s : State} {f : Fork} {c g : Nat} {twin copy : List Byte} {lf : Leaf}
    (htwins : f.twins = [(g, twin)]) (hcopies : f.copies = [(c, g, copy)]) (hwalk : s.walkKey f.job g = some lf) :
    s.mergeGranule f g = ((changedElements lf.elementBytes twin copy).map (pieceOf g lf.elementBytes copy), []) := by
  have hbytes := State.granuleRule_bytes hwalk
  rcases hrule : s.granuleRule f.job g with ⟨rop, ty, n⟩
  rw [hrule] at hbytes
  obtain rfl : n = lf.elementBytes := hbytes
  have htwin : twinOf f g = some twin := by simp [twinOf, htwins]
  have hcopy : sortBy (fun c : Nat × List Byte => c.1) ((f.copies.filter fun c => c.2.1 == g).map fun c => (c.1, c.2.2)) =
      [(c, copy)] := by simp [hcopies, sortBy, insertBy]
  simp only [State.mergeGranule, hrule, htwin, hcopy, Option.getD_some, mergeElement_one, List.filterMap_map]
  refine Prod.ext ?_ ?_
  · rw [changedElements, ← filterMap_eq_map_filter]
    refine List.filterMap_congr fun j _ => ?_
    by_cases h : elementOf lf.elementBytes j copy = elementOf lf.elementBytes j twin <;> simp [h, pieceOf]
  · simp only [List.filter_eq_nil_iff, List.mem_map]
    rintro _ ⟨j, -, rfl⟩
    by_cases h : elementOf lf.elementBytes j copy = elementOf lf.elementBytes j twin <;> simp [h]

/-! ## The merged bytes in memory -/

/-- The elements `js` of a copy written to the granule at `pa`. -/
def writeElements (pa n : Nat) (copy : List Byte) (js : List Nat) (m : Memory) : Memory :=
  js.foldl (fun m j => memPuts m (pa + n * j) (elementOf n j copy)) m

theorem elementOf_length {n j : Nat} {bs : List Byte} (h : n * j + n ≤ bs.length) : (elementOf n j bs).length = n := by
  simp only [elementOf, List.length_take, List.length_drop]
  omega

theorem elementOf_getD {n j x : Nat} (bs : List Byte) (h : x < n) : (elementOf n j bs).getD x 0 = bs.getD (n * j + x) 0 := by
  simp [elementOf, List.getD_eq_getElem?_getD, h]

/-- A byte of a written element is the copy's, and every other byte is as before. -/
theorem memGet_writeElements {pa n : Nat} {copy : List Byte} (hn : 0 < n) {js : List Nat}
    (hjs : ∀ j ∈ js, n * j + n ≤ copy.length) (m : Memory) (y : Nat) :
    memGet (writeElements pa n copy js m) y = if pa ≤ y ∧ (y - pa) / n ∈ js then copy.getD (y - pa) 0 else memGet m y := by
  induction js generalizing m with
  | nil => simp [writeElements]
  | cons j js ih =>
    have hrest := ih (fun i hi => hjs i (List.mem_cons_of_mem _ hi)) (memPuts m (pa + n * j) (elementOf n j copy))
    have hhit : pa ≤ y ∧ (y - pa) / n = j ↔ pa + n * j ≤ y ∧ y < pa + n * j + n := by
      rw [Nat.div_eq_iff hn, Nat.mul_comm j n]
      omega
    rw [writeElements, List.foldl_cons, ← writeElements, hrest, memGet_puts, elementOf_length (hjs j List.mem_cons_self)]
    simp only [List.mem_cons]
    by_cases hold : pa ≤ y ∧ (y - pa) / n ∈ js
    · rw [if_pos hold, if_pos ⟨hold.1, .inr hold.2⟩]
    · rw [if_neg hold]
      by_cases hnew : pa ≤ y ∧ (y - pa) / n = j
      · have hrange := hhit.1 hnew
        rw [if_pos hrange, if_pos ⟨hnew.1, .inl hnew.2⟩, elementOf_getD copy (by omega)]
        congr 1
        omega
      · rw [if_neg fun h => hnew (hhit.2 h), if_neg]
        rintro ⟨hle, heq | hin⟩
        · exact hnew ⟨hle, heq⟩
        · exact hold ⟨hle, hin⟩

/-- The addresses of a granule at `base` reach DRAM from `pa` on through leaf `lf`, whatever stands there. -/
def MapsGranule (s : State) (job base pa : Nat) (lf : Leaf) : Prop :=
  pa = lf.addr + (base - lf.base) ∧ lf.base ≤ base ∧ base % 128 = 0 ∧ base < 2 ^ 60 ∧
  ∀ (m : Memory) va, base ≤ va → va < base + 128 → (∀ y, y < pa ∨ pa + 128 ≤ y → memGet m y = memGet s.mem y) →
    ({ s with mem := m } : State).walkJob job va = some lf

theorem MapsGranule.walkKey {s : State} {job base pa : Nat} {lf : Leaf} (h : MapsGranule s job base pa lf) {va : Nat}
    (hlow : base ≤ va) (hhigh : va < base + 128) : s.walkKey job va = some lf := by
  obtain ⟨-, -, halign, hsmall, hwalk⟩ := h
  have hkey : va < awayBase := by
    unfold awayBase
    omega
  rw [State.walkKey, if_pos hkey]
  exact hwalk s.mem va hlow hhigh fun _ _ => rfl

theorem MapsGranule.keyPa {s : State} {job base pa : Nat} {lf : Leaf} (h : MapsGranule s job base pa lf) {x : Nat}
    (hx : x < 128) : s.keyPa job (base + x) = some (pa + x) := by
  have hwalk := h.walkKey (va := base + x) (by omega) (by omega)
  obtain ⟨hpa, hbase, -⟩ := h
  rw [State.keyPa, hwalk, Option.map_some, hpa]
  congr 1
  omega

/-- Writes inside the granule keep its mapping. -/
theorem MapsGranule.keeps {s : State} {job base pa : Nat} {lf : Leaf} (h : MapsGranule s job base pa lf) {m : Memory}
    (hm : ∀ y, y < pa ∨ pa + 128 ≤ y → memGet m y = memGet s.mem y) (g : List Migration) :
    MapsGranule { s with mem := m, migrations := g } job base pa lf := by
  obtain ⟨hpa, hbase, halign, hsmall, hwalk⟩ := h
  exact ⟨hpa, hbase, halign, hsmall, fun k va hlow hhigh hk =>
    hwalk k va hlow hhigh fun y hy => (hk y hy).trans (hm y hy)⟩

/-- Bytes within one granule of the root view are one write to memory. -/
theorem State.viewWrites_root {s : State} {job va pa : Nat} {bs : List Byte} (hpa : s.keyPa job va = some pa)
    (hfit : va % 128 + bs.length ≤ 128) (hbs : bs ≠ []) : s.viewWrites 2 .root job va bs = s.pokePhys pa bs := by
  have htake : bs.take (128 - va % 128) = bs := List.take_of_length_le (by omega)
  have hdrop : bs.drop (128 - va % 128) = [] := List.drop_of_length_le (by omega)
  have hempty : bs.isEmpty = false := by simpa using hbs
  simp [State.viewWrites, hempty, htake, hdrop, hpa]

/-- Elements of a granule written to the root view: memory alone changes, and what migrations record. -/
theorem State.foldl_viewWrites {s : State} {job base pa n : Nat} {lf : Leaf} {copy : List Byte} {js : List Nat}
    (hq : Quiet s) (hmap : MapsGranule s job base pa lf) (hn : 0 < n) (hlen : copy.length = 128)
    (hjs : ∀ j ∈ js, n * j + n ≤ 128) :
    ∃ g, (js.map (pieceOf base n copy)).foldl (fun s p => s.viewWrites 2 .root job p.1 p.2) s =
      { s with mem := writeElements pa n copy js s.mem, migrations := g } := by
  induction js generalizing s with
  | nil => exact ⟨s.migrations, rfl⟩
  | cons j js ih =>
    have hj := hjs j List.mem_cons_self
    have hlength : (elementOf n j copy).length = n := elementOf_length (by omega)
    have halign : base % 128 = 0 := hmap.2.2.1
    have hpoke : s.viewWrites 2 .root job (base + n * j) (elementOf n j copy) =
        { s with
          mem := memPuts s.mem (pa + n * j) (elementOf n j copy)
          migrations := (s.pokePhys (pa + n * j) (elementOf n j copy)).migrations } := by
      rw [State.viewWrites_root (hmap.keyPa (by omega)) (by rw [hlength]; omega) (by
        rintro h
        rw [h] at hlength
        exact absurd hlength (by simp; omega))]
      exact State.pokePhys_quiet hq _ _
    obtain ⟨g, hrest⟩ := ih (s := { s with
          mem := memPuts s.mem (pa + n * j) (elementOf n j copy)
          migrations := (s.pokePhys (pa + n * j) (elementOf n j copy)).migrations }) hq
      (hmap.keeps (fun y hy => by rw [memGet_puts, if_neg (by rw [hlength]; omega)]) _)
      fun i hi => hjs i (List.mem_cons_of_mem _ hi)
    refine ⟨g, ?_⟩
    rw [List.map_cons, List.foldl_cons, pieceOf, hpoke, hrest]
    rfl

/-! ## The merge of a fork (R132, R136) -/

theorem Conflict.join_none (x : Option Conflict) : Conflict.join x none = x := by cases x <;> rfl

/-- No handle waits for a fork without an owner. -/
theorem State.fullFork_unowned {s : State} {k : Nat} {f : Fork} (hf : s.fork? k = some f) (hown : f.owner = none) :
    s.fullFork k = s := by
  simp only [State.fullFork, hf, hown]
  split <;> rfl

theorem Fork.granules_one {f : Fork} {c g : Nat} {copy : List Byte} (h : f.copies = [(c, g, copy)]) : f.granules = [g] := by
  simp [Fork.granules, h, dedupe, sortBy, insertBy]

/-- The last child of a fork counted, and the merge's conflicts with it. -/
def Fork.merged (f : Fork) : Fork := { f with folded := f.children }

/-- A fork of the root view without an owner, one granule of which one child wrote, merges: the elements that the child changed are
written to memory, the merge is charged for, and the fork counts its last child. -/
theorem State.mergeFork_one {s : State} {f : Fork} {c base pa : Nat} {twin copy : List Byte} {lf : Leaf}
    (hf : s.fork? f.key = some f) (hparent : f.parent = .root) (hown : f.owner = none) (hclean : f.poisoned = [])
    (htwins : f.twins = [(base, twin)]) (hcopies : f.copies = [(c, base, copy)]) (hq : Quiet s)
    (hmap : MapsGranule s f.job base pa lf) (hlen : copy.length = 128) :
    ∃ ds ms, s.mergeFork f =
      { s.updFork f.key Fork.merged with
        mem := writeElements pa lf.elementBytes copy (changedElements lf.elementBytes twin copy) s.mem
        dies := ds
        migrations := ms } := by
  have hwalk : s.walkKey f.job base = some lf := hmap.walkKey (Nat.le_refl _) (by omega)
  have hmerge := State.mergeGranule_one htwins hcopies hwalk
  have hpos : 0 < lf.elementBytes := Nat.pos_of_dvd_of_pos lf.elementBytes_dvd (by decide)
  obtain ⟨ms, hwrites⟩ := State.foldl_viewWrites hq hmap hpos hlen fun j =>
    changedElements_fit (twin := twin) (copy := copy) lf.elementBytes_dvd
  have hset : s.setParent f ((changedElements lf.elementBytes twin copy).map (pieceOf base lf.elementBytes copy)) =
      { s with
        mem := writeElements pa lf.elementBytes copy (changedElements lf.elementBytes twin copy) s.mem
        migrations := ms } := by
    simp only [State.setParent, hparent, hwrites, hclean]
    rfl
  have hjoin : (fun h : Fork => { h with folded := h.children, conflict := Conflict.join h.conflict (conflictFrom []) }) =
      Fork.merged := by
    funext h
    simp only [conflictFrom, Conflict.join_none, Fork.merged]
  simp only [State.mergeFork, hparent, Fork.granules_one hcopies, List.map_cons, List.map_nil, hmerge, List.flatMap_cons,
    List.flatMap_nil, List.append_nil, hset, List.foldl_cons, List.foldl_nil, hjoin]
  rw [State.charge_only]
  generalize (State.charge _ _ _ _).dies = ds
  rw [State.fullFork_unowned (f := f.merged)]
  · exact ⟨ds, ms, rfl⟩
  · refine (State.fork?_updFork_self (F := Fork.merged) _ _ fun _ => rfl).trans ?_
    exact congrArg (Option.map Fork.merged) hf
  · exact hown

/-- A byte's element is among the changed ones where the byte lies in the granule and its element differs. -/
theorem mem_changedElements {n : Nat} {twin copy : List Byte} (hn : n ∣ 128) (x : Nat) :
    x / n ∈ changedElements n twin copy ↔ x < 128 ∧ elementOf n (x / n) copy ≠ elementOf n (x / n) twin := by
  have hrange : x / n < 128 / n ↔ x < 128 := by
    rw [Nat.div_lt_iff_lt_mul (Nat.pos_of_dvd_of_pos hn (by decide)), Nat.div_mul_cancel hn]
  simp [changedElements, hrange]

/-- Memory after the merge of a granule that one child wrote. -/
theorem memGet_merged {pa n : Nat} {twin copy : List Byte} (hn : n ∣ 128) (hlen : copy.length = 128) (m : Memory) (y : Nat) :
    memGet (writeElements pa n copy (changedElements n twin copy) m) y =
      if pa ≤ y ∧ y - pa < 128 ∧ elementOf n ((y - pa) / n) copy ≠ elementOf n ((y - pa) / n) twin then copy.getD (y - pa) 0
      else memGet m y := by
  have hfit : ∀ j ∈ changedElements n twin copy, n * j + n ≤ copy.length := fun j hj => hlen ▸ changedElements_fit hn hj
  rw [memGet_writeElements (Nat.pos_of_dvd_of_pos hn (by decide)) hfit]
  simp only [mem_changedElements hn]

end Sys2Proof.Machine

/-! PROOFS. What a child sees and how it is folded (R127, R128, R132, R133, R440). -/

namespace Sys2Proof.Machine

open Sys2Proof Sys2Proof.Spec

/-- Settles O41: it holds. Reading, the first write, and the fold have their lemmas above. -/
theorem childrenSeeAndFold : Obligations.ChildrenSeeAndFold := by
  unfold Obligations.ChildrenSeeAndFold
  refine ⟨fun s k c f va hf hopen => ?reading, fun s k c f va bs hf hfit hcopy => ?writing,
    fun s key child f g hf hchild hclocks hlt hg hended hafter hclean hcredit => ?folding⟩
  case reading =>
    have h := State.viewByte_child hf hopen (viewFuel - 1) va
    rw [sub_granule] at h
    exact h
  case writing =>
    obtain ⟨h, hfork, htwin, hcopies, hkeeps⟩ := State.viewWrite_first hf va bs hcopy
    rw [sub_granule] at hcopies
    exact ⟨h, hfork, htwin, hcopies, hkeeps.1, hkeeps.2, State.viewWrite_mem s k c va bs⟩
  case folding =>
    subst hchild
    have hfolds := childFold_folds hf hclocks hlt hg hended hafter hclean hcredit
    refine ⟨fun hmore => ?_, fun base twin copy lf hlast hparent hown haway hq halign hsmall htwin hlen htwins hcopies => ?_⟩
    · rw [hfolds, if_pos hmore]
    · intro pa hleaf hwalk hbase n
      obtain rfl : f.key = key := State.key_of_fork? hf
      have hmap : MapsGranule s f.job base pa lf := ⟨rfl, hbase, halign, hsmall, hwalk⟩
      obtain ⟨ds, ms, hmerge⟩ := State.mergeFork_one hf hparent hown hclean htwins hcopies hq hmap hlen
      have hdvd : n ∣ 128 := lf.elementBytes_dvd
      refine ⟨_, (hfolds.trans (by rw [if_neg (by omega)])), ?_, ?_, fun y hy => ?_, fun j hj => ?_⟩
      · rw [hmerge]
        rfl
      · rw [hmerge]
        refine (State.fork?_updFork_self (F := Fork.merged) _ _ fun _ => rfl).trans ?_
        rw [hf]
        rfl
      · rw [hmerge]
        exact (memGet_merged hdvd hlen s.mem y).trans (if_neg (by omega))
      · rw [hmerge]
        refine (memGet_merged hdvd hlen s.mem (pa + j)).trans ?_
        simp only [Nat.le_add_right, Nat.add_sub_cancel_left, hj, true_and, elementOf, Nat.mul_comm n]
        exact ite_not _ _ _

end Sys2Proof.Machine

/-! PROOFS. Taking an exception: what it leaves of a block's threads, how the block, its partner and the blocks above it stop, and
its record (R406 to R412, R446, Table 19-2). -/

namespace Sys2Proof.Machine

open Sys2Proof Sys2Proof.Spec

/-! ## Blocks changed one by one -/

/-- The blocks of `t` are those of `s`, each changed by `F`, which keeps its key. -/
def BlocksMapped (F : Block → Block) (s t : State) : Prop := t.blocks = s.blocks.map F ∧ ∀ x, (F x).key = x.key

theorem BlocksMapped.refl (s : State) : BlocksMapped id s s := ⟨by simp, fun _ => rfl⟩

theorem BlocksMapped.trans {F G : Block → Block} {s t u : State} (h : BlocksMapped F s t) (k : BlocksMapped G t u) :
    BlocksMapped (G ∘ F) s u :=
  ⟨by rw [k.1, h.1, List.map_map], fun x => (k.2 (F x)).trans (h.2 x)⟩

theorem BlocksMapped.block? {F : Block → Block} {s t : State} (h : BlocksMapped F s t) (k : Nat) :
    t.block? k = (s.block? k).map F := by
  have hkey : ((fun b : Block => b.key == k) ∘ F) = fun b => b.key == k := funext fun b => by simp [h.2]
  rw [State.block?, h.1, List.find?_map, hkey]
  rfl

/-- One block changed, as a change of each. -/
def atKey (k : Nat) (f : Block → Block) (x : Block) : Block := if x.key == k then f x else x

theorem atKey_self {k : Nat} {x : Block} (h : x.key = k) (f : Block → Block) : atKey k f x = f x := by simp [atKey, h]

theorem atKey_other {k : Nat} {x : Block} (h : x.key ≠ k) (f : Block → Block) : atKey k f x = x := by simp [atKey, h]

theorem State.updBlock_mapped (s : State) (k : Nat) {f : Block → Block} (h : ∀ x, (f x).key = x.key) :
    BlocksMapped (atKey k f) s (s.updBlock k f) := by
  refine ⟨rfl, fun x => ?_⟩
  unfold atKey
  split
  · exact h x
  · rfl

theorem State.key_of_block? {s : State} {k : Nat} {b : Block} (h : s.block? k = some b) : b.key = k := by
  simpa using List.find?_some h

/-! ## What an exception leaves of a strand -/

/-- No thread's program counter or status has changed, nor any register unless a subjunctive run has ended. -/
def Strand.Stays (x y : Strand) : Prop :=
  (∀ l, ((y.lane l).pc, (y.lane l).status) = ((x.lane l).pc, (x.lane l).status)) ∧
  (x.run = none → y.run = none ∧ y.regs = x.regs)

theorem Strand.Stays.refl (x : Strand) : x.Stays x := ⟨fun _ => rfl, fun h => ⟨h, rfl⟩⟩

theorem Strand.Stays.trans {x y z : Strand} (h : x.Stays y) (k : y.Stays z) : x.Stays z :=
  ⟨fun l => (k.1 l).trans (h.1 l), fun hx => ⟨(k.2 (h.2 hx).1).1, (k.2 (h.2 hx).1).2.trans (h.2 hx).2⟩⟩

/-- A change of lanes that keeps a part of each keeps it in every lane. -/
theorem Strand.lane_updLane_part {β : Type} (part : Lane → β) {f : Lane → Lane} (h : ∀ x, part (f x) = part x) (st : Strand)
    (l m : Nat) : part ((st.updLane l f).lane m) = part (st.lane m) := by
  by_cases hl : l < st.lanes.length
  · rw [Strand.lane_updLane st l m f hl]
    split
    · next hm => rw [h, hm]
    · rfl
  · rw [Strand.updLane, List.modify_eq_self (by omega)]

theorem Strand.updLane_stays {f : Lane → Lane} (h : ∀ x, ((f x).pc, (f x).status) = (x.pc, x.status)) (st : Strand) (l : Nat) :
    st.Stays (st.updLane l f) :=
  ⟨fun m => Strand.lane_updLane_part (fun ln => (ln.pc, ln.status)) h st l m, fun hrun => ⟨hrun, rfl⟩⟩

theorem Strand.foldl_stays {α : Type} {F : Strand → α → Strand} (h : ∀ (st : Strand) (a : α), st.Stays (F st a))
    (as : List α) (st : Strand) : st.Stays (as.foldl F st) := by
  induction as generalizing st with
  | nil => exact .refl st
  | cons a as ih => exact (h st a).trans (ih (F st a))

theorem Strand.updLanes_stays {f : Nat → Lane → Lane} (h : ∀ l x, ((f l x).pc, (f l x).status) = (x.pc, x.status))
    (st : Strand) (ls : List Nat) : st.Stays (st.updLanes ls f) :=
  Strand.foldl_stays (fun st l => st.updLane_stays (h l) l) ls st

theorem Strand.restoreRun_lanes (st : Strand) (r : SubjRun) (ls : List Nat) (m : Nat) :
    (((st.restoreRun r ls).lane m).pc, ((st.restoreRun r ls).lane m).status) = ((st.lane m).pc, (st.lane m).status) := by
  have hmood : (r.mood.foldr (fun e st =>
      if ls.contains (e.key / 256) then { st with regs := cellsPut RegWord.zero e.key e.old st.regs } else st) st).lanes =
      st.lanes := by
    induction r.mood with
    | nil => rfl
    | cons e es ih =>
      rw [List.foldr_cons]
      split <;> exact ih
  unfold Strand.restoreRun
  refine ((Strand.foldl_stays (fun st e => ?_) r.stats _).1 m).trans ?_
  · split
    · exact st.updLane_stays (f := fun l => { l with fstat := e.2 }) (fun _ => rfl) e.1
    · exact .refl st
  · rw [Strand.lane, hmood]
    rfl

/-- The end of a subjunctive run takes its registers back, and nothing of a strand without one. -/
theorem Strand.endRun_stays (st : Strand) : st.Stays st.endRun := by
  unfold Strand.endRun Strand.cancelRun
  cases hrun : st.run with
  | none => exact ⟨fun _ => rfl, fun _ => ⟨hrun, rfl⟩⟩
  | some r => exact ⟨st.restoreRun_lanes r r.lanes, fun h => by rw [hrun] at h; cases h⟩

/-! ## What an exception leaves of a block -/

/-- Grid, index, scratchpad and matrix state are as before, and every strand stays. -/
def Block.Stays (x y : Block) : Prop :=
  (y.grid, y.index, y.scratch, y.mat) = (x.grid, x.index, x.scratch, x.mat) ∧ ∀ i, (x.strand i).Stays (y.strand i)

theorem Block.Stays.refl (x : Block) : x.Stays x := ⟨rfl, fun _ => .refl _⟩

theorem Block.Stays.trans {x y z : Block} (h : x.Stays y) (k : y.Stays z) : x.Stays z :=
  ⟨k.1.trans h.1, fun i => (h.2 i).trans (k.2 i)⟩

theorem atKey_stays {k : Nat} {f : Block → Block} (h : ∀ x : Block, x.Stays (f x)) (x : Block) : x.Stays (atKey k f x) := by
  unfold atKey
  split
  · exact h x
  · exact .refl x

theorem Block.strand_map (b : Block) {F : Strand → Strand} (hF : F Strand.absent = Strand.absent) (i : Nat) :
    ({ b with strands := b.strands.map F } : Block).strand i = F (b.strand i) := by
  simp only [Block.strand, List.getD_eq_getElem?_getD, List.getElem?_map]
  cases b.strands[i]? <;> simp [hF]

theorem Block.strand_modify_stays {f : Strand → Strand} (hf : ∀ st : Strand, st.Stays (f st)) (b : Block) (j i : Nat) :
    (b.strand i).Stays (({ b with strands := b.strands.modify j f } : Block).strand i) := by
  by_cases hj : j < b.strands.length
  · by_cases hi : i = j
    · subst hi
      rw [Block.strand_modify_self b i f hj]
      exact hf _
    · rw [Block.strand_modify_other b j i f hi]
      exact .refl _
  · rw [List.modify_eq_self (by omega)]
    exact .refl _

theorem Block.stopFor_stays (b : Block) (why : StopWhy) : b.Stays (b.stopFor why) := by
  have hend (i : Nat) : (b.strand i).Stays (({ b with strands := b.strands.map Strand.endRun } : Block).strand i) := by
    rw [Block.strand_map b rfl]
    exact Strand.endRun_stays _
  unfold Block.stopFor
  split
  · exact ⟨rfl, hend⟩
  · exact ⟨rfl, hend⟩
  · exact .refl b

theorem Block.stopFor_key (b : Block) (why : StopWhy) : (b.stopFor why).key = b.key := by
  unfold Block.stopFor
  split <;> rfl

theorem Block.stopFor_stops (b : Block) (why : StopWhy) : (b.stopFor why).stops = b.stops := by
  unfold Block.stopFor
  split <;> rfl

/-- A block that halts at once keeps its reason. -/
theorem Block.stopFor_atOnce {b : Block} {w : StopWhy} (h : b.state = .stopping w) (hw : w.atOnce = true) (why : StopWhy) :
    (b.stopFor why).state = .stopping w := by
  simp [Block.stopFor, h, hw]

theorem Block.stopFor_running {b : Block} (h : b.state = .running) (why : StopWhy) : (b.stopFor why).state = .stopping why := by
  simp [Block.stopFor, h]

/-- A block that issues stops for its fault. -/
theorem Block.stopFor_fault {b : Block} (h : Block.issues b) : (b.stopFor .fault).state = .stopping .fault := by
  rcases h with h | ⟨w, h, hw⟩
  · exact Block.stopFor_running h .fault
  · have hfault : StopWhy.fault.atOnce = true := rfl
    simp [Block.stopFor, h, hw, hfault]

/-! ## The stops of a fault (R408, R446) -/

/-- A change of blocks that stays, and that leaves everything but the blocks. -/
def Halts (F : Block → Block) (s t : State) : Prop :=
  BlocksMapped F s t ∧ (∀ x : Block, x.Stays (F x)) ∧ t = { s with blocks := t.blocks }

theorem Halts.trans {F G : Block → Block} {s t u : State} (h : Halts F s t) (k : Halts G t u) : Halts (G ∘ F) s u :=
  ⟨h.1.trans k.1, fun x => (h.2.1 x).trans (k.2.1 (F x)), by rw [k.2.2, h.2.2]⟩

theorem Halts.refl (s : State) : Halts id s s := ⟨.refl s, .refl, rfl⟩

theorem State.updBlock_halts (s : State) (k : Nat) {f : Block → Block} (hkey : ∀ x, (f x).key = x.key)
    (h : ∀ x : Block, x.Stays (f x)) : Halts (atKey k f) s (s.updBlock k f) :=
  ⟨s.updBlock_mapped k hkey, atKey_stays h, rfl⟩

/-- A change of blocks that keeps grids and indices finds the same partner. -/
theorem BlocksMapped.partner? {F : Block → Block} {s t : State} (h : BlocksMapped F s t) (hstays : ∀ x : Block, x.Stays (F x))
    (hgrids : t.grids = s.grids) (b : Block) : t.partner? b = (s.partner? b).map F := by
  have hteam : t.isTeamed b = s.isTeamed b := by rw [State.isTeamed, State.grid?, hgrids]; rfl
  have hsame (x : Block) : (F x).grid = x.grid ∧ (F x).index = x.index := by
    have := (hstays x).1
    simp only [Prod.mk.injEq] at this
    exact ⟨this.1, this.2.1⟩
  have hfind : ((fun p : Block => p.grid == b.grid && p.index == b.index ^^^ 1) ∘ F) =
      fun p => p.grid == b.grid && p.index == b.index ^^^ 1 := funext fun p => by simp [hsame]
  simp only [State.partner?, hteam, h.1, List.find?_map, hfind]
  split <;> rfl

/-- The blocks above a faulted one of a DET grid are held, and no others change. -/
theorem State.holdFrontier_halts (s : State) (grid : Nat) :
    ∃ F, Halts F s (s.holdFrontier grid) ∧ ∀ x, F x = x ∨ F x = x.stopFor .frontier := by
  unfold State.holdFrontier
  split
  · exact ⟨id, .refl s, fun x => .inl rfl⟩
  · split
    · exact ⟨id, .refl s, fun x => .inl rfl⟩
    · split
      · exact ⟨id, .refl s, fun x => .inl rfl⟩
      · refine ⟨_, ⟨⟨rfl, fun x => ?_⟩, fun x => ?_, rfl⟩, fun x => ?_⟩
        · dsimp only
          split
          · exact Block.stopFor_key x .frontier
          · rfl
        · dsimp only
          split
          · exact Block.stopFor_stays x .frontier
          · exact .refl x
        · dsimp only
          split
          · exact .inr rfl
          · exact .inl rfl

theorem State.holdFrontier_open {s : State} {b : Block} (h : s.isDet b = false) : s.holdFrontier b.grid = s := by
  unfold State.isDet at h
  unfold State.holdFrontier
  cases hg : s.grid? b.grid with
  | none => rfl
  | some g =>
    have hdet : g.launch.det = false := by simpa [hg] using h
    simp [hdet]

/-- The faulting block's own stop. -/
def Block.faultStop (first : Option (Nat × Nat)) (x : Block) : Block :=
  { x.stopFor .fault with faultAt := if x.haltsNow then x.faultAt else first }

theorem Block.faultStop_stays (first : Option (Nat × Nat)) (x : Block) : x.Stays (x.faultStop first) := x.stopFor_stays .fault

/-- The partner's stop, where there is one, as a change of each block. -/
def State.partnerStop (s : State) (b : Block) : Block → Block :=
  match s.partner? b with
  | some p => atKey p.key fun x => x.stopFor .partner
  | none => id

/-- The state in which the partner has stopped. -/
def State.stopPartner (s : State) (b : Block) : State :=
  match s.partner? b with
  | some p => s.updBlock p.key fun x => x.stopFor .partner
  | none => s

theorem State.stopPartner_halts (s : State) (b : Block) : Halts (s.partnerStop b) s (s.stopPartner b) := by
  unfold State.partnerStop State.stopPartner
  cases s.partner? b with
  | none => exact .refl s
  | some p => exact s.updBlock_halts p.key (fun x => x.stopFor_key .partner) fun x => x.stopFor_stays .partner

/-- A change of blocks that keeps grids and indices stops the same partner. -/
theorem BlocksMapped.partnerStop {F : Block → Block} {s t : State} (h : BlocksMapped F s t) (hstays : ∀ x : Block, x.Stays (F x))
    (hgrids : t.grids = s.grids) (b : Block) : t.partnerStop b = s.partnerStop b := by
  unfold State.partnerStop
  rw [h.partner? hstays hgrids]
  cases s.partner? b with
  | none => rfl
  | some p => simp only [Option.map_some, h.2]

/-- A fault stops its block, then the partner, then what stands above it in a DET grid. -/
theorem State.stopFault_halts (s : State) (b : Block) :
    ∃ first F, Halts (F ∘ s.partnerStop b ∘ atKey b.key (Block.faultStop first)) s (s.stopFault b) ∧
      (∀ x, F x = x ∨ F x = x.stopFor .frontier) ∧ (s.isDet b = false → F = id) := by
  let first := some (s.coreClock b.core, s.cur.strand)
  have hself := s.updBlock_halts b.key (f := Block.faultStop first) (fun x => x.stopFor_key .fault) (Block.faultStop_stays first)
  have hboth := hself.trans (State.stopPartner_halts _ b)
  rw [hself.1.partnerStop hself.2.1 rfl] at hboth
  have hstop : s.stopFault b = ((s.updBlock b.key (Block.faultStop first)).stopPartner b).holdFrontier b.grid := rfl
  rw [hstop]
  by_cases hdet : s.isDet b = false
  · have hopen : ((s.updBlock b.key (Block.faultStop first)).stopPartner b).isDet b = false := by
      rw [hboth.2.2]
      exact hdet
    rw [State.holdFrontier_open hopen]
    exact ⟨first, id, hboth, fun x => .inl rfl, fun _ => rfl⟩
  · obtain ⟨F, hF, hcases⟩ := State.holdFrontier_halts ((s.updBlock b.key (Block.faultStop first)).stopPartner b) b.grid
    exact ⟨first, F, hboth.trans hF, hcases, fun h => absurd h hdet⟩

/-! ## What a record's entry leaves of the blocks (R411, R412) -/

/-- The threads stay, and with them the block's state and its records. -/
def Block.Rests (x y : Block) : Prop := x.Stays y ∧ (y.state, y.stops) = (x.state, x.stops)

theorem Block.Rests.refl (x : Block) : x.Rests x := ⟨.refl x, rfl⟩

theorem Block.Rests.trans {x y z : Block} (h : x.Rests y) (k : y.Rests z) : x.Rests z := ⟨h.1.trans k.1, k.2.trans h.2⟩

/-- Every block rests. -/
def Resting (s t : State) : Prop := ∃ F, BlocksMapped F s t ∧ ∀ x : Block, x.Rests (F x)

theorem Resting.of_blocks {s t : State} (h : t.blocks = s.blocks) : Resting s t := ⟨id, ⟨by simp [h], fun _ => rfl⟩, .refl⟩

theorem Resting.trans {s t u : State} (h : Resting s t) (k : Resting t u) : Resting s u := by
  obtain ⟨F, hF, hrestF⟩ := h
  obtain ⟨G, hG, hrestG⟩ := k
  exact ⟨_, hF.trans hG, fun x => (hrestF x).trans (hrestG (F x))⟩

/-- A change of each lane by its number that keeps program counters and statuses. -/
theorem Strand.mapLanes_stays {f : Nat → Lane → Lane} (h : ∀ l x, ((f l x).pc, (f l x).status) = (x.pc, x.status))
    (st : Strand) : st.Stays { st with lanes := st.lanes.mapIdx f } := by
  refine ⟨fun l => ?_, fun hrun => ⟨hrun, rfl⟩⟩
  simp only [Strand.lane, List.getD_eq_getElem?_getD, List.getElem?_mapIdx]
  cases st.lanes[l]? with
  | none => rfl
  | some ln => exact h l ln

theorem Block.mapStrands_stays {f : Nat → Strand → Strand} (h : ∀ i (x : Strand), x.Stays (f i x)) (b : Block) :
    b.Stays { b with strands := b.strands.mapIdx f } := by
  refine ⟨rfl, fun i => ?_⟩
  simp only [Block.strand, List.getD_eq_getElem?_getD, List.getElem?_mapIdx]
  cases b.strands[i]? with
  | none => exact .refl _
  | some st => exact h i st

theorem State.clearResv_resting (s : State) (loc : Loc) (n : Nat) (keep : Nat → Nat → Nat → Bool) :
    Resting s (s.clearResv loc n keep) := by
  unfold State.clearResv
  dsimp only
  refine Resting.trans (t := if s.awayResv.isEmpty then s
    else { s with awayResv := s.awayResv.filter fun r => !r.loc.overlaps 4 loc n }) (.of_blocks (by split <;> rfl)) ?_
  generalize (if s.awayResv.isEmpty then s
    else { s with awayResv := s.awayResv.filter fun r => !r.loc.overlaps 4 loc n }) = u
  split
  · refine ⟨_, ⟨rfl, fun _ => rfl⟩, fun x => ⟨Block.mapStrands_stays (b := x) (fun i st =>
      Strand.mapLanes_stays (st := st) fun l ln => ?_), rfl⟩⟩
    split
    · split <;> rfl
    · rfl
  · exact .of_blocks rfl

theorem State.pokePhys_resting (s : State) (pa : Nat) (bs : List Byte) : Resting s (s.pokePhys pa bs) := by
  unfold State.pokePhys
  refine .trans (.of_blocks ?_) (State.clearResv_resting _ _ _ _)
  rw [State.cleanUnits_only, State.noteWritten_only]

theorem State.windowWrite_blocks (s : State) (p off : Nat) (bs : List Byte) : (s.windowWrite p off bs).blocks = s.blocks := by
  unfold State.windowWrite
  split <;> rfl

/-- The bytes of a record at the ring's next entry, in DRAM or in a host window. -/
def State.writeEntry (s : State) (r : FaultRec) : State :=
  match hostWindow? s.ringEntry with
  | some p => s.windowWrite p (s.ringEntry % 2 ^ 40) (r.bytes (s.mgmt.frprod.toNat % 2 ^ 32))
  | none => s.pokePhys s.ringEntry (r.bytes (s.mgmt.frprod.toNat % 2 ^ 32))

/-- The number of a record at the block that it names. -/
def State.setFaultinfo (s : State) (k : Option Nat) (seq : Dword) : State :=
  match k with
  | some k => s.updBlock k fun b => { b with faultinfo := seq }
  | none => s

/-- A record's entry, the next FRPROD, and the record's number in the list of stops. -/
def State.enterRecord (s : State) (r : FaultRec) : State :=
  { s.writeEntry r with
    mgmt := { (s.writeEntry r).mgmt with frprod := s.mgmt.frprod + 1 }
    stops := (s.writeEntry r).stops.map fun st => if st.id == r.id then { st with seq := some s.mgmt.frprod } else st }

/-- A record written: its entry, and faultinfo of its block. -/
theorem State.writeRecord_eq (s : State) (r : FaultRec) :
    ∃ out, s.writeRecord r = { (s.enterRecord r).setFaultinfo r.block s.mgmt.frprod with hostOut := out } :=
  State.vectors_only ((s.enterRecord r).setFaultinfo r.block s.mgmt.frprod) s.mgmt.irq0 s.mgmt.irq1 0 1 s.mgmt.vec0 s.mgmt.vec1

theorem State.setFaultinfo_resting (s : State) (k : Option Nat) (seq : Dword) : Resting s (s.setFaultinfo k seq) := by
  unfold State.setFaultinfo
  cases k with
  | none => exact .of_blocks rfl
  | some k =>
    refine ⟨_, s.updBlock_mapped k fun _ => rfl, fun x => ?_⟩
    unfold atKey
    split
    · exact ⟨⟨rfl, fun _ => .refl _⟩, rfl⟩
    · exact .refl x

theorem State.writeRecord_resting (s : State) (r : FaultRec) : Resting s (s.writeRecord r) := by
  obtain ⟨out, hwrite⟩ := s.writeRecord_eq r
  have hentry : Resting s (s.writeEntry r) := by
    unfold State.writeEntry
    split
    · exact .of_blocks (s.windowWrite_blocks _ _ _)
    · exact s.pokePhys_resting _ _
  rw [hwrite]
  exact ((hentry.trans (.of_blocks (t := s.enterRecord r) rfl)).trans (State.setFaultinfo_resting _ r.block s.mgmt.frprod)).trans
    (.of_blocks rfl)

theorem State.drainHeld_resting (n : Nat) (s : State) : Resting s (s.drainHeld n) := by
  induction n generalizing s with
  | zero => exact .of_blocks rfl
  | succ n ih =>
    unfold State.drainHeld
    split
    · exact .of_blocks rfl
    · next r rs hheld =>
      split
      · exact ((Resting.of_blocks (t := { s with held := rs }) rfl).trans (State.writeRecord_resting _ r)).trans (ih _)
      · exact .of_blocks rfl

/-- A record that joins the held ones leaves every block at rest. -/
theorem State.note_resting (s : State) (r : FaultRec) : Resting s (s.note r) := by
  have hdrain : Resting s ({ s with held := s.held ++ [r] } : State).drainRecords :=
    (Resting.of_blocks (t := { s with held := s.held ++ [r] }) rfl).trans (State.drainHeld_resting _ _)
  unfold State.note
  dsimp only
  split
  · exact hdrain.trans (.of_blocks rfl)
  · exact hdrain

/-! ## The record of a block (R406, R411, R412) -/

theorem State.setFaultinfo_only (s : State) (k : Option Nat) (seq : Dword) :
    s.setFaultinfo k seq = { s with blocks := (s.setFaultinfo k seq).blocks } := by
  cases k <;> rfl

/-- A ring in DRAM that takes the record: its 64 bytes, faultinfo of its block, and FRPROD. -/
theorem State.note_entry {s : State} (hs : RingTakes s) (r : FaultRec) :
    ∃ out stops, s.note r =
      { ({ s.pokePhys s.ringEntry (r.bytes (s.mgmt.frprod.toNat % 2 ^ 32)) with
          mgmt := { s.mgmt with frprod := s.mgmt.frprod + 1 }
          stops := stops } : State).setFaultinfo r.block s.mgmt.frprod with
        hostOut := out } := by
  have ⟨hon, hbase, hheld, _⟩ := hs
  have hentry : s.writeEntry r = s.pokePhys s.ringEntry (r.bytes (s.mgmt.frprod.toNat % 2 ^ 32)) := by
    rw [State.writeEntry, s.ringEntry_no_window hon hbase]
  obtain ⟨out, hwrite⟩ := s.writeRecord_eq r
  rw [State.enterRecord, hentry, State.pokePhys_mgmt] at hwrite
  refine ⟨out, _, (s.note_written r hs ?_).trans hwrite⟩
  rw [hwrite, State.setFaultinfo_only]
  simp [hheld]

/-- A record that is no asynchronous one joins the ring, or is held while the ring is off. -/
theorem State.note_records_it (s : State) {r : FaultRec} (h : r.kind ≠ 2) : Recorded s (s.note r) r := by
  refine ⟨fun hoff => ?_, fun hon hbase hheld hroom => ?_⟩
  · have hdrain : ({ s with held := s.held ++ [r] } : State).drainRecords = { s with held := s.held ++ [r] } :=
      State.drainRecords_ringOff _ hoff
    have hnote : s.note r = { s with held := s.held ++ [r] } := by simp [State.note, hdrain, h]
    rw [hnote]
    exact ⟨rfl, rfl, rfl⟩
  · obtain ⟨out, stops, hn⟩ := State.note_entry ⟨hon, hbase, hheld, hroom⟩ r
    rw [hn, State.setFaultinfo_only]
    refine ⟨by simp [hheld], rfl, ?_, fun a ha => ?_⟩
    · have := memBytes_puts s.mem s.ringEntry (r.bytes (s.mgmt.frprod.toNat % 2 ^ 32))
      rw [FaultRec.bytes_length] at this
      simpa [State.ringEntry] using this
    · simp only [State.pokePhys_mem, memGet_puts, FaultRec.bytes_length]
      rw [if_neg (by unfold State.ringEntry; omega)]

/-- Where the record of a block is written, faultinfo of the block holds FRPROD. -/
theorem State.note_faultinfo {s : State} (hs : RingTakes s) {r : FaultRec} {k : Nat} (hr : r.block = some k) {c : Block}
    (hc : (s.note r).block? k = some c) : c.faultinfo = s.mgmt.frprod := by
  obtain ⟨out, stops, hn⟩ := State.note_entry hs r
  have hblock : (s.note r).block? k = ((s.pokePhys s.ringEntry (r.bytes (s.mgmt.frprod.toNat % 2 ^ 32))).updBlock k fun b =>
      { b with faultinfo := s.mgmt.frprod }).block? k := by
    rw [hn, hr]
    rfl
  rw [hblock, State.block?_updBlock_self] at hc
  · obtain ⟨d, -, rfl⟩ := Option.map_eq_some_iff.1 hc
    rfl
  · exact fun _ => rfl

/-! ## One lane's exception -/

/-- The record of one lane's fault (Table 19-4). -/
def State.recordFor (s : State) (b : Block) (x : LaneFault) : FaultRec :=
  { recordOf s b x.cls x.sub x.addr x.info x.info2 [x.lane] with
    kind := x.kind, die := x.die.getD (dieOf b.core), child := BitVec.ofNat 32 (x.child.getD (s.childOf b)) }

/-- A block takes the number of its next record, and the lanes in `ls` of strand `i` wait for no answer. -/
def Block.takeRecord (id i : Nat) (ls : List Nat) (x : Block) : Block :=
  { x with stops := x.stops ++ [id], strands := x.strands.modify i fun st => st.updLanes ls fun _ l => l.breakOff }

theorem Lane.breakOff_keeps (l : Lane) : (l.breakOff.pc, l.breakOff.status) = (l.pc, l.status) := by
  unfold Lane.breakOff
  split <;> rfl

theorem Block.takeRecord_stays (id i : Nat) (ls : List Nat) (x : Block) : x.Stays (x.takeRecord id i ls) :=
  ⟨rfl, x.strand_modify_stays (fun st => st.updLanes_stays (fun _ l => l.breakOff_keeps) ls) i⟩

/-- The record of the instruction in progress is about to be made: its number stands at the block and in the list of stops. -/
def State.takeRecord (s : State) (b : Block) : State :=
  { s.updBlock b.key (Block.takeRecord s.stamp s.cur.strand s.cur.lanes) with
    stamp := s.stamp + 1
    stops := s.stops ++ [Stop.mk s.stamp none (.block b.key)] }

theorem State.raise_one {s : State} {b : Block} (hb : s.block? s.cur.blk = some b) (x : LaneFault) :
    s.raise [x] = ((s.takeRecord b).stopFault b).note (s.recordFor b x) := by
  have hrecord (i : Nat) (ls : List Nat) :
      (({ s with stamp := s.stamp + 1 } : State).updBlock b.key fun k => { k with stops := k.stops ++ [s.stamp] }).updStrand
        b.key i (fun st => st.updLanes ls fun _ l => l.breakOff) =
      ({ s with stamp := s.stamp + 1 } : State).updBlock b.key (Block.takeRecord s.stamp i ls) :=
    State.updBlock_updBlock _ _ _ _ fun _ => rfl
  simp only [State.raise, leastBy, hb, State.fresh, List.filter_cons, List.filter_nil, beq_self_eq_true, if_true, Option.getD_some]
  refine congrArg₂ State.note (congrArg (State.stopFault · b) ?_) ?_
  · rw [hrecord]
    rfl
  · rfl

/-! ## The exception as a whole -/

/-- What a fault's stop, its number and its record make of each block: first the block's own part, then the partner's, what
stands above it, and the record's. -/
theorem State.raise_mapped {s : State} {b : Block} (hb : s.block? s.cur.blk = some b) (x : LaneFault) :
    ∃ first F R, BlocksMapped (R ∘ F ∘ s.partnerStop b ∘ atKey b.key fun y =>
        (y.takeRecord s.stamp s.cur.strand s.cur.lanes).faultStop first) s (s.raise [x]) ∧
      (∀ y, F y = y ∨ F y = y.stopFor .frontier) ∧ (s.isDet b = false → F = id) ∧ ∀ y : Block, y.Rests (R y) := by
  have htake : BlocksMapped (atKey b.key (Block.takeRecord s.stamp s.cur.strand s.cur.lanes)) s (s.takeRecord b) :=
    s.updBlock_mapped b.key fun _ => rfl
  have hstays := atKey_stays (k := b.key) (Block.takeRecord_stays s.stamp s.cur.strand s.cur.lanes)
  obtain ⟨first, F, ⟨hhalts, -⟩, hcases, hdet⟩ := (s.takeRecord b).stopFault_halts b
  obtain ⟨R, hR, hrests⟩ := ((s.takeRecord b).stopFault b).note_resting (s.recordFor b x)
  rw [htake.partnerStop hstays rfl] at hhalts
  rw [State.raise_one hb]
  have hself : (atKey b.key (Block.faultStop first)) ∘ atKey b.key (Block.takeRecord s.stamp s.cur.strand s.cur.lanes) =
      atKey b.key fun y => (y.takeRecord s.stamp s.cur.strand s.cur.lanes).faultStop first := by
    funext y
    by_cases hy : y.key = b.key
    · simp [atKey, hy, Block.takeRecord]
    · simp [atKey, hy]
  refine ⟨first, F, R, ?_, hcases, hdet, hrests⟩
  rw [← hself]
  exact (htake.trans hhalts).trans hR

theorem State.raise_recorded {s : State} {b : Block} (hb : s.block? s.cur.blk = some b) {x : LaneFault} (hk : x.kind ≠ 2) :
    Recorded s (s.raise [x]) (s.recordFor b x) ∧
      (RingTakes s → ∀ c, (s.raise [x]).block? b.key = some c → c.faultinfo = s.mgmt.frprod) := by
  have hstop : (s.takeRecord b).stopFault b =
      { s with blocks := ((s.takeRecord b).stopFault b).blocks, stamp := s.stamp + 1,
               stops := s.stops ++ [Stop.mk s.stamp none (.block b.key)] } := by
    rw [State.stopFault_only]
    rfl
  rw [State.raise_one hb, hstop]
  generalize ((s.takeRecord b).stopFault b).blocks = bs
  let u : State := { s with blocks := bs, stamp := s.stamp + 1, stops := s.stops ++ [Stop.mk s.stamp none (.block b.key)] }
  exact ⟨u.note_records_it (r := s.recordFor b x) hk,
    fun hs c hc => State.note_faultinfo (s := u) (r := s.recordFor b x) hs rfl hc⟩

/-- What halts blocks besides the faulting one: nothing, or a stop for another's fault. -/
theorem Block.stopped_or {F : Block → Block} {why : StopWhy} (h : ∀ y, F y = y ∨ F y = y.stopFor why) (x : Block) :
    x.Stays (F x) ∧ (F x).stops = x.stops ∧
      ∀ w, w.atOnce = true → x.state = .stopping w → (F x).state = .stopping w := by
  rcases h x with hx | hx <;> rw [hx]
  · exact ⟨.refl x, rfl, fun w _ h => h⟩
  · exact ⟨x.stopFor_stays why, x.stopFor_stops why, fun w hw h => Block.stopFor_atOnce h hw why⟩

theorem State.partnerStop_or (s : State) (b y : Block) : s.partnerStop b y = y ∨ s.partnerStop b y = y.stopFor .partner := by
  unfold State.partnerStop
  cases s.partner? b with
  | none => exact .inl rfl
  | some p =>
    by_cases hy : y.key = p.key
    · exact .inr (atKey_self hy _)
    · exact .inl (atKey_other hy _)

/-- The faulting block after its own stop. -/
theorem Block.faultStop_takeRecord {b : Block} (hi : Block.issues b) (first : Option (Nat × Nat)) (id i : Nat) (ls : List Nat) :
    b.Stays ((b.takeRecord id i ls).faultStop first) ∧ ((b.takeRecord id i ls).faultStop first).stops = b.stops ++ [id] ∧
      ((b.takeRecord id i ls).faultStop first).state = .stopping .fault :=
  ⟨(b.takeRecord_stays id i ls).trans (Block.faultStop_stays first _), Block.stopFor_stops _ .fault,
    Block.stopFor_fault (b := b.takeRecord id i ls) hi⟩

/-- A thread that faults alone takes its exception as `Excepted` says. -/
theorem State.raise_excepted {s : State} {b : Block} (hb : s.block? s.cur.blk = some b) (hi : Block.issues b) {x : LaneFault}
    (hk : x.kind ≠ 2) : Excepted s (s.raise [x]) b (s.recordFor b x) := by
  have hkey := State.key_of_block? hb
  obtain ⟨hrecorded, hfaultinfo⟩ := State.raise_recorded hb hk
  obtain ⟨first, F, R, hmap, hcases, hdet, hrests⟩ := State.raise_mapped hb x
  refine ⟨?own, fun p hp hpb hne hrun => ?partner, fun hnone hopen k hk => ?others, hrecorded⟩
  case own =>
    obtain ⟨hstays, hstops, hstate⟩ := Block.faultStop_takeRecord hi first s.stamp s.cur.strand s.cur.lanes
    set own := (b.takeRecord s.stamp s.cur.strand s.cur.lanes).faultStop first
    obtain ⟨hstaysP, hstopsP, hstateP⟩ := Block.stopped_or (s.partnerStop_or b) own
    obtain ⟨hstaysF, hstopsF, hstateF⟩ := Block.stopped_or hcases (s.partnerStop b own)
    obtain ⟨hstaysR, hrestR⟩ := hrests (F (s.partnerStop b own))
    obtain ⟨hstateR, hstopsR⟩ := Prod.mk.inj hrestR
    obtain ⟨hparts, hstrands⟩ := ((hstays.trans hstaysP).trans hstaysF).trans hstaysR
    have hfind : (s.raise [x]).block? b.key = some (R (F (s.partnerStop b own))) := by
      rw [hmap.block?, hkey, hb]
      simp only [Option.map_some, Function.comp_apply, atKey_self hkey, own]
    simp only [Prod.mk.injEq] at hparts
    obtain ⟨-, -, hscratch, hmat⟩ := hparts
    refine ⟨_, hfind, ?_, ?_, hscratch, hmat, fun i l => Prod.mk.inj ((hstrands i).1 l), fun i hrun l q => ?_,
      fun hon hdram hheld hroom => hfaultinfo ⟨hon, hdram, hheld, hroom⟩ _ hfind⟩
    · rw [hstateR]
      exact hstateF _ rfl (hstateP _ rfl hstate)
    · rw [hstopsR, hstopsF, hstopsP, hstops]
      rfl
    · rw [Strand.reg, ((hstrands i).2 hrun).2]
      rfl
  case partner =>
    obtain ⟨-, -, hstateF⟩ := Block.stopped_or hcases (p.stopFor .partner)
    have hstateR := (Prod.mk.inj (hrests (F (p.stopFor .partner))).2).1
    rw [hmap.block?, hpb]
    simp only [Option.map_some, Function.comp_apply, atKey_other hne, State.partnerStop, hp, atKey_self rfl]
    rw [hstateR, hstateF _ rfl (Block.stopFor_running hrun .partner)]
  case others =>
    rw [hmap.block?, hdet hopen, State.partnerStop, hnone]
    cases hx : s.block? k with
    | none => rfl
    | some y =>
      have hy : y.key ≠ b.key := fun h => hk ((State.key_of_block? hx).symm.trans h)
      simp only [Option.map_some, Function.comp_apply, atKey_other hy, id]
      rw [(Prod.mk.inj (hrests y).2).1]

end Sys2Proof.Machine

/-! PROOFS. JOIN: the wait for children that are not folded, the first JOIN on a fork, and the conflict that it reports (R132,
R364, R440, R441). -/

namespace Sys2Proof.Machine

open Sys2Proof Sys2Proof.Spec

/-! ## Changes of the lanes of the issue -/

theorem Strand.updLanes_self {ls : List Nat} {f : Nat → Lane → Lane} (h : ∀ l ∈ ls, ∀ ln, f l ln = ln) (st : Strand) :
    st.updLanes ls f = st := by
  unfold Strand.updLanes
  induction ls with
  | nil => rfl
  | cons l ls ih =>
    have hl : f l = id := funext (h l List.mem_cons_self)
    have hself : st.updLane l (f l) = st := by rw [Strand.updLane, hl, List.modify_id]
    rw [List.foldl_cons, hself]
    exact ih fun m hm => h m (List.mem_cons_of_mem l hm)

/-- A change of lanes that leaves each of them alone is none. -/
theorem State.updCur_self {ls : List Nat} {f : Nat → Lane → Lane} (h : ∀ l ∈ ls, ∀ ln, f l ln = ln) (s : State) :
    s.updCur ls f = s := by
  have hst : (fun st : Strand => st.updLanes ls f) = id := funext (Strand.updLanes_self h)
  have hblocks : s.blocks.map (fun b => if b.key == s.cur.blk then { b with strands := b.strands } else b) = s.blocks := by
    simp
  simp only [State.updCur, State.updStrand, State.updBlock, hst, List.modify_id, hblocks]

/-- A lane that parks forgets what it waited for. -/
theorem State.park_updCur {f : Nat → Lane → Lane} {l : Nat} {p : Park}
    (h : ∀ ln : Lane, { f l ln with park := p } = { ln with park := p }) (s : State) :
    (s.updCur [l] f).park [l] p = s.park [l] p := by
  have hlane : (fun ln : Lane => { ln with park := p }) ∘ f l = fun ln => { ln with park := p } := funext h
  refine (State.updStrand_updStrand s _ _ _ _).trans ?_
  simp only [Strand.updLanes, List.foldl_cons, List.foldl_nil, Strand.updLane, List.modify_modify_eq, hlane]
  rfl

/-! ## A block that goes on -/

/-- The block with the lanes `ls` of strand `i` changed, and its handles as `hs` says. -/
def Block.goOn (hs : Block → List Handle) (i : Nat) (ls : List Nat) (f : Nat → Lane → Lane) (x : Block) : Block :=
  { x with handles := hs x, strands := x.strands.modify i fun st => st.updLanes ls f }

theorem State.block?_goOn {s : State} {b : Block} (hb : s.block? s.cur.blk = some b) (hs : Block → List Handle) (i : Nat)
    (ls : List Nat) (f : Nat → Lane → Lane) :
    (s.updBlock s.cur.blk (Block.goOn hs i ls f)).block? s.cur.blk = some (b.goOn hs i ls f) := by
  rw [State.block?_updBlock_self s s.cur.blk (Block.goOn hs i ls f) fun _ => rfl, hb]
  rfl

/-- A block that goes on changes nothing but its active lanes, and handles. -/
theorem lanesOnly_goOn {s : State} {b : Block} (h : s.issuing b) (hs : Block → List Handle) (f : Nat → Lane → Lane) :
    LanesOnly s (s.updBlock s.cur.blk (Block.goOn hs s.cur.strand s.cur.lanes f)) b f := by
  obtain ⟨hb, hstrand, -, hnodup, hlen⟩ := h
  have hself : (b.goOn hs s.cur.strand s.cur.lanes f).strand s.cur.strand = (b.strand s.cur.strand).updLanes s.cur.lanes f :=
    Block.strand_modify_self { b with handles := hs b } s.cur.strand _ hstrand
  refine ⟨_, ⟨rfl, fun k hk => ?_, State.block?_goOn hb hs _ _ f, rfl⟩, fun j hj => ?_, ?_⟩
  · exact State.block?_updBlock_other s s.cur.blk k (Block.goOn hs s.cur.strand s.cur.lanes f) (fun _ => rfl) hk
  · exact Block.strand_modify_other { b with handles := hs b } s.cur.strand j _ hj
  · rw [hself]
    exact ⟨(Strand.updLanes_keeps _ _ _).1, fun l => Strand.lane_updLanes _ _ _ l hnodup hlen⟩

/-- Every handle of `hs` is one of `gs`, but for the words that wait for it. -/
def HandlesOf (gs hs : List Handle) : Prop := ∀ x ∈ hs, ∃ g ∈ gs, x = { g with words := x.words }

theorem HandlesOf.refl (gs : List Handle) : HandlesOf gs gs := fun x hx => ⟨x, hx, rfl⟩

theorem Block.mem_freeHandles {b : Block} {x : Handle} (h : x ∈ b.freeHandles.handles) : x ∈ b.handles := by
  unfold Block.freeHandles at h
  split at h
  · exact h
  · exact List.mem_of_mem_filter h

theorem Block.settle_handlesOf (b : Block) (i : Nat) (keys : List Nat) : HandlesOf b.handles (b.settle i keys).handles := by
  unfold Block.settle
  split
  · exact .refl _
  · intro x hx
    obtain ⟨g, hg, rfl⟩ := List.mem_map.1 (Block.mem_freeHandles hx)
    exact ⟨g, hg, rfl⟩

/-- Settling and going on, as one change of the block. -/
theorem State.settle_retire_goOn (s : State) (u : Uses) (b : Block) (st : Strand) (ls : List Nat) :
    ∃ hs, (s.settle u b st ls).retire ls = s.updBlock s.cur.blk (Block.goOn hs s.cur.strand ls fun _ l => l.retire s.cur.next) ∧
      ∀ x : Block, HandlesOf x.handles (hs x) := by
  unfold State.settle
  split
  · exact ⟨fun x => x.handles, rfl, fun x => .refl _⟩
  · refine ⟨fun x => (x.settle s.cur.strand (u.touched st ls)).handles, ?_, fun x => x.settle_handlesOf _ _⟩
    refine (State.updBlock_updBlock s _ _ _ fun x => ?_).trans ?_
    · rw [Block.settle_keeps]
    · congr 1
      funext x
      rw [Block.settle_keeps x]
      rfl

/-- Parking and settling, as one change of the block. -/
theorem State.park_settle_goOn (s : State) (u : Uses) (b : Block) (st : Strand) (ls : List Nat) (p : Park) :
    ∃ hs, ((s.park ls p).settle u b st []).retire [] =
      s.updBlock s.cur.blk (Block.goOn hs s.cur.strand ls fun _ l => { l with park := p }) := by
  have hretire (t : State) : t.retire [] = t := t.updCur_self (fun _ h => by cases h)
  rw [hretire]
  unfold State.settle
  split
  · exact ⟨fun x => x.handles, rfl⟩
  · refine ⟨fun x => ((x.goOn (fun y => y.handles) s.cur.strand ls fun _ l => { l with park := p }).settle s.cur.strand
      (u.touched st [])).handles, ?_⟩
    refine (State.updBlock_updBlock s s.cur.blk (Block.goOn (fun x => x.handles) s.cur.strand ls fun _ l => { l with park := p })
      (fun x => x.settle s.cur.strand (u.touched st [])) fun x => rfl).trans ?_
    congr 1
    funext x
    rw [Block.settle_keeps]
    rfl

/-! ## JOIN by one lane -/

def joinUses (a : BitVec 7) (v : Adverb) : Uses := { srcs := [(srcA v a).clean] }

theorem exec_join (a : BitVec 7) (v : Adverb) (s : State) : exec (.join a v) s = execJoin a v s := rfl

theorem State.atJoin_open {s : State} {b : Block} {l r : Nat} (hb : s.block? s.cur.blk = some b) (hl : s.cur.lanes = [l])
    (hopen : b.joinWaits ((b.strand s.cur.strand).word l r) = none) : s.atJoin r = s := by
  simp only [State.atJoin, hb]
  refine s.updCur_self fun m hm ln => ?_
  obtain rfl : m = l := by simpa [hl] using hm
  cases hnamed : b.named ((b.strand s.cur.strand).word m r) with
  | none => split <;> simp_all
  | some h =>
    have : (h.kind == 6 && !h.done) = false := by simpa [Block.joinWaits, hnamed] using hopen
    cases ln.park <;> simp [this]

theorem State.park_atJoin {s : State} {b : Block} {l r : Nat} {p : Nat × Nat} (hb : s.block? s.cur.blk = some b)
    (hl : s.cur.lanes = [l]) : (s.atJoin r).park [l] (.join p.1 p.2) = s.park [l] (.join p.1 p.2) := by
  simp only [State.atJoin, hb, hl]
  refine s.park_updCur fun ln => ?_
  split
  · split <;> rfl
  · rfl

/-- JOIN of a fork whose children are not all folded: the lane waits. -/
theorem exec_join_waits {a : BitVec 7} {v : Adverb} {s : State} {b : Block} {l : Nat} {p : Nat × Nat}
    (h : s.clearFor b (joinUses a v)) (hl : s.cur.lanes = [l])
    (hwaits : b.joinWaits ((b.strand s.cur.strand).word l (aReg v a)) = some p) :
    ∃ t, exec (.join a v) s = .next t ∧ LanesOnly s t b fun _ ln => { ln with park := .join p.1 p.2 } := by
  have hgate := s.gate_go (joinUses a v) Late.none false b h rfl
  have hpark := State.park_atJoin (r := aReg v a) (p := p) h.1.1 hl
  obtain ⟨hs, hend⟩ := s.park_settle_goOn (joinUses a v) b (b.strand s.cur.strand) [l] (.join p.1 p.2)
  refine ⟨_, ?_, lanesOnly_goOn h.1 hs _⟩
  rw [exec_join, hl, ← hend, ← hpark]
  simp only [joinUses] at hgate
  simp only [execJoin, hgate, hl, List.filterMap_cons, hwaits, Option.map_some, List.filterMap_nil, List.filter_cons,
    Option.isNone_some, Bool.false_eq_true, if_false, List.filter_nil, List.foldl_cons, List.foldl_nil, List.isEmpty_nil,
    Bool.not_true]
  rfl

/-- JOIN of a fork whose children are all folded, or of a value that names no fork: the conflict, or the join itself. -/
theorem exec_join_ready {a : BitVec 7} {v : Adverb} {s : State} {b : Block} {l : Nat}
    (h : s.clearFor b (joinUses a v)) (hl : s.cur.lanes = [l])
    (hready : b.joinWaits ((b.strand s.cur.strand).word l (aReg v a)) = none) :
    exec (.join a v) s =
      match s.conflictOf b ((b.strand s.cur.strand).word l (aReg v a)) with
      | some z => .next ((s.updFork z.1 fun x => { x with reported := true }).raise
          (conflictFaults (s.foldDie (s.jobOf b)) [(l, z)]))
      | none => .next (((s.joinLane b ((b.strand s.cur.strand).word l (aReg v a))).settle (joinUses a v) b
          (b.strand s.cur.strand) [l]).retire [l]) := by
  have hgate := s.gate_go (joinUses a v) Late.none false b h rfl
  have hat := State.atJoin_open (r := aReg v a) h.1.1 hl hready
  simp only [joinUses] at hgate
  rw [exec_join]
  simp only [execJoin, hgate, hl, hat, List.filterMap_cons, hready, Option.map_none, List.filterMap_nil, List.filter_cons,
    Option.isNone_none, if_true, List.filter_nil, List.foldl_cons, List.foldl_nil]
  cases s.conflictOf b ((b.strand s.cur.strand).word l (aReg v a)) with
  | none => rfl
  | some z => rfl

/-! ## The conflict that a JOIN reports (R440, R441) -/

/-- One lane's conflict is recorded as class 0x15 with its count, address, and the two children. -/
theorem recordFor_conflict (s : State) (b : Block) (die : Nat → Nat) (l k : Nat) (z : Conflict) :
    ∃ x, conflictFaults die [(l, k, z)] = [x] ∧ x.kind = 1 ∧
      s.recordFor b x = { recordOf s b 0x15 (Min.min 255 z.count) z.addr z.first z.info2.toNat [l] with
        kind := 1, child := BitVec.ofNat 32 z.second, die := die z.addr } := by
  have hsum : ((dedupe ([(l, k, z)].map fun c => (c.2.1, c.2.2.count))).map fun c => c.2).foldl (· + ·) 0 = z.count := by
    simp [dedupe]
  simp only [conflictFaults, hsum]
  exact ⟨_, rfl, rfl, rfl⟩

/-! ## The first JOIN on a fork (R132, R139) -/

/-- The fork `x` after the JOIN on a fork of `parent` whose effects outside its views are `outside`. -/
def Fork.told (parent : View) (outside : List Nat) (x : Fork) : Fork :=
  match parent with
  | .child p d => if x.key = p ∧ outside ≠ [] ∧ d ∉ x.outside then { x with outside := x.outside ++ [d] } else x
  | .root => x

/-- The parent's fork, where the parent is a child, hears of effects outside the views. -/
def State.tellParent (s : State) (f : Fork) : State :=
  match f.parent with
  | .child p c => if f.outside.isEmpty then s else s.noteOutside p c
  | .root => s

theorem State.forks_self {s : State} {F : Fork → Fork} (h : F = id) : s = { s with forks := s.forks.map F } := by
  rw [h, List.map_id]

theorem State.tellParent_told (s : State) (f : Fork) :
    s.tellParent f = { s with forks := s.forks.map (Fork.told f.parent f.outside) } := by
  unfold State.tellParent
  cases f.parent with
  | root => exact s.forks_self rfl
  | child p c =>
    by_cases hnone : f.outside = []
    · simp only [hnone, List.isEmpty_nil, if_true]
      exact s.forks_self (by simp [Fork.told, funext_iff])
    · have hsome : f.outside.isEmpty = false := by simpa using hnone
      simp only [hsome, Bool.false_eq_true, if_false, State.noteOutside, State.updFork]
      congr 1
      refine List.map_congr_left fun x _ => ?_
      by_cases hkey : x.key = p
      · by_cases hin : c ∈ x.outside <;> simp [Fork.told, hkey, hnone, hin]
        rw [← hkey]
      · simp [Fork.told, hkey]

theorem bne_eq_decide (x y : Nat) : (x != y) = decide (x ≠ y) := by
  by_cases h : x = y <;> simp [h]

theorem isNone_eq_decide {α : Type} [DecidableEq α] (x : Option α) : x.isNone = decide (x = none) := by cases x <;> simp

/-- With no host write held, the first JOIN on a fork takes it and its grid away, tells the parent's fork, and acquires. -/
theorem State.joinFork_eq {s : State} {k : Nat} {f : Fork} (hf : s.fork? k = some f) (hheld : s.heldWrites = []) (core : Nat) :
    s.joinFork (some core) k =
      ({ s with
        forks := (s.forks.filter fun x => x.key ≠ k).map (Fork.told f.parent f.outside)
        grids := s.grids.filter fun g => g.key ≠ f.grid || f.owner = none } : State).acquireSet core 5 none := by
  have hjoin : s.joinFork (some core) k =
      ((({ s with
        forks := s.forks.filter fun x => x.key != k
        grids := s.grids.filter fun g => g.key != f.grid || f.owner.isNone } : State).tellParent f).acquireSet core 5
          none).releaseHeld f.job := by
    simp only [State.joinFork, hf]
    rfl
  have hrelease {t : State} (h : t.heldWrites = []) : t.releaseHeld f.job = t := by simp [State.releaseHeld, h]
  rw [hjoin, State.tellParent_told, hrelease]
  · simp only [bne_eq_decide, isNone_eq_decide]
  · rw [State.acquireSet_only]
    exact hheld

theorem mem_of_cellsGet {α : Type} {k : Nat} {c : Cells (Option α)} {x : α} (h : cellsGet none k c = some x) :
    (k, some x) ∈ c := by
  induction c with
  | nil => cases h
  | cons e r ih =>
    obtain ⟨j, v⟩ := e
    simp only [cellsGet] at h
    split at h
    · next hj => simp [hj, h]
    · exact List.mem_cons_of_mem _ (ih h)

/-- An L1 holds only bytes that it has kept. -/
theorem Core.keepL1_kept {c : Core} {p : Nat → L1Byte → Bool} {k : Nat} {x : L1Byte} (h : (c.keepL1 p).l1At k = some x) :
    p k x = true := by
  have := (List.mem_filter.1 (mem_of_cellsGet h)).2
  simpa using this

/-- An acquire of everything leaves only dirty bytes in the core's L1. -/
theorem State.acquireSet_dirty {s : State} {core : Nat} (hcore : core < s.cores.length) {y : Nat} {x : L1Byte}
    (h : ((s.acquireSet core 5 none).core core).l1At y = some x) : x.dirty = true := by
  have hkept : (s.acquireSet core 5 none).core core = (s.core core).keepL1 fun k b => b.dirty || !ByteSet.has none k := by
    simp [State.acquireSet, State.discard, State.core, State.stopFills_cores, State.updCore, List.getD_eq_getElem?_getD, hcore]
  rw [hkept] at h
  simpa [ByteSet.has] using Core.keepL1_kept h

/-- What the first JOIN on a fork leaves of the machine. -/
structure Joined (s t : State) (core k : Nat) (f : Fork) : Prop where
  only : t = { s with cores := t.cores, forks := t.forks, grids := t.grids, fabric := t.fabric }
  fabric : FabricKeeps s t
  forks : t.forks = (s.forks.filter fun x => x.key ≠ k).map (Fork.told f.parent f.outside)
  grids : t.grids = s.grids.filter fun g => g.key ≠ f.grid || f.owner = none
  dirty : core < s.cores.length → ∀ y x, (t.core core).l1At y = some x → x.dirty = true
  others : ∀ i, i ≠ core → t.core i = s.core i

theorem State.joinFork_joined {s : State} {k : Nat} {f : Fork} (hf : s.fork? k = some f) (hheld : s.heldWrites = []) (core : Nat) :
    Joined s (s.joinFork (some core) k) core k f := by
  rw [State.joinFork_eq hf hheld]
  obtain ⟨hfabric, hothers, -⟩ := State.acquireSet_frame
    { s with
      forks := (s.forks.filter fun x => x.key ≠ k).map (Fork.told f.parent f.outside)
      grids := s.grids.filter fun g => g.key ≠ f.grid || f.owner = none } core 5 none
  refine ⟨?_, hfabric, ?_, ?_, fun hcore y x hx => State.acquireSet_dirty (s := { s with
      forks := (s.forks.filter fun x => x.key ≠ k).map (Fork.told f.parent f.outside)
      grids := s.grids.filter fun g => g.key ≠ f.grid || f.owner = none }) hcore hx, hothers⟩
  all_goals rw [State.acquireSet_only]

/-! ## The join of one lane's fork (R364) -/

theorem State.joinLane_none {s : State} {b : Block} {w : Word} (hb : s.block? b.key = some b) (h : b.named w = none) :
    s.joinLane b w = s := by
  simp [State.joinLane, hb, h]

theorem State.joinLane_other {s : State} {b : Block} {w : Word} {h : Handle} (hb : s.block? b.key = some b)
    (hw : b.named w = some h) (hother : h.kind ≠ 6 ∨ h.joined = true) : s.joinLane b w = s := by
  have : (h.kind == 6 && !h.joined) = false := by rcases hother with hk | hj <;> simp_all
  simp [State.joinLane, hb, hw, this]

/-- A handle that a JOIN has joined. -/
def Block.joinHandle (h : Handle) (x : Block) : Block := x.updHandle h.slot h.gen fun g => { g with joined := true }

theorem State.joinLane_fork {s : State} {b : Block} {w : Word} {h : Handle} {k : Nat} (hb : s.block? b.key = some b)
    (hw : b.named w = some h) (hkind : h.kind = 6) (hjoined : h.joined = false) (hop : h.op = .fork k) :
    s.joinLane b w = (s.joinFork (some b.core) k).updBlock b.key (Block.joinHandle h) := by
  simp [State.joinLane, hb, hw, hkind, hjoined, hop]
  rfl

/-- Whatever is settled then, the handle that the JOIN named has joined. -/
theorem joined_of_handlesOf {b : Block} {h x : Handle} {hs : List Handle} (hof : HandlesOf (b.joinHandle h).handles hs)
    (hx : hs.find? (fun g => g.slot == h.slot && g.gen == h.gen) = some x) : x.joined = true := by
  obtain ⟨y, hy, heq⟩ := hof x (List.mem_of_find?_eq_some hx)
  have hnames : x.slot = h.slot ∧ x.gen = h.gen := by simpa using List.find?_some hx
  obtain ⟨g, -, hg⟩ := List.mem_map.1 hy
  rw [heq] at hnames ⊢
  split at hg
  · subst hg
    rfl
  · next hne =>
    subst hg
    exact absurd (by simpa using hnames) hne

/-! ## The courses of a JOIN -/

theorem Block.joinWaits_none {b : Block} {w : Word} (h : b.named w = none) : b.joinWaits w = none := by simp [Block.joinWaits, h]

theorem Block.joinWaits_ready {b : Block} {w : Word} {h : Handle} (hw : b.named w = some h) (hdone : h.kind = 6 → h.done = true) :
    b.joinWaits w = none := by
  by_cases hk : h.kind = 6 <;> simp [Block.joinWaits, hw, hk, hdone]

theorem Block.joinWaits_open {b : Block} {w : Word} {h : Handle} (hw : b.named w = some h) (hk : h.kind = 6)
    (hdone : h.done = false) :
    b.joinWaits w = some (h.slot, h.gen) := by
  simp [Block.joinWaits, hw, hk, hdone]

theorem State.conflictOf_none {s : State} {b : Block} {w : Word} (h : b.named w = none) : s.conflictOf b w = none := by
  simp [State.conflictOf, h]

theorem State.conflictOf_gone {s : State} {b : Block} {w : Word} {h : Handle} (hw : b.named w = some h)
    (hgone : ∀ k, h.op = .fork k → s.fork? k = none) : s.conflictOf b w = none := by
  simp only [State.conflictOf, hw, Option.bind_some]
  split
  · next k hop => rw [hgone k hop, Option.bind_none]
  · rfl

theorem State.conflictOf_fork {s : State} {b : Block} {w : Word} {h : Handle} {k : Nat} {f : Fork} (hw : b.named w = some h)
    (hop : h.op = .fork k) (hf : s.fork? k = some f) :
    s.conflictOf b w = if f.reported then none else f.conflict.map fun z => (k, z) := by
  simp [State.conflictOf, hw, hop, hf]

section
variable {a : BitVec 7} {v : Adverb} {s : State} {b : Block} {l : Nat}

/-- A JOIN with nothing to join goes on. -/
theorem exec_join_goesOn (h : s.clearFor b (joinUses a v)) (hl : s.cur.lanes = [l])
    (hready : b.joinWaits ((b.strand s.cur.strand).word l (aReg v a)) = none)
    (hfine : s.conflictOf b ((b.strand s.cur.strand).word l (aReg v a)) = none)
    (hsame : s.joinLane b ((b.strand s.cur.strand).word l (aReg v a)) = s) :
    ∃ t, exec (.join a v) s = .next t ∧ LanesOnly s t b fun _ ln => ln.retire s.cur.next := by
  obtain ⟨hs, hend, -⟩ := s.settle_retire_goOn (joinUses a v) b (b.strand s.cur.strand) [l]
  have hexec := exec_join_ready h hl hready
  rw [hfine, hsame] at hexec
  dsimp only at hexec
  rw [hend, ← hl] at hexec
  exact ⟨_, hexec, lanesOnly_goOn h.1 hs _⟩

/-- The first JOIN on a fork joins it and the handle, and goes on. -/
theorem exec_join_joins {h : Handle} {k : Nat} {f : Fork} (hclear : s.clearFor b (joinUses a v)) (hl : s.cur.lanes = [l])
    (hw : b.named ((b.strand s.cur.strand).word l (aReg v a)) = some h) (hkind : h.kind = 6) (hdone : h.done = true)
    (hjoined : h.joined = false) (hop : h.op = .fork k) (hf : s.fork? k = some f)
    (hfine : f.conflict = none ∨ f.reported = true) (hheld : s.heldWrites = []) :
    ∃ t hs, exec (.join a v) s =
        .next (t.updBlock s.cur.blk (Block.goOn hs s.cur.strand s.cur.lanes fun _ ln => ln.retire s.cur.next)) ∧
      Joined s t b.core k f ∧ ∀ x : Block, HandlesOf (x.joinHandle h).handles (hs x) := by
  have hkey := State.key_of_block? hclear.1.1
  have hself : s.block? b.key = some b := by rw [hkey]; exact hclear.1.1
  have hconflict : s.conflictOf b ((b.strand s.cur.strand).word l (aReg v a)) = none := by
    rw [State.conflictOf_fork hw hop hf]
    rcases hfine with hnone | hreported
    · simp [hnone]
    · simp [hreported]
  have hexec := exec_join_ready hclear hl (Block.joinWaits_ready hw fun _ => hdone)
  rw [hconflict, State.joinLane_fork hself hw hkind hjoined hop] at hexec
  have hjoin := State.joinFork_joined hf hheld b.core
  generalize s.joinFork (some b.core) k = t at hexec hjoin
  have hcur : t.cur = s.cur := by rw [hjoin.only]
  obtain ⟨hs, hend, hof⟩ := (t.updBlock b.key (Block.joinHandle h)).settle_retire_goOn (joinUses a v) b
    (b.strand s.cur.strand) [l]
  simp only [State.updBlock_cur, hcur, ← hl, hkey] at hend
  have hboth := State.updBlock_updBlock t s.cur.blk (Block.joinHandle h)
    (Block.goOn hs s.cur.strand s.cur.lanes fun _ ln => ln.retire s.cur.next) fun _ => rfl
  refine ⟨t, fun x => hs (x.joinHandle h), ?_, hjoin, fun x => hof (x.joinHandle h)⟩
  simp only [← hl, hkey] at hexec
  rw [hexec, hend, hboth]
  rfl
end

/-- The JOIN of a fork whose fold found a conflict reports it. -/
theorem exec_join_conflict {a : BitVec 7} {v : Adverb} {s : State} {b : Block} {l : Nat} {h : Handle} {k : Nat} {f : Fork}
    {z : Conflict} (hclear : s.clearFor b (joinUses a v)) (hl : s.cur.lanes = [l])
    (hw : b.named ((b.strand s.cur.strand).word l (aReg v a)) = some h) (hdone : h.done = true) (hop : h.op = .fork k)
    (hf : s.fork? k = some f) (hz : f.conflict = some z) (hfirst : f.reported = false) (hissues : Block.issues b) :
    ∃ t, exec (.join a v) s = .next t ∧
      Excepted (s.updFork k fun x => { x with reported := true }) t b
        { recordOf s b 0x15 (Min.min 255 z.count) z.addr z.first z.info2.toNat [l] with
          kind := 1, child := BitVec.ofNat 32 z.second, die := s.foldDie (s.jobOf b) z.addr } := by
  have hexec := exec_join_ready hclear hl (Block.joinWaits_ready hw fun _ => hdone)
  have hconflict : s.conflictOf b ((b.strand s.cur.strand).word l (aReg v a)) = some (k, z) := by
    simp [State.conflictOf_fork hw hop hf, hz, hfirst]
  obtain ⟨x, hx, hkind, hrecord⟩ := recordFor_conflict (s.updFork k fun x => { x with reported := true }) b
    (s.foldDie (s.jobOf b)) l k z
  simp only [hconflict, hx] at hexec
  have hexcepted := State.raise_excepted (s := s.updFork k fun x => { x with reported := true }) hclear.1.1 hissues (x := x)
    (by rw [hkind]; decide)
  rw [hrecord] at hexcepted
  exact ⟨_, hexec, hexcepted⟩

/-- Settles O40: it holds. A JOIN waits, goes on, joins, or reports; each course has its lemma above. -/
theorem joins : Obligations.Joins := by
  unfold Obligations.Joins
  intro a v s b l u hclear hl _ w h? goesOn
  have hkey := State.key_of_block? hclear.1.1
  have hself : s.block? b.key = some b := by rw [hkey]; exact hclear.1.1
  refine ⟨fun hnone => ?unnamed, fun h hw hother hgone hdone => ?other, fun h hw hkind hdone => ?waits,
    fun h k f hw hkind hdone hjoined hop hf => ⟨fun hfine hheld => ?joins, fun z hz hfirst hissues => ?conflict⟩⟩
  case unnamed =>
    exact exec_join_goesOn hclear hl (Block.joinWaits_none hnone) (State.conflictOf_none hnone) (State.joinLane_none hself hnone)
  case other =>
    exact exec_join_goesOn hclear hl (Block.joinWaits_ready hw hdone) (State.conflictOf_gone hw hgone)
      (State.joinLane_other hself hw hother)
  case waits =>
    exact exec_join_waits (p := (h.slot, h.gen)) hclear hl (Block.joinWaits_open hw hkind hdone)
  case joins =>
    obtain ⟨t, hs, hexec, hjoin, hof⟩ := exec_join_joins hclear hl hw hkind hdone hjoined hop hf hfine hheld
    have hblocks : t.blocks = s.blocks := by rw [hjoin.only]
    have hsame : ({ s with blocks :=
        (t.updBlock s.cur.blk (Block.goOn hs s.cur.strand s.cur.lanes fun _ ln => ln.retire s.cur.next)).blocks } : State) =
        s.updBlock s.cur.blk (Block.goOn hs s.cur.strand s.cur.lanes fun _ ln => ln.retire s.cur.next) := by
      simp only [State.updBlock, hblocks]
    have hfind := State.block?_goOn hclear.1.1 hs s.cur.strand s.cur.lanes fun _ ln => ln.retire s.cur.next
    rw [← hsame] at hfind
    refine ⟨_, b.goOn hs s.cur.strand s.cur.lanes fun _ ln => ln.retire s.cur.next, hexec, ?_, hjoin.fabric, hjoin.forks,
      hjoin.grids, hjoin.dirty, hjoin.others, ?_, hfind, fun x hx => joined_of_handlesOf (hof b) hx⟩
    · rw [State.updBlock, hjoin.only]
    · rw [hsame]
      exact lanesOnly_goOn hclear.1 hs _
  case conflict =>
    exact exec_join_conflict hclear hl hw hdone hop hf hz hfirst hissues

end Sys2Proof.Machine

/-! PROOFS. ACQ by two lanes of one line, which an L1 that lists the line twice gives them different words of (R107, R153, R356). -/

namespace Sys2Proof.Machine

open Sys2Proof Sys2Proof.Spec

/-! ## An L1 that lists a line twice -/

/-- Where the sync object stands, at the virtual address 0x1000. -/
def objectAddr : Nat := probeData + 0x1000

/-- The object's 64 bytes held clean, all 0, and its line listed twice: with a lease that is over, and with one that is not. -/
def Core.listsTwice (c : Core) : Core :=
  { c with
    l1 := (List.range 64).map fun j => (objectAddr + j, some ⟨0, false⟩)
    lines := [⟨objectAddr / 128, 0, none⟩, ⟨objectAddr / 128, 1, none⟩] }

/-- The probe's block with the object's address in v20:v21 of lanes 0 and 1. -/
def acquiringBlock : Block :=
  { probeBlock with strands := probeBlock.strands.map fun st =>
      (st.setReg 0 20 ⟨0x1000, true, false, false⟩).setReg 1 20 ⟨0x1000, true, false, false⟩ }

/-- Lanes 0 and 1 of the probe at their ACQ; the object's first byte in L2 is 1. -/
def listedTwiceState : State :=
  let s := State.reset.probe 0
  { s with
    mem := memPut s.mem objectAddr 1
    cores := s.cores.modify 0 Core.listsTwice
    blocks := [acquiringBlock]
    cur := ⟨1, 0, [0, 1], 0x40000000, 0x40000004, 0, none⟩ }

/-! ## What the statement asks of it -/

theorem listedTwiceState_clear : listedTwiceState.clearFor acquiringBlock
    { srcs := [(srcA .none 20).pair.clean], dsts := [(dstD .none 4).pair] } := by
  decide +kernel

theorem listedTwiceState_quiet : Quiet listedTwiceState := by
  unfold Quiet
  decide +kernel

theorem listedTwiceState_drained : Drained listedTwiceState acquiringBlock.core := ⟨by decide +kernel, by decide +kernel⟩

/-- Each lane finds its object under a live lease. -/
theorem listedTwiceState_hits : ∀ l ∈ listedTwiceState.cur.lanes,
    (pairAt (acquiringBlock.strand 0) l (aReg .none 20)).toNat % 64 = 0 ∧
    listedTwiceState.place acquiringBlock (listedTwiceState.jobOf acquiringBlock)
      (pairAt (acquiringBlock.strand 0) l (aReg .none 20)).toNat 64 .read = .ok ⟨.phys objectAddr, some probeDataLeaf⟩ ∧
    listedTwiceState.scopeFlaw acquiringBlock 0 (syncScopeOf .none) (.phys objectAddr) = none ∧
    (probeDataLeaf.cache == 0 &&
      !({ srcs := [(srcA .none 20).pair.clean], dsts := [(dstD .none 4).pair] } : Uses).marked (acquiringBlock.strand 0)
        listedTwiceState.cur.lanes (fun w => w.taint) l &&
      (listedTwiceState.core acquiringBlock.core).serves objectAddr 64
        (listedTwiceState.coreClock acquiringBlock.core)) = true := by
  decide +kernel

/-- The bytes that the statement gives each lane. -/
def heldObject (j : Nat) : Byte := heldByte listedTwiceState acquiringBlock.core (objectAddr + j)

theorem heldObject_guardsAll : nrange heldObject = 0 := by decide +kernel

theorem heldObject_onePage (lf : Leaf) (o : Nat) : OnePage listedTwiceState acquiringBlock lf o heldObject := by
  unfold OnePage
  simp [heldObject_guardsAll]

/-- The first lane's hit leaves the line listed once, its lease over, so that the second lane's word comes from L2. -/
theorem exec_acqListedTwice :
    nextHas (fun t => (t.block? 1).map (fun c => ((c.strand 0).reg 1 4).val) == some 1)
      (exec (.acq 4 20 .none) listedTwiceState) = true := by
  decide +kernel

/-- Refutes O25 in its clause on ACQ: it says that lanes which all hit the L1 before the instruction read what it holds. The L1 of
`listedTwiceState` lists the objects' line twice, under a lease that is over and under one that is not; the hit of lane 0 keeps
the first listing alone, so that lane 1 misses and reads L2, where WORD is 1 and not 0. -/
theorem not_syncObjects : ¬ Obligations.SyncObjects := by
  unfold Obligations.SyncObjects
  intro h
  obtain ⟨hacq, -⟩ := h
  obtain ⟨t, hexec, -, -, -, -, -, ⟨c, hblock, -, -, -, -, -, hreg⟩, -⟩ := hacq 4 20 .none listedTwiceState acquiringBlock
    listedTwiceState_clear listedTwiceState_quiet (by decide +kernel) listedTwiceState_drained (by decide +kernel)
    (by decide +kernel) (fun _ => objectAddr) probeDataLeaf true rfl listedTwiceState_hits
    fun _ _ => heldObject_onePage _ _
  obtain ⟨u, hu, hone⟩ := exists_next_of_nextHas exec_acqListedTwice
  obtain rfl : t = u := Host.Outcome.next.inj (hexec.symm.trans hu)
  have hc : t.block? 1 = some c := hblock
  have hheld : ((c.strand 0).reg 1 4).val = 0 :=
    (congrArg RegWord.val (hreg 1 4 (by decide))).trans (by decide +kernel)
  simp [hc, hheld] at hone

end Sys2Proof.Machine

/-! PROOFS. AAPPEND to an uncached page: its read of the descriptor uses up class 0's credit, and the write of the element waits
(R70, R71, R352, R353). -/

namespace Sys2Proof.Machine

open Sys2Proof Sys2Proof.Spec

/-! ## An append whose element finds no credit -/

/-- The probe's data page, in which no L1 holds a byte. -/
def uncachedLeaf : Leaf := { probeDataLeaf with cache := 1 }

/-- The page-table entry of that page (Table 5-5). -/
def uncachedEntry : List Byte := leBytes 16 (3 + 3 * 2 ^ 2 + 2 ^ 5 + probeJob * 2 ^ 20 + probeData * 2 ^ 64)

/-- A descriptor of stream 0, of words, with room for one at 0x2000 and none counted (Table 15-4). -/
def emptyDescriptor : List Byte := leBytes 8 0 ++ leBytes 8 0x2000 ++ leBytes 8 1 ++ leBytes 8 0

/-- The probe's grid as a DET one with a stream that no block has passed. -/
def appendingGrid : Grid :=
  { probeGrid 0 false with
    launch := { probeLaunch false with det := true, nstream := 1 }, streams := [⟨[], none, none⟩] }

/-- The probe's block with the descriptor's address, 0x1000, in v20:v21 of lane 0, and the predicate 1 in v8. -/
def appendingBlock : Block :=
  { probeBlock with strands := probeBlock.strands.map fun st =>
      (st.setReg 0 20 ⟨0x1000, true, false, false⟩).setReg 0 8 ⟨1, true, false, false⟩ }

/-- Lane 0 of the probe at its AAPPEND, where class 0 has one byte of credit on die 0. -/
def lastCreditState : State :=
  let s := State.reset.probe 0
  { s with
    mem := memPuts (memPuts s.mem (probeTables + 8192) uncachedEntry) (probeData + 0x1000) emptyDescriptor
    dies := s.dies.modify 0 fun d => { d with budget := d.budget.set 0 (1, false), credit := d.credit.set 0 1 }
    grids := [appendingGrid]
    blocks := [appendingBlock]
    cur := ⟨1, 0, [0], 0x40000000, 0x40000004, 0, none⟩ }

/-! ## What the statement asks of it -/

theorem lastCreditState_quiet : Quiet lastCreditState := by
  unfold Quiet
  decide +kernel

theorem lastCreditState_credited : Credited lastCreditState := by
  intro d
  have hlisted : ∀ x ∈ lastCreditState.dies, x.credited 0 = true := by decide +kernel
  rw [State.die, List.getD_eq_getElem?_getD]
  cases hd : lastCreditState.dies[d]? with
  | none => decide +kernel
  | some x => exact hlisted x (List.mem_of_getElem? hd)

theorem lastCreditState_clean :
    Clean lastCreditState appendingBlock.core ∧ Drained lastCreditState appendingBlock.core :=
  ⟨⟨by decide +kernel, by decide +kernel⟩, by decide +kernel, by decide +kernel⟩

theorem lastCreditState_noTlb :
    (lastCreditState.core appendingBlock.core).tlb ++ (lastCreditState.die (dieOf appendingBlock.core)).l2tlb = [] := by
  decide +kernel

theorem lastCreditState_lane {l : Nat} (h : l ∈ lastCreditState.cur.lanes) : l = 0 := List.mem_singleton.1 h

/-- The read of the descriptor takes the last byte of credit: the lane parks, and the block has not acted. -/
theorem exec_aappendWithoutCredit :
    nextHas (fun t => (t.block? 1).map (fun c => (c.outside, ((c.strand 0).lane 0).park)) == some (false, .credit 0))
      (exec (.atomAappend 8 20 6 .none) lastCreditState) = true := by
  decide +kernel

/-- Refutes O28 in its clause on a block whose turn has come: it asks for credit in class 0 before the instruction alone. In
`lastCreditState` the read of the descriptor takes the last of it (R70), so that the write of the element, on a page that no L1
holds, waits for the die's next period (R71): nothing is claimed in this step. -/
theorem not_orderedAppend : ¬ Obligations.OrderedAppend := by
  unfold Obligations.OrderedAppend
  intro h
  obtain ⟨hclean, hdrained⟩ := lastCreditState_clean
  obtain ⟨happend, -⟩ := h 8 20 6 .none lastCreditState appendingBlock appendingGrid (probeData + 0x1000) uncachedLeaf
    (by decide +kernel) lastCreditState_quiet lastCreditState_credited hclean hdrained (by decide +kernel) rfl
    (by decide +kernel) rfl (by decide +kernel) (by decide +kernel) (fun e he => absurd he (by simp [lastCreditState_noTlb]))
    (by decide +kernel) rfl (by decide +kernel) (by decide +kernel) (by decide +kernel)
  obtain ⟨-, hturn⟩ := happend (by decide +kernel) (by decide +kernel) (by decide +kernel)
  obtain ⟨t, -, hexec, -, -, -, ⟨c, hblock, hc, -⟩, -⟩ := hturn (fun m hm => absurd hm (Nat.not_lt_zero m)) (by decide +kernel)
    (fun _ => probeData + 0x2000) false fun l hl => by
      obtain rfl := lastCreditState_lane (List.mem_of_mem_filter hl)
      exact ⟨by decide +kernel, uncachedLeaf, by decide +kernel, rfl, by decide⟩
  obtain ⟨u, hu, hparked⟩ := exists_next_of_nextHas exec_aappendWithoutCredit
  obtain rfl : t = u := Host.Outcome.next.inj (hexec.symm.trans hu)
  have hfound : t.block? 1 = some c := hblock
  have houtside : c.outside = true := by rw [hc]
  simp [hfound, houtside] at hparked

end Sys2Proof.Machine

/-! PROOFS. The release and the acquire of everything on one core (R107, R108, R152): what they write, and what they leave of the
core's L1. -/

namespace Sys2Proof.Machine

open Sys2Proof Sys2Proof.Spec

/-! ## Sparse tables filtered and mapped -/

section
variable {α : Type} [DecidableEq α]

/-- No entry of a table whose keys lie above `b` is found at `b` or below. -/
theorem cellsGet_of_above {d : α} {b k : Nat} {c : Cells α} (h : cellsAbove d b c = true) (hk : k ≤ b) : cellsGet d k c = d := by
  induction c generalizing b with
  | nil => rfl
  | cons e r ih =>
    obtain ⟨j, v⟩ := e
    simp only [cellsAbove, Bool.and_eq_true, decide_eq_true_eq] at h
    obtain ⟨⟨hj, -⟩, hr⟩ := h
    rw [cellsGet, if_neg (by omega)]
    exact ih hr (by omega)

/-- The tail of a table in canonical form, and what its first entry is. -/
theorem cellsWf_cons {d v : α} {j : Nat} {c : Cells α} (h : cellsWf d ((j, v) :: c) = true) :
    v ≠ d ∧ cellsGet d j c = d ∧ cellsWf d c = true := by
  simp only [cellsWf, Bool.and_eq_true, Bool.not_eq_true', decide_eq_false_iff_not] at h
  exact ⟨h.1, cellsGet_of_above h.2 (le_refl j), cellsWf_of_above d j c h.2⟩

/-- A canonical table with some entries left out. -/
theorem cellsGet_filter {d : α} {c : Cells α} (h : cellsWf d c = true) (p : Nat × α → Bool) (k : Nat) :
    cellsGet d k (c.filter p) = if p (k, cellsGet d k c) then cellsGet d k c else d := by
  induction c with
  | nil => exact (ite_self d).symm
  | cons e r ih =>
    obtain ⟨j, v⟩ := e
    obtain ⟨-, hfree, hr⟩ := cellsWf_cons h
    have ih := ih hr
    by_cases hk : j = k
    · subst hk
      by_cases hp : p (j, v) = true
      · simp [hp, cellsGet]
      · simp [hp, cellsGet, ih, hfree]
    · by_cases hp : p (j, v) = true <;> simp [hp, cellsGet, hk, ih]

omit [DecidableEq α] in
/-- A table whose values are changed, where the default stays. -/
theorem cellsGet_map {d : α} {f : Nat × α → Nat × α} (hkey : ∀ e, (f e).1 = e.1) (hd : ∀ k, (f (k, d)).2 = d) (c : Cells α)
    (k : Nat) : cellsGet d k (c.map f) = (f (k, cellsGet d k c)).2 := by
  induction c with
  | nil => exact (hd k).symm
  | cons e r ih =>
    obtain ⟨j, v⟩ := e
    have hj : f (j, v) = (j, (f (j, v)).2) := Prod.ext (hkey (j, v)) rfl
    rw [List.map_cons, hj]
    by_cases hk : j = k
    · subst hk
      simp [cellsGet]
    · simp [cellsGet, hk, ih]

theorem cellsAbove_filter {d : α} {b : Nat} {c : Cells α} (h : cellsAbove d b c = true)
    (p : Nat × α → Bool) : cellsAbove d b (c.filter p) = true := by
  induction c generalizing b with
  | nil => rfl
  | cons e r ih =>
    obtain ⟨j, v⟩ := e
    simp only [cellsAbove, Bool.and_eq_true, decide_eq_true_eq] at h
    obtain ⟨⟨hj, hv⟩, hr⟩ := h
    rw [List.filter_cons]
    split
    · simp only [cellsAbove, Bool.and_eq_true, decide_eq_true_eq]
      exact ⟨⟨hj, hv⟩, ih hr⟩
    · exact cellsAbove_mono d b j _ (ih hr) (by omega)

theorem cellsWf_filter {d : α} {c : Cells α} (h : cellsWf d c = true) (p : Nat × α → Bool) :
    cellsWf d (c.filter p) = true := by
  cases c with
  | nil => rfl
  | cons e r =>
    obtain ⟨j, v⟩ := e
    simp only [cellsWf, Bool.and_eq_true] at h
    rw [List.filter_cons]
    split
    · simp only [cellsWf, Bool.and_eq_true]
      exact ⟨h.1, cellsAbove_filter h.2 p⟩
    · exact cellsWf_of_above d j _ (cellsAbove_filter h.2 p)

theorem cellsAbove_map {d : α} {f : Nat × α → Nat × α} (hkey : ∀ e, (f e).1 = e.1) (hd : ∀ e, e.2 ≠ d → (f e).2 ≠ d) {b : Nat}
    {c : Cells α} (h : cellsAbove d b c = true) : cellsAbove d b (c.map f) = true := by
  induction c generalizing b with
  | nil => rfl
  | cons e r ih =>
    obtain ⟨j, v⟩ := e
    simp only [cellsAbove, Bool.and_eq_true, decide_eq_true_eq, Bool.not_eq_true', decide_eq_false_iff_not] at h
    obtain ⟨⟨hj, hv⟩, hr⟩ := h
    have hval : f (j, v) = (j, (f (j, v)).2) := Prod.ext (hkey (j, v)) rfl
    rw [List.map_cons, hval]
    simp [cellsAbove, hj, hd (j, v) hv, ih hr]

theorem cellsWf_map {d : α} {f : Nat × α → Nat × α} (hkey : ∀ e, (f e).1 = e.1) (hd : ∀ e, e.2 ≠ d → (f e).2 ≠ d)
    {c : Cells α} (h : cellsWf d c = true) : cellsWf d (c.map f) = true := by
  cases c with
  | nil => rfl
  | cons e r =>
    obtain ⟨j, v⟩ := e
    simp only [cellsWf, Bool.and_eq_true, Bool.not_eq_true', decide_eq_false_iff_not] at h
    have hval : f (j, v) = (j, (f (j, v)).2) := Prod.ext (hkey (j, v)) rfl
    rw [List.map_cons, hval]
    simp [cellsWf, hd (j, v) h.1, cellsAbove_map hkey hd h.2]
end

/-! ## Bytes written back -/

/-- Where nothing is reserved, no write clears a reservation. -/
theorem State.clearResv_quiet {s : State} (hq : Quiet s) (loc : Loc) (n : Nat) (keep : Nat → Nat → Nat → Bool) :
    s.clearResv loc n keep = s := by
  obtain ⟨-, -, haway, hresv⟩ := hq
  have hnone : (s.blocks.any fun b => b.strands.any fun st => st.lanes.any fun l => l.resv.isSome) = false := by
    simp only [List.any_eq_false, Bool.not_eq_true, Option.isSome_eq_false_iff, Option.isNone_iff_eq_none]
    exact hresv
  simp [State.clearResv, haway, hnone]

/-- L1 bytes written to memory, one after the other. -/
def putCells (es : Cells (Option L1Byte)) (m : Memory) : Memory :=
  es.foldl (fun m e => match e.2 with | some b => memPut m e.1 b.val | none => m) m

theorem memGet_putCells {es : Cells (Option L1Byte)} (h : cellsWf none es = true) (m : Memory) (x : Nat) :
    memGet (putCells es m) x = ((cellsGet none x es).map fun b => b.val).getD (memGet m x) := by
  induction es generalizing m with
  | nil => rfl
  | cons e r ih =>
    obtain ⟨j, v⟩ := e
    obtain ⟨hv, hfree, hr⟩ := cellsWf_cons h
    obtain ⟨b, rfl⟩ := Option.ne_none_iff_exists'.1 hv
    change memGet (putCells r (memPut m j b.val)) x = _
    rw [ih hr, cellsGet]
    by_cases hx : j = x
    · subst hx
      simp [hfree, memGet_put]
    · simp [hx, Ne.symm hx, memGet_put]

/-- The step of a write-back that writes one byte. -/
def State.putByte (core : Nat) (s : State) (e : Nat × Option L1Byte) : State :=
  match e.2 with
  | some b => ({ s with mem := memPut s.mem e.1 b.val }).clearResv (.phys e.1) 1 fun k _ _ =>
      ((s.block? k).map fun b : Block => b.core == core).getD false
  | none => s

theorem foldl_putByte {s : State} (hq : Quiet s) (core : Nat) (es : Cells (Option L1Byte)) :
    es.foldl (State.putByte core) s = { s with mem := putCells es s.mem } := by
  induction es generalizing s with
  | nil => rfl
  | cons e r ih =>
    obtain ⟨j, v⟩ := e
    cases v with
    | none => exact ih hq
    | some b =>
      have hput : State.putByte core s (j, some b) = { s with mem := memPut s.mem j b.val } := by
        rw [State.putByte]
        exact State.clearResv_quiet (s := { s with mem := memPut s.mem j b.val }) hq _ _ _
      rw [List.foldl_cons, hput]
      exact ih (s := { s with mem := memPut s.mem j b.val }) hq

/-- The step of a write-back that tells a line's home of it. -/
def State.sendLine (core : Nat) (s : State) (line : Nat) : State :=
  (s.traffic (dieOf core) 0 (line * 128) 128 true none).noteWritten (line * 128) 128

theorem Die.deduct_clock (d : Die) (c n : Nat) : (d.deduct c n).clock = d.clock := by
  unfold Die.deduct
  split
  · rfl
  · split <;> rfl

theorem Die.useL2_clock (d : Die) (line : Nat) (write : Bool) (range : Option Nat) : (d.useL2 line write range).clock = d.clock := by
  unfold Die.useL2
  split <;> rfl

theorem Die.yieldL2_clock (d : Die) (line : Nat) (write : Bool) : (d.yieldL2 line write).clock = d.clock := by
  unfold Die.yieldL2
  split <;> rfl

/-- The dies of `t` are those of `s`, clock by clock. -/
def SameClocks (s t : State) : Prop := t.dies.map Die.clock = s.dies.map Die.clock

theorem SameClocks.coreClock {s t : State} (h : SameClocks s t) (core : Nat) : t.coreClock core = s.coreClock core := by
  have hd : (t.dies.map Die.clock)[dieOf core]? = (s.dies.map Die.clock)[dieOf core]? := congrArg (·[dieOf core]?) h
  simp only [List.getElem?_map] at hd
  simp only [State.coreClock, State.die, List.getD_eq_getElem?_getD]
  cases ht : t.dies[dieOf core]? <;> cases hs : s.dies[dieOf core]? <;> simp_all

theorem State.charge_sameClocks (s : State) (d c n : Nat) : SameClocks s (s.charge d c n) := by
  unfold State.charge
  split
  · refine List.ext_getElem? fun i => ?_
    simp only [State.updDie, List.getElem?_map, List.getElem?_modify]
    split <;> cases s.dies[i]? <;> simp [Die.deduct_clock]
  · rfl

theorem State.traffic_sameClocks (s : State) (d c pa n : Nat) (write : Bool) (range : Option Nat) :
    SameClocks s (s.traffic d c pa n write range) := by
  have hcharge : SameClocks s (if (s.die d).l2.any fun x => x.line == pa / 128 then s.charge d c n
      else (s.charge d c n).charge (dieOfAddr pa) c 128) := by
    split
    · exact s.charge_sameClocks d c n
    · exact ((s.charge d c n).charge_sameClocks _ c 128).trans (s.charge_sameClocks d c n)
  refine Eq.trans (List.ext_getElem? fun i => ?_) hcharge
  simp only [State.traffic, List.getElem?_map, List.getElem?_mapIdx, Option.map_map]
  congr 1
  funext x
  simp only [Function.comp_apply]
  split
  · exact x.useL2_clock _ _ _
  · exact x.yieldL2_clock _ _

/-- What leaves every die's clock alone, and changes the dies and what migrations record alone. -/
def LinesSent (s t : State) : Prop := t = { s with dies := t.dies, migrations := t.migrations } ∧ SameClocks s t

theorem State.sendLine_sent (core : Nat) (s : State) (line : Nat) : LinesSent s (State.sendLine core s line) := by
  have hclocks := s.traffic_sameClocks (dieOf core) 0 (line * 128) 128 true none
  unfold State.sendLine
  rw [State.noteWritten_only, State.traffic_only]
  exact ⟨rfl, hclocks⟩

theorem foldl_sendLine (core : Nat) (lines : List Nat) (s : State) : LinesSent s (lines.foldl (State.sendLine core) s) := by
  induction lines generalizing s with
  | nil => exact ⟨rfl, rfl⟩
  | cons l r ih =>
    obtain ⟨honly, hclocks⟩ := State.sendLine_sent core s l
    obtain ⟨hrest, hrestClocks⟩ := ih (State.sendLine core s l)
    refine ⟨?_, hrestClocks.trans hclocks⟩
    rw [List.foldl_cons, hrest, honly]

/-! ## The L1 after its write-back -/

theorem State.core_updCore_self (s : State) {core : Nat} {f : Core → Core} (h : core < s.cores.length) :
    (s.updCore core f).core core = f (s.core core) := by
  simp [State.core, State.updCore, List.getD_eq_getElem?_getD, h]

/-- A core that is not listed holds nothing. -/
theorem State.core_unlisted {s : State} {core : Nat} (h : s.cores.length ≤ core) : s.core core = Core.reset :=
  List.getD_eq_default _ _ h

theorem Core.markClean_l1 (c : Core) :
    (c.markClean none).l1 = c.l1.map fun e => (e.1, cleaned e.2) := rfl

theorem Core.markClean_l1At (c : Core) (k : Nat) : (c.markClean none).l1At k = cleaned (c.l1At k) := by
  rw [Core.l1At, Core.markClean_l1, cellsGet_map (f := fun e => (e.1, cleaned e.2)) (fun _ => rfl) fun _ => rfl]
  rfl

theorem Core.markClean_wf {c : Core} (h : cellsWf none c.l1 = true) : cellsWf none (c.markClean none).l1 = true := by
  rw [Core.markClean_l1]
  refine cellsWf_map (f := fun e => (e.1, cleaned e.2)) (fun _ => rfl) (fun e he => ?_) h
  simpa [cleaned] using he

/-- The core's dirty bytes. -/
def Core.dirtyCells (c : Core) : Cells (Option L1Byte) :=
  c.l1.filter fun e => match e.2 with | some b => b.dirty | none => false

/-- What a release of everything on a core leaves (R152): the core's own writes in memory, and its L1 clean. -/
structure Released (s t : State) (core : Nat) : Prop where
  only : t = { s with mem := t.mem, cores := t.cores, dies := t.dies, migrations := t.migrations }
  mem : ∀ x, memGet t.mem x = current s core x
  l1 : ∀ k, (t.core core).l1At k = cleaned ((s.core core).l1At k)
  canonical : cellsWf none (t.core core).l1 = true
  buffer : (t.core core).wcb = (s.core core).wcb
  others : ∀ k, k ≠ core → t.core k = s.core k
  clocks : SameClocks s t

theorem State.writeBack_eq (s : State) (core : Nat) :
    s.writeBack core none =
      if (s.core core).dirtyCells.isEmpty then s
      else ((dedupe ((s.core core).dirtyCells.map fun e => e.1 / 128)).foldl (State.sendLine core)
        ((s.core core).dirtyCells.foldl (State.putByte core) s)).updCore core fun c => c.markClean none := rfl

/-- The core's own write of a byte, where it has not been written back. -/
theorem Core.dirtyCells_get {c : Core} (h : cellsWf none c.l1 = true) (k : Nat) :
    cellsGet none k c.dirtyCells = (c.l1At k).filter fun b => b.dirty := by
  rw [Core.dirtyCells, cellsGet_filter h, ← Core.l1At]
  cases c.l1At k with
  | none => rfl
  | some b => cases hb : b.dirty <;> simp [hb, Option.filter]

theorem memGet_dirtyCells {s : State} {core : Nat} (h : cellsWf none (s.core core).l1 = true) (x : Nat) :
    memGet (putCells (s.core core).dirtyCells s.mem) x = current s core x := by
  rw [memGet_putCells (es := (s.core core).dirtyCells) (cellsWf_filter h _), Core.dirtyCells_get h, current]
  cases (s.core core).l1At x with
  | none => rfl
  | some b => cases hb : b.dirty <;> simp [hb, Option.filter]

/-- Bytes that are all clean stay as they are, and memory holds the current ones. -/
theorem Core.l1At_clean {c : Core} (h : cellsWf none c.l1 = true) (hclean : c.dirtyCells = []) (k : Nat) :
    (c.l1At k).filter (fun b => b.dirty) = none ∧ cleaned (c.l1At k) = c.l1At k := by
  have hnone : (c.l1At k).filter (fun b => b.dirty) = none := by rw [← Core.dirtyCells_get h, hclean]; rfl
  refine ⟨hnone, ?_⟩
  cases hx : c.l1At k with
  | none => rfl
  | some b =>
    have hb : b.dirty = false := by simpa [hx, Option.filter] using hnone
    simp [cleaned, ← hb]

theorem State.writeBack_released {s : State} (hq : Quiet s) {core : Nat} (hwf : cellsWf none (s.core core).l1 = true) :
    Released s (s.writeBack core none) core := by
  have hmem := memGet_dirtyCells hwf
  rw [State.writeBack_eq, foldl_putByte hq]
  by_cases hdirty : (s.core core).dirtyCells = []
  · rw [hdirty] at hmem ⊢
    exact ⟨rfl, hmem, fun k => ((Core.l1At_clean hwf hdirty k).2).symm, hwf, rfl, fun _ _ => rfl, rfl⟩
  · have hlen : core < s.cores.length := by
      by_contra hlen
      rw [State.core_unlisted (Nat.not_lt.1 hlen)] at hdirty
      exact hdirty rfl
    rw [if_neg (by simpa using hdirty)]
    generalize dedupe ((s.core core).dirtyCells.map fun e => e.1 / 128) = lines
    obtain ⟨honly, hclocks⟩ := foldl_sendLine core lines { s with mem := putCells (s.core core).dirtyCells s.mem }
    generalize lines.foldl (State.sendLine core) _ = u at honly hclocks ⊢
    have hcores : u.cores = s.cores := by rw [honly]
    have hself : (u.updCore core fun c => c.markClean none).core core = (s.core core).markClean none := by
      rw [State.core_updCore_self u (by rw [hcores]; exact hlen), State.core, hcores]
      rfl
    refine ⟨?_, fun x => ?_, fun k => ?_, ?_, ?_, fun k hk => ?_, hclocks⟩
    · rw [State.updCore, honly]
    · rw [← hmem, honly]
      rfl
    · rw [hself, Core.markClean_l1At]
    · rw [hself]
      exact Core.markClean_wf hwf
    · rw [hself]
      rfl
    · rw [State.core_updCore_other u hk, State.core, hcores]
      rfl

/-! ## Release and acquire of everything -/

/-- From team scope on a release of a core with an empty write-combining buffer writes back all that is dirty, and awaits
nothing. -/
theorem State.releaseSet_released {s : State} (hq : Quiet s) {core : Nat} (hd : Drained s core) {scope : Nat}
    (hscope : 3 ≤ scope) : ∃ t, s.releaseSet core scope none = (t, []) ∧ Released s t core := by
  have hback := State.writeBack_released hq hd.2
  have hempty : ((s.writeBack core none).core core).wcb = [] := hback.buffer.trans hd.1
  refine ⟨_, ?_, hback⟩
  rw [State.releaseSet, if_neg (by omega)]
  simp [State.drainWhere, State.unacked, hempty]

theorem State.drainWhere_empty {s : State} {core : Nat} (h : (s.core core).wcb = []) (p : WcbEntry → Bool) :
    s.drainWhere core p = s := by
  simp [State.drainWhere, h]

/-- With no matrix context nothing else is waited for. -/
theorem State.release_released {s : State} {b : Block} (hmat : b.mat = none) (hq : Quiet s) (hd : Drained s b.core) (i : Nat)
    {scope : Nat} (hscope : 3 ≤ scope) : ∃ t, s.release b i scope none = (t, none) ∧ Released s t b.core := by
  obtain ⟨t, hrel, ht⟩ := State.releaseSet_released hq hd hscope
  exact ⟨t, by simp [State.release, Block.matDrain, hmat, hrel], ht⟩

/-- A scope below TEAM releases nothing. -/
theorem State.release_low {s : State} {b : Block} (hmat : b.mat = none) (i : Nat) {scope : Nat} (hscope : scope ≤ 2) :
    s.release b i scope none = (s, none) := by
  simp [State.release, Block.matDrain, hmat, State.releaseSet_low s b.core scope none hscope]

theorem Core.keepDirty_l1At {c : Core} (h : cellsWf none c.l1 = true) (k : Nat) :
    (c.keepL1 fun x b => b.dirty || !ByteSet.has none x).l1At k = kept (c.l1At k) := by
  rw [Core.l1At, Core.keepL1, cellsGet_filter h, ← Core.l1At]
  cases c.l1At k with
  | none => rfl
  | some b => cases hb : b.dirty <;> simp [hb, kept, Option.filter, ByteSet.has]

/-- An acquire of everything leaves the dirty bytes of the core's L1 (R152). -/
theorem State.acquireSet_l1At {s : State} {core : Nat} (h : cellsWf none (s.core core).l1 = true) {scope : Nat}
    (hscope : 3 ≤ scope) (k : Nat) : ((s.acquireSet core scope none).core core).l1At k = kept ((s.core core).l1At k) := by
  have hcore : (s.acquireSet core scope none).core core =
      (s.updCore core fun c => c.keepL1 fun x b => b.dirty || !ByteSet.has none x).core core := by
    rw [State.acquireSet, if_neg (by omega), State.discard, State.core, State.stopFills_cores]
    rfl
  rw [hcore]
  by_cases hlen : core < s.cores.length
  · rw [State.core_updCore_self s hlen, Core.keepDirty_l1At h]
  · rw [State.updCore, List.modify_eq_self (by omega)]
    change (s.core core).l1At k = _
    rw [State.core_unlisted (by omega)]
    rfl

/-- What has been written back an acquire discards. -/
theorem kept_cleaned (x : Option L1Byte) : kept (cleaned x) = none := by
  cases x <;> rfl

theorem fabricKeeps_refl (s : State) : FabricKeeps s s := ⟨rfl, rfl⟩

theorem fabricKeeps_trans {s t u : State} (h : FabricKeeps s t) (k : FabricKeeps t u) : FabricKeeps s u := by
  refine ⟨?_, k.2.trans h.2⟩
  rw [k.1, h.1]

end Sys2Proof.Machine

/-! PROOFS. What instructions of the memory model leave of their block, and the fences (R143, R152, R156, R157, R355). -/

namespace Sys2Proof.Machine

open Sys2Proof Sys2Proof.Spec

/-! ## The block of the issue goes on -/

/-- The lanes of the issue are as `f` says, and the strands are those of `b` otherwise. -/
def LanesGo (s : State) (b c : Block) (f : Nat → Lane → Lane) : Prop :=
  (∀ j, j ≠ s.cur.strand → c.strand j = b.strand j) ∧
  c.strand s.cur.strand = { b.strand s.cur.strand with lanes := (c.strand s.cur.strand).lanes } ∧
  ∀ l, (c.strand s.cur.strand).lane l =
    if l ∈ s.cur.lanes then f l ((b.strand s.cur.strand).lane l) else (b.strand s.cur.strand).lane l

theorem Block.goOn_lanes {s : State} {b x : Block} (h : s.issuing b) (hx : x.strands = b.strands) (hs : Block → List Handle)
    (f : Nat → Lane → Lane) : LanesGo s b (x.goOn hs s.cur.strand s.cur.lanes f) f := by
  obtain ⟨-, hstrand, -, hnodup, hlen⟩ := h
  have hstrands (i : Nat) (st : Strand → Strand) : ({ x with handles := hs x, strands := x.strands.modify i st } : Block).strand =
      ({ b with strands := b.strands.modify i st } : Block).strand := by
    funext j
    rw [Block.strand, hx]
    rfl
  have hself : (x.goOn hs s.cur.strand s.cur.lanes f).strand s.cur.strand =
      (b.strand s.cur.strand).updLanes s.cur.lanes f := by
    rw [Block.goOn, hstrands, Block.strand_modify_self b s.cur.strand _ hstrand]
  refine ⟨fun j hj => ?_, ?_, fun l => ?_⟩
  · rw [Block.goOn, hstrands, Block.strand_modify_other b s.cur.strand j _ hj]
  · rw [hself]
    exact (Strand.updLanes_keeps _ _ _).1
  · rw [hself]
    exact Strand.lane_updLanes _ _ _ l hnodup hlen

/-- The block of the issue changed, in a state that has the blocks of `s`. -/
theorem State.updBlock_cur_frame {s u : State} {b : Block} (hb : s.block? s.cur.blk = some b) (hblocks : u.blocks = s.blocks)
    {F : Block → Block} (hkey : ∀ x, (F x).key = x.key) :
    (u.updBlock s.cur.blk F).block? s.cur.blk = some (F b) ∧ OthersKeep s (u.updBlock s.cur.blk F) := by
  have hsame (k : Nat) : u.block? k = s.block? k := by rw [State.block?, hblocks]; rfl
  constructor
  · rw [State.block?_updBlock_self u s.cur.blk F hkey, hsame, hb]
    rfl
  · intro k hk
    rw [State.block?_updBlock_other u s.cur.blk k F hkey hk, hsame]

/-- A block whose lanes go on, and of which nothing else changes but handles and its mark, has made an access that loads
nothing. -/
theorem accessed_of_lanesGo {s t : State} {b c : Block} (hblock : t.block? s.cur.blk = some c)
    (hc : c = { b with strands := c.strands, handles := c.handles, outside := c.outside })
    (hgo : LanesGo s b c fun _ ln => ln.retire s.cur.next) :
    Accessed s t b (fun _ => []) (fun _ => false) fun x => x = b.scratch := by
  obtain ⟨hothers, hstrand, hlanes⟩ := hgo
  refine ⟨c, hblock, by rw [hc], by rw [hc], hothers, ?_, hlanes, fun l r _ => ?_⟩
  · rw [hstrand]
  · rw [hstrand]
    split
    · next hword => simp [lastWord] at hword
    · rfl

/-- Going on without settling. -/
theorem State.retire_goOn (s : State) (ls : List Nat) :
    s.retire ls = s.updBlock s.cur.blk (Block.goOn (fun x => x.handles) s.cur.strand ls fun _ l => l.retire s.cur.next) := rfl

theorem State.park_goOn (s : State) (ls : List Nat) (p : Park) :
    s.park ls p = s.updBlock s.cur.blk (Block.goOn (fun x => x.handles) s.cur.strand ls fun _ l => { l with park := p }) := rfl

/-- An instruction that reports stores, of which nothing is wrong or waited for, runs. -/
theorem State.gate_reports {s : State} {b : Block} (h : s.clearFor b {}) :
    s.gate { report := reportsStores } Late.none = .go s b (b.strand s.cur.strand) s.cur.lanes :=
  s.gate_go { report := reportsStores } Late.none false b h rfl

theorem syncScope_eq (v : Adverb) : syncScope v = syncScopeOf v := by
  by_cases h : (modOf v).scope.toNat = 0 <;> simp [syncScope, syncScopeOf, accScope, scopeOf, h]

/-! ## Fences -/

/-- What a fence at a scope does on its core: from team scope on it writes back all that is dirty, and discards the rest. -/
structure Fenced (s t : State) (core scope : Nat) : Prop where
  only : t = { s with cores := t.cores, dies := t.dies, mem := t.mem, migrations := t.migrations, fabric := t.fabric }
  fabric : FabricKeeps s t
  mem : ∀ x, memGet t.mem x = if 3 ≤ scope then current s core x else memGet s.mem x
  l1 : ∀ k, (t.core core).l1At k = if scope ≤ 2 then (s.core core).l1At k else none
  others : ∀ k, k ≠ core → t.core k = s.core k

theorem State.fence_next {s : State} {b : Block} (h : s.clearFor b {}) (hmat : b.mat = none) (hq : Quiet s)
    (hd : Drained s b.core) (scope : Nat) :
    ∃ w, s.fence scope = .next (w.retire s.cur.lanes) ∧ Fenced s w b.core scope := by
  by_cases hlow : scope ≤ 2
  · have hhigh : ¬3 ≤ scope := by omega
    refine ⟨s, ?_, rfl, fabricKeeps_refl s, fun x => (if_neg hhigh).symm, fun k => (if_pos hlow).symm, fun _ _ => rfl⟩
    simp only [State.fence, State.gate_reports h, State.release_low hmat _ hlow, State.drainWhere_empty hd.1,
      State.acquireSet_low s b.core scope none hlow]
  · have hscope : 3 ≤ scope := by omega
    obtain ⟨u, hrel, hu⟩ := State.release_released hmat hq hd s.cur.strand hscope
    obtain ⟨hfabric, hothers, -⟩ := State.acquireSet_frame u b.core scope none
    refine ⟨u.acquireSet b.core scope none, ?_, ?_, ?_, fun x => ?_, fun k => ?_, fun k hk => ?_⟩
    · simp only [State.fence, State.gate_reports h, hrel, State.drainWhere_empty (hu.buffer.trans hd.1)]
    · rw [State.acquireSet_only, hu.only]
    · refine fabricKeeps_trans ?_ hfabric
      rw [hu.only]
      exact fabricKeeps_refl s
    · rw [State.acquireSet_only, if_pos hscope]
      exact hu.mem x
    · rw [State.acquireSet_l1At hu.canonical hscope, hu.l1, kept_cleaned, if_neg hlow]
    · rw [hothers k hk, hu.others k hk]

/-- A fence is a release and an acquire at its scope, and goes on. -/
theorem fences_of_fence {i : Adverb → Instr} (hi : ∀ v s, exec (i v) s = s.fence (syncScope v)) : Fences i := by
  intro v s b h hmat hq hd scope
  obtain ⟨w, hfence, hw⟩ := State.fence_next h hmat hq hd (syncScope v)
  have hcur : w.cur = s.cur := by rw [hw.only]
  have hretire := w.retire_goOn s.cur.lanes
  rw [hcur] at hretire
  obtain ⟨hblock, hkeep⟩ := State.updBlock_cur_frame (u := w) h.1.1 (by rw [hw.only])
    (F := Block.goOn (fun x => x.handles) s.cur.strand s.cur.lanes fun _ l => l.retire s.cur.next) fun _ => rfl
  have hgo := Block.goOn_lanes h.1 (x := b) rfl (fun x => x.handles) fun _ l => l.retire s.cur.next
  have hscope : scope = syncScope v := (syncScope_eq v).symm
  rw [hretire] at hfence
  rw [hscope]
  refine ⟨_, (hi v s).trans hfence, ?_, hw.fabric, hkeep, accessed_of_lanesGo hblock rfl hgo, hw.mem, hw.l1, hw.others⟩
  rw [State.updBlock, hw.only]

theorem fenceInstructions : FenceInstructions :=
  ⟨fences_of_fence fun _ _ => rfl, fences_of_fence fun _ _ => rfl⟩

end Sys2Proof.Machine

/-! PROOFS. Barriers of a block and of a team, and the statement of fences and barriers (R354, Tables 7-3 and 7-4). -/

namespace Sys2Proof.Machine

open Sys2Proof Sys2Proof.Spec

/-! ## Lanes listed and lanes by number -/

theorem getD_forall {α : Type} {P : α → Prop} {d : α} (hd : P d) (xs : List α) :
    (∀ x ∈ xs, P x) ↔ ∀ i, P (xs.getD i d) := by
  constructor
  · intro h i
    by_cases hi : i < xs.length
    · rw [List.getD_eq_getElem _ _ hi]
      exact h _ (List.getElem_mem hi)
    · rwa [List.getD_eq_default _ _ (by omega)]
  · intro h x hx
    obtain ⟨i, hi, rfl⟩ := List.getElem_of_mem hx
    have := h i
    rwa [List.getD_eq_getElem _ _ hi] at this

/-- What holds of a lane that never was holds of all lanes listed when it holds of all by number. -/
theorem Block.forall_lanes {P : Lane → Prop} (hP : P Lane.never) (b : Block) :
    (∀ st ∈ b.strands, ∀ ln ∈ st.lanes, P ln) ↔ ∀ i l, P ((b.strand i).lane l) := by
  have habsent : ∀ ln ∈ Strand.absent.lanes, P ln := fun ln h => absurd h List.not_mem_nil
  refine (getD_forall (P := fun st : Strand => ∀ ln ∈ st.lanes, P ln) habsent b.strands).trans ?_
  exact forall_congr' fun i => getD_forall hP (b.strand i).lanes

theorem Lane.never_not_live : Lane.never.status ≠ .live := by decide

/-! ## Arrivals -/

/-- Every live lane of a block waits at the barrier. -/
def Block.allWait (at' : Park → Option Dword) (b : Block) : Prop :=
  ∀ i l, ((b.strand i).lane l).status = .live → (at' ((b.strand i).lane l).park).isSome

/-- Where a live lane waits, all have arrived if every live lane waits. -/
theorem allArrived_iff {at' : Park → Option Dword} {bs : List Block} {b : Block} (hb : b ∈ bs) {i l : Nat}
    (hlive : ((b.strand i).lane l).status = .live) :
    allArrived at' bs = true ↔ ∀ x ∈ bs, x.allWait at' := by
  have hsome : ∃ x ∈ bs, ∃ st ∈ x.strands, ∃ ln ∈ st.lanes, ln.status = .live := by
    refine ⟨b, hb, ?_⟩
    by_contra hno
    have hnone := (Block.forall_lanes (P := fun ln => ln.status ≠ .live) Lane.never_not_live b).1 (by simpa using hno) i l
    exact hnone hlive
  have hall (x : Block) : x.allWait at' ↔ ∀ st ∈ x.strands, ∀ ln ∈ st.lanes, ln.status = .live → (at' ln.park).isSome :=
    (Block.forall_lanes (P := fun ln => ln.status = .live → (at' ln.park).isSome)
      (fun h => absurd h Lane.never_not_live) x).symm
  simp only [hall, allArrived, Bool.and_eq_true, Bool.not_eq_true', List.isEmpty_eq_false_iff_exists_mem, List.all_eq_true,
    List.mem_flatMap, List.mem_filter, beq_iff_eq]
  constructor
  · rintro ⟨-, h⟩ x hx st hst ln hln hl
    exact h ln ⟨x, hx, st, hst, hln, hl⟩
  · intro h
    obtain ⟨x, hx, st, hst, ln, hln, hl⟩ := hsome
    exact ⟨⟨ln, x, hx, st, hst, hln, hl⟩, fun ln ⟨x, hx, st, hst, hln, hl⟩ => h x hx st hst ln hln hl⟩

/-- Block `c` is block `b`, in which the lanes `mine` wait as `p` says. -/
def Parked (b c : Block) (mine : Nat → Nat → Prop) (p : Park) : Prop :=
  c = { b with strands := c.strands } ∧ ∀ i, c.strand i = { b.strand i with lanes := (c.strand i).lanes } ∧
    ∀ l, (mine i l → (c.strand i).lane l = { (b.strand i).lane l with park := p }) ∧
      (¬mine i l → (c.strand i).lane l = (b.strand i).lane l)

theorem Parked.none (b : Block) (p : Park) : Parked b b (fun _ _ => False) p :=
  ⟨rfl, fun _ => ⟨rfl, fun _ => ⟨False.elim, fun _ => rfl⟩⟩⟩

/-- The lanes of the issue. -/
def State.inIssue (s : State) (i l : Nat) : Prop := i = s.cur.strand ∧ l ∈ s.cur.lanes

theorem Block.goOn_parked {s : State} {b : Block} (h : s.issuing b) (p : Park) :
    Parked b (b.goOn (fun x => x.handles) s.cur.strand s.cur.lanes fun _ l => { l with park := p }) s.inIssue p := by
  obtain ⟨hothers, hstrand, hlanes⟩ := Block.goOn_lanes h (x := b) rfl (fun x => x.handles) fun _ l => { l with park := p }
  refine ⟨rfl, fun i => ?_⟩
  by_cases hi : i = s.cur.strand
  · subst hi
    refine ⟨hstrand, fun l => ⟨fun hmine => ?_, fun hmine => ?_⟩⟩
    · rw [hlanes, if_pos hmine.2]
    · rw [hlanes, if_neg fun hl => hmine ⟨rfl, hl⟩]
  · rw [hothers i hi]
    exact ⟨rfl, fun l => ⟨fun hmine => absurd hmine.1 hi, fun _ => rfl⟩⟩

/-- A block whose lanes `mine` have just come to the barrier waits as a whole when all its other live lanes do. -/
theorem Parked.allWait_iff {b c : Block} {mine : Nat → Nat → Prop} {p : Park} (h : Parked b c mine p)
    {at' : Park → Option Dword} (hmine : ∀ i l, mine i l → (at' p).isSome) :
    c.allWait at' ↔ Arrived (fun p => (at' p).isSome) b mine := by
  obtain ⟨-, hstrands⟩ := h
  refine forall_congr' fun i => forall_congr' fun l => ?_
  obtain ⟨-, hlanes⟩ := hstrands i
  obtain ⟨hin, hout⟩ := hlanes l
  by_cases hm : mine i l
  · rw [hin hm]
    simp [hm, hmine i l hm]
  · rw [hout hm]
    simp [hm]

/-! ## Going on -/

/-- A lane that has arrived goes on. -/
def Lane.passBar (at' : Park → Option Dword) (l : Lane) : Lane :=
  if l.status == .live then match at' l.park with | some n => l.retire n | none => l else l

theorem Block.passBar_eq (at' : Park → Option Dword) (b : Block) :
    b.passBar at' = { b with strands := b.strands.map fun st => { st with lanes := st.lanes.map (Lane.passBar at') } } := rfl

theorem Block.lane_passBar (at' : Park → Option Dword) (b : Block) (i l : Nat) :
    ((b.passBar at').strand i).lane l = ((b.strand i).lane l).passBar at' := by
  have hnever : Lane.never.passBar at' = Lane.never := by
    rw [Lane.passBar, if_neg (by decide)]
  rw [Block.passBar_eq, Block.strand_map b rfl]
  simp only [Strand.lane, List.getD_eq_getElem?_getD, List.getElem?_map]
  cases (b.strand i).lanes[l]? <;> simp [hnever]

theorem Block.strand_passBar (at' : Park → Option Dword) (b : Block) (i : Nat) :
    (b.passBar at').strand i = { b.strand i with lanes := ((b.passBar at').strand i).lanes } := by
  rw [Block.passBar_eq, Block.strand_map b rfl]

/-- A block that waits as a whole passes: what was there goes on from its own barrier, what has just come from the issue. -/
theorem Parked.barPassed {s : State} {b c : Block} {mine : Nat → Nat → Prop} {p : Park} (h : Parked b c mine p)
    {at' : Park → Option Dword} (hmine : ∀ i l, mine i l → ((b.strand i).lane l).status = .live ∧ at' p = some s.cur.next) :
    BarPassed s at' b (c.passBar at') mine := by
  obtain ⟨honly, hstrands⟩ := h
  refine ⟨by rw [Block.passBar_eq, honly], fun i => ?_⟩
  obtain ⟨hstrand, hlanes⟩ := hstrands i
  refine ⟨by rw [Block.strand_passBar, hstrand], fun l => ?_⟩
  obtain ⟨hin, hout⟩ := hlanes l
  rw [Block.lane_passBar]
  refine ⟨fun hm => ?_, fun hm => ?_⟩
  · obtain ⟨hlive, hat⟩ := hmine i l hm
    rw [hin hm]
    simp [Lane.passBar, hlive, hat, Lane.retire]
  · rw [hout hm, Lane.passBar]
    cases ((b.strand i).lane l).status <;> cases at' ((b.strand i).lane l).park <;> rfl

/-! ## BAR -/

theorem barNext_eq : barNext = atBar := by
  funext p
  cases p <;> rfl

theorem tbarNext_eq : tbarNext = atTbar := by
  funext p
  cases p <;> rfl

/-- The block with the lanes of the issue parked. -/
def Block.parkIssue (s : State) (p : Park) (x : Block) : Block :=
  x.goOn (fun y => y.handles) s.cur.strand s.cur.lanes fun _ l => { l with park := p }

theorem State.park_eq {s u : State} (hcur : u.cur = s.cur) (p : Park) :
    u.park s.cur.lanes p = u.updBlock s.cur.blk (Block.parkIssue s p) := by
  rw [State.park_goOn, hcur]
  rfl

theorem State.tryBar_next {t : State} {k : Nat} {c : Block} (hc : t.block? k = some c) :
    t.tryBar k = if allArrived atBar [c] then t.updBlock k (Block.passBar atBar) else t := by
  simp only [State.tryBar, hc]

/-- The lanes of the issue park at the barrier of their block, which completes if they are the last. -/
theorem exec_bar {s : State} {b : Block} (h : s.clearFor b {}) (hmat : b.mat = none) (v : Adverb) :
    exec (.bar v) s = .next ((s.park s.cur.lanes (.bar s.cur.next)).tryBar s.cur.blk) := by
  change execBar v s = _
  simp only [execBar, State.gate_reports h, Block.matDrain, hmat, State.key_of_block? h.1.1]

/-- A live lane of the issue, after its parking. -/
theorem Block.parkIssue_live {s : State} {b : Block} (h : s.issuing b) (p : Park)
    (hlive : ∀ l ∈ s.cur.lanes, ((b.strand s.cur.strand).lane l).status = .live) :
    ∃ l, (((b.parkIssue s p).strand s.cur.strand).lane l).status = .live := by
  obtain ⟨l, hl⟩ := List.exists_mem_of_ne_nil _ h.2.2.1
  obtain ⟨-, hstrands⟩ := Block.goOn_parked h p
  obtain ⟨-, hlanes⟩ := hstrands s.cur.strand
  exact ⟨l, by rw [Block.parkIssue, (hlanes l).1 ⟨rfl, hl⟩]; exact hlive l hl⟩

theorem barriers_bar (v : Adverb) (s : State) (b : Block) (h : s.clearFor b {}) (hmat : b.mat = none)
    (hlive : ∀ l ∈ s.cur.lanes, ((b.strand s.cur.strand).lane l).status = .live) :
    (¬Arrived (fun p => (barNext p).isSome) b s.inIssue →
      ∃ t, exec (.bar v) s = .next t ∧ LanesOnly s t b fun _ ln => { ln with park := .bar s.cur.next }) ∧
    (Arrived (fun p => (barNext p).isSome) b s.inIssue →
      ∃ t c, exec (.bar v) s = .next t ∧ s.onlyBlock t b c ∧ BarPassed s barNext b c s.inIssue) := by
  have hexec := exec_bar h hmat v
  have hparked : Parked b (b.parkIssue s (.bar s.cur.next)) s.inIssue (.bar s.cur.next) := Block.goOn_parked h.1 _
  obtain ⟨l, hl⟩ := Block.parkIssue_live h.1 (.bar s.cur.next) hlive
  obtain ⟨hblock, -⟩ := State.updBlock_cur_frame h.1.1 rfl (F := Block.parkIssue s (.bar s.cur.next)) fun _ => rfl
  have hall := allArrived_iff (at' := atBar) (List.mem_singleton.2 rfl) hl
  rw [List.forall_mem_singleton, hparked.allWait_iff fun _ _ _ => rfl] at hall
  rw [State.park_eq rfl, State.tryBar_next hblock] at hexec
  rw [barNext_eq]
  refine ⟨fun hmore => ?_, fun hlast => ?_⟩
  · rw [if_neg fun hyes => hmore (hall.1 hyes)] at hexec
    exact ⟨_, hexec, lanesOnly_goOn h.1 (fun x => x.handles) _⟩
  · rw [if_pos (hall.2 hlast), State.updBlock_updBlock s s.cur.blk (Block.parkIssue s (.bar s.cur.next)) _ fun _ => rfl] at hexec
    obtain ⟨hpassed, hkeep⟩ := State.updBlock_cur_frame h.1.1 rfl
      (F := fun x => (x.parkIssue s (.bar s.cur.next)).passBar atBar) fun _ => rfl
    exact ⟨_, _, hexec, ⟨rfl, hkeep, hpassed, rfl⟩, hparked.barPassed fun i l hm => ⟨by rw [hm.1]; exact hlive l hm.2, rfl⟩⟩

/-! ## TBAR -/

/-- One block of a team passes its barrier: a team-scope acquire on its core, and its lanes go on. -/
def State.passTeam (s : State) (x : Block) : State := (s.acquireSet x.core 3 none).updBlock x.key (Block.passBar atTbar)

theorem State.tryTbar_next {t : State} {k : Nat} {c : Block} (hc : t.block? k = some c) :
    t.tryTbar k = if allArrived atTbar (c :: (t.partner? c).toList) then
      (c :: (t.partner? c).toList).foldl State.passTeam t else t := by
  simp only [State.tryTbar, hc]
  rfl

/-- What it leaves where one block of a team has passed. -/
structure TeamPassed (s t : State) (x : Block) : Prop where
  only : t = { s with blocks := t.blocks, cores := t.cores, fabric := t.fabric }
  fabric : FabricKeeps s t
  passed : t.block? x.key = some (x.passBar atTbar)
  blocks : ∀ k, k ≠ x.key → t.block? k = s.block? k
  l1 : ∀ k, (t.core x.core).l1At k = kept ((s.core x.core).l1At k)
  others : ∀ k, k ≠ x.core → t.core k = s.core k

theorem State.passTeam_passed {s : State} {x : Block} (hx : s.block? x.key = some x)
    (hwf : cellsWf none (s.core x.core).l1 = true) : TeamPassed s (s.passTeam x) x := by
  obtain ⟨hfabric, hothers, -⟩ := State.acquireSet_frame s x.core 3 none
  have hl1 := State.acquireSet_l1At hwf (le_refl 3)
  have honly := State.acquireSet_only s x.core 3 none
  generalize hu : s.acquireSet x.core 3 none = u at hfabric hothers hl1 honly
  have hblock (k : Nat) : u.block? k = s.block? k := by rw [honly]; rfl
  rw [State.passTeam, hu]
  refine ⟨?_, hfabric, ?_, fun k hk => ?_, hl1, hothers⟩
  · rw [State.updBlock, honly]
  · rw [State.block?_updBlock_self u x.key (Block.passBar atTbar) fun _ => rfl, hblock, hx]
    rfl
  · rw [State.block?_updBlock_other u x.key k (Block.passBar atTbar) (fun _ => rfl) hk, hblock]

/-- The parking of a block keeps what finds its partner, which is another block. -/
theorem State.partner?_parkIssue {s u : State} {b : Block} (hblocks : u.blocks = s.blocks) (hgrids : u.grids = s.grids)
    (hother : ∀ p, s.partner? b = some p → p.key ≠ s.cur.blk) (p : Park) :
    (u.updBlock s.cur.blk (Block.parkIssue s p)).partner? b = s.partner? b := by
  have hsame : u.partner? b = s.partner? b := by
    have hteam : u.isTeamed b = s.isTeamed b := by rw [State.isTeamed, State.grid?, hgrids]; rfl
    rw [State.partner?, hteam, hblocks]
    rfl
  have hmapped := u.updBlock_mapped s.cur.blk (f := Block.parkIssue s p) fun _ => rfl
  rw [hmapped.partner? (atKey_stays fun x => ?_) rfl, hsame]
  · cases hp : s.partner? b with
    | none => rfl
    | some q => rw [Option.map_some, atKey_other (hother q hp)]
  · exact ⟨rfl, x.strand_modify_stays (f := fun st => st.updLanes s.cur.lanes fun _ l => { l with park := p })
      (fun st => st.updLanes_stays (f := fun _ l => { l with park := p }) (fun _ _ => rfl) _) _⟩

/-- The release of the arrival, then the lanes of the issue park, and the barrier completes if they are the team's last. -/
theorem exec_tbar {s u : State} {b : Block} (h : s.clearFor b {}) (hmat : b.mat = none)
    (hrel : s.release b s.cur.strand 3 none = (u, none)) (hcur : u.cur = s.cur) (v : Adverb) :
    exec (.tbar v) s = .next ((u.park s.cur.lanes (.tbar s.cur.next)).tryTbar s.cur.blk) := by
  change execTbar v s = _
  simp only [execTbar, State.gate_reports h, Block.matDrain, hmat, hrel, hcur, State.key_of_block? h.1.1]

/-- The team's barrier is complete: every live lane of the block and of its partner has arrived. -/
def State.teamArrived (s : State) (b : Block) : Prop :=
  Arrived (fun p => (atTbar p).isSome) b s.inIssue ∧
    ∀ p, s.partner? b = some p → Arrived (fun p => (atTbar p).isSome) p fun _ _ => False

/-- What the arrival of the issue leaves before the barrier completes: a release, and the lanes parked. -/
structure TeamWaits (s v : State) (b : Block) : Prop where
  only : v = { s with blocks := v.blocks, cores := v.cores, dies := v.dies, mem := v.mem, migrations := v.migrations }
  block : v.block? s.cur.blk = some (b.parkIssue s (.tbar s.cur.next))
  blocks : OthersKeep s v
  mem : ∀ x, memGet v.mem x = current s b.core x
  l1 : ∀ k, (v.core b.core).l1At k = cleaned ((s.core b.core).l1At k)
  canonical : cellsWf none (v.core b.core).l1 = true
  others : ∀ k, k ≠ b.core → v.core k = s.core k

section
variable {s : State} {b : Block} (h : s.clearFor b {}) (hmat : b.mat = none) (hq : Quiet s) (hd : Drained s b.core)
  (hlive : ∀ l ∈ s.cur.lanes, ((b.strand s.cur.strand).lane l).status = .live)
  (hother : ∀ p, s.partner? b = some p → p.key ≠ s.cur.blk)
include h hmat hq hd hlive hother

theorem exec_tbar_arrives (v : Adverb) :
    ∃ w, TeamWaits s w b ∧ ∃ team, team = b.parkIssue s (.tbar s.cur.next) :: (s.partner? b).toList ∧
      (¬s.teamArrived b → exec (.tbar v) s = .next w) ∧
      (s.teamArrived b → exec (.tbar v) s = .next (team.foldl State.passTeam w)) := by
  obtain ⟨u, hrel, hu⟩ := State.release_released hmat hq hd s.cur.strand (le_refl 3)
  have hcur : u.cur = s.cur := by rw [hu.only]
  have hblocks : u.blocks = s.blocks := by rw [hu.only]
  have hexec := exec_tbar h hmat hrel hcur v
  rw [State.park_eq hcur] at hexec
  obtain ⟨hblock, hkeep⟩ := State.updBlock_cur_frame h.1.1 hblocks (F := Block.parkIssue s (.tbar s.cur.next)) fun _ => rfl
  have hpartner : (u.updBlock s.cur.blk (Block.parkIssue s (.tbar s.cur.next))).partner?
      (b.parkIssue s (.tbar s.cur.next)) = s.partner? b :=
    State.partner?_parkIssue hblocks (by rw [hu.only]) hother _
  rw [State.tryTbar_next hblock, hpartner] at hexec
  refine ⟨_, ⟨?_, hblock, hkeep, hu.mem, hu.l1, hu.canonical, hu.others⟩, _, rfl, ?_⟩
  · rw [State.updBlock, hu.only]
  have hparked : Parked b (b.parkIssue s (.tbar s.cur.next)) s.inIssue (.tbar s.cur.next) := Block.goOn_parked h.1 _
  obtain ⟨l, hl⟩ := Block.parkIssue_live h.1 (.tbar s.cur.next) hlive
  have hall : allArrived atTbar (b.parkIssue s (.tbar s.cur.next) :: (s.partner? b).toList) = true ↔ s.teamArrived b := by
    rw [allArrived_iff List.mem_cons_self hl, List.forall_mem_cons, hparked.allWait_iff fun _ _ _ => rfl]
    refine and_congr_right fun _ => forall_congr' fun p => ?_
    rw [Option.mem_toList]
    exact imp_congr_right fun _ => (Parked.none p .none).allWait_iff fun _ _ => False.elim
  exact ⟨fun hmore => by rw [hexec, if_neg fun hyes => hmore (hall.1 hyes)],
    fun hlast => by rw [hexec, if_pos (hall.2 hlast)]⟩
end

/-- What a team barrier that completes leaves. -/
structure TeamDone (s w t : State) (b : Block) : Prop where
  only : t = { w with blocks := t.blocks, cores := t.cores, fabric := t.fabric }
  fabric : FabricKeeps w t
  passed : t.block? s.cur.blk = some ((b.parkIssue s (.tbar s.cur.next)).passBar atTbar)
  l1 : ∀ k, (t.core b.core).l1At k = none
  blocks : ∀ k, k ≠ s.cur.blk → (∀ p, s.partner? b = some p → k ≠ p.key) → t.block? k = s.block? k
  others : ∀ k, k ≠ b.core → (∀ p, s.partner? b = some p → k ≠ p.core) → t.core k = s.core k
  partner : ∀ p, s.partner? b = some p → t.block? p.key = some (p.passBar atTbar) ∧
    ∀ k, (t.core p.core).l1At k = kept ((s.core p.core).l1At k)

theorem TeamWaits.passes {s w : State} {b : Block} (hw : TeamWaits s w b) (hkey : b.key = s.cur.blk)
    (hteam : ∀ p, s.partner? b = some p → s.block? p.key = some p ∧ p.key ≠ s.cur.blk ∧ p.core ≠ b.core ∧
      cellsWf none (s.core p.core).l1 = true) :
    TeamDone s w ((b.parkIssue s (.tbar s.cur.next) :: (s.partner? b).toList).foldl State.passTeam w) b := by
  have hself : w.block? (b.parkIssue s (.tbar s.cur.next)).key = some (b.parkIssue s (.tbar s.cur.next)) := by
    refine Eq.trans ?_ hw.block
    rw [← hkey]
    rfl
  have hfirst := State.passTeam_passed hself hw.canonical
  rw [List.foldl_cons]
  generalize w.passTeam (b.parkIssue s (.tbar s.cur.next)) = t at hfirst
  have hown : t.block? s.cur.blk = some ((b.parkIssue s (.tbar s.cur.next)).passBar atTbar) := by
    rw [← hkey]
    exact hfirst.passed
  have hblocks (k : Nat) (hk : k ≠ s.cur.blk) : t.block? k = s.block? k :=
    (hfirst.blocks k (by rw [← hkey] at hk; exact hk)).trans (hw.blocks k hk)
  have hcores (k : Nat) (hk : k ≠ b.core) : t.core k = s.core k := (hfirst.others k hk).trans (hw.others k hk)
  have hl1 (k : Nat) : (t.core b.core).l1At k = none := by
    rw [← kept_cleaned ((s.core b.core).l1At k), ← hw.l1]
    exact hfirst.l1 k
  cases hp : s.partner? b with
  | none =>
    exact ⟨hfirst.only, hfirst.fabric, hown, hl1, fun k hk _ => hblocks k hk, fun k hk _ => hcores k hk, fun _ h => by rw [hp] at h; cases h⟩
  | some p =>
    obtain ⟨hfind, hne, hcore, hwf⟩ := hteam p hp
    have hsecond := State.passTeam_passed (s := t) (x := p) (by rw [hblocks p.key hne, hfind]) (by rw [hcores p.core hcore]; exact hwf)
    rw [Option.toList_some, List.foldl_cons, List.foldl_nil]
    refine ⟨?_, fabricKeeps_trans hfirst.fabric hsecond.fabric, ?_, fun k => ?_, fun k hk hkp => ?_, fun k hk hkp => ?_, fun q hq => ?_⟩
    · rw [hsecond.only, hfirst.only]
    · rw [hsecond.blocks _ hne.symm, hown]
    · rw [hsecond.others _ hcore.symm, hl1]
    · rw [hsecond.blocks _ (hkp p hp), hblocks k hk]
    · rw [hsecond.others _ (hkp p hp), hcores k hk]
    · obtain rfl : p = q := Option.some.inj (hp.symm.trans hq)
      exact ⟨hsecond.passed, fun k => by rw [hsecond.l1, hcores _ hcore]⟩

/-! ## The statement -/

/-- Settles O29: it holds. A fence is a release and an acquire; a barrier parks its lanes, and passes with the last. -/
theorem fencesAndBarriers : Obligations.FencesAndBarriers := by
  unfold Obligations.FencesAndBarriers Barriers
  refine ⟨fenceInstructions, barriers_bar, ?_⟩
  intro v s b h hmat hq hd hlive hteam mine all
  have hkey : b.key = s.cur.blk := State.key_of_block? h.1.1
  rw [hkey] at hteam
  obtain ⟨w, hw, team, rfl, hmore, hlast⟩ := exec_tbar_arrives h hmat hq hd hlive (fun p hp => (hteam p hp).2.1) v
  have hall : all ↔ s.teamArrived b := by rw [State.teamArrived, ← tbarNext_eq]; exact Iff.rfl
  have hparked : Parked b (b.parkIssue s (.tbar s.cur.next)) s.inIssue (.tbar s.cur.next) := Block.goOn_parked h.1 _
  have hfabric : FabricKeeps s w := by
    rw [hw.only]
    exact fabricKeeps_refl s
  by_cases hyes : all
  · have hdone := hw.passes hkey hteam
    refine ⟨_, _, hlast (hall.1 hyes), ?_, fabricKeeps_trans hfabric hdone.fabric, hdone.passed, fun x => ?_, hdone.blocks,
      fun hno => absurd hyes hno, fun _ => ⟨?_, hdone.l1, hdone.others, fun p hp => ⟨⟨_, (hdone.partner p hp).1, ?_⟩,
        (hdone.partner p hp).2⟩⟩⟩
    · rw [hdone.only, hw.only]
    · rw [hdone.only]
      exact hw.mem x
    · rw [tbarNext_eq]
      exact hparked.barPassed fun i l hm => ⟨by rw [hm.1]; exact hlive l hm.2, rfl⟩
    · rw [tbarNext_eq]
      exact (Parked.none p .none).barPassed fun _ _ => False.elim
  · refine ⟨w, _, hmore fun hno => hyes (hall.2 hno), ?_, hfabric, hw.block, hw.mem, fun k hk _ => hw.blocks k hk,
      fun _ => ⟨hw.blocks, hparked, hw.l1, hw.others⟩, fun hno => absurd hno hyes⟩
    rw [hw.only]

end Sys2Proof.Machine

/-! PROOFS. PUBLISH: the release at system scope, the flushing read of the other port, and the publication (R167, R237, R358). -/

namespace Sys2Proof.Machine

open Sys2Proof Sys2Proof.Spec

/-! ## The two ports -/

/-- A publication counts at its port, whether or not the port is there, and changes no other. -/
theorem State.publish_counts {s : State} {p : Nat} (hp : p < s.hosts.length) :
    s.publish p = { s with hosts := (s.publish p).hosts, hostOut := (s.publish p).hostOut } ∧
      ((s.publish p).host p).pubval = (s.host p).pubval + 1 ∧ ∀ q, q ≠ p → (s.publish p).host q = s.host q := by
  let u := s.updHost p fun h => { h with pubval := (s.host p).pubval + 1 }
  have hu : u.host p = { s.host p with pubval := (s.host p).pubval + 1 } := State.host_updHost_self hp _
  by_cases hopen : s.portGone p = false
  · rw [State.publish_open hp hopen]
    exact ⟨rfl, congrArg HostPort.pubval hu, fun q hq => State.host_updHost_other s hq _⟩
  · have hgone : u.portGone p = true := by
      have hsame : u.portGone p = s.portGone p := by rw [State.portGone, hu]; rfl
      rw [hsame]
      simpa using hopen
    have hlost : s.publish p = u.updHost p fun h => { h with hwdrop := h.hwdrop + 1 } := if_pos hgone
    have hlen : p < u.hosts.length := by simpa [u, State.updHost] using hp
    rw [hlost]
    refine ⟨rfl, ?_, fun q hq => ?_⟩
    · rw [State.host_updHost_self hlen, hu]
    · rw [State.host_updHost_other u hq, State.host_updHost_other s hq]

/-- The other port is owed a flushing read: it has carried device writes, and is there. -/
def State.owesFlush (s : State) (q : Nat) : Prop := (s.host q).dirty = true ∧ s.portGone q = false

section
variable {s : State} {p : Nat} (hidle : ∀ r ∈ s.hostReads, ¬(r.port = 1 - p ∧ r.bytes = 0))
include hidle

theorem State.flushing_none : s.flushing (1 - p) = none := by
  have hfind : (s.hostReads.find? fun r => r.port == 1 - p && r.bytes == 0) = none := by
    rw [List.find?_eq_none]
    intro r hr
    simpa using hidle r hr
  rw [State.flushing, hfind]
  rfl

theorem State.flushOther_none (h : ¬s.owesFlush (1 - p)) : s.flushOther p = (s, none) := by
  have hno : ((s.host (1 - p)).dirty && !s.portGone (1 - p)) = false := by
    rw [State.owesFlush] at h
    simpa using h
  simp only [State.flushOther, State.flushing_none hidle, hno, Bool.false_eq_true, if_false]

theorem State.flushOther_reads (h : s.owesFlush (1 - p)) :
    s.flushOther p =
      ({ s.updHost (1 - p) fun h => { h with dirty := false } with
        hostReads := s.hostReads ++ [⟨s.freshTag, 1 - p, 0, 0, .core, s.coreClock 0⟩]
        hostOut := s.hostOut ++ [.flushRead (1 - p)] }, some s.freshTag) := by
  simp only [State.flushOther, State.flushing_none hidle, h.1, h.2, Bool.not_false, Bool.and_self, if_true]
  rfl
end

/-! ## PUBLISH -/

section
variable {s u : State} {b : Block} {g : Grid} (h : s.clearFor b {})
  (hrel : s.release b s.cur.strand 6 none = (u, none)) (hg : u.gridOf b = some g)
include h hrel hg

theorem exec_publish_waits {w : State} {tag : Nat} (hflush : u.flushOther g.port = (w, some tag)) (v : Adverb) :
    exec (.publish v) s = .next (w.park s.cur.lanes (.reply [tag])) := by
  change execPublish v s = _
  simp only [execPublish, State.gate_reports h, hrel, hg, Option.map_some, Option.getD_some, hflush]

theorem exec_publish_goesOn (hflush : u.flushOther g.port = (u, none)) (v : Adverb) :
    exec (.publish v) s = .next (((u.publish g.port).markOutside b.key true).retire s.cur.lanes) := by
  change execPublish v s = _
  simp only [execPublish, State.gate_reports h, hrel, hg, Option.map_some, Option.getD_some, hflush]
end

/-- The block has acted outside its view, and its lanes go on. -/
def Block.actOutside (s : State) (x : Block) : Block :=
  { x with outside := true }.goOn (fun y => y.handles) s.cur.strand s.cur.lanes fun _ l => l.retire s.cur.next

theorem State.markOutside_retire {s w : State} (hcur : w.cur = s.cur) :
    (w.markOutside s.cur.blk true).retire s.cur.lanes = w.updBlock s.cur.blk (Block.actOutside s) := by
  have hmark : w.markOutside s.cur.blk true = w.updBlock s.cur.blk fun x => { x with outside := true } := if_pos rfl
  rw [hmark, State.retire_goOn, State.updBlock_cur, hcur]
  exact State.updBlock_updBlock w s.cur.blk (fun x => { x with outside := true }) _ fun _ => rfl

/-- Settles O26: it holds. A release at system scope, then the wait for the other port, or the publication. -/
theorem publication : Obligations.Publication := by
  unfold Obligations.Publication
  intro v s b g h hmat hq hd hg hlen hport p q hidle hp owes
  obtain ⟨u, hrel, hu⟩ := State.release_released hmat hq hd s.cur.strand (scope := 6) (by decide)
  have hcur : u.cur = s.cur := by rw [hu.only]
  have hblocks : u.blocks = s.blocks := by rw [hu.only]
  have hreads : u.hostReads = s.hostReads := by rw [hu.only]
  have hout : u.hostOut = s.hostOut := by rw [hu.only]
  have hhosts : u.hosts = s.hosts := by rw [hu.only]
  have hhost (k : Nat) : u.host k = s.host k := by rw [State.host, hhosts]; rfl
  have hgone (k : Nat) : u.portGone k = s.portGone k := by rw [State.portGone, hhost]; rfl
  have hgrid : u.gridOf b = some g := by
    rw [← hg, hu.only]
    rfl
  have howes : u.owesFlush q ↔ owes := by rw [State.owesFlush, hhost, hgone]
  have hidle' : ∀ r ∈ u.hostReads, ¬(r.port = 1 - g.port ∧ r.bytes = 0) := by rw [hreads]; exact hidle
  have hother : q ≠ p := by omega
  have hplen : p < u.hosts.length := by rw [hhosts, hlen]; exact hport
  have hqlen : q < u.hosts.length := by rw [hhosts, hlen]; omega
  by_cases how : owes
  · have htag : u.freshTag = s.freshTag := by rw [State.freshTag, hreads, hu.only]; rfl
    have hclock : u.coreClock 0 = s.coreClock 0 := hu.clocks.coreClock 0
    have hflush := State.flushOther_reads hidle' (howes.2 how)
    have hexec := exec_publish_waits h hrel hgrid hflush v
    rw [htag, hclock, hreads, hout, State.park_eq (by exact hcur)] at hexec
    obtain ⟨hblock, hkeep⟩ := State.updBlock_cur_frame h.1.1 (u := { u.updHost q fun h => { h with dirty := false } with
        hostReads := s.hostReads ++ [⟨s.freshTag, q, 0, 0, .core, s.coreClock 0⟩]
        hostOut := s.hostOut ++ [.flushRead q] }) hblocks (F := Block.parkIssue s (.reply [s.freshTag])) fun _ => rfl
    obtain ⟨-, hstrands⟩ := Block.goOn_parked h.1 (.reply [s.freshTag])
    obtain ⟨-, hlanes⟩ := hstrands s.cur.strand
    refine ⟨_, hexec, ?_, hkeep, hu.mem, hu.l1, hu.others, fun hno => absurd how hno, fun _ => ⟨rfl, rfl, ?_, ?_, _, hblock, fun l hl => ?_⟩⟩
    · rw [State.updBlock, State.updHost, hu.only]
    · refine Eq.trans (State.host_updHost_self hqlen _) ?_
      rw [hhost]
    · exact (State.host_updHost_other u hother.symm _).trans (hhost p)
    · exact (hlanes l).1 ⟨rfl, hl⟩
  · have hflush := State.flushOther_none hidle' fun hyes => how (howes.1 hyes)
    have hexec := exec_publish_goesOn h hrel hgrid hflush v
    obtain ⟨honly, hcounts, hothers⟩ := State.publish_counts hplen
    have hopen := State.publish_open hplen
    generalize u.publish g.port = w at hexec honly hcounts hothers hopen
    have hwcur : w.cur = s.cur := by rw [honly]; exact hcur
    rw [State.key_of_block? h.1.1, State.markOutside_retire hwcur] at hexec
    obtain ⟨hblock, hkeep⟩ := State.updBlock_cur_frame (u := w) h.1.1 (by rw [honly]; exact hblocks) (F := Block.actOutside s)
      fun _ => rfl
    have hgo := Block.goOn_lanes h.1 (x := { b with outside := true }) rfl (fun y => y.handles) fun _ l => l.retire s.cur.next
    refine ⟨_, hexec, ?_, hkeep, fun x => ?_, fun k => ?_, fun k hk => ?_, fun _ => ⟨accessed_of_lanesGo hblock rfl hgo, ?_, ?_, ?_,
      fun hthere => ?_⟩, fun hyes => absurd hyes how⟩
    · rw [State.updBlock, honly, hu.only]
    · rw [honly]
      exact hu.mem x
    · rw [honly]
      exact hu.l1 k
    · rw [honly]
      exact hu.others k hk
    · rw [honly]
      exact hreads
    · exact hcounts.trans (by rw [hhost])
    · exact (hothers q hother).trans (hhost q)
    · rw [hopen ((hgone p).trans hthere)]
      refine ⟨?_, ?_⟩
      · refine Eq.trans (State.host_updHost_self hplen _) ?_
        rw [hhost]
      · simp only [State.updBlock_hostOut, hout, hhost]
        rfl

end Sys2Proof.Machine

/-! PROOFS. Exceptions that every lane of an issue meets (R406 to R412). -/

namespace Sys2Proof.Machine

open Sys2Proof Sys2Proof.Spec

/-! ## The stop of a block and its record -/

/-- The block of the issue stops for a fault, and `r` is its record. -/
def State.exception (s : State) (b : Block) (r : FaultRec) : State := ((s.takeRecord b).stopFault b).note r

/-- What the stop makes of each block: first the block's own part, then the partner's, what stands above it, and the record's. -/
theorem State.exception_mapped (s : State) (b : Block) (r : FaultRec) :
    ∃ first F R, BlocksMapped (R ∘ F ∘ s.partnerStop b ∘ atKey b.key (Block.faultStop first) ∘
        atKey b.key (Block.takeRecord s.stamp s.cur.strand s.cur.lanes)) s (s.exception b r) ∧
      (∀ y, F y = y ∨ F y = y.stopFor .frontier) ∧ (s.isDet b = false → F = id) ∧ ∀ y : Block, y.Rests (R y) := by
  have htake : BlocksMapped (atKey b.key (Block.takeRecord s.stamp s.cur.strand s.cur.lanes)) s (s.takeRecord b) :=
    s.updBlock_mapped b.key fun _ => rfl
  obtain ⟨first, F, ⟨hhalts, -⟩, hcases, hdet⟩ := (s.takeRecord b).stopFault_halts b
  obtain ⟨R, hR, hrests⟩ := ((s.takeRecord b).stopFault b).note_resting r
  rw [htake.partnerStop (atKey_stays (Block.takeRecord_stays s.stamp s.cur.strand s.cur.lanes)) rfl] at hhalts
  exact ⟨first, F, R, (htake.trans hhalts).trans hR, hcases, hdet, hrests⟩

/-- What the stop leaves is what it found, but for blocks, the numbers of records and stops. -/
theorem State.exception_recorded (s : State) (b : Block) {r : FaultRec} (hkind : r.kind ≠ 2) (hblock : r.block = some b.key) :
    Recorded s (s.exception b r) r ∧
      (RingTakes s → ∀ c, (s.exception b r).block? b.key = some c → c.faultinfo = s.mgmt.frprod) := by
  have hstop : (s.takeRecord b).stopFault b =
      { s with blocks := ((s.takeRecord b).stopFault b).blocks, stamp := s.stamp + 1,
               stops := s.stops ++ [Stop.mk s.stamp none (.block b.key)] } := by
    rw [State.stopFault_only]
    rfl
  rw [State.exception, hstop]
  generalize ((s.takeRecord b).stopFault b).blocks = bs
  let u : State := { s with blocks := bs, stamp := s.stamp + 1, stops := s.stops ++ [Stop.mk s.stamp none (.block b.key)] }
  exact ⟨u.note_records_it hkind, fun hs _ hc => State.note_faultinfo (s := u) hs hblock hc⟩

/-- The block that faults, after all parts of the stop. -/
theorem Block.stopped_self {s : State} {b : Block} (hi : Block.issues b) {F R : Block → Block}
    (hF : ∀ y, F y = y ∨ F y = y.stopFor .frontier) (hR : ∀ y : Block, y.Rests (R y)) (first : Option (Nat × Nat)) (id i : Nat)
    (ls : List Nat) :
    let c := R (F (s.partnerStop b ((b.takeRecord id i ls).faultStop first)))
    b.Stays c ∧ c.stops = b.stops ++ [id] ∧ c.state = .stopping .fault := by
  obtain ⟨hstays, hstops, hstate⟩ := Block.faultStop_takeRecord hi first id i ls
  obtain ⟨hstaysP, hstopsP, hstateP⟩ := Block.stopped_or (s.partnerStop_or b) ((b.takeRecord id i ls).faultStop first)
  obtain ⟨hstaysF, hstopsF, hstateF⟩ := Block.stopped_or hF (s.partnerStop b ((b.takeRecord id i ls).faultStop first))
  obtain ⟨hstaysR, hrest⟩ := hR (F (s.partnerStop b ((b.takeRecord id i ls).faultStop first)))
  obtain ⟨hstateR, hstopsR⟩ := Prod.mk.inj hrest
  refine ⟨((hstays.trans hstaysP).trans hstaysF).trans hstaysR, ?_, ?_⟩
  · rw [hstopsR, hstopsF, hstopsP, hstops]
  · rw [hstateR]
    exact hstateF _ rfl (hstateP _ rfl hstate)

/-- Stopping a block with its record is the taking of an exception. -/
theorem State.exception_excepted {s : State} {b : Block} (hb : s.block? s.cur.blk = some b) (hi : Block.issues b)
    {r : FaultRec} (hid : r.id = s.stamp) (hkind : r.kind ≠ 2) (hblock : r.block = some b.key) :
    Excepted s (s.exception b r) b r := by
  have hkey := State.key_of_block? hb
  obtain ⟨hrecorded, hfaultinfo⟩ := s.exception_recorded b hkind hblock
  obtain ⟨first, F, R, hmap, hcases, hdet, hrests⟩ := s.exception_mapped b r
  refine ⟨?own, fun p hp hpb hne hrun => ?partner, fun hnone hopen k hk => ?others, hrecorded⟩
  case own =>
    obtain ⟨⟨hparts, hstrands⟩, hstops, hstate⟩ :=
      Block.stopped_self (s := s) hi hcases hrests first s.stamp s.cur.strand s.cur.lanes
    have hfind : (s.exception b r).block? b.key =
        some (R (F (s.partnerStop b ((b.takeRecord s.stamp s.cur.strand s.cur.lanes).faultStop first)))) := by
      rw [hmap.block?, hkey, hb]
      simp only [Option.map_some, Function.comp_apply, atKey_self hkey]
      rw [atKey_self (by exact hkey)]
    simp only [Prod.mk.injEq] at hparts
    obtain ⟨-, -, hscratch, hmat⟩ := hparts
    refine ⟨_, hfind, hstate, by rw [hstops, hid], hscratch, hmat, fun i l => Prod.mk.inj ((hstrands i).1 l),
      fun i hrun l q => ?_, fun hon hdram hheld hroom => hfaultinfo ⟨hon, hdram, hheld, hroom⟩ _ hfind⟩
    rw [Strand.reg, ((hstrands i).2 hrun).2]
    rfl
  case partner =>
    obtain ⟨-, -, hstateF⟩ := Block.stopped_or hcases (p.stopFor .partner)
    have hstateR := (Prod.mk.inj (hrests (F (p.stopFor .partner))).2).1
    rw [hmap.block?, hpb]
    simp only [Option.map_some, Function.comp_apply, atKey_other hne, State.partnerStop, hp, atKey_self rfl]
    rw [hstateR, hstateF _ rfl (Block.stopFor_running hrun .partner)]
  case others =>
    rw [hmap.block?, hdet hopen, State.partnerStop, hnone]
    cases hx : s.block? k with
    | none => rfl
    | some y =>
      have hy : y.key ≠ b.key := fun h => hk ((State.key_of_block? hx).symm.trans h)
      simp only [Option.map_some, Function.comp_apply, atKey_other hy, id]
      rw [(Prod.mk.inj (hrests y).2).1]

/-! ## One fault of every lane -/

/-- The fault of class `cls` that every lane of the issue meets. -/
def State.everyLane (s : State) (cls sub addr info info2 : Nat) : List LaneFault :=
  s.cur.lanes.map fun l => { lane := l, cls := cls, sub := sub, addr := addr, info := info, info2 := info2 }

/-- The least of the faults is one of them. -/
theorem State.leastBy_everyLane {s : State} (hne : s.cur.lanes ≠ []) (key : LaneFault → Nat) (cls sub addr info info2 : Nat) :
    ∃ l, leastBy key (s.everyLane cls sub addr info info2) =
      some { lane := l, cls := cls, sub := sub, addr := addr, info := info, info2 := info2 } := by
  cases h : leastBy key (s.everyLane cls sub addr info info2) with
  | none => exact absurd ((leastBy_none _ _).1 h) (by simpa [State.everyLane] using hne)
  | some x =>
    obtain ⟨l, -, rfl⟩ := List.mem_map.1 (leastBy_some key _ x h).1
    exact ⟨l, rfl⟩

theorem State.raise_everyLane {s : State} {b : Block} (hb : s.block? s.cur.blk = some b) (hne : s.cur.lanes ≠ [])
    (cls sub addr info info2 : Nat) :
    s.raise (s.everyLane cls sub addr info info2) = s.exception b (recordOf s b cls sub addr info info2 s.cur.lanes) := by
  obtain ⟨i, htop⟩ := State.leastBy_everyLane hne (fun f => classRank f.cls) cls sub addr info info2
  obtain ⟨j, hlow⟩ := State.leastBy_everyLane hne (fun f => f.addr) cls sub addr info info2
  have hmine : (s.everyLane cls sub addr info info2).filter (fun f => f.cls == cls) = s.everyLane cls sub addr info info2 := by
    simp [State.everyLane]
  have hlanes : (s.everyLane cls sub addr info info2).map (fun f => f.lane) = s.cur.lanes := by
    simp [State.everyLane, Function.comp_def]
  have htake (i : Nat) (ls : List Nat) :
      (({ s with stamp := s.stamp + 1 } : State).updBlock b.key fun k => { k with stops := k.stops ++ [s.stamp] }).updStrand
        b.key i (fun st => st.updLanes ls fun _ l => l.breakOff) =
      ({ s with stamp := s.stamp + 1 } : State).updBlock b.key (Block.takeRecord s.stamp i ls) :=
    State.updBlock_updBlock _ _ _ _ fun _ => rfl
  simp only [State.raise, htop, hb, hmine, hlow, hlanes, State.fresh, Option.getD_some]
  refine congrArg₂ State.note (congrArg (State.stopFault · b) ?_) rfl
  rw [htake]
  rfl

/-- A fault of every lane of the issue is taken as `Excepted` says. -/
theorem State.raise_everyLane_excepted {s : State} {b : Block} (h : s.issuing b) (hi : Block.issues b)
    (cls sub addr info info2 : Nat) :
    Excepted s (s.raise (s.everyLane cls sub addr info info2)) b (recordOf s b cls sub addr info info2 s.cur.lanes) := by
  rw [State.raise_everyLane h.1 h.2.2.1]
  exact State.exception_excepted h.1 hi rfl (Nat.zero_ne_add_one 1) rfl

/-- Where nothing is wrong but what the operands' values show, that is raised. -/
theorem State.gate_late {s : State} {u : Uses} {late : Late} {b : Block} (h : s.clearFor b u)
    (hne : late s b (b.strand s.cur.strand) s.cur.lanes ≠ []) :
    s.gate u late = .stop (s.raise (late s b (b.strand s.cur.strand) s.cur.lanes)) := by
  obtain ⟨⟨hb, -, -, -, -⟩, hshape, hrole, hlanes⟩ := h
  have hready : (s.cur.lanes.filter fun l => (u.missing (b.strand s.cur.strand) l).isEmpty) = s.cur.lanes := by
    rw [List.filter_eq_self]
    intro l hl
    rw [u.missing_nil _ l (hlanes l hl)]
    rfl
  have hflaws : s.cur.lanes.flatMap (u.laneFlaws (b.strand s.cur.strand) false) = [] :=
    List.flatMap_eq_nil_iff.2 fun l hl => u.laneFlaws_nil _ false l (hlanes l hl) hrole
  have hdue : (s.cur.lanes.filterMap fun l => (u.due (b.strand s.cur.strand) l).map fun d => (l, d)) = [] :=
    List.filterMap_eq_nil_iff.2 fun l hl => by rw [u.due_none _ l (hlanes l hl)]; rfl
  have hraise : s.raiseDue (late s b (b.strand s.cur.strand) s.cur.lanes) [] =
      s.raise (late s b (b.strand s.cur.strand) s.cur.lanes) := by
    obtain ⟨top, htop⟩ := Option.ne_none_iff_exists'.1 fun h => hne ((leastBy_none (fun f => classRank f.cls) _).1 h)
    simp only [State.raiseDue, List.map_nil, List.append_nil, htop]
    rfl
  have hsome : (late s b (b.strand s.cur.strand) s.cur.lanes).isEmpty = false := by simpa using hne
  simp only [State.gate, hb, u.shapeFlaw_none _ hshape, hready, hflaws, hdue, List.nil_append, hsome, Bool.false_and,
    Bool.false_eq_true, if_false, hraise]

end Sys2Proof.Machine

/-! PROOFS. Tickets on ordered streams (R161 to R164, R357, R444, R448). -/

namespace Sys2Proof.Machine

open Sys2Proof Sys2Proof.Spec

/-! ## The frontier of a stream (R161) -/

theorem leastFree_spec (used : List Nat) (n k : Nat) :
    (∀ m, k ≤ m → m < leastFree used n k → m ∈ used) ∧
      (leastFree used n k ∈ used → leastFree used n k = k + n) := by
  induction n generalizing k with
  | zero => exact ⟨fun m hk hm => absurd hm (Nat.not_lt.2 hk), fun _ => rfl⟩
  | succ n ih =>
    obtain ⟨hbelow, hend⟩ := ih (k + 1)
    rw [leastFree]
    split
    · next hk =>
      refine ⟨fun m hm hlt => ?_, fun h => by rw [hend h]; omega⟩
      rcases Nat.eq_or_lt_of_le hm with rfl | hm
      · simpa using hk
      · exact hbelow m hm hlt
    · next hk => exact ⟨fun m hm hlt => absurd hlt (Nat.not_lt.2 hm), fun h => absurd h (by simpa using hk)⟩

/-- A list has no room for all numbers up to its length. -/
theorem leastFree_fresh (used : List Nat) : leastFree used used.length 0 ∉ used := by
  intro h
  obtain ⟨hbelow, hend⟩ := leastFree_spec used used.length 0
  have hlen : leastFree used used.length 0 = used.length := (hend h).trans (Nat.zero_add _)
  rw [hlen] at hbelow h
  have hall : Finset.range (used.length + 1) ⊆ used.toFinset := fun m hm => by
    rw [List.mem_toFinset]
    rcases Nat.lt_succ_iff_lt_or_eq.1 (Finset.mem_range.1 hm) with hm | rfl
    · exact hbelow m (Nat.zero_le m) hm
    · exact h
  have hcard := (Finset.card_le_card hall).trans used.toFinset_card_le
  rw [Finset.card_range] at hcard
  omega

theorem Stream.frontier_lt_iff (x : Stream) (n : Nat) : x.frontier < n ↔ ¬Reached x n := by
  constructor
  · exact fun hlt hall => leastFree_fresh x.passed (hall _ hlt)
  · intro h
    by_contra hge
    exact h fun m hm => (leastFree_spec x.passed _ 0).1 m (Nat.zero_le m) (hm.trans_le (Nat.not_lt.1 hge))

/-! ## The checks of a ticket operation -/

section
variable {s : State} {b : Block} {g : Grid} (hg : s.grid? b.grid = some g)
include hg

theorem State.isDet_of_grid : s.isDet b = g.launch.det := by rw [State.isDet, hg]; rfl

theorem State.streamOf_of_grid (n : Nat) : s.streamOf b n = g.stream n := by rw [State.streamOf, State.gridOf, hg]; rfl

theorem State.streamFlaws_none (hdet : g.launch.det = true) {n : Nat} (hn : n < g.launch.nstream) : s.streamFlaws b n = [] := by
  simp [State.streamFlaws, State.isDet_of_grid hg, hdet, State.gridOf, hg, hn]

theorem State.streamFlaws_notDet (hdet : g.launch.det = false) (n : Nat) :
    s.streamFlaws b n = s.everyLane 0x17 1 0 n 0 := by
  simp [State.streamFlaws, State.isDet_of_grid hg, hdet, State.everyLane]

theorem State.streamFlaws_beyond (hdet : g.launch.det = true) {n : Nat} (hn : g.launch.nstream ≤ n) :
    s.streamFlaws b n = s.everyLane 0x17 2 0 n 0 := by
  simp [State.streamFlaws, State.isDet_of_grid hg, hdet, State.gridOf, hg, hn, State.everyLane]
end

theorem lateTicket_eq {s : State} (hne : s.cur.lanes ≠ []) (v : Adverb) (a : BitVec 7) (b : Block) (st : Strand) :
    lateTicket v a s b st s.cur.lanes = s.streamFlaws b (st.word (s.cur.lanes.headD 0) (aReg v a)).toNat :=
  if_neg (by simpa using hne)

/-! ## The end of a stream operation -/

/-- The block guards and has passed what `guards` and `passed` say, and has acted outside its view. -/
def Block.streamed (guards passed : Block → List Nat) (x : Block) : Block :=
  { x with guards := guards x, passed := passed x, outside := true }

/-- The block of the issue settles and goes on, once it stands as its stream operation leaves it. -/
theorem streamDone_settle_retire {s w : State} {b : Block} (h : s.issuing b) (hcur : w.cur = s.cur)
    {guards passed : Block → List Nat} (hblocks : w.blocks = (s.updBlock s.cur.blk (Block.streamed guards passed)).blocks)
    (u : Uses) (st : Strand) :
    let t := (w.settle u b st s.cur.lanes).retire s.cur.lanes
    t = { w with blocks := t.blocks } ∧ StreamDone s t b (guards b) (passed b) := by
  obtain ⟨hs, hgo, -⟩ := w.settle_retire_goOn u b st s.cur.lanes
  obtain ⟨hblock, hkeep⟩ := State.updBlock_cur_frame h.1 (u := s) rfl (F := Block.streamed guards passed) fun _ => rfl
  have hsame (k : Nat) : w.block? k = (s.updBlock s.cur.blk (Block.streamed guards passed)).block? k := by
    rw [State.block?, hblocks]
    rfl
  rw [hcur] at hgo
  rw [hgo]
  have hkey (x : Block) : (x.goOn hs s.cur.strand s.cur.lanes fun _ l => l.retire s.cur.next).key = x.key := rfl
  refine ⟨rfl, fun k hk => ?_, (b.streamed guards passed).goOn hs s.cur.strand s.cur.lanes fun _ l => l.retire s.cur.next, ?_, rfl,
    Block.goOn_lanes h (x := b.streamed guards passed) rfl hs _⟩
  · rw [State.block?_updBlock_other w _ k _ hkey hk, hsame, hkeep k hk]
  · rw [State.block?_updBlock_self w _ _ hkey, hsame, hblock]
    rfl

theorem State.markOutside_streamed (s : State) (k : Nat) :
    s.markOutside k true = s.updBlock k (Block.streamed Block.guards Block.passed) := if_pos rfl

/-! ## TICKET.TAKE and TICKET.WAIT -/

section
variable {s : State} {k : Block} {g : Grid} {u : Uses} {v : Adverb} {a : BitVec 7} {n : Nat}
  {goal : Block → Strand → Nat → Nat} (h : s.clearFor k u) (hg : s.grid? k.grid = some g) (hdet : g.launch.det = true)
  (hn : n < g.launch.nstream) (hword : ((k.strand s.cur.strand).word (s.cur.lanes.headD 0) (aReg v a)).toNat = n)
include h hg hdet hn hword

theorem State.gate_ticket : s.gate u (lateTicket v a) = .go s k (k.strand s.cur.strand) s.cur.lanes := by
  refine s.gate_go u _ false k h ?_
  rw [lateTicket_eq h.1.2.2.1, hword]
  exact State.streamFlaws_none hg hdet hn

theorem State.ticketWait_passed (hpassed : n ∈ k.passed) :
    s.ticketWait u v a goal =
      .next (((s.markOutside k.key true).settle u k (k.strand s.cur.strand) s.cur.lanes).retire s.cur.lanes) := by
  have hin : k.passed.contains n = true := by simpa using hpassed
  simp only [State.ticketWait, State.gate_ticket h hg hdet hn hword, hword, hin, if_true]

theorem State.ticketWait_open (hpassed : n ∉ k.passed) :
    s.ticketWait u v a goal = .next (
      if (g.stream n).frontier < goal k (k.strand s.cur.strand) (s.cur.lanes.headD 0) then
        s.park s.cur.lanes (if s.bufferOpen k n then .ticket n (goal k (k.strand s.cur.strand) (s.cur.lanes.headD 0))
          else .refused true n (goal k (k.strand s.cur.strand) (s.cur.lanes.headD 0)))
      else s.ticketReturn u k (k.strand s.cur.strand) s.cur.lanes n (goal k (k.strand s.cur.strand) (s.cur.lanes.headD 0))) := by
  have hout : k.passed.contains n = false := by simpa using hpassed
  simp only [State.ticketWait, State.gate_ticket h hg hdet hn hword, hword, hout, Bool.false_eq_true, if_false,
    State.streamOf_of_grid hg]
  split <;> rfl
end

/-- The streams that a block guards, and `n`. -/
def Block.guarding (n : Nat) (x : Block) : List Nat := if n ∈ x.guards then x.guards else x.guards ++ [n]

theorem State.ticketReturn_open {s : State} {b : Block} {n goal : Nat} (h : ∀ y, (s.streamOf b n).void = some y → goal ≤ y)
    (u : Uses) (st : Strand) (ls : List Nat) :
    s.ticketReturn u b st ls n goal =
      (((s.updBlock b.key (Block.streamed (Block.guarding n) Block.passed)).acquireSet b.core 5 none).settle u b st ls).retire ls := by
  have hguard : Block.streamed (Block.guarding n) Block.passed =
      fun y => { y with guards := if y.guards.contains n then y.guards else y.guards ++ [n], outside := true } := by
    funext y
    simp only [Block.streamed, Block.guarding, List.contains_iff_mem]
  rw [hguard, State.ticketReturn]
  split
  · next y hy => rw [if_neg (Nat.not_lt.2 (h y hy))]
  · rfl

theorem State.ticketReturn_void {s : State} {b : Block} {n y goal : Nat} (h : (s.streamOf b n).void = some y) (hlt : y < goal)
    (u : Uses) (st : Strand) (ls : List Nat) : s.ticketReturn u b st ls n goal = s.raise (s.everyLane 0x19 0 0 n y) := by
  simp only [State.ticketReturn, h, hlt, if_true]
  rfl

/-- What the passing of a ticket leaves: the block guards the stream, and its core has acquired everything. -/
theorem ticketReturn_done {s : State} {b : Block} (h : s.issuing b) (hwf : cellsWf none (s.core b.core).l1 = true)
    (n : Nat) (u : Uses) (st : Strand) :
    let t := (((s.updBlock b.key (Block.streamed (Block.guarding n) Block.passed)).acquireSet b.core 5 none).settle u b st
      s.cur.lanes).retire s.cur.lanes
    t = { s with blocks := t.blocks, cores := t.cores, fabric := t.fabric } ∧ FabricKeeps s t ∧
      StreamDone s t b (b.guarding n) b.passed ∧ (∀ y, (t.core b.core).l1At y = kept ((s.core b.core).l1At y)) ∧
      ∀ core, core ≠ b.core → t.core core = s.core core := by
  rw [State.key_of_block? h.1]
  obtain ⟨hfabric, hothers, -⟩ := State.acquireSet_frame
    (s.updBlock s.cur.blk (Block.streamed (Block.guarding n) Block.passed)) b.core 5 none
  have hl1 := State.acquireSet_l1At (s := s.updBlock s.cur.blk (Block.streamed (Block.guarding n) Block.passed)) hwf
    (scope := 5) (by decide)
  have honly := State.acquireSet_only (s.updBlock s.cur.blk (Block.streamed (Block.guarding n) Block.passed)) b.core 5 none
  generalize (s.updBlock s.cur.blk (Block.streamed (Block.guarding n) Block.passed)).acquireSet b.core 5 none = w at *
  obtain ⟨ht, hdone⟩ := streamDone_settle_retire (w := w) h (by rw [honly]; rfl) (by rw [honly]) u st
  generalize (w.settle u b st s.cur.lanes).retire s.cur.lanes = t at ht hdone
  have hcores : t.cores = w.cores := by rw [ht]
  have hcore (k : Nat) : t.core k = w.core k := by rw [State.core, hcores]; rfl
  refine ⟨?_, ?_, hdone, fun y => ?_, fun k hk => ?_⟩
  · rw [ht, honly]
    rfl
  · rw [ht]
    exact hfabric
  · rw [hcore]
    exact hl1 y
  · rw [hcore]
    exact hothers k hk

/-- TICKET.TAKE and TICKET.WAIT, which wait until `n`'s frontier has reached `bound`. -/
def WaitsTicket (i : Instr) (s : State) (k : Block) (x : Stream) (n bound : Nat) : Prop :=
  (n ∈ k.passed → ∃ t, exec i s = .next t ∧ t = { s with blocks := t.blocks } ∧ StreamDone s t k k.guards k.passed) ∧
  (n ∉ k.passed → ¬Reached x bound → ∃ t, exec i s = .next t ∧ LanesOnly s t k fun _ ln =>
    { ln with park := if s.bufferOpen k n then .ticket n bound else .refused true n bound }) ∧
  (n ∉ k.passed → Reached x bound → (∀ y, x.void = some y → bound ≤ y) → cellsWf none (s.core k.core).l1 = true →
    ∃ t, exec i s = .next t ∧ t = { s with blocks := t.blocks, cores := t.cores, fabric := t.fabric } ∧ FabricKeeps s t ∧
      StreamDone s t k (k.guarding n) k.passed ∧
      (∀ y, (t.core k.core).l1At y = kept ((s.core k.core).l1At y)) ∧
      ∀ core, core ≠ k.core → t.core core = s.core core) ∧
  (n ∉ k.passed → Reached x bound → ∀ y, x.void = some y → y < bound →
    ∃ t, exec i s = .next t ∧ Excepted s t k (recordOf s k 0x19 0 0 n y s.cur.lanes))

theorem waitsTicket {i : Instr} {s : State} {k : Block} {g : Grid} {u : Uses} {v : Adverb} {a : BitVec 7} {n bound : Nat}
    {goal : Block → Strand → Nat → Nat} (hi : exec i s = s.ticketWait u v a goal) (h : s.clearFor k u)
    (hg : s.grid? k.grid = some g) (hdet : g.launch.det = true) (hn : n < g.launch.nstream) (hissues : Block.issues k)
    (hword : ((k.strand s.cur.strand).word (s.cur.lanes.headD 0) (aReg v a)).toNat = n)
    (hbound : goal k (k.strand s.cur.strand) (s.cur.lanes.headD 0) = bound) :
    WaitsTicket i s k (g.stream n) n bound := by
  have hstream := State.streamOf_of_grid hg n
  refine ⟨fun hin => ?_, fun hout hwait => ?_, fun hout hgo hvoid hwf => ?_, fun hout hgo y hy hlt => ?_⟩
  · rw [hi, State.ticketWait_passed h hg hdet hn hword hin, State.key_of_block? h.1.1, State.markOutside_streamed]
    obtain ⟨honly, hdone⟩ := streamDone_settle_retire h.1 (w := s.updBlock s.cur.blk (Block.streamed Block.guards Block.passed))
      rfl rfl u (k.strand s.cur.strand)
    exact ⟨_, rfl, honly, hdone⟩
  · rw [hi, State.ticketWait_open h hg hdet hn hword hout, hbound, if_pos ((Stream.frontier_lt_iff _ _).2 hwait), State.park_goOn]
    exact ⟨_, rfl, lanesOnly_goOn h.1 _ _⟩
  · have hreached : ¬(g.stream n).frontier < bound := by rw [Stream.frontier_lt_iff]; exact not_not_intro hgo
    rw [hi, State.ticketWait_open h hg hdet hn hword hout, hbound, if_neg hreached, State.ticketReturn_open (by rwa [hstream])]
    exact ⟨_, rfl, ticketReturn_done h.1 hwf n u _⟩
  · have hreached : ¬(g.stream n).frontier < bound := by rw [Stream.frontier_lt_iff]; exact not_not_intro hgo
    rw [hi, State.ticketWait_open h hg hdet hn hword hout, hbound, if_neg hreached,
      State.ticketReturn_void (by rwa [hstream]) hlt]
    exact ⟨_, rfl, State.raise_everyLane_excepted h.1 hissues _ _ _ _ _⟩

/-! ## TICKET.DECL -/

theorem State.grid?_updGrid_self (s : State) (k : Nat) {f : Grid → Grid} (hkey : ∀ g, (f g).key = g.key) :
    (s.updGrid k f).grid? k = (s.grid? k).map f := by
  have hk : ((fun g : Grid => g.key == k) ∘ fun g => if g.key == k then f g else g) = fun g => g.key == k := by
    funext g
    simp only [Function.comp_apply]
    split <;> simp [hkey]
  rw [State.grid?, State.updGrid, List.find?_map, hk]
  cases hfind : s.grids.find? fun g => g.key == k with
  | none => simp [State.grid?, hfind]
  | some g =>
    have hfound : (g.key == k) = true := List.find?_some (p := fun x : Grid => x.key == k) hfind
    simp only [State.grid?, hfind, Option.map_some, hfound, if_true]

/-- A pass of block `i` at a stream that the grid has. -/
theorem Grid.pass_passed {g : Grid} {n : Nat} (hn : n < g.streams.length) (i : Nat) : GridPassed g (g.pass n i) n i := by
  have hself : (g.pass n i).stream n =
      if (g.stream n).passed.contains i then g.stream n else { g.stream n with passed := (g.stream n).passed ++ [i] } := by
    simp [Grid.stream, Grid.pass, List.getD_eq_getElem?_getD, hn]
  refine ⟨rfl, fun j hj => ?_, ?_, fun m => ?_⟩
  · simp [Grid.stream, Grid.pass, List.getD_eq_getElem?_getD, hj.symm]
  · rw [hself]
    split <;> rfl
  · rw [hself]
    split
    · next hin =>
      have hin : i ∈ (g.stream n).passed := by simpa using hin
      exact ⟨.inr, fun h => h.elim (fun h => h ▸ hin) id⟩
    · simp [or_comm]

/-- The block has passed stream `n`, which it no longer guards. -/
def Block.passes (n : Nat) (x : Block) : Block :=
  { x with passed := x.passed ++ [n], guards := x.guards.filter fun y => y != n }

/-- The block has acted outside its view. -/
def Block.outwards (x : Block) : Block := { x with outside := true }

section
variable {s : State} {b : Block} {g : Grid} (hb : s.block? s.cur.blk = some b) (hg : s.grid? b.grid = some g) {n : Nat}
include hb hg

/-- A pass that is no pass: the block has passed already, or lies above the void point. -/
theorem State.passStream_closed (h : n ∈ b.passed ∨ ∃ y, (g.stream n).void = some y ∧ y < b.index) :
    s.passStream s.cur.blk n = s := by
  have hclosed : (b.passed.contains n || (s.streamOf b n).voidAbove b.index) = true := by
    rw [State.streamOf_of_grid hg, Stream.voidAbove]
    rcases h with h | ⟨y, hy, hlt⟩
    · simp [h]
    · simp [hy, hlt]
  simp only [State.passStream, hb, hclosed, if_true]

theorem State.passStream_passes (hopen : ¬(n ∈ b.passed ∨ ∃ y, (g.stream n).void = some y ∧ y < b.index)) {t : State}
    (hrel : s.releaseSet b.core 5 none = (t, [])) :
    s.passStream s.cur.blk n = (t.updBlock s.cur.blk (Block.passes n)).updGrid b.grid fun g => g.pass n b.index := by
  obtain ⟨hout, hvoid⟩ := not_or.1 hopen
  have hclosed : (b.passed.contains n || (s.streamOf b n).voidAbove b.index) = false := by
    rw [State.streamOf_of_grid hg, Stream.voidAbove]
    cases hx : (g.stream n).void with
    | none => simpa using hout
    | some y =>
      have hle : ¬y < b.index := fun h => hvoid ⟨y, hx, h⟩
      simp [hout, hle]
  simp only [State.passStream, hb, hclosed, hrel, Bool.false_eq_true, if_false, List.isEmpty_nil, if_true]
  rfl
end

/-- A DECL that its checks let run passes the stream. -/
theorem exec_ticketDecl {s : State} {b : Block} {g : Grid} {u : Uses} {v : Adverb} {a : BitVec 7} {n : Nat}
    (hu : u = usesTicket s v a none true) (h : s.clearFor b u) (hg : s.grid? b.grid = some g) (hdet : g.launch.det = true)
    (hn : n < g.launch.nstream) (hword : ((b.strand s.cur.strand).word (s.cur.lanes.headD 0) (aReg v a)).toNat = n)
    (hmat : b.mat = none) :
    exec (.ticketDecl a v) s = .next ((((s.passStream s.cur.blk n).updBlock s.cur.blk Block.outwards).settle u b
      (b.strand s.cur.strand) s.cur.lanes).retire s.cur.lanes) := by
  change execTicketDecl a v s = _
  rw [← State.key_of_block? h.1.1]
  simp only [execTicketDecl, ← hu, State.gate_ticket h hg hdet hn hword, hword, Block.matDrain, hmat]
  rfl

/-- The pass of a stream that is open to the block: a release of everything, and its place among those that passed. -/
theorem ticketDecl_passes {s : State} {b : Block} {g : Grid} (h : s.issuing b) (hg : s.grid? b.grid = some g) (hq : Quiet s)
    (hd : Drained s b.core) {n : Nat} (hlen : n < g.streams.length)
    (hopen : ¬(n ∈ b.passed ∨ ∃ y, (g.stream n).void = some y ∧ y < b.index)) (u : Uses) (st : Strand) :
    let t := (((s.passStream s.cur.blk n).updBlock s.cur.blk Block.outwards).settle u b st s.cur.lanes).retire s.cur.lanes
    t = { s with blocks := t.blocks, cores := t.cores, dies := t.dies, mem := t.mem, migrations := t.migrations,
                 grids := t.grids } ∧
      StreamDone s t b (b.guards.filter fun y => y != n) (b.passed ++ [n]) ∧
      (∀ y, memGet t.mem y = current s b.core y) ∧ (∀ y, (t.core b.core).l1At y = cleaned ((s.core b.core).l1At y)) ∧
      ∃ k, t.grid? b.grid = some k ∧ GridPassed g k n b.index := by
  obtain ⟨r, hrel, hr⟩ := State.releaseSet_released hq hd (scope := 5) (by decide)
  have hcur : r.cur = s.cur := by rw [hr.only]
  have hrgrid : r.grid? b.grid = some g := by
    rw [← hg, hr.only]
    rfl
  have hgrid : (r.updGrid b.grid fun g => g.pass n b.index).grid? b.grid = some (g.pass n b.index) := by
    rw [r.grid?_updGrid_self b.grid (f := fun g => g.pass n b.index) fun _ => rfl, hrgrid]
    rfl
  let w := ((r.updBlock s.cur.blk (Block.passes n)).updGrid b.grid fun g => g.pass n b.index).updBlock s.cur.blk Block.outwards
  have hblocks : w.blocks = (s.updBlock s.cur.blk (Block.streamed (fun x => x.guards.filter fun y => y != n)
      fun x => x.passed ++ [n])).blocks := by
    refine (congrArg State.blocks (r.updBlock_updBlock s.cur.blk (Block.passes n) Block.outwards fun _ => rfl)).trans ?_
    rw [hr.only]
    rfl
  obtain ⟨ht, hdone⟩ := streamDone_settle_retire (w := w) h hcur hblocks u st
  rw [State.passStream_passes h.1 hg hopen hrel]
  change let t := (w.settle u b st s.cur.lanes).retire s.cur.lanes; _
  generalize (w.settle u b st s.cur.lanes).retire s.cur.lanes = t at ht hdone
  refine ⟨?_, hdone, fun y => ?_, fun y => ?_, g.pass n b.index, ?_, Grid.pass_passed hlen b.index⟩
  · rw [ht]
    simp only [w, State.updBlock, State.updGrid]
    rw [hr.only]
  · rw [ht]
    exact hr.mem y
  · rw [ht]
    exact hr.l1 y
  · rw [ht]
    exact hgrid

theorem ticketDecl_declares {s : State} {b : Block} {g : Grid} {v : Adverb} {a : BitVec 7} {n : Nat}
    (h : s.clearFor b (usesTicket s v a none true)) (hg : s.grid? b.grid = some g) (hmat : b.mat = none) (hq : Quiet s)
    (hd : Drained s b.core) (hdet : g.launch.det = true) (hn : n < g.launch.nstream) (hlen : n < g.streams.length)
    (hword : ((b.strand s.cur.strand).word (s.cur.lanes.headD 0) (aReg v a)).toNat = n) :
    let closed := n ∈ b.passed ∨ ∃ y, (g.stream n).void = some y ∧ y < b.index
    ∃ t, exec (.ticketDecl a v) s = .next t ∧
      (closed → t = { s with blocks := t.blocks } ∧ StreamDone s t b b.guards b.passed) ∧
      (¬closed → t = { s with blocks := t.blocks, cores := t.cores, dies := t.dies, mem := t.mem, migrations := t.migrations,
                              grids := t.grids } ∧
        StreamDone s t b (b.guards.filter fun y => y != n) (b.passed ++ [n]) ∧
        (∀ y, memGet t.mem y = current s b.core y) ∧
        (∀ y, (t.core b.core).l1At y = cleaned ((s.core b.core).l1At y)) ∧
        ∃ k, t.grid? b.grid = some k ∧ GridPassed g k n b.index) := by
  refine ⟨_, exec_ticketDecl rfl h hg hdet hn hword hmat, fun hclosed => ?_, fun hopen => ?_⟩
  · rw [State.passStream_closed h.1.1 hg hclosed]
    exact streamDone_settle_retire (w := s.updBlock s.cur.blk Block.outwards) (guards := Block.guards) (passed := Block.passed)
      h.1 rfl rfl _ _
  · exact ticketDecl_passes h.1 hg hq hd hlen hopen _ _

/-! ## The faults of a ticket operation (Table 21-7) -/

/-- TAKE and DECL raise what their stream is wrong in. -/
theorem exec_ticket_flaws {s : State} {b : Block} {v : Adverb} {a : BitVec 7} {n : Nat} {fs : List LaneFault}
    (h : s.clearFor b (usesTicket s v a none)) (hword : ((b.strand s.cur.strand).word (s.cur.lanes.headD 0) (aReg v a)).toNat = n)
    (hflaws : s.streamFlaws b n = fs) (hne : fs ≠ []) {i : Instr} (hi : i ∈ [Instr.ticketTake a v, .ticketDecl a v]) :
    exec i s = .next (s.raise fs) := by
  have hlate : lateTicket v a s b (b.strand s.cur.strand) s.cur.lanes = fs := by rw [lateTicket_eq h.1.2.2.1, hword, hflaws]
  have hstop (release : Bool) : s.gate (usesTicket s v a none release) (lateTicket v a) = .stop (s.raise fs) := by
    rw [← hlate]
    exact State.gate_late (u := usesTicket s v a none release) h (by rw [hlate]; exact hne)
  rcases List.mem_pair.1 hi with rfl | rfl
  · change s.ticketWait (usesTicket s v a none) v a (fun b _ _ => b.index) = _
    rw [State.ticketWait, hstop]
  · change execTicketDecl a v s = _
    simp only [execTicketDecl, hstop]

/-- Settles O27: it holds. A ticket operation that its checks let run waits, goes on or declares; the others fault. -/
theorem tickets : Obligations.Tickets := by
  unfold Obligations.Tickets
  constructor
  · intro a b w v s k g i hi low srcs u h hg hdet hissues st n x goal hn
    change WaitsTicket i s k x n goal
    rcases hi with ⟨rfl, rfl⟩ | ⟨rfl, rfl⟩
    · exact waitsTicket (u := usesTicket s v a none) (goal := fun b _ _ => b.index) rfl h hg hdet hn hissues rfl rfl
    · exact waitsTicket (u := usesTicket s v a (some b))
        (goal := fun blk st low => Nat.min (st.word low (bReg v b)).toNat blk.index) rfl h hg hdet hn hissues rfl rfl
  intro a v s b g low u h hg hmat hq hd n
  refine ⟨fun hdet hn hlen => ?declares, fun i hi hissues => ⟨fun hdet => ?notDet, fun hdet hn => ?beyond⟩⟩
  case declares => exact ticketDecl_declares h hg hmat hq hd hdet hn hlen rfl
  case notDet =>
    have hne : s.everyLane 0x17 1 0 n 0 ≠ [] := by simpa [State.everyLane] using h.1.2.2.1
    exact ⟨_, exec_ticket_flaws h rfl (State.streamFlaws_notDet hg hdet n) hne hi,
      State.raise_everyLane_excepted h.1 hissues _ _ _ _ _⟩
  case beyond =>
    have hne : s.everyLane 0x17 2 0 n 0 ≠ [] := by simpa [State.everyLane] using h.1.2.2.1
    exact ⟨_, exec_ticket_flaws h rfl (State.streamFlaws_beyond hg hdet hn) hne hi,
      State.raise_everyLane_excepted h.1 hissues _ _ _ _ _⟩

end Sys2Proof.Machine

/-! PROOFS. What the encodings of the formats stand for (R169, Table 8-1). -/

namespace Sys2Proof.Machine

open Sys2Proof Sys2Proof.Spec

/-! ## Signs, and the real number of a finite value -/

/-- The factor that a sign stands for. -/
def signOf (neg : Bool) : ℝ := if neg then -1 else 1

@[simp] theorem signOf_true : signOf true = -1 := rfl

@[simp] theorem signOf_false : signOf false = 1 := rfl

@[simp] theorem signOf_mul_self (neg : Bool) : signOf neg * signOf neg = 1 := by cases neg <;> norm_num

@[simp] theorem abs_signOf (neg : Bool) : |signOf neg| = 1 := by cases neg <;> norm_num

theorem signOf_ne_zero (neg : Bool) : signOf neg ≠ 0 := by cases neg <;> norm_num

theorem signOf_bne (a b : Bool) : signOf (a != b) = signOf a * signOf b := by cases a <;> cases b <;> norm_num

theorem signOf_not (a : Bool) : signOf (!a) = -signOf a := by cases a <;> norm_num

theorem signOf_mul_neg_iff {x : ℝ} (hx : 0 < x) (neg : Bool) : signOf neg * x < 0 ↔ neg = true := by
  cases neg
  · simpa using hx.le
  · simpa using hx

theorem abs_signOf_mul {x : ℝ} (hx : 0 ≤ x) (neg : Bool) : |signOf neg * x| = x := by
  rw [abs_mul, abs_signOf, one_mul, abs_of_nonneg hx]

theorem two_zpow_pos (e : ℤ) : (0 : ℝ) < 2 ^ e := zpow_pos two_pos e

theorem realOf_fin (neg : Bool) (m : ℕ) (e : ℤ) (more : Bool) :
    realOf (.fin neg m e more) = signOf neg * (m * 2 ^ e) := mul_assoc _ _ _

@[simp] theorem realOf_zero (neg : Bool) (e : ℤ) (more : Bool) : realOf (.fin neg 0 e more) = 0 := by simp [realOf_fin]

theorem realOf_fin_eq_zero {neg : Bool} {m : ℕ} {e : ℤ} {more : Bool} :
    realOf (.fin neg m e more) = 0 ↔ m = 0 := by
  simp [realOf_fin, signOf_ne_zero, (two_zpow_pos e).ne']

theorem exact_fin (neg : Bool) (m : ℕ) (e : ℤ) : Exact (.fin neg m e false) := ⟨neg, m, e, rfl⟩

@[simp] theorem not_exact_inf (neg : Bool) : ¬Exact (.inf neg) := fun ⟨_, _, _, h⟩ => nomatch h

@[simp] theorem not_exact_nan (q : Bool) : ¬Exact (.nan q) := fun ⟨_, _, _, h⟩ => nomatch h

/-! ## Fields of an encoding -/

/-- One encoding of the format, the greatest magnitude, is its NaN, and it has no infinities (R169). -/
def Fmt.oneNan : Fmt → Bool
  | .f8e4 | .e3m5 => true
  | .f64 | .f32 | .f16 | .bf16 | .f8e5 | .f4 => false

/-- The encoding is an infinity or a NaN. -/
def Fmt.Special (t : Fmt) (x : ℕ) : Prop :=
  bits x t.man t.exp = 2 ^ t.exp - 1 ∧ (t.ieee = true ∨ t.oneNan = true ∧ bits x 0 t.man = 2 ^ t.man - 1)

theorem Fmt.value_ieee {t : Fmt} {x : ℕ} (ht : t.ieee = true) (he : bits x t.man t.exp = 2 ^ t.exp - 1) :
    t.value x = if bits x 0 t.man = 0 then .inf (t.signed && bit x t.mag)
      else .nan (!bit (bits x 0 t.man) (t.man - 1)) := by
  simp [Fmt.value, ht, he]

theorem Fmt.value_oneNan {t : Fmt} {x : ℕ} (ht : t.oneNan = true) (he : bits x t.man t.exp = 2 ^ t.exp - 1)
    (hm : bits x 0 t.man = 2 ^ t.man - 1) : t.value x = .nan false := by
  cases t <;> simp_all [Fmt.value, Fmt.oneNan, Fmt.ieee]

theorem Fmt.value_of_not_special {t : Fmt} {x : ℕ} (h : ¬t.Special x) :
    t.value x = if bits x t.man t.exp = 0 then .fin (t.signed && bit x t.mag) (bits x 0 t.man) t.low false
      else .fin (t.signed && bit x t.mag) (bits x 0 t.man + 2 ^ t.man) (t.low + (bits x t.man t.exp : ℕ) - 1) false := by
  cases t <;> simp_all [Fmt.value, Fmt.Special, Fmt.oneNan, Fmt.ieee]

theorem Fmt.exact_value_iff {t : Fmt} {x : ℕ} : Exact (t.value x) ↔ ¬t.Special x := by
  refine ⟨fun h hs => ?_, fun h => ?_⟩
  · obtain ⟨he, ht | ⟨ht, hm⟩⟩ := hs
    · rw [Fmt.value_ieee ht he] at h
      split at h <;> simp at h
    · simp [Fmt.value_oneNan ht he hm] at h
  · rw [Fmt.value_of_not_special h]
    split <;> exact exact_fin _ _ _

/-- A finite value of a format lies on the grid of its exponent, and has no smaller exponent where it is not subnormal. -/
structure Fmt.OnGrid (t : Fmt) (m : ℕ) (e : ℤ) : Prop where
  low : t.low ≤ e
  lt : m < 2 ^ (t.man + 1)
  normal : 2 ^ t.man ≤ m ∨ e = t.low

theorem Fmt.value_eq_fin {t : Fmt} {x : ℕ} {neg : Bool} {m : ℕ} {e : ℤ} {more : Bool}
    (h : t.value x = .fin neg m e more) :
    ¬t.Special x ∧ more = false ∧ t.OnGrid m e ∧
      (e - t.low).toNat * 2 ^ t.man + m = bits x t.man t.exp * 2 ^ t.man + bits x 0 t.man := by
  have hspecial : ¬t.Special x := fun ⟨he, ht⟩ => by
    rcases ht with ht | ⟨ht, hm⟩
    · rw [Fmt.value_ieee ht he] at h
      split at h <;> cases h
    · rw [Fmt.value_oneNan ht he hm] at h
      cases h
  have hm : bits x 0 t.man < 2 ^ t.man := Nat.mod_lt _ (by positivity)
  rw [Fmt.value_of_not_special hspecial] at h
  split at h
  next h0 =>
    cases h
    exact ⟨hspecial, rfl, ⟨le_rfl, by omega, .inr rfl⟩, by simp [h0]⟩
  next h0 =>
    cases h
    refine ⟨hspecial, rfl, ⟨by omega, by omega, .inl (by omega)⟩, ?_⟩
    obtain ⟨k, hk⟩ := Nat.exists_eq_add_one_of_ne_zero h0
    rw [show (t.low + (bits x t.man t.exp : ℕ) - 1 - t.low).toNat = k by omega, hk]
    ring

/-! ## The statement -/

theorem Fmt.neg_eq {t : Fmt} {x : ℕ} (hx : x < 2 ^ (t.exp + t.man + if t.signed then 1 else 0)) :
    (t.signed && bit x t.mag) = decide (2 ^ (t.exp + t.man) ≤ x) := by
  have hbit : x < 2 * 2 ^ (t.exp + t.man) → bit x t.mag = decide (2 ^ (t.exp + t.man) ≤ x) := fun hlt => by
    by_cases h : 2 ^ (t.exp + t.man) ≤ x
    · have : x / 2 ^ (t.exp + t.man) = 1 := Nat.div_eq_of_lt_le (by omega) (by omega)
      simp [bit, Fmt.mag, h, this]
    · simp [bit, Fmt.mag, h, Nat.div_eq_of_lt (not_le.1 h)]
  cases hs : t.signed
  · simpa [hs] using hx
  · rw [Bool.true_and]
    exact hbit (by simpa [hs, pow_succ, mul_comm] using hx)

theorem Fmt.real_subnormal (t : Fmt) (neg : Bool) (m : ℕ) : realOf (.fin neg m t.low false) =
    signOf neg * ((2 : ℝ) ^ (1 - (t.bias : ℤ)) * (m / 2 ^ t.man)) := by
  rw [realOf_fin, Fmt.low, zpow_sub₀ two_ne_zero, zpow_natCast]
  ring

theorem Fmt.real_normal (t : Fmt) (neg : Bool) (m e : ℕ) :
    realOf (.fin neg (m + 2 ^ t.man) (t.low + e - 1) false) =
      signOf neg * ((2 : ℝ) ^ ((e : ℤ) - t.bias) * (1 + m / 2 ^ t.man)) := by
  rw [realOf_fin, Fmt.low, show 1 - (t.bias : ℤ) - t.man + e - 1 = e - t.bias - t.man by ring,
    zpow_sub₀ two_ne_zero _ (t.man : ℤ), zpow_natCast]
  push_cast
  field_simp
  ring

theorem signalling_iff {m n : ℕ} (hn : 0 < n) (hm : m < 2 ^ n) : (!bit m (n - 1)) = decide (m < 2 ^ (n - 1)) := by
  have hpow : 2 ^ n = 2 * 2 ^ (n - 1) := by rw [← pow_succ', Nat.sub_add_cancel hn]
  by_cases h : m < 2 ^ (n - 1)
  · simp [bit, h, Nat.div_eq_of_lt h]
  · have : m / 2 ^ (n - 1) = 1 := Nat.div_eq_of_lt_le (by omega) (by omega)
    simp [bit, h, this]

/-- Settles O8: it holds. The fields of an encoding decide whether it is special, and otherwise give the value. -/
theorem formatValues : Obligations.FormatValues := by
  unfold Obligations.FormatValues
  refine ⟨rfl, ⟨rfl, rfl, rfl, rfl⟩, ⟨rfl, rfl, rfl, rfl, rfl⟩, ?_⟩
  intro t x hx neg e m special oneNan
  have he : bits x t.man t.exp = e := rfl
  have hm : bits x 0 t.man = m := by simp [bits, m]
  have hneg : (t.signed && bit x t.mag) = neg := Fmt.neg_eq hx
  have hieee : special ↔ t.ieee = true := by cases t <;> simp [special, Fmt.ieee]
  have hone : oneNan ↔ t.oneNan = true := by cases t <;> simp [oneNan, Fmt.oneNan]
  have hman : 0 < t.man := by cases t <;> decide
  have hlt : m < 2 ^ t.man := Nat.mod_lt _ (by positivity)
  refine ⟨fun hs htop h0 => ?infinite, fun hs htop h0 => ?nan, fun ho htop h1 => ?one, fun hs ho => ?finite⟩
  case infinite => rw [Fmt.value_ieee (hieee.1 hs) htop, hm, if_pos h0, hneg]
  case nan => rw [Fmt.value_ieee (hieee.1 hs) htop, hm, if_neg h0, signalling_iff hman hlt]
  case one => exact Fmt.value_oneNan (hone.1 ho) htop (hm.trans h1)
  case finite =>
    have hspecial : ¬t.Special x := by
      rintro ⟨htop, ht | ⟨ht, h1⟩⟩
      · exact hs ⟨hieee.2 ht, htop⟩
      · exact ho ⟨hone.2 ht, htop, hm ▸ h1⟩
    refine ⟨Fmt.exact_value_iff.2 hspecial, ?_⟩
    rw [Fmt.value_of_not_special hspecial, he, hm, hneg]
    by_cases h0 : e = 0
    · simp only [if_pos h0]
      exact ⟨rfl, Fmt.real_subnormal t neg m⟩
    · simp only [if_neg h0]
      exact ⟨rfl, Fmt.real_normal t neg m e⟩

end Sys2Proof.Machine

/-! PROOFS. Rounding to an integer (R171, R177): what `roundShift` gives, and that a mode selects one integer. -/

namespace Sys2Proof.Machine

open Sys2Proof Sys2Proof.Spec

/-- An integer of a sign and a magnitude. -/
def signedInt (neg : Bool) (n : ℕ) : ℤ := if neg then -(n : ℤ) else n

@[simp] theorem cast_signedInt (neg : Bool) (n : ℕ) : (signedInt neg n : ℝ) = signOf neg * n := by
  cases neg <;> simp [signedInt]

theorem signedInt_emod_two (neg : Bool) (n : ℕ) : signedInt neg n % 2 = 0 ↔ n % 2 = 0 := by
  cases neg <;> simp only [signedInt] <;> omega

/-- The real number `d` lies in what `more` says of the part of a magnitude that is not written out. -/
def IsTail (more : Bool) (d : ℝ) : Prop := 0 ≤ d ∧ d < 1 ∧ (more = true ↔ 0 < d)

theorem isTail_zero : IsTail false 0 := ⟨le_rfl, one_pos, by simp⟩

theorem IsTail.eq_zero {d : ℝ} (h : IsTail false d) : d = 0 := by
  obtain ⟨h0, -, hiff⟩ := h
  exact le_antisymm (not_lt.1 fun hd => by simp [hd] at hiff) h0

/-! ## The integer that a mode selects -/

/-- A mode selects one of the two integers beside `x`, or `x` itself. -/
theorem intRounded_abs_sub_lt {r : Rnd} {x : ℝ} {n : ℤ} (h : IntRounded r x n) : |x - n| < 1 := by
  cases r with
  | rne => linarith [h.1]
  | rna => linarith [h.1]
  | rup => exact abs_lt.2 ⟨by linarith [h.2], by linarith [h.1]⟩
  | rdn => exact abs_lt.2 ⟨by linarith [h.1], by linarith [h.2]⟩
  | rtz =>
    obtain ⟨hle, hlt, hsign⟩ := h
    have hsq : (x - n) ^ 2 = (|x| - |(n : ℝ)|) ^ 2 := by
      rw [sub_sq, sub_sq, sq_abs, sq_abs, mul_assoc, mul_assoc, ← abs_mul, mul_comm x, abs_of_nonneg hsign]
    rw [← sq_lt_one_iff_abs_lt_one, hsq, sq_lt_one_iff_abs_lt_one, abs_of_nonneg (by linarith)]
    linarith

/-! ## The decision to round up -/

theorem signOf_mul_sub (neg : Bool) (x y : ℝ) : |signOf neg * x - signOf neg * y| = |x - y| := by
  rw [← mul_sub, abs_mul, abs_signOf, one_mul]

section

variable {r : Rnd} {neg inexact : Bool} {c : Ordering} {q : ℕ} {y : ℝ}

/-- `c` compares what lies above `q` with one half, and `inexact` says that it is not 0. -/
structure Compares (q : ℕ) (y : ℝ) (c : Ordering) (inexact : Bool) : Prop where
  ge : (q : ℝ) ≤ y
  lt : y < q + 1
  below : c = .lt → y < q + 1 / 2
  half : c = .eq → y = q + 1 / 2
  above : c = .gt → (q : ℝ) + 1 / 2 < y
  inexact_iff : inexact = true ↔ (q : ℝ) ≠ y

theorem nearest_down (h0 : (q : ℝ) ≤ y) (h : y ≤ q + 1 / 2) : |y - q| ≤ 1 / 2 ∧ (|y - q| = 1 / 2 → y = q + 1 / 2) := by
  rw [abs_of_nonneg (by linarith)]
  exact ⟨by linarith, fun h => by linarith⟩

theorem nearest_up (h1 : y < q + 1) (h : (q : ℝ) + 1 / 2 ≤ y) :
    |y - (q + 1 : ℕ)| ≤ 1 / 2 ∧ (|y - (q + 1 : ℕ)| = 1 / 2 → y = q + 1 / 2) := by
  push_cast
  rw [abs_sub_comm, abs_of_nonneg (by linarith)]
  exact ⟨by linarith, fun h => by linarith⟩

theorem intRounded_rne (h : Compares q y c inexact) :
    IntRounded .rne (signOf neg * y) (signedInt neg (if roundsUp .rne neg (q % 2 == 1) c inexact then q + 1 else q)) := by
  simp only [IntRounded, cast_signedInt, signOf_mul_sub, signedInt_emod_two]
  cases c with
  | gt =>
    obtain ⟨hle, htie⟩ := nearest_up h.lt (h.above rfl).le
    exact ⟨hle, fun heq => absurd (htie heq) (h.above rfl).ne'⟩
  | lt =>
    obtain ⟨hle, htie⟩ := nearest_down h.ge (h.below rfl).le
    exact ⟨hle, fun heq => absurd (htie heq) (h.below rfl).ne⟩
  | eq =>
    by_cases hodd : q % 2 = 1
    · rw [if_pos (by simpa [roundsUp] using hodd)]
      exact ⟨(nearest_up h.lt (h.half rfl).ge).1, fun _ => by omega⟩
    · rw [if_neg (by simpa [roundsUp] using hodd)]
      exact ⟨(nearest_down h.ge (h.half rfl).le).1, fun _ => by omega⟩

theorem intRounded_rna (h : Compares q y c inexact) (odd : Bool) :
    IntRounded .rna (signOf neg * y) (signedInt neg (if roundsUp .rna neg odd c inexact then q + 1 else q)) := by
  have hy : 0 ≤ y := q.cast_nonneg.trans h.ge
  have hup (hge : (q : ℝ) + 1 / 2 ≤ y) : |y - (q + 1 : ℕ)| ≤ 1 / 2 ∧ (|y - (q + 1 : ℕ)| = 1 / 2 → y < (q + 1 : ℕ)) :=
    ⟨(nearest_up h.lt hge).1, fun _ => by exact_mod_cast h.lt⟩
  simp only [IntRounded, cast_signedInt, signOf_mul_sub, abs_signOf_mul hy, abs_signOf_mul (Nat.cast_nonneg _)]
  cases c with
  | gt =>
    exact hup (h.above rfl).le
  | eq =>
    exact hup (h.half rfl).ge
  | lt =>
    obtain ⟨hle, htie⟩ := nearest_down h.ge (h.below rfl).le
    exact ⟨hle, fun heq => absurd (htie heq) (h.below rfl).ne⟩

theorem intRounded_rtz (h : Compares q y c inexact) (odd : Bool) :
    IntRounded .rtz (signOf neg * y) (signedInt neg (if roundsUp .rtz neg odd c inexact then q + 1 else q)) := by
  have hq : (0 : ℝ) ≤ q := q.cast_nonneg
  simp only [IntRounded, cast_signedInt, roundsUp, Bool.false_eq_true, if_false, abs_signOf_mul (hq.trans h.ge),
    abs_signOf_mul hq]
  refine ⟨h.ge, h.lt, ?_⟩
  rw [show signOf neg * q * (signOf neg * y) = signOf neg * signOf neg * (q * y) by ring, signOf_mul_self, one_mul]
  exact mul_nonneg hq (hq.trans h.ge)

/-- A directed mode that rounds magnitudes of this sign upwards takes the next integer, and otherwise cuts off. -/
theorem directed_up (h : Compares q y c inexact) :
    y ≤ (if inexact then q + 1 else q : ℕ) ∧ ((if inexact then q + 1 else q : ℕ) : ℝ) < y + 1 := by
  obtain ⟨h0, h1, -, -, -, hi⟩ := h
  cases inexact
  · have : (q : ℝ) = y := not_not.1 fun hne => by simp [hne] at hi
    simp [this]
  · have : (q : ℝ) < y := lt_of_le_of_ne h0 (hi.1 rfl)
    simpa using ⟨h1.le, this⟩

theorem intRounded_rup (h : Compares q y c inexact) (odd : Bool) :
    IntRounded .rup (signOf neg * y) (signedInt neg (if roundsUp .rup neg odd c inexact then q + 1 else q)) := by
  simp only [IntRounded, cast_signedInt, roundsUp]
  cases neg
  · simpa using directed_up h
  · simpa using ⟨h.ge, by linarith [h.lt]⟩

theorem intRounded_rdn (h : Compares q y c inexact) (odd : Bool) :
    IntRounded .rdn (signOf neg * y) (signedInt neg (if roundsUp .rdn neg odd c inexact then q + 1 else q)) := by
  simp only [IntRounded, cast_signedInt, roundsUp]
  cases neg
  · simpa using ⟨h.ge, h.lt⟩
  · obtain ⟨hle, hlt⟩ := directed_up h
    simp only [Bool.and_true, signOf_true, neg_one_mul]
    exact ⟨neg_le_neg hle, by linarith⟩

/-- In every mode, the decision that the model takes selects the integer that the mode selects. -/
theorem intRounded_roundsUp (h : Compares q y c inexact) :
    IntRounded r (signOf neg * y) (signedInt neg (if roundsUp r neg (q % 2 == 1) c inexact then q + 1 else q)) := by
  cases r with
  | rne => exact intRounded_rne h
  | rna => exact intRounded_rna h _
  | rtz => exact intRounded_rtz h _
  | rup => exact intRounded_rup h _
  | rdn => exact intRounded_rdn h _

end

/-! ## Cutting off bits -/

/-- How the part that a cut of `k` bits takes off compares with one half. -/
def cutOrder (m k : ℕ) (more : Bool) : Ordering :=
  if k = 0 then .lt
  else if 2 ^ k < 2 * (m % 2 ^ k) then .gt
  else if 2 * (m % 2 ^ k) = 2 ^ k then (if more then .gt else .eq)
  else .lt

/-- A cut of more bits than a magnitude and its double have leaves nothing, and less than one half is cut off. -/
theorem cut_of_lt {m k : ℕ} (more : Bool) (h : 2 * m < 2 ^ k) :
    cutOrder m k more = .lt ∧ m / 2 ^ k = 0 ∧ m % 2 ^ k = m := by
  have hmod : m % 2 ^ k = m := Nat.mod_eq_of_lt (by omega)
  refine ⟨?_, Nat.div_eq_of_lt (by omega), hmod⟩
  simp [cutOrder, hmod, h.not_gt, h.ne]

/-- The bound that `roundShift` puts on its cut changes nothing. -/
theorem roundShift_eq (r : Rnd) (neg : Bool) (m k : ℕ) (more : Bool) : roundShift r neg m k more =
    (if roundsUp r neg (m / 2 ^ k % 2 == 1) (cutOrder m k more) (m % 2 ^ k != 0 || more) then m / 2 ^ k + 1
      else m / 2 ^ k, m % 2 ^ k != 0 || more) := by
  have hbound : cutOrder m (min k (m.log2 + 3)) more = cutOrder m k more ∧
      m / 2 ^ min k (m.log2 + 3) = m / 2 ^ k ∧ m % 2 ^ min k (m.log2 + 3) = m % 2 ^ k := by
    rcases le_total k (m.log2 + 3) with hk | hk
    · simp [min_eq_left hk]
    · have hm : m < 2 ^ (m.log2 + 1) := Nat.lt_log2_self
      have hlt : 2 * m < 2 ^ (m.log2 + 3) := by
        rw [show 2 ^ (m.log2 + 3) = 4 * 2 ^ (m.log2 + 1) by ring]
        omega
      obtain ⟨hc, hq, hrest⟩ := cut_of_lt more (hlt.trans_le (Nat.pow_le_pow_right two_pos hk))
      rw [min_eq_right hk, hc, hq, hrest]
      exact cut_of_lt more hlt
  obtain ⟨hc, hq, hrest⟩ := hbound
  rw [← hc, ← hq, ← hrest]
  simp [roundShift, cutOrder]

theorem compares_cut {m k : ℕ} {more : Bool} {d : ℝ} (hd : IsTail more d) (hk : more = true → 0 < k) :
    Compares (m / 2 ^ k) ((m + d) / 2 ^ k) (cutOrder m k more) (m % 2 ^ k != 0 || more) := by
  obtain ⟨p, hp⟩ : ∃ p, p = 2 ^ k := ⟨_, rfl⟩
  have hp0 : 0 < p := hp ▸ Nat.two_pow_pos k
  obtain ⟨q, rest, hq, hrest⟩ : ∃ q rest, q = m / p ∧ rest = m % p := ⟨_, _, rfl, rfl⟩
  have hlt : rest < p := hrest ▸ Nat.mod_lt _ hp0
  have hm : (m : ℝ) = p * q + rest := by exact_mod_cast (hq ▸ hrest ▸ Nat.div_add_mod m p).symm
  have hp0' : (0 : ℝ) < p := by exact_mod_cast hp0
  have hlt' : (rest : ℝ) + 1 ≤ p := by exact_mod_cast hlt
  have hrest0 : (0 : ℝ) ≤ rest := rest.cast_nonneg
  obtain ⟨hd0, hd1, hmore⟩ := hd
  have hy : ((m : ℝ) + d) / 2 ^ k = q + (rest + d) / p := by
    rw [hm, show (2 : ℝ) ^ k = p by rw [hp]; norm_cast]
    field_simp
    ring
  rw [hy, cutOrder, ← hp, ← hq, ← hrest]
  refine ⟨?ge, ?lt, fun hc => ?below, fun hc => ?half, fun hc => ?above, ?inexact⟩
  case ge => exact le_add_of_nonneg_right (by positivity)
  case lt =>
    rw [add_lt_add_iff_left, div_lt_one hp0']
    linarith
  case below =>
    rw [add_lt_add_iff_left, div_lt_div_iff₀ hp0' two_pos]
    split_ifs at hc with hk0 h1 h2
    · have hmore0 : ¬0 < d := fun h => (hk (hmore.2 h)).ne' hk0
      have : (rest : ℝ) < 1 := by exact_mod_cast (by simpa [hp, hk0] using hlt : rest < 1)
      have hr : rest = 0 := by exact_mod_cast Nat.lt_one_iff.1 (by exact_mod_cast this)
      rw [hr]
      push_cast
      linarith
    · have heven : 2 * 2 ^ (k - 1) = p := by rw [hp, ← pow_succ', Nat.sub_add_cancel (Nat.pos_of_ne_zero hk0)]
      have : (2 : ℝ) * rest + 2 ≤ p := by exact_mod_cast (by omega : 2 * rest + 2 ≤ p)
      linarith
  case half =>
    rw [add_right_inj, div_eq_div_iff hp0'.ne' two_ne_zero]
    split_ifs at hc with hk0 h1 h2 h3
    have : (2 : ℝ) * rest = p := by exact_mod_cast h2
    have hd' : d = 0 := le_antisymm (not_lt.1 fun h => h3 (hmore.2 h)) hd0
    linarith
  case above =>
    rw [add_lt_add_iff_left, div_lt_div_iff₀ two_pos hp0']
    split_ifs at hc with hk0 h1 h2 h3
    · have : (p : ℝ) < 2 * rest := by exact_mod_cast h1
      linarith
    · have : (2 : ℝ) * rest = p := by exact_mod_cast h2
      linarith [hmore.1 h3]
  case inexact =>
    rw [ne_comm, Ne, add_eq_left, div_eq_zero_iff, or_iff_left hp0'.ne', Bool.or_eq_true, hmore, bne_iff_ne]
    constructor
    · rintro (h | h) h0
      · exact h (by exact_mod_cast (by linarith : (rest : ℝ) = 0))
      · linarith
    · intro h
      rcases eq_or_ne rest 0 with h0 | h0
      · exact .inr (lt_of_le_of_ne hd0 fun hd => h (by simp [h0, ← hd]))
      · exact .inl h0

theorem inexact_iff_ne {q n : ℕ} {y : ℝ} {c : Ordering} {inexact : Bool} (h : Compares q y c inexact)
    (hdist : |y - n| < 1) (hn : n = q + 1 ∨ n = q) : inexact = true ↔ (n : ℝ) ≠ y := by
  rw [h.inexact_iff]
  rcases hn with rfl | rfl
  · rw [abs_lt] at hdist
    push_cast at hdist ⊢
    exact ⟨fun _ => h.lt.ne', fun _ => by linarith [hdist.1] |> ne_of_lt⟩
  · rfl

/-- A cut of `k` bits rounds to the integer that the mode selects, and says whether anything was lost (R171, R175). -/
theorem roundShift_spec {r : Rnd} {neg : Bool} {m k : ℕ} {more : Bool} {d : ℝ} (hd : IsTail more d)
    (hk : more = true → 0 < k) :
    IntRounded r (signOf neg * ((m + d) / 2 ^ k)) (signedInt neg (roundShift r neg m k more).1) ∧
      ((roundShift r neg m k more).2 = true ↔ ((roundShift r neg m k more).1 : ℝ) ≠ (m + d) / 2 ^ k) := by
  have h := compares_cut (m := m) hd hk
  have hr := intRounded_roundsUp (r := r) (neg := neg) h
  have hdist := intRounded_abs_sub_lt hr
  rw [cast_signedInt, signOf_mul_sub] at hdist
  rw [roundShift_eq]
  exact ⟨hr, inexact_iff_ne h hdist (by split <;> simp)⟩

/-- An integer is the only one that a mode selects for itself. -/
theorem intRounded_self (r : Rnd) (n : ℤ) : IntRounded r n n := by
  cases r with
  | rne => simp [IntRounded]
  | rna => simp [IntRounded]
  | rtz => simpa [IntRounded] using mul_self_nonneg (n : ℝ)
  | rup => simp [IntRounded]
  | rdn => simp [IntRounded]

theorem nearest_unique {x : ℝ} {n k : ℤ} (hn : |x - n| ≤ 1 / 2) (hk : |x - k| ≤ 1 / 2) (hlt : n < k) :
    k = n + 1 ∧ |x - n| = 1 / 2 ∧ |x - k| = 1 / 2 := by
  rw [abs_le] at hn hk
  have hle : (k : ℝ) ≤ n + 1 := by linarith
  have hk1 : k = n + 1 := le_antisymm (by exact_mod_cast hle) hlt
  have hx : x = n + 1 / 2 := by
    subst hk1
    push_cast at hk
    linarith
  subst hk1 hx
  refine ⟨rfl, ?_, ?_⟩ <;> push_cast <;> norm_num [abs_of_pos, abs_of_neg]

/-- Of the two integers beside a half only one is farther from 0 than it. -/
theorem rna_not_lt {x : ℝ} {n k : ℤ} (hn : IntRounded .rna x n) (hk : IntRounded .rna x k) : ¬n < k := by
  intro hlt
  obtain ⟨h1, hn2, hk2⟩ := nearest_unique hn.1 hk.1 hlt
  have h1' : (k : ℝ) = n + 1 := by exact_mod_cast h1
  have hmid : x = n + 1 / 2 := by
    rw [abs_eq (by norm_num)] at hn2 hk2
    rcases hn2 with h | h <;> rcases hk2 with h' | h' <;> linarith
  rcases le_or_gt 0 n with h0 | h0
  · have hn0 : (0 : ℝ) ≤ n := by exact_mod_cast h0
    have := hn.2 hn2
    rw [abs_of_nonneg hn0] at this
    linarith [le_abs_self x]
  · have hk0 : (k : ℝ) ≤ 0 := by exact_mod_cast (by omega : k ≤ 0)
    have := hk.2 hk2
    rw [abs_of_nonpos hk0] at this
    linarith [neg_abs_le x]

/-- Two integers that a truncation might give have one magnitude and not two signs. -/
theorem rtz_not_lt {x : ℝ} {n k : ℤ} (hn : IntRounded .rtz x n) (hk : IntRounded .rtz x k) : ¬n < k := by
  intro hlt
  obtain ⟨hnx, hxn, hn0⟩ := hn
  obtain ⟨hkx, hxk, hk0⟩ := hk
  have h1 : |(n : ℝ)| < |(k : ℝ)| + 1 := by linarith
  have h2 : |(k : ℝ)| < |(n : ℝ)| + 1 := by linarith
  norm_cast at h1 h2
  have hnk : k = -n ∧ n < 0 := by
    rcases abs_eq_abs.1 (show |n| = |k| by omega) with h | h <;> omega
  have hneg : (n : ℝ) < 0 := by exact_mod_cast hnk.2
  have hk' : (k : ℝ) = -n := by exact_mod_cast hnk.1
  have hx : x = 0 := by
    rw [hk'] at hk0
    refine le_antisymm ?_ ?_ <;> nlinarith
  rw [hx, abs_zero] at hnx
  exact hneg.ne (abs_nonpos_iff.1 hnx)

theorem intRounded_not_lt {r : Rnd} {x : ℝ} {n k : ℤ} (hn : IntRounded r x n) (hk : IntRounded r x k) : ¬n < k := by
  cases r with
  | rne =>
    intro hlt
    obtain ⟨h1, hn2, hk2⟩ := nearest_unique hn.1 hk.1 hlt
    have := hn.2 hn2
    have := hk.2 hk2
    omega
  | rna => exact rna_not_lt hn hk
  | rtz => exact rtz_not_lt hn hk
  | rup =>
    intro hlt
    have : (n : ℝ) + 1 ≤ k := by exact_mod_cast hlt
    linarith [hn.1, hk.2]
  | rdn =>
    intro hlt
    have : (n : ℝ) + 1 ≤ k := by exact_mod_cast hlt
    linarith [hn.2, hk.1]

/-- A mode selects one integer. -/
theorem intRounded_unique {r : Rnd} {x : ℝ} {n k : ℤ} (hn : IntRounded r x n) (hk : IntRounded r x k) : n = k :=
  le_antisymm (not_lt.1 (intRounded_not_lt hk hn)) (not_lt.1 (intRounded_not_lt hn hk))

end Sys2Proof.Machine

/-! PROOFS. The value that a mode selects among those of a format (R171). -/

namespace Sys2Proof.Machine

open Sys2Proof Sys2Proof.Spec

/-! ## Selection between neighbours on a grid -/

section

variable {x w : ℝ} {n : ℤ}

/-- `w` is not strictly between the integers beside `x`. -/
def Outside (x w : ℝ) : Prop := w ≤ ⌊x⌋ ∨ ⌈x⌉ ≤ w

theorem Outside.neg (h : Outside x w) : Outside (-x) (-w) := by
  rcases h with h | h
  · exact .inr (by rw [Int.ceil_neg]; push_cast; linarith)
  · exact .inl (by rw [Int.floor_neg]; push_cast; linarith)

theorem outside_int (x : ℝ) (k : ℤ) : Outside x k := by
  rcases le_or_gt (k : ℝ) x with h | h
  · exact .inl (by exact_mod_cast Int.le_floor.2 h)
  · exact .inr (by exact_mod_cast Int.ceil_le.2 h.le)

theorem outside_of_abs_lt {b : ℕ} (hw : |w| < b) (hx : b ≤ |x|) : Outside x w := by
  have hpos : ∀ {x w : ℝ}, |w| < b → (b : ℝ) ≤ x → Outside x w := fun hw hx =>
    .inl (((le_abs_self _).trans hw.le).trans (by exact_mod_cast Int.le_floor.2 (by exact_mod_cast hx)))
  rcases le_total 0 x with h | h
  · exact hpos hw (abs_of_nonneg h ▸ hx)
  · simpa using (hpos (x := -x) (w := -w) (by rwa [abs_neg]) (abs_of_nonpos h ▸ hx)).neg

theorem nearest_of_le_floor (hn : |x - n| ≤ 1 / 2) (hw : w ≤ ⌊x⌋) :
    |x - n| < |x - w| ∨ w = n ∨ |x - n| = 1 / 2 ∧ |x - w| = 1 / 2 := by
  have hf := Int.floor_le x
  rw [abs_of_nonneg (show 0 ≤ x - w by linarith)]
  rcases le_or_gt (n : ℝ) x with h | h
  · have : n ≤ ⌊x⌋ := Int.le_floor.2 h
    rw [abs_of_nonneg (by linarith)] at hn ⊢
    have hfn : (⌊x⌋ : ℝ) < n + 1 := by linarith
    have : ⌊x⌋ = n := le_antisymm (Int.lt_add_one_iff.1 (by exact_mod_cast hfn)) this
    rw [this] at hw
    rcases hw.lt_or_eq with h | h
    · exact .inl (by linarith)
    · exact .inr (.inl h)
  · have : (⌊x⌋ : ℝ) + 1 ≤ n := by exact_mod_cast Int.floor_lt.2 h
    rw [abs_of_neg (by linarith)] at hn ⊢
    rcases hn.lt_or_eq with h | h
    · exact .inl (by linarith)
    · rcases (show 1 / 2 ≤ x - w by linarith).lt_or_eq with h' | h'
      · exact .inl (by linarith)
      · exact .inr (.inr ⟨h, h'.symm⟩)

theorem nearest_of_outside (hn : |x - n| ≤ 1 / 2) (hw : Outside x w) :
    |x - n| < |x - w| ∨ w = n ∨ |x - n| = 1 / 2 ∧ |x - w| = 1 / 2 := by
  rcases hw with hw | hw
  · exact nearest_of_le_floor hn hw
  · have hswap (y : ℝ) : |(-x) - (-y)| = |x - y| := by rw [neg_sub_neg, abs_sub_comm]
    have := nearest_of_le_floor (x := -x) (w := -w) (n := -n) (by rw [Int.cast_neg, hswap]; exact hn)
      (by rw [Int.floor_neg]; push_cast; linarith)
    simpa only [Int.cast_neg, hswap, neg_inj] using this

theorem rna_of_tie (hn : |x - n| = 1 / 2) (hw : |x - w| = 1 / 2) (h : |x| < |(n : ℝ)|) : |w| ≤ |(n : ℝ)| := by
  rcases le_or_gt 0 n with h0 | h0
  · have hn0 : (0 : ℝ) ≤ n := by exact_mod_cast h0
    rw [abs_of_nonneg hn0] at h ⊢
    have hx : x = n - 1 / 2 := by
      rcases (abs_eq (by norm_num)).1 hn with h' | h' <;> linarith [le_abs_self x]
    have h1 : (1 : ℝ) ≤ n := by
      exact_mod_cast lt_of_le_of_ne h0 (by rintro rfl; simp at h; linarith [abs_nonneg x])
    rw [abs_le]
    constructor <;> rcases (abs_eq (by norm_num)).1 hw with h' | h' <;> linarith
  · have h1 : (n : ℝ) ≤ -1 := by exact_mod_cast Int.le_sub_one_of_lt h0
    rw [abs_of_neg (show (n : ℝ) < 0 by linarith)] at h ⊢
    have hx : x = n + 1 / 2 := by
      rcases (abs_eq (by norm_num)).1 hn with h' | h' <;> linarith [neg_abs_le x]
    rw [abs_le]
    constructor <;> rcases (abs_eq (by norm_num)).1 hw with h' | h' <;> linarith

theorem rup_of_outside (h : (n : ℝ) < x + 1) (hw : Outside x w) (hx : x ≤ w) : n ≤ w := by
  rcases hw with hw | hw
  · have hfloor : (⌊x⌋ : ℝ) = x := le_antisymm (Int.floor_le x) (hx.trans hw)
    have : n ≤ ⌊x⌋ := Int.lt_add_one_iff.1 (by rw [← hfloor] at h; exact_mod_cast h)
    exact (show (n : ℝ) ≤ ⌊x⌋ by exact_mod_cast this).trans (hfloor.le.trans hx)
  · have : n ≤ ⌈x⌉ := by
      have h' : (n : ℝ) < ⌈x⌉ + 1 := by linarith [Int.le_ceil x]
      exact Int.lt_add_one_iff.1 (by exact_mod_cast h')
    exact (show (n : ℝ) ≤ ⌈x⌉ by exact_mod_cast this).trans hw

theorem rdn_of_outside (h : x < n + 1) (hw : Outside x w) (hx : w ≤ x) : w ≤ n := by
  have := rup_of_outside (n := -n) (by push_cast; linarith) hw.neg (neg_le_neg hx)
  push_cast at this
  exact neg_le_neg_iff.1 this

theorem rtz_of_outside (h : |x| < |(n : ℝ)| + 1) (hw : Outside x w) (hw' : Outside x (-w)) (hx : |w| ≤ |x|) :
    |w| ≤ |(n : ℝ)| := by
  have hpos {x w : ℝ} (h : x < |(n : ℝ)| + 1) (hw : Outside x w) (hx : w ≤ x) : w ≤ |(n : ℝ)| := by
    exact_mod_cast rdn_of_outside (n := |n|) (by exact_mod_cast h) hw hx
  have habs : Outside x |w| ∧ Outside x (-|w|) := by
    rcases abs_choice w with hc | hc <;> rw [hc]
    · exact ⟨hw, hw'⟩
    · exact ⟨hw', by rwa [neg_neg]⟩
  rcases abs_choice x with hc | hc <;> rw [hc] at h hx
  · exact hpos h habs.1 hx
  · exact hpos h (by simpa using habs.2.neg) hx

end

/-- `y` is the one among `y` and `w` that the mode selects for `x`. -/
def Beats (r : Rnd) (x y w : ℝ) (even : Prop) : Prop :=
  match r with
  | .rne => |x - y| ≤ |x - w| ∧ (|x - y| = |x - w| → w ≠ y → even)
  | .rna => |x - y| ≤ |x - w| ∧ (|x - y| = |x - w| → |w| ≤ |y|)
  | .rtz => |y| ≤ |x| ∧ (|w| ≤ |x| → |w| ≤ |y|)
  | .rup => x ≤ y ∧ (x ≤ w → y ≤ w)
  | .rdn => y ≤ x ∧ (w ≤ x → w ≤ y)

theorem selected_iff {t : Fmt} {r : Rnd} {x : ℝ} {v : Val} {even : Prop} :
    Selected t r x v even ↔ ∀ c, Exact (t.value c) → Beats r x (realOf v) (realOf (t.value c)) even := by
  cases r <;> exact Iff.rfl

theorem Beats.scale {r : Rnd} {x y w u : ℝ} {even : Prop} (hu : 0 < u) (h : Beats r x y w even) :
    Beats r (x * u) (y * u) (w * u) even := by
  cases r <;> simpa only [Beats, ← sub_mul, abs_mul, abs_of_pos hu, mul_le_mul_iff_left₀ hu, mul_left_inj' hu.ne', ne_eq]
    using h

/-- The integer that a mode selects beats every number that is not strictly between the integers beside `x`. -/
theorem beats_of_intRounded {r : Rnd} {x w : ℝ} {n : ℤ} (h : IntRounded r x n) (hw : Outside x w)
    (hw' : Outside x (-w)) : Beats r x n w (n % 2 = 0) := by
  cases r with
  | rne =>
    obtain ⟨hn, heven⟩ := h
    rcases nearest_of_outside hn hw with h | h | ⟨h, h'⟩
    · exact ⟨h.le, fun h' => absurd h' h.ne⟩
    · exact ⟨by rw [h], fun _ hne => absurd h hne⟩
    · exact ⟨(h.trans h'.symm).le, fun _ _ => heven h⟩
  | rna =>
    obtain ⟨hn, haway⟩ := h
    rcases nearest_of_outside hn hw with h | h | ⟨h, h'⟩
    · exact ⟨h.le, fun h' => absurd h' h.ne⟩
    · exact ⟨by rw [h], fun _ => by rw [h]⟩
    · exact ⟨(h.trans h'.symm).le, fun _ => rna_of_tie h h' (haway h)⟩
  | rtz => exact ⟨h.1, rtz_of_outside h.2.1 hw hw'⟩
  | rup => exact ⟨h.1, rup_of_outside h.2 hw⟩
  | rdn => exact ⟨h.1, rdn_of_outside h.2 hw⟩

end Sys2Proof.Machine

/-! PROOFS. Encodings put together from a sign, an exponent and a significand (R169). -/

namespace Sys2Proof.Machine

open Sys2Proof Sys2Proof.Spec

/-! ## A sign and a magnitude -/

theorem Fmt.sign_eq {t : Fmt} (hs : t.signed = true) (neg : Bool) (code : ℕ) :
    t.sign neg code = code + 2 ^ t.man * (2 ^ t.exp * if neg then 1 else 0) := by
  cases neg <;> simp [Fmt.sign, hs, Fmt.mag, pow_add, add_comm, mul_comm]

theorem Fmt.fraction_sign {t : Fmt} (hs : t.signed = true) (neg : Bool) (code : ℕ) :
    bits (t.sign neg code) 0 t.man = code % 2 ^ t.man := by
  rw [bits, pow_zero, Nat.div_one, Fmt.sign_eq hs, Nat.add_mul_mod_self_left]

theorem Fmt.exponent_sign {t : Fmt} (hs : t.signed = true) (neg : Bool) {code : ℕ} (h : code < 2 ^ t.mag) :
    bits (t.sign neg code) t.man t.exp = code / 2 ^ t.man := by
  have hlt : code / 2 ^ t.man < 2 ^ t.exp := Nat.div_lt_of_lt_mul (by rwa [← pow_add, add_comm])
  rw [bits, Fmt.sign_eq hs, Nat.add_mul_div_left _ _ (by positivity), Nat.add_mul_mod_self_left, Nat.mod_eq_of_lt hlt]

theorem Fmt.bit_sign {t : Fmt} (hs : t.signed = true) (neg : Bool) {code : ℕ} (h : code < 2 ^ t.mag) :
    bit (t.sign neg code) t.mag = neg := by
  cases neg <;> simp [bit, Fmt.sign, hs, Nat.div_eq_of_lt h, Nat.add_div_left]

/-- The sign bit of an encoding gives the sign of its value and nothing else. -/
def Val.withSign (neg : Bool) : Val → Val
  | .nan q => .nan q
  | .inf _ => .inf neg
  | .fin _ m e more => .fin neg m e more

theorem Fmt.value_sign {t : Fmt} (hs : t.signed = true) (neg : Bool) {code : ℕ} (h : code < 2 ^ t.mag) :
    t.value (t.sign neg code) = (t.value code).withSign neg := by
  have h0 : t.sign false code = code := by simp [Fmt.sign]
  have he := Fmt.exponent_sign hs neg h
  have hm := Fmt.fraction_sign hs neg code
  have he0 := Fmt.exponent_sign hs false h
  have hm0 := Fmt.fraction_sign hs false code
  rw [h0] at he0 hm0
  simp only [Fmt.value, he, hm, he0, hm0, hs, Bool.true_and, Fmt.bit_sign hs neg h]
  split_ifs <;> rfl

/-! ## Vector formats -/

theorem mem_vectorFmts {t : Fmt} : t ∈ vectorFmts ↔ t = .f64 ∨ t = .f32 ∨ t = .f16 ∨ t = .bf16 := by simp [vectorFmts]

section

variable {t : Fmt} (ht : t ∈ vectorFmts)

include ht

theorem signed_of_vector : t.signed = true := by
  rcases mem_vectorFmts.1 ht with rfl | rfl | rfl | rfl <;> rfl

theorem ieee_of_vector : t.ieee = true := by
  rcases mem_vectorFmts.1 ht with rfl | rfl | rfl | rfl <;> rfl

theorem ne_f4_of_vector : t ≠ .f4 := by
  rintro rfl
  simp [vectorFmts] at ht

theorem top_of_vector : t.top + 1 = (2 ^ t.exp - 1) * 2 ^ t.man := by
  rcases mem_vectorFmts.1 ht with rfl | rfl | rfl | rfl <;> rfl

theorem top_lt_of_vector : t.top < 2 ^ t.mag := by
  have htop := top_of_vector ht
  have : (2 ^ t.exp - 1) * 2 ^ t.man ≤ 2 ^ t.exp * 2 ^ t.man := Nat.mul_le_mul_right _ (Nat.sub_le _ _)
  rw [Fmt.mag, pow_add]
  omega

theorem three_le_of_vector : 3 ≤ 2 ^ t.exp := by
  rcases mem_vectorFmts.1 ht with rfl | rfl | rfl | rfl <;> decide

theorem man_pos_of_vector : 0 < t.man := by
  rcases mem_vectorFmts.1 ht with rfl | rfl | rfl | rfl <;> decide

end

/-! ## An exponent and a significand -/

/-- The magnitude's encoding of `n` × 2^`q`, where `n` has all of its bits or `q` is the exponent of the subnormals. -/
def Fmt.code (t : Fmt) (n : ℕ) (q : ℤ) : ℕ := (q - t.low).toNat * 2 ^ t.man + n

/-- A significand as it is after rounding, which may have carried into one more bit. -/
structure Fmt.Rounded (t : Fmt) (n : ℕ) (q : ℤ) : Prop where
  low : t.low ≤ q
  le : n ≤ 2 ^ (t.man + 1)
  normal : 2 ^ t.man ≤ n ∨ q = t.low

theorem Fmt.code_carry {t : Fmt} {q : ℤ} (h : t.low ≤ q) :
    t.code (2 ^ t.man) (q + 1) = t.code (2 ^ (t.man + 1)) q := by
  have : (q + 1 - t.low).toNat = (q - t.low).toNat + 1 := by omega
  rw [Fmt.code, Fmt.code, this]
  ring

/-- A carry changes neither the encoding nor the number. -/
theorem Fmt.Rounded.onGrid {t : Fmt} {n : ℕ} {q : ℤ} (h : t.Rounded n q) :
    ∃ n' q', t.OnGrid n' q' ∧ t.code n' q' = t.code n q ∧ (n' : ℝ) * 2 ^ q' = n * 2 ^ q := by
  rcases h.le.lt_or_eq with hlt | rfl
  · exact ⟨n, q, ⟨h.low, hlt, h.normal⟩, rfl, rfl⟩
  · refine ⟨2 ^ t.man, q + 1, ⟨by linarith [h.low], by simp [pow_succ], .inl le_rfl⟩, Fmt.code_carry h.low, ?_⟩
    rw [zpow_add_one₀ two_ne_zero]
    push_cast
    ring

/-- The fields of an encoding put together. -/
theorem Fmt.OnGrid.fields {t : Fmt} {n : ℕ} {q : ℤ} (h : t.OnGrid n q) :
    (t.code n q / 2 ^ t.man = 0 ∧ t.code n q % 2 ^ t.man = n ∧ q = t.low) ∨
    (t.code n q / 2 ^ t.man = (q - t.low).toNat + 1 ∧ t.code n q % 2 ^ t.man + 2 ^ t.man = n) := by
  obtain ⟨hlow, hlt, hnormal⟩ := h
  rw [pow_succ] at hlt
  have hpos : 0 < 2 ^ t.man := by positivity
  rcases lt_or_ge n (2 ^ t.man) with hn | hn
  · obtain rfl : q = t.low := hnormal.resolve_left (not_le.2 hn)
    exact .inl (by simp [Fmt.code, Nat.div_eq_of_lt hn, Nat.mod_eq_of_lt hn])
  · obtain ⟨m, rfl⟩ := Nat.exists_eq_add_of_le hn
    have hm : m < 2 ^ t.man := by omega
    have hcode : t.code (2 ^ t.man + m) q = m + 2 ^ t.man * ((q - t.low).toNat + 1) := by
      rw [Fmt.code]
      ring
    refine .inr ⟨?_, ?_⟩
    · rw [hcode, Nat.add_mul_div_left _ _ hpos, Nat.div_eq_of_lt hm, zero_add]
    · rw [hcode, Nat.add_mul_mod_self_left, Nat.mod_eq_of_lt hm, add_comm]

/-- Exponent of the largest finite values. -/
def Fmt.topExp (t : Fmt) : ℤ := t.low + (2 ^ t.exp : ℕ) - 3

theorem topSpacing_eq (t : Fmt) : topSpacing t = 2 ^ t.topExp := by
  rw [topSpacing, Fmt.topExp, Fmt.low]
  congr 1
  ring

section

variable {t : Fmt} (ht : t ∈ vectorFmts)

include ht

theorem div_lt_of_le_top {code : ℕ} (h : code ≤ t.top) : code / 2 ^ t.man < 2 ^ t.exp - 1 := by
  have := top_of_vector ht
  exact Nat.div_lt_of_lt_mul (by rw [mul_comm]; omega)

/-- The value of an encoding put together. -/
theorem value_code {n : ℕ} {q : ℤ} (h : t.OnGrid n q) (htop : t.code n q ≤ t.top) (neg : Bool) :
    t.value (t.sign neg (t.code n q)) = .fin neg n q false := by
  have hs := signed_of_vector ht
  have hmag := htop.trans_lt (top_lt_of_vector ht)
  have he := Fmt.exponent_sign hs neg hmag
  have hm := Fmt.fraction_sign hs neg (t.code n q)
  have hspecial : ¬t.Special (t.sign neg (t.code n q)) := fun hspecial => by
    have := hspecial.1
    rw [he] at this
    exact (div_lt_of_le_top ht htop).ne this
  rw [Fmt.value_of_not_special hspecial, he, hm, hs, Fmt.bit_sign hs neg hmag, Bool.true_and]
  have hlow := h.low
  rcases h.fields with ⟨h0, h1, h2⟩ | ⟨h0, h1⟩
  · rw [if_pos h0, h1, h2]
  · rw [if_neg (by omega), h1, h0]
    congr 1
    omega

theorem value_infinity (neg : Bool) : t.value (t.infinity neg) = .inf neg := by
  have hs := signed_of_vector ht
  have hlt : (2 ^ t.exp - 1) * 2 ^ t.man < 2 ^ t.mag := by
    rw [Fmt.mag, pow_add]
    exact Nat.mul_lt_mul_of_pos_right (Nat.sub_lt (by positivity) one_pos) (by positivity)
  have he := Fmt.exponent_sign hs neg hlt
  have hm := Fmt.fraction_sign hs neg ((2 ^ t.exp - 1) * 2 ^ t.man)
  rw [Nat.mul_div_cancel _ (by positivity)] at he
  rw [Nat.mul_mod_left] at hm
  rw [Fmt.infinity, Fmt.value_ieee (ieee_of_vector ht) he, if_pos hm, hs, Fmt.bit_sign hs neg hlt, Bool.true_and]

theorem code_top : t.OnGrid (2 ^ (t.man + 1) - 1) t.topExp ∧ t.code (2 ^ (t.man + 1) - 1) t.topExp = t.top := by
  have h3 := three_le_of_vector ht
  have hpos : 0 < 2 ^ t.man := by positivity
  obtain ⟨k, hk⟩ := Nat.exists_eq_add_of_le' h3
  have htop := top_of_vector ht
  have hexp : (t.topExp - t.low).toNat = k := by rw [Fmt.topExp]; omega
  refine ⟨⟨by rw [Fmt.topExp]; omega, by omega, .inl (by rw [pow_succ]; omega)⟩, ?_⟩
  rw [hk, show k + 3 - 1 = k + 2 by omega, add_mul] at htop
  rw [Fmt.code, hexp, pow_succ]
  omega

theorem realOf_top : realOf (t.value t.top) = ((2 : ℝ) ^ (t.man + 1) - 1) * 2 ^ t.topExp := by
  obtain ⟨hgrid, hcode⟩ := code_top ht
  have := value_code ht hgrid hcode.le false
  rw [hcode, show t.sign false t.top = t.top by simp [Fmt.sign]] at this
  rw [this, realOf_fin, Nat.cast_sub (Nat.one_le_two_pow), signOf_false]
  push_cast
  ring

theorem sign_top (neg : Bool) : t.sign neg t.top = t.top + if neg then 2 ^ t.mag else 0 := by
  cases neg <;> simp [Fmt.sign, signed_of_vector ht, add_comm]

theorem sign_code_mod_two (neg : Bool) (n : ℕ) (q : ℤ) : t.sign neg (t.code n q) % 2 = n % 2 := by
  have hman : 2 ^ t.man % 2 = 0 := Nat.mod_eq_zero_of_dvd (dvd_pow_self 2 (man_pos_of_vector ht).ne')
  cases neg <;> simp [Fmt.sign_eq (signed_of_vector ht), Fmt.code, Nat.add_mod, Nat.mul_mod, hman]

end

end Sys2Proof.Machine

/-! PROOFS. Rounding into a format, and the flags of a rounding (R171, R175). -/

namespace Sys2Proof.Machine

open Sys2Proof Sys2Proof.Spec

/-! ## The two stages of a rounding -/

/-- Exponent of the last place that a format keeps of a magnitude. -/
def Fmt.lastPlace (t : Fmt) (m : ℕ) (e : ℤ) : ℤ := max (e + (m.log2 : ℤ) - t.man) t.low

/-- The magnitude in units of its last place, and whether it was rounded. -/
def Fmt.kept (t : Fmt) (r : Rnd) (neg : Bool) (m : ℕ) (e : ℤ) (more : Bool) : ℕ × Bool :=
  if t.lastPlace m e ≤ e then (m * 2 ^ (e - t.lastPlace m e).toNat, more)
  else roundShift r neg m (t.lastPlace m e - e).toNat more

/-- The encoding of a rounded magnitude, with its flags. -/
def Fmt.place (t : Fmt) (r : Rnd) (sat ftz neg : Bool) (n : ℕ) (inexact : Bool) (q : ℤ) : ℕ × FpFlags :=
  if t.top < t.code n q then t.overflow r sat neg
  else if 0 < t.code n q ∧ t.code n q < 2 ^ t.man then
    if ftz && t != .f4 then (t.sign neg 0, FpFlags.uf ||| FpFlags.nx)
    else (t.sign neg (t.code n q), if inexact then FpFlags.uf ||| FpFlags.nx else 0)
  else (t.sign neg (t.code n q), if inexact then FpFlags.nx else 0)

theorem Fmt.two_pow_man_le_top (t : Fmt) : 2 ^ t.man ≤ t.top := by cases t <;> decide

section

variable {t : Fmt} {r : Rnd} {sat ftz neg inexact : Bool} {n : ℕ} {q : ℤ}

theorem Fmt.place_of_ge (h : 2 ^ t.man ≤ t.code n q) : t.place r sat ftz neg n inexact q =
    if t.top < t.code n q then t.overflow r sat neg else (t.sign neg (t.code n q), if inexact then FpFlags.nx else 0) := by
  rw [Fmt.place, if_neg (not_lt.2 h ∘ And.right)]

theorem Fmt.place_of_lt (h : t.code n q < 2 ^ t.man) : t.place r sat ftz neg n inexact q =
    if t.code n q = 0 then (t.sign neg 0, if inexact then FpFlags.nx else 0)
    else if ftz && t != .f4 then (t.sign neg 0, FpFlags.uf ||| FpFlags.nx)
    else (t.sign neg (t.code n q), if inexact then FpFlags.uf ||| FpFlags.nx else 0) := by
  rw [Fmt.place, if_neg (not_lt.2 (h.le.trans t.two_pow_man_le_top))]
  rcases Nat.eq_zero_or_pos (t.code n q) with h0 | h0
  · simp [h0]
  · rw [if_pos ⟨h0, h⟩, if_neg h0.ne']

end

/-- A finite value that is not 0 is rounded in two stages. -/
theorem Fmt.round_fin {t : Fmt} {r : Rnd} {sat ftz neg : Bool} {m : ℕ} {e : ℤ} {more : Bool}
    (hs : t.signed = true ∨ neg = false) (hm : m ≠ 0)
    (h : t.Rounded (t.kept r neg m e more).1 (t.lastPlace m e)) : t.round r sat ftz (.fin neg m e more) =
      t.place r sat ftz neg (t.kept r neg m e more).1 (t.kept r neg m e more).2 (t.lastPlace m e) := by
  have hsign : (!t.signed && neg) = false := by rcases hs with h | h <;> simp [h]
  have hmore : (m == 0 && !more) = false := by simp [hm]
  obtain ⟨n, inexact, hk⟩ : ∃ n inexact, t.kept r neg m e more = (n, inexact) := ⟨_, _, rfl⟩
  have hk' := hk
  rw [Fmt.kept, Fmt.lastPlace] at hk'
  simp only [Fmt.round, hsign, hmore, Bool.false_eq_true, if_false, hk', hk, Fmt.lastPlace] at h ⊢
  obtain ⟨q, hq⟩ : ∃ q, q = max (e + (m.log2 : ℤ) - t.man) t.low := ⟨_, rfl⟩
  rw [← hq] at h ⊢
  by_cases hcarry : n = 2 ^ (t.man + 1)
  · have hcode : t.code n q = (q + 1 - t.low).toNat * 2 ^ t.man + 2 ^ t.man := by rw [hcarry, ← Fmt.code_carry h.low, Fmt.code]
    rw [Fmt.place_of_ge (by rw [hcode]; exact Nat.le_add_left _ _), hcode]
    simp [hcarry]
  · have hcode : t.code n q = (q - t.low).toNat * 2 ^ t.man + n := rfl
    simp only [beq_eq_false_iff_ne.2 hcarry, Bool.false_eq_true, if_false]
    rcases lt_or_ge n (2 ^ t.man) with hn | hn
    · have hcode : t.code n q = n := by
        rw [hcode, h.normal.resolve_left (not_le.2 hn)]
        simp
      rw [if_pos hn, Fmt.place_of_lt (by rwa [hcode]), hcode]
      cases inexact <;> simp
    · rw [if_neg (not_lt.2 hn), Fmt.place_of_ge (hn.trans (Nat.le_add_left _ _)), hcode]

/-! ## The magnitude that is kept -/

section

variable {t : Fmt} {r : Rnd} {neg more : Bool} {m : ℕ} {e : ℤ} {d : ℝ}

theorem Fmt.low_le_lastPlace (t : Fmt) (m : ℕ) (e : ℤ) : t.low ≤ t.lastPlace m e := le_max_right _ _

/-- In units of its last place a magnitude has no more bits than the format. -/
theorem lastPlace_lt (hd : d < 1) : (m + d) * (2 : ℝ) ^ (e - t.lastPlace m e) < 2 ^ (t.man + 1) := by
  have hm : (m : ℝ) + d < 2 ^ (m.log2 + 1) := by
    have : (m : ℝ) + 1 ≤ 2 ^ (m.log2 + 1) := by exact_mod_cast (Nat.lt_log2_self (n := m))
    linarith
  have hq : e + m.log2 - t.man ≤ t.lastPlace m e := le_max_left _ _
  calc (m + d) * (2 : ℝ) ^ (e - t.lastPlace m e)
    _ < 2 ^ (m.log2 + 1) * 2 ^ (e - t.lastPlace m e) := mul_lt_mul_of_pos_right hm (two_zpow_pos _)
    _ = 2 ^ ((m.log2 + 1 : ℕ) + (e - t.lastPlace m e)) := by rw [zpow_add₀ two_ne_zero, zpow_natCast]
    _ ≤ 2 ^ ((t.man + 1 : ℕ) : ℤ) := zpow_le_zpow_right₀ one_le_two (by push_cast; linarith)
    _ = 2 ^ (t.man + 1) := zpow_natCast _ _

/-- It has all of them, or its last place is that of the subnormals. -/
theorem le_of_lastPlace_ne (hd : 0 ≤ d) (hm : m ≠ 0) (hq : t.lastPlace m e ≠ t.low) :
    2 ^ t.man ≤ (m + d) * (2 : ℝ) ^ (e - t.lastPlace m e) := by
  have hq : t.lastPlace m e = e + m.log2 - t.man := (max_choice _ _).resolve_right hq
  have hm : (2 : ℝ) ^ m.log2 ≤ m + d := le_add_of_le_of_nonneg (by exact_mod_cast Nat.log2_self_le hm) hd
  calc (2 : ℝ) ^ t.man
    _ = 2 ^ m.log2 * 2 ^ (e - t.lastPlace m e) := by
      rw [← zpow_natCast, ← zpow_natCast, ← zpow_add₀ two_ne_zero, hq]
      congr 1
      ring
    _ ≤ (m + d) * 2 ^ (e - t.lastPlace m e) := mul_le_mul_of_nonneg_right hm (two_zpow_pos _).le

/-- What is kept is the integer that the mode selects, and it is marked inexact when it differs. -/
theorem kept_spec (hd : IsTail more d) (hmore : more = true → 2 ^ (t.man + 1) ≤ m) :
    IntRounded r (signOf neg * ((m + d) * 2 ^ (e - t.lastPlace m e))) (signedInt neg (t.kept r neg m e more).1) ∧
      ((t.kept r neg m e more).2 = true ↔ ((t.kept r neg m e more).1 : ℝ) ≠ (m + d) * 2 ^ (e - t.lastPlace m e)) := by
  have hlt : more = true → e < t.lastPlace m e := fun h => by
    have hm := hmore h
    have hlog : t.man + 1 ≤ m.log2 := (Nat.le_log2 ((Nat.two_pow_pos _).trans_le hm).ne').2 hm
    exact lt_max_of_lt_left (by omega)
  rw [Fmt.kept]
  split
  next hq =>
    obtain rfl : more = false := Bool.not_eq_true _ ▸ fun h => (hlt h).not_ge hq
    have hpow : (2 : ℝ) ^ (e - t.lastPlace m e) = 2 ^ (e - t.lastPlace m e).toNat := by
      rw [← zpow_natCast, Int.toNat_of_nonneg (by omega)]
    rw [hd.eq_zero, add_zero, hpow]
    have := intRounded_self r (signedInt neg (m * 2 ^ (e - t.lastPlace m e).toNat))
    rw [cast_signedInt] at this
    push_cast at this ⊢
    exact ⟨this, by simp⟩
  next hq =>
    have hpow : (2 : ℝ) ^ (e - t.lastPlace m e) = (2 ^ (t.lastPlace m e - e).toNat)⁻¹ := by
      rw [← zpow_natCast, ← zpow_neg, Int.toNat_of_nonneg (by omega), neg_sub]
    rw [hpow, ← div_eq_mul_inv]
    exact roundShift_spec hd fun h => by have := hlt h; omega

theorem kept_rounded (hd : IsTail more d) (hm : m ≠ 0) (hmore : more = true → 2 ^ (t.man + 1) ≤ m) :
    t.Rounded (t.kept r neg m e more).1 (t.lastPlace m e) := by
  have hdist := intRounded_abs_sub_lt (kept_spec (r := r) (neg := neg) (e := e) hd hmore).1
  obtain ⟨hd0, hd1, -⟩ := hd
  rw [cast_signedInt, signOf_mul_sub, abs_lt] at hdist
  refine ⟨t.low_le_lastPlace m e, ?_, ?_⟩
  · have := lastPlace_lt (t := t) (m := m) (e := e) hd1
    have : ((t.kept r neg m e more).1 : ℝ) < 2 ^ (t.man + 1) + 1 := by linarith
    exact Nat.lt_add_one_iff.1 (by exact_mod_cast this)
  · refine (eq_or_ne (t.lastPlace m e) t.low).symm.imp_left fun hq => ?_
    have := le_of_lastPlace_ne hd0 hm hq
    have : (2 ^ t.man : ℝ) < (t.kept r neg m e more).1 + 1 := by linarith
    exact Nat.lt_add_one_iff.1 (by exact_mod_cast this)

end

/-! ## The rounding of a value -/

/-- A number that the format has is not strictly between the neighbours of `x` in units of `x`'s last place. -/
theorem outside_of_onGrid {t : Fmt} {x : ℝ} {q : ℤ} (hq : 2 ^ t.man ≤ |x| ∨ q = t.low) {n : ℕ} {e : ℤ}
    (h : t.OnGrid n e) (neg : Bool) : Outside x (signOf neg * (n * 2 ^ e) / 2 ^ q) := by
  have hw : signOf neg * (n * (2 : ℝ) ^ e) / 2 ^ q = signOf neg * (n * 2 ^ (e - q)) := by
    rw [zpow_sub₀ two_ne_zero]
    ring
  rw [hw]
  rcases le_or_gt q e with hle | hlt
  · have : signOf neg * (n * (2 : ℝ) ^ (e - q)) = (signedInt neg (n * 2 ^ (e - q).toNat) : ℤ) := by
      obtain ⟨k, hk⟩ := Int.eq_ofNat_of_zero_le (show 0 ≤ e - q by omega)
      rw [cast_signedInt, hk, Int.toNat_natCast, zpow_natCast]
      push_cast
      rfl
    exact this ▸ outside_int x _
  · have hqlow : q ≠ t.low := (h.low.trans_lt hlt).ne'
    refine outside_of_abs_lt (b := 2 ^ t.man) ?_ (by exact_mod_cast hq.resolve_right hqlow)
    rw [abs_signOf_mul (by positivity)]
    have hn : (n : ℝ) < 2 ^ (t.man + 1) := by exact_mod_cast h.lt
    calc (n : ℝ) * 2 ^ (e - q)
      _ ≤ n * 2 ^ (-1 : ℤ) := mul_le_mul_of_nonneg_left (zpow_le_zpow_right₀ one_le_two (by omega)) n.cast_nonneg
      _ < 2 ^ (t.man + 1) * 2 ^ (-1 : ℤ) := mul_lt_mul_of_pos_right hn (two_zpow_pos _)
      _ = ((2 ^ t.man : ℕ) : ℝ) := by
        rw [pow_succ, zpow_neg_one, mul_inv_cancel_right₀ two_ne_zero]
        push_cast
        rfl

/-! ## Encodings and magnitudes -/

theorem Fmt.OnGrid.code_eq_zero_iff {t : Fmt} {n : ℕ} {q : ℤ} (h : t.OnGrid n q) : t.code n q = 0 ↔ n = 0 := by
  refine ⟨fun h0 => Nat.eq_zero_of_add_eq_zero_left h0, fun h0 => ?_⟩
  have hq : q = t.low := h.normal.resolve_left (by simp [h0])
  simp [Fmt.code, h0, hq]

/-- The encodings below the first normal one are those of the numbers below the least normal number. -/
theorem Fmt.OnGrid.code_lt_iff {t : Fmt} {n : ℕ} {q : ℤ} (h : t.OnGrid n q) :
    t.code n q < 2 ^ t.man ↔ (n : ℝ) * 2 ^ q < 2 ^ (1 - (t.bias : ℤ)) := by
  have hpow : (2 : ℝ) ^ (1 - (t.bias : ℤ)) = 2 ^ t.man * 2 ^ t.low := by
    rw [← zpow_natCast, ← zpow_add₀ two_ne_zero, Fmt.low]
    congr 1
    ring
  rw [hpow]
  rcases h.normal with hn | rfl
  · refine iff_of_false (fun hlt => absurd (hn.trans (Nat.le_add_left n _)) (not_le.2 hlt)) (not_lt.2 ?_)
    exact mul_le_mul (by exact_mod_cast hn) (zpow_le_zpow_right₀ one_le_two h.low) (two_zpow_pos _).le n.cast_nonneg
  · rw [mul_lt_mul_iff_left₀ (two_zpow_pos _)]
    simp only [Fmt.code, sub_self, Int.toNat_zero, zero_mul, zero_add]
    norm_cast

/-! ## Overflow -/

section

variable {t : Fmt} (ht : t ∈ vectorFmts) {n : ℕ} {q : ℤ} {x : ℝ}

include ht

theorem overflow_exponent (h : t.Rounded n q) (htop : t.top < t.code n q) :
    t.topExp < q ∨ q = t.topExp ∧ n = 2 ^ (t.man + 1) := by
  obtain ⟨hgrid, hcode⟩ := code_top ht
  obtain ⟨hlow, hle, -⟩ := h
  rw [← hcode] at htop
  by_contra hcon
  rw [not_or, not_lt] at hcon
  obtain ⟨hq, hn⟩ := hcon
  have hpos : 0 < 2 ^ (t.man + 1) := by positivity
  rcases hq.lt_or_eq with hq | rfl
  · have : t.code n q ≤ t.code (2 ^ (t.man + 1) - 1) t.topExp := by
      obtain ⟨k, hk⟩ : ∃ k, (t.topExp - t.low).toNat = (q - t.low).toNat + 1 + k :=
        ⟨(t.topExp - q - 1).toNat, by omega⟩
      rw [Fmt.code, Fmt.code, hk, add_mul, add_mul]
      rw [pow_succ] at hle hpos ⊢
      omega
    omega
  · simp only [Fmt.code] at htop
    exact hn ⟨rfl, by omega⟩

/-- What overflows lies beyond the largest finite value, and in a nearest mode by half of its spacing or more. -/
theorem overflow_large (h : t.Rounded n q) (hdist : |x - n| < 1) (hx : 2 ^ t.man ≤ x ∨ q = t.low)
    (htop : t.top < t.code n q) :
    realOf (t.value t.top) < x * 2 ^ q ∧
      (|x - n| ≤ 1 / 2 → realOf (t.value t.top) + topSpacing t / 2 ≤ x * 2 ^ q) := by
  have hu : (0 : ℝ) < 2 ^ t.topExp := two_zpow_pos _
  rw [realOf_top ht, topSpacing_eq, show ((2 : ℝ) ^ (t.man + 1) - 1) * 2 ^ t.topExp + 2 ^ t.topExp / 2 =
    (2 ^ (t.man + 1) - 1 / 2) * 2 ^ t.topExp by ring]
  rcases overflow_exponent ht h htop with hq | ⟨rfl, rfl⟩
  · have hne : q ≠ t.low := ((code_top ht).1.low.trans_lt hq).ne'
    have hge : (2 : ℝ) ^ (t.man + 1) * 2 ^ t.topExp ≤ x * 2 ^ q := by
      rw [pow_succ, mul_assoc, ← zpow_one_add₀ two_ne_zero]
      exact mul_le_mul (hx.resolve_right hne) (zpow_le_zpow_right₀ one_le_two (by omega)) (two_zpow_pos _).le
        ((by positivity : (0 : ℝ) ≤ 2 ^ t.man).trans (hx.resolve_right hne))
    have hle (c : ℝ) (hc : 0 < c) : (2 ^ (t.man + 1) - c) * 2 ^ t.topExp < 2 ^ (t.man + 1) * 2 ^ t.topExp :=
      mul_lt_mul_of_pos_right (by linarith) hu
    exact ⟨(hle 1 one_pos).trans_le hge, fun _ => ((hle _ (by norm_num)).trans_le hge).le⟩
  · push_cast at hdist ⊢
    refine ⟨mul_lt_mul_of_pos_right (by linarith [(abs_lt.1 hdist).1]) hu, fun hnear => ?_⟩
    exact mul_le_mul_of_nonneg_right (by linarith [(abs_le.1 hnear).1]) hu.le

theorem overflow_of_vector (r : Rnd) (sat neg : Bool) :
    t.overflow r sat neg = (if r.toInf neg then t.infinity neg else t.sign neg t.top, FpFlags.of ||| FpFlags.nx) := by
  rcases mem_vectorFmts.1 ht with rfl | rfl | rfl | rfl <;> rfl

theorem value_overflow (r : Rnd) (sat neg : Bool) :
    t.value (t.overflow r sat neg).1 =
      if r.toInf neg then .inf neg else t.value (t.top + if neg then 2 ^ t.mag else 0) := by
  rw [overflow_of_vector ht, ← sign_top ht]
  cases r.toInf neg
  · rfl
  · exact value_infinity ht neg

end

/-! ## Flags -/

/-- The flags of a rounding that does not overflow (R175). -/
def roundFlags (inexact tiny : Bool) : FpFlags :=
  if inexact then (if tiny then FpFlags.uf ||| FpFlags.nx else FpFlags.nx) else 0

theorem roundFlags_of (inexact tiny : Bool) : roundFlags inexact tiny &&& FpFlags.of = 0 := by
  cases inexact <;> cases tiny <;> rfl

theorem roundFlags_nv_dz (inexact tiny : Bool) : roundFlags inexact tiny &&& (FpFlags.nv ||| FpFlags.dz) = 0 := by
  cases inexact <;> cases tiny <;> rfl

theorem roundFlags_nx (inexact tiny : Bool) : roundFlags inexact tiny &&& FpFlags.nx ≠ 0 ↔ inexact = true := by
  cases inexact <;> cases tiny <;> decide

theorem roundFlags_uf (inexact tiny : Bool) :
    roundFlags inexact tiny &&& FpFlags.uf ≠ 0 ↔ inexact = true ∧ tiny = true := by
  cases inexact <;> cases tiny <;> decide

theorem Fmt.place_of_le {t : Fmt} (r : Rnd) (sat neg : Bool) {n : ℕ} (inexact : Bool) {q : ℤ} (htop : t.code n q ≤ t.top) :
    t.place r sat false neg n inexact q =
      (t.sign neg (t.code n q), roundFlags inexact (decide (0 < t.code n q ∧ t.code n q < 2 ^ t.man))) := by
  rw [Fmt.place, if_neg (not_lt.2 htop), roundFlags]
  by_cases h : 0 < t.code n q ∧ t.code n q < 2 ^ t.man <;> simp [h]

/-! ## The statement -/

theorem nearest_of_intRounded {r : Rnd} {x : ℝ} {n : ℤ} (h : IntRounded r x n) (hr : r = .rne ∨ r = .rna) :
    |x - n| ≤ 1 / 2 := by
  rcases hr with rfl | rfl <;> exact h.1

section

variable {t : Fmt} (ht : t ∈ vectorFmts) {r : Rnd} {neg inexact : Bool} {n : ℕ} {q : ℤ} {x : ℝ}

include ht

theorem place_overflows (sat : Bool) (h : t.Rounded n q) (hint : IntRounded r (signOf neg * x) (signedInt neg n))
    (hx0 : 0 < x) (hx : 2 ^ t.man ≤ x ∨ q = t.low) (htop : t.top < t.code n q) :
    RoundsTo t r (signOf neg * (x * 2 ^ q)) (t.place r sat false neg n inexact q) := by
  have hxq : 0 < x * 2 ^ q := mul_pos hx0 (two_zpow_pos q)
  have hdist (h : |signOf neg * x - (signedInt neg n : ℤ)| ≤ 1 / 2) : |x - n| ≤ 1 / 2 := by
    rwa [cast_signedInt, signOf_mul_sub] at h
  have hlt := intRounded_abs_sub_lt hint
  rw [cast_signedInt, signOf_mul_sub] at hlt
  obtain ⟨hlarge, hhalf⟩ := overflow_large ht h hlt hx htop
  have hflags : (t.overflow r sat neg).2 = FpFlags.of ||| FpFlags.nx := by rw [overflow_of_vector ht]
  rw [Fmt.place, if_pos htop, RoundsTo, if_neg (by rw [hflags]; decide), abs_signOf_mul hxq.le]
  refine ⟨hflags, hlarge, fun hr => hhalf (hdist (nearest_of_intRounded hint hr)), ?_⟩
  have hneg : decide (signOf neg * (x * 2 ^ q) < 0) = neg := by simp [signOf_mul_neg_iff hxq]
  rw [value_overflow ht, hneg]
  cases r <;> cases neg <;> rfl

theorem place_selects (sat : Bool) (h : t.Rounded n q) (hint : IntRounded r (signOf neg * x) (signedInt neg n))
    (hinexact : inexact = true ↔ (n : ℝ) ≠ x)
    (hx0 : 0 < x) (hx : 2 ^ t.man ≤ x ∨ q = t.low) (htop : t.code n q ≤ t.top) :
    RoundsTo t r (signOf neg * (x * 2 ^ q)) (t.place r sat false neg n inexact q) := by
  have hxq : 0 < x * 2 ^ q := mul_pos hx0 (two_zpow_pos q)
  obtain ⟨n', q', hgrid, hcode, hreal⟩ := h.onGrid
  have hvalue : t.value (t.sign neg (t.code n q)) = .fin neg n' q' false := by
    rw [← hcode]
    exact value_code ht hgrid (hcode ▸ htop) neg
  have hy : realOf (t.value (t.sign neg (t.code n q))) = signOf neg * (n * 2 ^ q) := by rw [hvalue, realOf_fin, hreal]
  have hne : signOf neg * (n * 2 ^ q) ≠ signOf neg * (x * 2 ^ q) ↔ inexact = true := by
    rw [hinexact, Ne, mul_right_inj' (signOf_ne_zero neg), mul_left_inj' (two_zpow_pos q).ne']
  rw [Fmt.place_of_le r sat neg inexact htop, RoundsTo, if_pos (roundFlags_of _ _), hy, roundFlags_nx, roundFlags_uf, hne]
  refine ⟨⟨neg, n', q', hvalue⟩, ?_, selected_iff.2 fun c hc => ?_, roundFlags_nv_dz _ _, Iff.rfl, ?_⟩
  · rw [hvalue, signOf_mul_neg_iff hxq]
    rfl
  · obtain ⟨b, m, e, hm⟩ := hc
    obtain ⟨-, -, hgridc, -⟩ := Fmt.value_eq_fin hm
    have hx' : 2 ^ t.man ≤ |signOf neg * x| ∨ q = t.low := by rwa [abs_signOf_mul hx0.le]
    have hout := outside_of_onGrid hx' hgridc b
    have hout' := outside_of_onGrid hx' hgridc !b
    rw [signOf_not, neg_mul, neg_div] at hout'
    have hbeats := (beats_of_intRounded hint hout hout').scale (two_zpow_pos q)
    rw [div_mul_cancel₀ _ (two_zpow_pos q).ne', cast_signedInt, signedInt_emod_two, mul_assoc, mul_assoc] at hbeats
    rw [hy, hm, realOf_fin, sign_code_mod_two ht]
    exact hbeats
  · have hzero : signOf neg * (n * 2 ^ q) ≠ 0 ↔ 0 < t.code n q := by
      rw [← hreal, ← hcode, Nat.pos_iff_ne_zero, ne_eq, ne_eq, hgrid.code_eq_zero_iff]
      simp [signOf_ne_zero, (two_zpow_pos q').ne']
    rw [decide_eq_true_eq, hzero, abs_signOf_mul (by positivity), ← hreal, ← hgrid.code_lt_iff, hcode]

end

/-- The rounding of `±(m + d) × 2^e`, where `d` is the part that `more` tells of. -/
theorem round_roundsTo {t : Fmt} (ht : t ∈ vectorFmts) (r : Rnd) (sat neg : Bool) {m : ℕ} (e : ℤ) {more : Bool} {d : ℝ}
    (hd : IsTail more d) (hm : m ≠ 0) (hmore : more = true → 2 ^ (t.man + 1) ≤ m) :
    RoundsTo t r (signOf neg * ((m + d) * 2 ^ e)) (t.round r sat false (.fin neg m e more)) := by
  have hround := kept_rounded (r := r) (neg := neg) (e := e) hd hm hmore
  obtain ⟨hint, hinexact⟩ := kept_spec (r := r) (neg := neg) (e := e) hd hmore
  obtain ⟨hd0, hd1, -⟩ := hd
  have hm0 : (0 : ℝ) < m + d := add_pos_of_pos_of_nonneg (by exact_mod_cast Nat.pos_of_ne_zero hm) hd0
  have hx0 : 0 < (m + d) * (2 : ℝ) ^ (e - t.lastPlace m e) := mul_pos hm0 (two_zpow_pos _)
  have hx := or_iff_not_imp_right.2 (le_of_lastPlace_ne (t := t) (e := e) hd0 hm)
  have hunits : ((m : ℝ) + d) * 2 ^ e = (m + d) * 2 ^ (e - t.lastPlace m e) * 2 ^ t.lastPlace m e := by
    rw [mul_assoc, ← zpow_add₀ two_ne_zero, sub_add_cancel]
  rw [Fmt.round_fin (.inl (signed_of_vector ht)) hm hround, hunits]
  rcases lt_or_ge t.top (t.code (t.kept r neg m e more).1 (t.lastPlace m e)) with htop | htop
  · exact place_overflows ht sat hround hint hx0 hx htop
  · exact place_selects ht sat hround hint hinexact hx0 hx htop

/-- A zero is rounded to the zero of its sign, with no flag. -/
theorem round_zero {t : Fmt} (ht : t ∈ vectorFmts) (r : Rnd) (sat ftz neg : Bool) (e : ℤ) :
    t.round r sat ftz (.fin neg 0 e false) = (if neg then 2 ^ t.mag else 0, 0) := by
  cases neg <;> simp [Fmt.round, signed_of_vector ht, Fmt.sign]

/-- Settles O9: it holds. An exact value is kept to its last place, and what is kept is put together. -/
theorem roundingIsCorrect : Obligations.RoundingIsCorrect := by
  unfold Obligations.RoundingIsCorrect
  intro t ht r sat neg m e hm
  refine ⟨?_, round_zero ht r sat false neg e⟩
  have := round_roundsTo ht r sat neg e isTail_zero hm (by simp)
  rwa [add_zero, ← realOf_fin neg m e false] at this

end Sys2Proof.Machine

/-! PROOFS. Exact products, sums, quotients and square roots (R171, R178). -/

namespace Sys2Proof.Machine

open Sys2Proof Sys2Proof.Spec

/-! ## Finite values -/

theorem isNan_of_exact {v : Val} (h : Exact v) : v.isNan = false := by obtain ⟨neg, m, e, rfl⟩ := h; rfl

theorem isInf_of_exact {v : Val} (h : Exact v) : v.isInf = false := by obtain ⟨neg, m, e, rfl⟩ := h; rfl

theorem isSignalling_of_exact {v : Val} (h : Exact v) : v.isSignalling = false := by obtain ⟨neg, m, e, rfl⟩ := h; rfl

theorem isZero_iff_of_exact {v : Val} (h : Exact v) : v.isZero = true ↔ realOf v = 0 := by
  obtain ⟨neg, m, e, rfl⟩ := h
  rw [realOf_fin_eq_zero]
  simp [Val.isZero]

theorem negate_of_exact {v : Val} (h : Exact v) :
    Exact v.negate ∧ realOf v.negate = -realOf v ∧ v.negate.isNeg = !v.isNeg := by
  obtain ⟨neg, m, e, rfl⟩ := h
  exact ⟨exact_fin _ _ _, by rw [Val.negate, realOf_fin, realOf_fin, signOf_not, neg_mul], rfl⟩

/-- The sign of a finite value that is not 0 is that of its number. -/
theorem isNeg_iff_of_exact {v : Val} (h : Exact v) (h0 : realOf v ≠ 0) : v.isNeg = true ↔ realOf v < 0 := by
  obtain ⟨neg, m, e, rfl⟩ := h
  have hm : 0 < (m : ℝ) := by
    rw [Ne, realOf_fin_eq_zero] at h0
    exact_mod_cast Nat.pos_of_ne_zero h0
  rw [realOf_fin, signOf_mul_neg_iff (mul_pos hm (two_zpow_pos e))]
  rfl

theorem signals_of_exact {vs : List Val} (h : ∀ v ∈ vs, Exact v) : signals vs = 0 := by
  have : vs.any Val.isSignalling = false := by
    rw [List.any_eq_false]
    exact fun v hv => by simp [isSignalling_of_exact (h v hv)]
  rw [signals, this]
  rfl

/-! ## Products -/

theorem mul_of_exact {x y : Val} (hx : Exact x) (hy : Exact y) : ∃ v, x.mul y = (v, 0) ∧ Exact v ∧
    realOf v = realOf x * realOf y ∧ v.isNeg = (x.isNeg != y.isNeg) := by
  obtain ⟨a, m, e, rfl⟩ := hx
  obtain ⟨b, n, f, rfl⟩ := hy
  refine ⟨_, rfl, exact_fin _ _ _, ?_, rfl⟩
  simp only [realOf_fin, signOf_bne, zpow_add₀ (two_ne_zero (α := ℝ))]
  push_cast
  ring

/-! ## Sums -/

theorem leastExp_le {vs : List Val} {neg : Bool} {m : ℕ} {e : ℤ} {more : Bool} (h : .fin neg m e more ∈ vs) :
    (leastExp vs).getD 0 ≤ e := by
  suffices ∃ f, leastExp vs = some f ∧ f ≤ e by
    obtain ⟨f, hf, hle⟩ := this
    simpa [hf] using hle
  induction vs with
  | nil => cases h
  | cons v vs ih =>
    rcases List.mem_cons.1 h with rfl | h
    · cases hvs : leastExp vs with
      | none => exact ⟨e, by simp [leastExp, hvs], le_rfl⟩
      | some f => exact ⟨min e f, by simp [leastExp, hvs], min_le_left e f⟩
    · obtain ⟨f, hf, hle⟩ := ih h
      cases v with
      | nan q => exact ⟨f, hf, hle⟩
      | inf b => exact ⟨f, hf, hle⟩
      | fin b n g c => exact ⟨min g f, by simp [leastExp, hf], min_le_of_right_le hle⟩

theorem scaled_mul {v : Val} (h : Exact v) {f : ℤ} (hf : ∀ neg m e, v = .fin neg m e false → f ≤ e) :
    (v.scaled f : ℝ) * 2 ^ f = realOf v := by
  obtain ⟨neg, m, e, rfl⟩ := h
  have hpow : (2 : ℝ) ^ (e - f).toNat * 2 ^ f = 2 ^ e := by
    rw [← zpow_natCast, Int.toNat_of_nonneg (sub_nonneg.2 (hf _ _ _ rfl)), ← zpow_add₀ two_ne_zero, sub_add_cancel]
  have hscaled : Val.scaled f (.fin neg m e false) = signedInt neg (m * 2 ^ (e - f).toNat) := by
    cases neg <;> rfl
  rw [hscaled, cast_signedInt, realOf_fin, ← hpow]
  push_cast
  ring

theorem sumInts_eq (ns : List ℤ) : sumInts ns = ns.sum := by
  induction ns with
  | nil => rfl
  | cons n ns ih => rw [sumInts, ih, List.sum_cons]

/-- The terms in units of the least exponent add up to the sum of the numbers. -/
theorem sumInts_scaled {vs : List Val} (h : ∀ v ∈ vs, Exact v) {f : ℤ} (hf : f = (leastExp vs).getD 0) :
    (sumInts (vs.map (Val.scaled f)) : ℝ) * 2 ^ f = (vs.map realOf).sum := by
  have hle : ∀ v ∈ vs, (v.scaled f : ℝ) * 2 ^ f = realOf v := fun v hv =>
    scaled_mul (h v hv) fun _ _ _ hv' => hf ▸ leastExp_le (hv' ▸ hv)
  clear hf h
  rw [sumInts_eq]
  induction vs with
  | nil => simp
  | cons v vs ih =>
    rw [List.map_cons, List.sum_cons, List.map_cons, List.sum_cons, Int.cast_add, add_mul,
      hle v List.mem_cons_self, ih fun w hw => hle w (List.mem_cons_of_mem _ hw)]

theorem signedInt_natAbs (n : ℤ) : signedInt (decide (n < 0)) n.natAbs = n := by
  by_cases h : n < 0 <;> simp only [signedInt, h, decide_true, decide_false, if_true, Bool.false_eq_true, if_false] <;> omega

/-- The sign of an exact zero sum (R171, R178). -/
def zeroSign (r : Rnd) (vs : List Val) : Bool :=
  if vs.all Val.isZero && vs.all Val.isNeg then true
  else if vs.all Val.isZero && vs.all fun v => !v.isNeg then false else r == .rdn

theorem sumVals_of_exact {r : Rnd} {vs : List Val} (h : ∀ v ∈ vs, Exact v) : ∃ v, sumVals r vs = (v, 0) ∧ Exact v ∧
    realOf v = (vs.map realOf).sum ∧ ((vs.map realOf).sum = 0 → v = .zero (zeroSign r vs)) := by
  have hinf (b : Bool) : (vs.any fun v => v.isInf && (v.isNeg ^^ b)) = false := by
    rw [List.any_eq_false]
    exact fun v hv => by simp [isInf_of_exact (h v hv)]
  have hnan : vs.any Val.isNan = false := by
    rw [List.any_eq_false]
    exact fun v hv => by simp [isNan_of_exact (h v hv)]
  have hpos := hinf true
  have hneg := hinf false
  simp only [Bool.xor_true, Bool.xor_false] at hpos hneg
  obtain ⟨f, hf⟩ : ∃ f, f = (leastExp vs).getD 0 := ⟨_, rfl⟩
  have hsum := sumInts_scaled h hf
  obtain ⟨total, htotal⟩ : ∃ total, total = sumInts (vs.map (Val.scaled f)) := ⟨_, rfl⟩
  rw [← htotal] at hsum
  simp only [sumVals, hpos, hneg, hnan, Bool.and_self, Bool.false_eq_true, if_false, ← hf, ← htotal, beq_iff_eq]
  by_cases h0 : total = 0
  · rw [if_pos h0]
    rw [h0, Int.cast_zero, zero_mul] at hsum
    exact ⟨_, rfl, exact_fin _ _ _, by rw [← hsum, Val.zero, realOf_zero], fun _ => rfl⟩
  · rw [if_neg h0]
    refine ⟨_, rfl, exact_fin _ _ _, ?_, fun hzero => ?_⟩
    · rw [← hsum, realOf_fin, ← mul_assoc, ← cast_signedInt, signedInt_natAbs]
    · rw [hzero, mul_eq_zero, or_iff_left (two_zpow_pos f).ne'] at hsum
      exact absurd (by exact_mod_cast hsum) h0

/-! ## Quotients -/

theorem quotVal_tail (m k : ℕ) {n : ℕ} (hn : n ≠ 0) :
    IsTail (m * 2 ^ k % n != 0) ((m * 2 ^ k % n : ℕ) / n) ∧
      ((m * 2 ^ k / n : ℕ) : ℝ) + (m * 2 ^ k % n : ℕ) / n = m * 2 ^ k / n := by
  have hn0 : (0 : ℝ) < n := by exact_mod_cast Nat.pos_of_ne_zero hn
  have hlt : ((m * 2 ^ k % n : ℕ) : ℝ) < n := by exact_mod_cast Nat.mod_lt _ (Nat.pos_of_ne_zero hn)
  refine ⟨⟨by positivity, (div_lt_one hn0).2 hlt, ?_⟩, ?_⟩
  · rw [div_pos_iff_of_pos_right hn0, Nat.cast_pos, bne_iff_ne, Nat.pos_iff_ne_zero]
  · have := Nat.div_add_mod (m * 2 ^ k) n
    have : (n : ℝ) * (m * 2 ^ k / n : ℕ) + (m * 2 ^ k % n : ℕ) = m * 2 ^ k := by exact_mod_cast this
    rw [← this]
    field_simp

theorem le_quotient {m n : ℕ} (hm : m ≠ 0) (hn : n ≠ 0) : 2 ^ 59 ≤ m * 2 ^ (60 + n.log2) / n := by
  rw [Nat.le_div_iff_mul_le (Nat.pos_of_ne_zero hn)]
  calc 2 ^ 59 * n
    _ ≤ 2 ^ 59 * 2 ^ (n.log2 + 1) := Nat.mul_le_mul_left _ Nat.lt_log2_self.le
    _ = 1 * 2 ^ (60 + n.log2) := by ring
    _ ≤ m * 2 ^ (60 + n.log2) := Nat.mul_le_mul_right _ (Nat.pos_of_ne_zero hm)

/-! ## Square roots -/

theorem isqrtFrom_spec (n r x : ℕ) (hle : r * r ≤ x) (hlt : x < (r + 2 ^ n) * (r + 2 ^ n)) :
    isqrtFrom n r x * isqrtFrom n r x ≤ x ∧ x < (isqrtFrom n r x + 1) * (isqrtFrom n r x + 1) := by
  induction n generalizing r with
  | zero => exact ⟨hle, hlt⟩
  | succ n ih =>
    rw [isqrtFrom]
    split
    next h => exact ih _ h (by rwa [add_assoc, ← mul_two, ← pow_succ])
    next h => exact ih _ hle (not_le.1 h)

theorem isqrt_eq (x : ℕ) : isqrt x = Nat.sqrt x := by
  have hx : x < (0 + 2 ^ (x.log2 / 2 + 1)) * (0 + 2 ^ (x.log2 / 2 + 1)) := by
    rw [zero_add, ← pow_add]
    exact Nat.lt_log2_self.trans_le (Nat.pow_le_pow_right two_pos (by omega))
  obtain ⟨hle, hlt⟩ := isqrtFrom_spec _ 0 x (Nat.zero_le _) hx
  exact Nat.eq_sqrt.2 ⟨hle, hlt⟩

/-- The part of a root that is not written out. -/
theorem isqrt_tail (x : ℕ) : IsTail (isqrt x * isqrt x != x) (√x - isqrt x) := by
  rw [isqrt_eq]
  have hle := Real.nat_sqrt_le_real_sqrt (a := x)
  refine ⟨sub_nonneg.2 hle, by linarith [Real.real_sqrt_lt_nat_sqrt_succ (a := x)], ?_⟩
  rw [bne_iff_ne, sub_pos, lt_iff_le_and_ne, and_iff_right hle, not_iff_not]
  constructor
  · intro h
    rw [eq_comm, Real.sqrt_eq_iff_mul_self_eq x.cast_nonneg (Nat.cast_nonneg _)]
    exact_mod_cast h.symm
  · intro h
    have := Real.mul_self_sqrt (x.cast_nonneg (α := ℝ))
    rw [← h] at this
    exact_mod_cast this

theorem sqrt_two_zpow (x : ℝ) (e : ℤ) : √(x * 2 ^ (2 * e)) = √x * 2 ^ e := by
  rw [Real.sqrt_mul' _ (two_zpow_pos _).le, two_mul, zpow_add₀ two_ne_zero, Real.sqrt_mul_self (two_zpow_pos _).le]

/-- The root of m × 2^e by a significand of more bits than any format keeps. -/
theorem rootVal_spec {m : ℕ} (hm : m ≠ 0) (e : ℤ) : ∃ q f more d, rootVal m e = .fin false q f more ∧
    IsTail more d ∧ 2 ^ 60 ≤ q ∧ √(m * 2 ^ e) = (q + d) * 2 ^ f := by
  obtain ⟨m', e', hm', hroot, hreal⟩ : ∃ (m' : ℕ) (e' : ℤ), m' ≠ 0 ∧ rootVal m e =
      .fin false (isqrt (m' * 2 ^ 120)) (e' - 60) (isqrt (m' * 2 ^ 120) * isqrt (m' * 2 ^ 120) != m' * 2 ^ 120) ∧
      (m : ℝ) * 2 ^ e = m' * 2 ^ (2 * e') := by
    by_cases h : e % 2 = 1
    · refine ⟨2 * m, (e - 1) / 2, by omega, by simp [rootVal, h], ?_⟩
      rw [show 2 * ((e - 1) / 2) = e - 1 by omega, zpow_sub_one₀ two_ne_zero]
      push_cast
      field_simp
    · refine ⟨m, e / 2, hm, by simp [rootVal, h], ?_⟩
      rw [show 2 * (e / 2) = e by omega]
  refine ⟨_, _, _, _, hroot, isqrt_tail _, ?_, ?_⟩
  · rw [isqrt_eq, Nat.le_sqrt, ← pow_add]
    exact Nat.le_mul_of_pos_left _ (Nat.pos_of_ne_zero hm')
  · have hpow : √((2 ^ 120 : ℕ) : ℝ) = 2 ^ (60 : ℤ) := by
      rw [Nat.cast_pow, Nat.cast_ofNat, pow_mul 2 60 2, Real.sqrt_sq (by positivity)]
      norm_cast
    rw [add_sub_cancel, hreal, sqrt_two_zpow, Nat.cast_mul, Real.sqrt_mul' _ (Nat.cast_nonneg _), hpow, mul_assoc,
      ← zpow_add₀ two_ne_zero, add_sub_cancel]

end Sys2Proof.Machine

/-! PROOFS. The arithmetic of the vector formats, and the sums of the matrix engine (R171, R176, R178, R182, R184). -/

namespace Sys2Proof.Machine

open Sys2Proof Sys2Proof.Spec

/-! ## Sources and results -/

theorem Fmt.read_false (t : Fmt) (x : ℕ) : t.read false x = t.value x := by
  rw [Fmt.read]
  cases t.value x <;> rfl

theorem flags_or_zero (f : FpFlags) : f ||| 0 = f := BitVec.or_zero

theorem flags_zero_or (f : FpFlags) : 0 ||| f = f := BitVec.zero_or

/-- The encoding of a zero, without flags. -/
def Fmt.zeroOut (t : Fmt) (neg : Bool) : ℕ × FpFlags := (if neg then 2 ^ t.mag else 0, 0)

theorem Fmt.finish_no_flags (t : Fmt) (c : Ctx) (v : Val) : t.finish c (v, 0) = t.round c.rnd false c.ftz v := by
  simp [Fmt.finish]

section

variable {t : Fmt} (ht : t ∈ vectorFmts)

include ht

theorem round_exact (r : Rnd) (sat : Bool) {v : Val} (hv : Exact v) (h0 : realOf v ≠ 0) :
    RoundsTo t r (realOf v) (t.round r sat false v) := by
  obtain ⟨neg, m, e, rfl⟩ := hv
  rw [Ne, realOf_fin_eq_zero] at h0
  have := round_roundsTo ht r sat neg e isTail_zero h0 (by simp)
  rwa [add_zero, ← realOf_fin neg m e false] at this

theorem round_exact_zero (r : Rnd) (sat ftz : Bool) {v : Val} (hv : Exact v) (h0 : realOf v = 0) :
    t.round r sat ftz v = t.zeroOut v.isNeg := by
  obtain ⟨neg, m, e, rfl⟩ := hv
  rw [realOf_fin_eq_zero] at h0
  rw [h0]
  exact round_zero ht r sat ftz neg e

/-- An exact sum rounded once. -/
theorem finish_sum (r : Rnd) {vs : List Val} (h : ∀ v ∈ vs, Exact v) :
    ((vs.map realOf).sum ≠ 0 →
      RoundsTo t r (vs.map realOf).sum (t.finish ⟨r, false⟩ ((sumVals r vs).1, (sumVals r vs).2 ||| 0))) ∧
    ((vs.map realOf).sum = 0 →
      t.finish ⟨r, false⟩ ((sumVals r vs).1, (sumVals r vs).2 ||| 0) = t.zeroOut (zeroSign r vs)) := by
  obtain ⟨v, hv, hexact, hreal, hzero⟩ := sumVals_of_exact (r := r) h
  rw [hv, flags_or_zero, Fmt.finish_no_flags, ← hreal]
  refine ⟨round_exact ht r false hexact, fun h0 => ?_⟩
  rw [hzero (hreal ▸ h0)]
  exact round_zero ht r false false _ 0

end

theorem zeroSign_pair (r : Rnd) {v w : Val} (hv : Exact v) (hw : Exact w) (h0 : realOf v + realOf w = 0) :
    zeroSign r [v, w] = if v.isNeg = w.isNeg then v.isNeg else r == .rdn := by
  by_cases hs : v.isNeg = w.isNeg
  · have hzero : realOf v = 0 := by
      by_contra hne
      have hne' : realOf w ≠ 0 := fun h => hne (by linarith)
      have hv' := isNeg_iff_of_exact hv hne
      have hw' := isNeg_iff_of_exact hw hne'
      rw [hs, hw'] at hv'
      rcases lt_or_gt_of_ne hne with h | h
      · linarith [hv'.2 h]
      · exact h.not_gt (hv'.1 (by linarith))
    have hzv := (isZero_iff_of_exact hv).2 hzero
    have hzw := (isZero_iff_of_exact hw).2 (by linarith)
    rw [if_pos hs]
    cases hn : w.isNeg <;> simp [zeroSign, hzv, hzw, hs, hn]
  · rw [if_neg hs]
    cases hn : v.isNeg <;> cases hn' : w.isNeg <;> simp_all [zeroSign]

/-! ## Sums and products -/

section

variable {t : Fmt} (ht : t ∈ vectorFmts) (r : Rnd) {x y z : ℕ}

include ht

theorem add_correct (hx : Exact (t.value x)) (hy : Exact (t.value y)) :
    (realOf (t.value x) + realOf (t.value y) ≠ 0 →
      RoundsTo t r (realOf (t.value x) + realOf (t.value y)) (t.add ⟨r, false⟩ x y)) ∧
    (realOf (t.value x) + realOf (t.value y) = 0 → t.add ⟨r, false⟩ x y =
      t.zeroOut (if (t.value x).isNeg = (t.value y).isNeg then (t.value x).isNeg else r == .rdn)) := by
  have hvs : ∀ v ∈ [t.value x, t.value y], Exact v := by simp [hx, hy]
  have h := finish_sum ht r hvs
  simp only [List.map_cons, List.map_nil, List.sum_cons, List.sum_nil, add_zero] at h
  simp only [Fmt.add, Fmt.read_false, signals_of_exact hvs]
  exact ⟨h.1, fun h0 => by rw [h.2 h0, zeroSign_pair r hx hy h0]⟩

theorem sub_correct (hx : Exact (t.value x)) (hy : Exact (t.value y)) :
    (realOf (t.value x) - realOf (t.value y) ≠ 0 →
      RoundsTo t r (realOf (t.value x) - realOf (t.value y)) (t.sub ⟨r, false⟩ x y)) ∧
    (realOf (t.value x) - realOf (t.value y) = 0 → t.sub ⟨r, false⟩ x y =
      t.zeroOut (if (t.value x).isNeg ≠ (t.value y).isNeg then (t.value x).isNeg else r == .rdn)) := by
  obtain ⟨hy', hreal, hneg⟩ := negate_of_exact hy
  have hvs : ∀ v ∈ [t.value x, (t.value y).negate], Exact v := by simp [hx, hy']
  have h := finish_sum ht r hvs
  simp only [List.map_cons, List.map_nil, List.sum_cons, List.sum_nil, add_zero, hreal, ← sub_eq_add_neg] at h
  simp only [Fmt.sub, Fmt.read_false, signals_of_exact hvs]
  refine ⟨h.1, fun h0 => ?_⟩
  rw [h.2 h0, zeroSign_pair r hx hy' (by rw [hreal]; linarith), hneg]
  cases (t.value x).isNeg <;> cases (t.value y).isNeg <;> rfl

theorem mul_correct (hx : Exact (t.value x)) (hy : Exact (t.value y)) :
    (realOf (t.value x) * realOf (t.value y) ≠ 0 →
      RoundsTo t r (realOf (t.value x) * realOf (t.value y)) (t.mul ⟨r, false⟩ x y)) ∧
    (realOf (t.value x) * realOf (t.value y) = 0 →
      t.mul ⟨r, false⟩ x y = t.zeroOut ((t.value x).isNeg != (t.value y).isNeg)) := by
  obtain ⟨v, hmul, hv, hreal, hneg⟩ := mul_of_exact hx hy
  have hvs : ∀ v ∈ [t.value x, t.value y], Exact v := by simp [hx, hy]
  simp only [Fmt.mul, Fmt.read_false, signals_of_exact hvs, hmul, flags_or_zero, Fmt.finish_no_flags, ← hreal, ← hneg]
  exact ⟨round_exact ht r false hv, round_exact_zero ht r false false hv⟩

theorem fma_correct (hx : Exact (t.value x)) (hy : Exact (t.value y)) (hz : Exact (t.value z))
    (h0 : realOf (t.value x) * realOf (t.value y) + realOf (t.value z) ≠ 0) :
    RoundsTo t r (realOf (t.value x) * realOf (t.value y) + realOf (t.value z)) (t.fma ⟨r, false⟩ x y z) := by
  obtain ⟨v, hmul, hv, hreal, -⟩ := mul_of_exact hx hy
  have hvs : ∀ w ∈ [t.value x, t.value y, t.value z], Exact w := by simp [hx, hy, hz]
  have h := finish_sum ht r (vs := [v, t.value z]) (by simp [hv, hz])
  simp only [List.map_cons, List.map_nil, List.sum_cons, List.sum_nil, add_zero, hreal] at h
  simp only [Fmt.fma, Fmt.read_false, signals_of_exact hvs, hmul, flags_or_zero] at h ⊢
  exact h.1 h0

/-! ## Quotients and square roots -/

theorem man_le_of_vector : t.man + 1 ≤ 59 := by
  rcases mem_vectorFmts.1 ht with rfl | rfl | rfl | rfl <;> decide

theorem div_correct (hx : Exact (t.value x)) (hy : Exact (t.value y)) (hy0 : realOf (t.value y) ≠ 0) :
    (realOf (t.value x) ≠ 0 →
      RoundsTo t r (realOf (t.value x) / realOf (t.value y)) (t.div ⟨r, false⟩ x y)) ∧
    (realOf (t.value x) = 0 → t.div ⟨r, false⟩ x y = t.zeroOut ((t.value x).isNeg != (t.value y).isNeg)) := by
  have hvs : ∀ v ∈ [t.value x, t.value y], Exact v := by simp [hx, hy]
  simp only [Fmt.div, Fmt.read_false, signals_of_exact hvs, flags_or_zero]
  obtain ⟨a, m, e, hm⟩ := hx
  obtain ⟨b, n, f, hn⟩ := hy
  rw [hm, hn]
  rw [hn, Ne, realOf_fin_eq_zero] at hy0
  simp only [ne_eq, realOf_fin_eq_zero, Val.div, beq_eq_false_iff_ne.2 hy0, Bool.false_eq_true, if_false]
  refine ⟨fun hm0 => ?_, fun hm0 => ?_⟩
  · have hq := le_quotient hm0 hy0
    obtain ⟨htail, hsum⟩ := quotVal_tail m (60 + n.log2) hy0
    have hman : 2 ^ (t.man + 1) ≤ m * 2 ^ (60 + n.log2) / n :=
      (Nat.pow_le_pow_right two_pos (man_le_of_vector ht)).trans hq
    have h := round_roundsTo ht r false (a != b) (e - f - (60 + n.log2 : ℕ)) htail (by omega) fun _ => hman
    rw [if_neg (by simpa using hm0), Fmt.finish_no_flags, quotVal]
    convert h using 1
    rw [hsum, realOf_fin, realOf_fin, signOf_bne, zpow_sub₀ two_ne_zero, zpow_sub₀ two_ne_zero, zpow_natCast]
    have hb : signOf b * signOf b = 1 := signOf_mul_self b
    have hb0 := signOf_ne_zero b
    have hf := (two_zpow_pos f).ne'
    have hn0 : (n : ℝ) ≠ 0 := by exact_mod_cast hy0
    field_simp
    rw [sq, hb, mul_one]
  · rw [if_pos (by simpa using hm0), Fmt.finish_no_flags]
    exact round_zero ht r false false _ 0

theorem sqrt_correct (hx : Exact (t.value x)) :
    (0 < realOf (t.value x) → RoundsTo t r √(realOf (t.value x)) (t.sqrt ⟨r, false⟩ x)) ∧
    (realOf (t.value x) = 0 → t.sqrt ⟨r, false⟩ x = t.zeroOut (t.value x).isNeg) := by
  have hvs : ∀ v ∈ [t.value x], Exact v := by simp [hx]
  have hneg := isNeg_iff_of_exact hx
  simp only [Fmt.sqrt, Fmt.read_false, signals_of_exact hvs, flags_or_zero]
  obtain ⟨a, m, e, hm⟩ := hx
  rw [hm] at hneg ⊢
  refine ⟨fun h0 => ?_, fun h0 => ?_⟩
  · have ha : a = false := by
      have := (hneg h0.ne').not.2 h0.not_gt
      simpa [Val.isNeg] using this
    have hm0 : m ≠ 0 := fun h => h0.ne' (realOf_fin_eq_zero.2 h)
    obtain ⟨q, f, more, d, hroot, htail, hq, hreal⟩ := rootVal_spec hm0 e
    have hman : 2 ^ (t.man + 1) ≤ q :=
      (Nat.pow_le_pow_right two_pos ((man_le_of_vector ht).trans (Nat.le_succ 59))).trans hq
    have h := round_roundsTo ht r false false f htail (by omega) fun _ => hman
    simp only [Val.sqrt, beq_eq_false_iff_ne.2 hm0, ha, Bool.false_eq_true, if_false, hroot, Fmt.finish_no_flags]
    rw [realOf_fin, signOf_false, one_mul, hreal]
    rwa [signOf_false, one_mul] at h
  · rw [realOf_fin_eq_zero] at h0
    rw [h0]
    simp only [Val.sqrt, beq_self_eq_true, if_true, Fmt.finish_no_flags]
    exact round_zero ht r false false a 0

end

/-- Settles O10: it holds. Each function computes the exact result, or one of more bits than the format keeps with what is
left out marked, and rounds it once. -/
theorem arithmeticIsCorrectlyRounded : Obligations.ArithmeticIsCorrectlyRounded := by
  unfold Obligations.ArithmeticIsCorrectlyRounded
  intro t ht r x y z hx hy hz c a b d sx sy signedZero
  obtain ⟨hadd, hadd0⟩ := add_correct ht r hx hy
  obtain ⟨hsub, hsub0⟩ := sub_correct ht r hx hy
  obtain ⟨hmul, hmul0⟩ := mul_correct ht r hx hy
  obtain ⟨hsqrt, hsqrt0⟩ := sqrt_correct ht r hx
  exact ⟨hadd, hadd0, hsub, hsub0, hmul, hmul0, fma_correct ht r hx hy hz,
    fun ha hb => (div_correct ht r hx hy hb).1 ha, fun ha hb => (div_correct ht r hx hy hb).2 ha, hsqrt, hsqrt0⟩

/-! ## The scaled sum -/

theorem realOf_quarter (p : ℤ) : realOf (.fin (decide (p < 0)) p.natAbs (-2) false) = p / 4 := by
  rw [realOf_fin, ← mul_assoc, ← cast_signedInt, signedInt_natAbs, zpow_neg]
  norm_num [div_eq_mul_inv]

/-- The number of a scaled partial. -/
noncomputable def termOf (ba bb : ℕ) (t : ℤ × ℕ × ℕ) : ℝ :=
  (t.1 : ℝ) / 4 * realOf (Fmt.e3m5.value t.2.1) * realOf (Fmt.e3m5.value t.2.2) * realOf (Fmt.bf16.value ba) *
    realOf (Fmt.bf16.value bb)

section

variable {ba bb : ℕ} (ha : Exact (Fmt.bf16.value ba)) (hb : Exact (Fmt.bf16.value bb))

include ha hb

theorem scaledTerm_of_exact {t : ℤ × ℕ × ℕ} (ht : Exact (Fmt.e3m5.value t.2.1) ∧ Exact (Fmt.e3m5.value t.2.2)) :
    ∃ v, scaledTerm t.1 t.2.1 t.2.2 (Fmt.bf16.value ba) (Fmt.bf16.value bb) = (v, 0) ∧ Exact v ∧
      realOf v = termOf ba bb t := by
  obtain ⟨v₁, hv₁, he₁, hr₁, -⟩ := mul_of_exact (exact_fin (decide (t.1 < 0)) t.1.natAbs (-2)) ht.1
  obtain ⟨v₂, hv₂, he₂, hr₂, -⟩ := mul_of_exact he₁ ht.2
  obtain ⟨v₃, hv₃, he₃, hr₃, -⟩ := mul_of_exact he₂ ha
  obtain ⟨v₄, hv₄, he₄, hr₄, -⟩ := mul_of_exact he₃ hb
  refine ⟨v₄, ?_, he₄, ?_⟩
  · simp only [scaledTerm, hv₁, hv₂, hv₃, hv₄, flags_or_zero]
  · rw [hr₄, hr₃, hr₂, hr₁, realOf_quarter, termOf]

theorem scaleSum_of_exact {acc : ℕ} {ts : List (ℤ × ℕ × ℕ)} (hacc : Exact (Fmt.f32.value acc))
    (hts : ∀ t ∈ ts, Exact (Fmt.e3m5.value t.2.1) ∧ Exact (Fmt.e3m5.value t.2.2)) :
    ∃ vs, (∀ v ∈ vs, Exact v) ∧ vs.map realOf = realOf (Fmt.f32.value acc) :: ts.map (termOf ba bb) ∧
      scaleSum false acc ts ba bb = Fmt.f32.finish ⟨.rne, false⟩ ((sumVals .rne vs).1, (sumVals .rne vs).2 ||| 0) := by
  obtain ⟨out, hout⟩ : ∃ out : ℤ × ℕ × ℕ → Val × FpFlags, out = fun t =>
    scaledTerm t.1 t.2.1 t.2.2 (Fmt.bf16.value ba) (Fmt.bf16.value bb) := ⟨_, rfl⟩
  have hterm : ∀ t ∈ ts, (out t).2 = 0 ∧ Exact (out t).1 ∧ realOf (out t).1 = termOf ba bb t := fun t ht => by
    obtain ⟨v, hv, hexact, hreal⟩ := scaledTerm_of_exact ha hb (hts t ht)
    have : out t = (v, 0) := hout ▸ hv
    rw [this]
    exact ⟨rfl, hexact, hreal⟩
  have hflags (init : FpFlags) : (ts.map out).foldl (fun f t => f ||| t.2) init = init := by
    clear hts
    induction ts with
    | nil => rfl
    | cons t ts ih =>
      rw [List.map_cons, List.foldl_cons, (hterm t List.mem_cons_self).1, flags_or_zero]
      exact ih fun u hu => hterm u (List.mem_cons_of_mem t hu)
  refine ⟨Fmt.f32.value acc :: (ts.map out).map Prod.fst, ?_, ?_, ?_⟩
  · simp only [List.map_map, List.mem_cons, List.mem_map, Function.comp_apply]
    rintro v (rfl | ⟨t, ht, rfl⟩)
    · exact hacc
    · exact (hterm t ht).2.1
  · rw [List.map_cons, List.map_map, List.map_map]
    exact congrArg _ (List.map_congr_left fun t ht => (hterm t ht).2.2)
  · have hsignals : signals [Fmt.bf16.value ba, Fmt.bf16.value bb, Fmt.f32.value acc] = 0 :=
      signals_of_exact (by simp [ha, hb, hacc])
    simp only [scaleSum, Fmt.read_false, ← hout, hsignals, hflags]

end

theorem zeroSign_rne {vs : List Val} (h : ∀ v ∈ vs, Exact v) :
    zeroSign .rne vs = true ↔ ∀ v ∈ vs, v.isNeg = true ∧ realOf v = 0 := by
  have hall : zeroSign .rne vs = (vs.all Val.isZero && vs.all Val.isNeg) := by
    rw [zeroSign]
    cases vs.all Val.isZero && vs.all Val.isNeg <;> simp
  rw [hall, Bool.and_eq_true, List.all_eq_true, List.all_eq_true]
  exact ⟨fun ⟨hz, hn⟩ v hv => ⟨hn v hv, (isZero_iff_of_exact (h v hv)).1 (hz v hv)⟩,
    fun hv => ⟨fun v hm => (isZero_iff_of_exact (h v hm)).2 (hv v hm).2, fun v hm => (hv v hm).1⟩⟩

/-- Settles O31: it holds. Products and sums of finite values are exact, so that the scaled sum is rounded once. -/
theorem matrixNumbers : Obligations.MatrixNumbers := by
  unfold Obligations.MatrixNumbers
  refine ⟨fun x y hx hy => ?products, fun vs hne hvs => ?sums, fun acc ba bb ts hacc ha hb hts => ?scaled⟩
  case products =>
    obtain ⟨v, hmul, hv, hreal, -⟩ := mul_of_exact hx hy
    rw [hmul]
    exact ⟨hv, hreal⟩
  case sums =>
    obtain ⟨v, hsum, hv, hreal, hzero⟩ := sumVals_of_exact (r := .rne) hvs
    rw [hsum]
    refine ⟨hv, hreal, fun h0 => ?_⟩
    rw [hzero h0]
    exact zeroSign_rne hvs
  case scaled =>
    obtain ⟨vs, hvs, hmap, hscale⟩ := scaleSum_of_exact ha hb hacc hts
    have h := (finish_sum (t := .f32) (by simp [vectorFmts]) .rne hvs).1
    rw [hmap, List.sum_cons] at h
    rw [hscale]
    exact h

end Sys2Proof.Machine

/-! PROOFS. Conversions between all types (R177, R320, R321). -/

namespace Sys2Proof.Machine

open Sys2Proof Sys2Proof.Spec

/-! ## Types -/

/-- The integer types with a sign, and all integer types. -/
def NumType.signedInt (t : NumType) : Bool := t == .i8 || t == .i16 || t == .i32 || t == .i64

def NumType.integral (t : NumType) : Bool := NumType.signedInt t || t == .n8 || t == .n16 || t == .n32 || t == .n64

theorem NumType.int?_eq (t : NumType) :
    NumType.int? t = if NumType.integral t then some (NumType.signedInt t, NumType.width t) else none := by
  cases t <;> rfl

theorem NumType.width_bounds (t : NumType) : 0 < NumType.width t ∧ NumType.width t ≤ 64 := by cases t <;> decide

/-- The types of the vector formats. -/
def NumType.vector (t : NumType) : Prop := t = .f32 ∨ t = .f64 ∨ t = .f16 ∨ t = .bf16

theorem NumType.fmt_mem {t : NumType} (h : NumType.vector t) : NumType.fmt t ∈ vectorFmts ∧ NumType.integral t = false := by
  rcases h with rfl | rfl | rfl | rfl <;> simp [NumType.fmt, vectorFmts] <;> rfl

theorem NumType.width_fmt {t : NumType} (h : NumType.integral t = false) :
    NumType.width t = (NumType.fmt t).mag + if (NumType.fmt t).signed then 1 else 0 := by
  cases t <;> simp [NumType.integral, NumType.signedInt] at h <;> rfl

/-! ## Integers -/

theorem intOf_eq (a : Bool) {w : ℕ} (hw : 0 < w) (x : ℕ) :
    intOf a w x = if a then (BitVec.ofNat w x).toInt else ((BitVec.ofNat w x).toNat : ℤ) := by
  cases a
  · simp [intOf]
  · have hpow : 2 ^ w = 2 * 2 ^ (w - 1) := by rw [← pow_succ', Nat.sub_add_cancel hw]
    simp only [intOf, sext, if_true, BitVec.toInt, BitVec.toNat_ofNat]
    rw [hpow]
    split_ifs <;> omega

theorem wrap_eq (w : ℕ) (n : ℤ) : wrap w n = (n % 2 ^ w).toNat := by simp [wrap]

theorem wrap_intHigh (b : Bool) {w : ℕ} (hw : 0 < w) : wrap w (intHigh b w) = (intHigh b w).toNat := by
  have hpow : (2 : ℤ) ^ w = 2 * 2 ^ (w - 1) := by rw [← pow_succ', Nat.sub_add_cancel hw]
  have hpos : (0 : ℤ) < 2 ^ (w - 1) := by positivity
  have hle : 0 ≤ intHigh b w ∧ intHigh b w < 2 ^ w := by
    cases b <;> simp only [intHigh, Bool.false_eq_true, if_false, if_true] <;> omega
  rw [wrap_eq, Int.emod_eq_of_lt hle.1 hle.2]

/-! ## Signs of encodings -/

theorem xor_two_pow {n x : ℕ} : x ^^^ 2 ^ n = 2 ^ n * (x / 2 ^ n ^^^ 1) + x % 2 ^ n := by
  rw [← Nat.div_add_mod (x ^^^ 2 ^ n) (2 ^ n), Nat.xor_div_two_pow, Nat.xor_mod_two_pow, Nat.div_self (Nat.two_pow_pos n),
    Nat.mod_self, Nat.xor_zero]

theorem Fmt.eq_sign {t : Fmt} (hs : t.signed = true) {x : ℕ} (hx : x < 2 ^ (t.mag + 1)) :
    x = t.sign (bit x t.mag) (x % 2 ^ t.mag) := by
  have hdiv : x / 2 ^ t.mag < 2 := Nat.div_lt_of_lt_mul (by rwa [← pow_succ])
  have hx' := Nat.div_add_mod x (2 ^ t.mag)
  interval_cases hd : x / 2 ^ t.mag <;> simp [Fmt.sign, hs, bit, hd] <;> omega

/-- The modifiers of a source act on the sign bit (R267). -/
theorem signMod_sign {t : Fmt} (hs : t.signed = true) (neg abs b : Bool) {code : ℕ} (h : code < 2 ^ t.mag) :
    signMod neg abs t.mag (t.sign b code) = t.sign ((b && !abs) != neg) code := by
  have hbit := Fmt.bit_sign hs b h
  have habs : (if abs && b then t.sign b code - 2 ^ t.mag else t.sign b code) = t.sign (b && !abs) code := by
    cases abs <;> cases b <;> simp [Fmt.sign, hs]
  have hneg (b : Bool) : t.sign b code ^^^ 2 ^ t.mag = t.sign (!b) code := by
    rw [xor_two_pow]
    cases b <;> simp [Fmt.sign, hs, Nat.div_eq_of_lt h, Nat.mod_eq_of_lt h, Nat.add_div_left]
  rw [signMod, hbit, habs]
  cases neg
  · simp
  · simp [hneg]

theorem modifiedVal_withSign (neg abs b : Bool) (v : Val) :
    modifiedVal neg abs (v.withSign b) = v.withSign ((b && !abs) != neg) := by
  cases v <;> cases neg <;> cases abs <;> cases b <;> rfl

theorem Fmt.read_sign {t : Fmt} (hs : t.signed = true) (ftz neg : Bool) {code : ℕ} (h : code < 2 ^ t.mag) :
    t.read ftz (t.sign neg code) = (t.read ftz code).withSign neg := by
  rw [Fmt.read, Fmt.read, Fmt.value_sign hs neg h]
  cases t.value code with
  | nan q => rfl
  | inf b => rfl
  | fin b m e more =>
    simp only [Val.withSign]
    split_ifs <;> rfl

theorem Fmt.isNeg_read_unsigned {t : Fmt} (hs : t.signed = false) (ftz : Bool) (x : ℕ) : (t.read ftz x).isNeg = false := by
  have hv : (t.value x).isNeg = false := by
    simp only [Fmt.value, hs, Bool.false_and]
    split_ifs <;> rfl
  rw [Fmt.read]
  cases h : t.value x with
  | nan q => rfl
  | inf b => simpa [h] using hv
  | fin b m e more =>
    rw [h] at hv
    dsimp only
    split_ifs
    · exact hv
    · exact hv

/-- The source of a conversion with its modifiers, as `convert` reads it. -/
def convertSource (src : NumType) (ftz neg abs : Bool) (x : ℕ) : Val :=
  let t := NumType.fmt src
  if t.signed then t.read ftz (signMod neg abs t.mag (x % 2 ^ (t.mag + 1)))
  else
    let z := t.read ftz (x % 2 ^ t.mag)
    if neg then z.negate else z

theorem convertSource_eq {src : NumType} (h : NumType.integral src = false) (ftz neg abs : Bool) (x : ℕ) :
    convertSource src ftz neg abs x =
      modifiedVal neg abs ((NumType.fmt src).read ftz (x % 2 ^ NumType.width src)) := by
  rw [NumType.width_fmt h]
  cases hs : (NumType.fmt src).signed
  · simp [convertSource, hs, modifiedVal, Fmt.isNeg_read_unsigned hs]
  · have hx := Nat.mod_lt x (Nat.two_pow_pos ((NumType.fmt src).mag + 1))
    have hlt := Nat.mod_lt (x % 2 ^ ((NumType.fmt src).mag + 1)) (Nat.two_pow_pos (NumType.fmt src).mag)
    simp only [convertSource, hs, if_true]
    rw [Fmt.eq_sign hs hx, signMod_sign hs _ _ _ hlt, Fmt.read_sign hs _ _ hlt, Fmt.read_sign hs _ _ hlt,
      modifiedVal_withSign]

/-! ## Rounding to an integer type -/

/-- Clamping to an integer type, with its flags, goes by the integer and by whether it was exact. -/
theorem clamp_eq {lo hi n k : ℤ} {inexact : Bool} {p : Prop} [Decidable p] (h : n = k)
    (hi' : inexact = true ↔ ¬p) :
    (if n < lo then (lo, FpFlags.nv) else if hi < n then (hi, FpFlags.nv)
      else (n, if inexact then FpFlags.nx else 0)) =
    if k < lo then (lo, FpFlags.nv) else if hi < k then (hi, FpFlags.nv)
      else (k, if p then 0 else FpFlags.nx) := by
  rw [h]
  by_cases hp : p <;> simp [hi', hp]

section

variable {r : Rnd} {lo hi k : ℤ} {neg : Bool} {m : ℕ} {e : ℤ}

/-- A value with a fraction is cut off and rounded. -/
theorem roundInt_fraction (he : e < 0) (hk : IntRounded r (realOf (.fin neg m e false)) k) :
    roundInt r lo hi (.fin neg m e false) =
      if k < lo then (lo, FpFlags.nv) else if hi < k then (hi, FpFlags.nv)
      else (k, if realOf (.fin neg m e false) = k then 0 else FpFlags.nx) := by
  obtain ⟨k', hk'⟩ := Int.eq_ofNat_of_zero_le (show 0 ≤ -e by omega)
  have hreal : realOf (.fin neg m e false) = signOf neg * ((m + 0) / 2 ^ k') := by
    rw [realOf_fin, show e = -(k' : ℤ) by omega, zpow_neg, zpow_natCast, add_zero, div_eq_mul_inv]
  obtain ⟨hint, hinexact⟩ := roundShift_spec (r := r) (neg := neg) (m := m) (k := k') isTail_zero (by simp)
  rw [← hreal] at hint
  have hn := intRounded_unique hint hk
  simp only [roundInt, if_neg he.not_ge, hk', Int.toNat_natCast]
  refine clamp_eq hn (hinexact.trans ?_)
  rw [hreal, ← hn, cast_signedInt, ne_eq, not_iff_not, mul_right_inj' (signOf_ne_zero neg), eq_comm]

/-- An integer, which is taken as 2^128 where its exponent is large, lies beyond every type or in it. -/
theorem roundInt_integer (hlo : -2 ^ 128 < lo) (hle : lo ≤ hi) (hhi : hi < 2 ^ 128) (he : 0 ≤ e)
    (hk : IntRounded r (realOf (.fin neg m e false)) k) : roundInt r lo hi (.fin neg m e false) =
      if k < lo then (lo, FpFlags.nv) else if hi < k then (hi, FpFlags.nv)
      else (k, if realOf (.fin neg m e false) = k then 0 else FpFlags.nx) := by
  obtain ⟨k', rfl⟩ := Int.eq_ofNat_of_zero_le he
  have hreal : realOf (.fin neg m k' false) = signedInt neg (m * 2 ^ k') := by
    rw [cast_signedInt, realOf_fin, zpow_natCast]
    push_cast
    rfl
  have hn : signedInt neg (m * 2 ^ k') = k := intRounded_unique (r := r) (hreal ▸ intRounded_self r _) hk
  simp only [roundInt, if_pos he, Int.toNat_natCast]
  by_cases hbig : 128 ≤ (k' : ℤ) ∧ m ≠ 0
  · have hlarge : 2 ^ 128 ≤ m * 2 ^ k' :=
      (Nat.pow_le_pow_right two_pos (by omega)).trans (Nat.le_mul_of_pos_left _ (Nat.pos_of_ne_zero hbig.2))
    have hlarge' : (2 : ℤ) ^ 128 ≤ (m * 2 ^ k' : ℕ) := by exact_mod_cast hlarge
    have hdec : (decide (128 ≤ (k' : ℤ)) && m != 0) = true := by simpa using hbig
    rw [← hn]
    simp only [hdec, if_true]
    cases neg
    · have h1 : hi < signedInt false (m * 2 ^ k') := hhi.trans_le hlarge'
      have h2 : hi < ((2 ^ 128 : ℕ) : ℤ) := hhi
      simp only [Bool.false_eq_true, if_false]
      rw [if_neg (hle.trans_lt h1).not_gt, if_pos h1, if_neg (hle.trans_lt h2).not_gt, if_pos h2]
    · have h1 : signedInt true (m * 2 ^ k') < lo := (neg_le_neg hlarge').trans_lt hlo
      have h2 : -((2 ^ 128 : ℕ) : ℤ) < lo := hlo
      simp only [if_true]
      rw [if_pos h1, if_pos h2]
  · have hdec : (decide (128 ≤ (k' : ℤ)) && m != 0) = false := by simpa using hbig
    rw [hdec]
    exact clamp_eq hn (by simp [hreal, hn])

end

theorem roundInt_spec {r : Rnd} {lo hi k : ℤ} {v : Val} (hlo : -2 ^ 128 < lo) (hle : lo ≤ hi) (hhi : hi < 2 ^ 128)
    (hv : Exact v) (hk : IntRounded r (realOf v) k) : roundInt r lo hi v =
      if k < lo then (lo, FpFlags.nv) else if hi < k then (hi, FpFlags.nv)
      else (k, if realOf v = k then 0 else FpFlags.nx) := by
  obtain ⟨neg, m, e, rfl⟩ := hv
  rcases lt_or_ge e 0 with he | he
  · exact roundInt_fraction he hk
  · exact roundInt_integer hlo hle hhi he hk

/-! ## The four kinds of conversion -/

section

variable {y x : NumType} {c : Ctx} {sat neg abs : Bool} {raw : ℕ}

/-- The integer that the bits of a source stand for. -/
def sourceInt (x : NumType) (raw : ℕ) : ℤ :=
  if NumType.signedInt x then (BitVec.ofNat (NumType.width x) raw).toInt
  else ((BitVec.ofNat (NumType.width x) raw).toNat : ℤ)

/-- The ends of an integer type. -/
def lowEnd (y : NumType) : ℤ := if NumType.signedInt y then -(2 ^ (NumType.width y - 1)) else 0

def highEnd (y : NumType) : ℤ :=
  if NumType.signedInt y then 2 ^ (NumType.width y - 1) - 1 else 2 ^ NumType.width y - 1

theorem sourceInt_eq (x : NumType) (raw : ℕ) : intOf (NumType.signedInt x) (NumType.width x) raw = sourceInt x raw :=
  intOf_eq _ (NumType.width_bounds x).1 raw

theorem ends_bounds (y : NumType) : -2 ^ 128 < lowEnd y ∧ lowEnd y ≤ highEnd y ∧ highEnd y < 2 ^ 128 := by
  cases y <;> decide

/-- The value of a floating-point source with its modifiers. -/
def sourceVal (x : NumType) (ftz neg abs : Bool) (raw : ℕ) : Val :=
  modifiedVal neg abs ((NumType.fmt x).read ftz (raw % 2 ^ NumType.width x))

theorem convert_int_int (hx : NumType.integral x = true) (hy : NumType.integral y = true) :
    convert y x c sat neg abs raw =
      (((if sat then max (lowEnd y) (min (highEnd y) (sourceInt x raw)) else sourceInt x raw) %
        2 ^ NumType.width y).toNat, 0) := by
  simp only [convert, NumType.int?_eq, hx, hy, if_true, sourceInt_eq, wrap_eq]
  rfl

theorem convert_int_float (hx : NumType.integral x = true) (hy : NumType.integral y = false) :
    convert y x c sat neg abs raw = (NumType.fmt y).round c.rnd sat c.ftz
      (.fin (decide (sourceInt x raw < 0)) (sourceInt x raw).natAbs 0 false) := by
  simp only [convert, NumType.int?_eq, hx, hy, if_true, Bool.false_eq_true, if_false, sourceInt_eq]

theorem convert_float_int (hx : NumType.integral x = false) (hy : NumType.integral y = true) :
    convert y x c sat neg abs raw =
      (wrap (NumType.width y) (roundInt c.rnd (lowEnd y) (highEnd y) (sourceVal x c.ftz neg abs raw)).1,
        (roundInt c.rnd (lowEnd y) (highEnd y) (sourceVal x c.ftz neg abs raw)).2) := by
  rw [sourceVal, ← convertSource_eq hx]
  simp only [convert, NumType.int?_eq, hx, hy, if_true, Bool.false_eq_true, if_false]
  rfl

theorem convert_float_float (hx : NumType.integral x = false) (hy : NumType.integral y = false) :
    convert y x c sat neg abs raw =
      if (y == x && (sourceVal x c.ftz neg abs raw).isInf) = true
      then ((NumType.fmt x).infinity (sourceVal x c.ftz neg abs raw).isNeg, 0)
      else (((NumType.fmt y).round c.rnd sat c.ftz (sourceVal x c.ftz neg abs raw)).1,
        ((NumType.fmt y).round c.rnd sat c.ftz (sourceVal x c.ftz neg abs raw)).2 |||
          signals [sourceVal x c.ftz neg abs raw]) := by
  rw [sourceVal, ← convertSource_eq hx]
  simp only [convert, NumType.int?_eq, hx, hy, Bool.false_eq_true, if_false]
  rw [convertSource]
  generalize (if (NumType.fmt x).signed = true then _ else _ : Val) = z
  cases z <;> cases y == x <;> simp [Val.isInf, Val.isNeg]

/-! ## The values -/

theorem convert_int_to_vector (hx : NumType.integral x = true) (hy : NumType.vector y) (hc : c.ftz = false) :
    (sourceInt x raw = 0 → convert y x c sat neg abs raw = (0, 0)) ∧
    (sourceInt x raw ≠ 0 → RoundsTo (NumType.fmt y) c.rnd (sourceInt x raw) (convert y x c sat neg abs raw)) := by
  obtain ⟨hmem, hint⟩ := NumType.fmt_mem hy
  have hreal : realOf (.fin (decide (sourceInt x raw < 0)) (sourceInt x raw).natAbs 0 false) = sourceInt x raw := by
    rw [realOf_fin, zpow_zero, mul_one, ← cast_signedInt, signedInt_natAbs]
  rw [convert_int_float hx hint, hc]
  refine ⟨fun h0 => ?_, fun h0 => ?_⟩
  · rw [h0]
    exact round_zero hmem _ _ _ _ _
  · have h := round_exact hmem c.rnd sat (exact_fin (decide (sourceInt x raw < 0)) (sourceInt x raw).natAbs 0)
      (by rw [hreal]; exact_mod_cast h0)
    rwa [hreal] at h

theorem convert_float_to_int (hx : NumType.integral x = false) (hy : NumType.integral y = true) :
    let v := sourceVal x c.ftz neg abs raw
    let out := convert y x c sat neg abs raw
    let u := NumType.width y
    (v.isNan = true → out = (0, FpFlags.nv)) ∧
    (v.isInf = true → out = ((if v.isNeg then lowEnd y % 2 ^ u else highEnd y).toNat, FpFlags.nv)) ∧
    (Exact v → ∀ k : ℤ, IntRounded c.rnd (realOf v) k →
      (k < lowEnd y → out = ((lowEnd y % 2 ^ u).toNat, FpFlags.nv)) ∧
      (highEnd y < k → out = ((highEnd y).toNat, FpFlags.nv)) ∧
      (lowEnd y ≤ k → k ≤ highEnd y → out.1 = (k % 2 ^ u).toNat ∧ out.2 = if realOf v = k then 0 else FpFlags.nx)) := by
  intro v out u
  have hout : out = (wrap u (roundInt c.rnd (lowEnd y) (highEnd y) v).1,
    (roundInt c.rnd (lowEnd y) (highEnd y) v).2) := convert_float_int hx hy
  have hhigh : wrap u (highEnd y) = (highEnd y).toNat := wrap_intHigh (NumType.signedInt y) (NumType.width_bounds y).1
  rw [hout]
  refine ⟨fun h => ?nan, fun h => ?infinite, fun hv k hk => ?finite⟩
  case nan =>
    cases hv : v with
    | nan q => simp [roundInt, wrap]
    | inf b => simp [hv, Val.isNan] at h
    | fin b m e more => simp [hv, Val.isNan] at h
  case infinite =>
    cases hv : v with
    | nan q => simp [hv, Val.isInf] at h
    | inf b => cases b <;> simp [roundInt, Val.isNeg, hhigh, wrap_eq]
    | fin b m e more => simp [hv, Val.isInf] at h
  case finite =>
    obtain ⟨hlo, hle, hhi⟩ := ends_bounds y
    rw [roundInt_spec hlo hle hhi hv hk]
    refine ⟨fun h => ?_, fun h => ?_, fun h h' => ?_⟩
    · rw [if_pos h, wrap_eq]
    · rw [if_neg (hle.trans_lt h).not_gt, if_pos h, hhigh]
    · rw [if_neg h.not_gt, if_neg h'.not_gt, wrap_eq]
      exact ⟨rfl, rfl⟩

theorem round_nan (t : Fmt) (h : t ≠ .f4) (r : Rnd) (sat ftz q : Bool) : t.round r sat ftz (.nan q) = (t.nan, 0) := by
  simp [Fmt.round, h]

theorem round_inf {t : Fmt} (ht : t ∈ vectorFmts) (r : Rnd) (sat ftz neg : Bool) :
    t.round r sat ftz (.inf neg) = (t.infinity neg, 0) := by
  rcases mem_vectorFmts.1 ht with rfl | rfl | rfl | rfl <;> rfl

theorem convert_float_to_vector (hx : NumType.integral x = false) (hy : NumType.vector y) (hc : c.ftz = false) :
    let v := sourceVal x c.ftz neg abs raw
    let out := convert y x c sat neg abs raw
    (v.isNan = true → out = ((NumType.fmt y).nan, if v.isSignalling then FpFlags.nv else 0)) ∧
    (v.isInf = true → out = ((NumType.fmt y).infinity v.isNeg, 0)) ∧
    (Exact v → realOf v ≠ 0 → RoundsTo (NumType.fmt y) c.rnd (realOf v) out) := by
  intro v out
  obtain ⟨hmem, hint⟩ := NumType.fmt_mem hy
  have hout : out = if (y == x && v.isInf) = true then ((NumType.fmt x).infinity v.isNeg, 0)
      else (((NumType.fmt y).round c.rnd sat false v).1, ((NumType.fmt y).round c.rnd sat false v).2 ||| signals [v]) := by
    rw [← hc]
    exact convert_float_float hx hint
  rw [hout]
  refine ⟨fun h => ?nan, fun h => ?infinite, fun hv h0 => ?finite⟩
  case nan =>
    cases hv : v with
    | nan q =>
      simp only [Val.isInf, Bool.and_false, Bool.false_eq_true, if_false, round_nan _ (ne_f4_of_vector hmem), flags_zero_or]
      cases q <;> rfl
    | inf b => simp [hv, Val.isNan] at h
    | fin b m e more => simp [hv, Val.isNan] at h
  case infinite =>
    cases hv : v with
    | nan q => simp [hv, Val.isInf] at h
    | inf b =>
      have hs : signals [.inf b] = 0 := rfl
      simp only [Val.isInf, Val.isNeg, Bool.and_true, beq_iff_eq, round_inf hmem, hs, flags_or_zero]
      split_ifs with hyx
      · rw [hyx]
      · rfl
    | fin b m e more => simp [hv, Val.isInf] at h
  case finite =>
    have hs : signals [v] = 0 := signals_of_exact (by simpa using hv)
    rw [isInf_of_exact hv, Bool.and_false, if_neg Bool.false_ne_true, hs, flags_or_zero]
    exact round_exact hmem c.rnd sat hv h0

end

/-- Settles O11: it holds. By the kinds of the two types; the source's modifiers act on the sign of its value. -/
theorem conversionValues : Obligations.ConversionValues := by
  unfold Obligations.ConversionValues
  intro y x c sat neg abs raw w u signedType isInt lo hi n v out
  refine ⟨fun hx hy => ?_, fun hx hy hc => ?_, fun hx hy => ?_, fun hx hy hc => ?_⟩
  · exact convert_int_int hx hy
  · exact convert_int_to_vector hx hy hc
  · exact convert_float_to_int (Bool.not_eq_true _ ▸ hx) hy
  · exact convert_float_to_vector (Bool.not_eq_true _ ▸ hx) hy hc

end Sys2Proof.Machine

/-! PROOFS. The ends of the narrow formats, and flushing (R172, R173). -/

namespace Sys2Proof.Machine

open Sys2Proof Sys2Proof.Spec

/-! ## What the rounding of a finite value can give -/

/-- The outcomes of a rounding, with and without flushing: a value that an unsigned format does not have, an overflow, a
zero or a normal number, a subnormal. -/
inductive Fmt.Outcome (t : Fmt) (r : Rnd) (sat neg : Bool) : (Bool → ℕ × FpFlags) → Prop where
  | negative (hs : t.signed = false) (hn : neg = true) (inexact : Bool) :
      t.Outcome r sat neg fun _ => (0, roundFlags inexact false)
  | overflow : t.Outcome r sat neg fun _ => t.overflow r sat neg
  | kept (n : ℕ) (inexact : Bool) (h : n = 0 ∨ 2 ^ t.man ≤ n) (htop : n ≤ t.top) :
      t.Outcome r sat neg fun _ => (t.sign neg n, roundFlags inexact false)
  | subnormal (n : ℕ) (inexact : Bool) (h0 : 0 < n) (h : n < 2 ^ t.man) :
      t.Outcome r sat neg fun ftz => if ftz && t != .f4 then (t.sign neg 0, FpFlags.uf ||| FpFlags.nx)
        else (t.sign neg n, roundFlags inexact true)

theorem Fmt.round_outcome (t : Fmt) (r : Rnd) (sat neg : Bool) (m : ℕ) (e : ℤ) (more : Bool) :
    t.Outcome r sat neg fun ftz => t.round r sat ftz (.fin neg m e more) := by
  by_cases hs : (!t.signed && neg) = true
  · have hs' : t.signed = false ∧ neg = true := by simpa using hs
    convert Fmt.Outcome.negative (r := r) (sat := sat) hs'.1 hs'.2 (!(m == 0 && !more)) using 2
    cases hz : m == 0 && !more <;> simp [Fmt.round, hs, hz, roundFlags]
  by_cases hz : (m == 0 && !more) = true
  · convert Fmt.Outcome.kept (r := r) (sat := sat) (neg := neg) 0 false (.inl rfl) (Nat.zero_le t.top) using 2
    simp [Fmt.round, hs, hz, roundFlags]
  obtain ⟨n₀, inexact, hk⟩ : ∃ n inexact, t.kept r neg m e more = (n, inexact) := ⟨_, _, rfl⟩
  obtain ⟨n, q, hc⟩ : ∃ n q, (if n₀ == 2 ^ (t.man + 1) then (2 ^ t.man, t.lastPlace m e + 1) else (n₀, t.lastPlace m e)) =
    (n, q) := ⟨_, _, rfl⟩
  rw [Fmt.kept, Fmt.lastPlace] at hk
  rw [Fmt.lastPlace] at hc
  have hround (ftz : Bool) : t.round r sat ftz (.fin neg m e more) =
      if n < 2 ^ t.man then
        if n == 0 then (t.sign neg 0, if inexact then FpFlags.nx else 0)
        else if ftz && t != .f4 then (t.sign neg 0, FpFlags.uf ||| FpFlags.nx)
        else (t.sign neg n, if inexact then FpFlags.uf ||| (if inexact then FpFlags.nx else 0) else 0)
      else if t.top < (q - t.low).toNat * 2 ^ t.man + n then t.overflow r sat neg
      else (t.sign neg ((q - t.low).toNat * 2 ^ t.man + n), if inexact then FpFlags.nx else 0) := by
    simp only [Fmt.round, hs, hz, Bool.false_eq_true, if_false, hk, hc]
  have hflags : (if inexact then FpFlags.nx else 0) = roundFlags inexact false := by cases inexact <;> rfl
  simp only [hround, hflags]
  rcases lt_or_ge n (2 ^ t.man) with hn | hn
  · rcases Nat.eq_zero_or_pos n with rfl | h0
    · simpa only [if_pos hn, beq_self_eq_true, if_true] using
        Fmt.Outcome.kept (r := r) (sat := sat) (neg := neg) 0 inexact (.inl rfl) (Nat.zero_le t.top)
    · convert Fmt.Outcome.subnormal (r := r) (sat := sat) (neg := neg) n inexact h0 hn using 2
      rw [if_pos hn, if_neg (by simpa using h0.ne')]
      cases inexact <;> rfl
  · simp only [if_neg hn.not_gt]
    by_cases htop : t.top < (q - t.low).toNat * 2 ^ t.man + n
    · simpa only [if_pos htop] using Fmt.Outcome.overflow
    · simpa only [if_neg htop] using
        Fmt.Outcome.kept _ inexact (.inr (hn.trans (Nat.le_add_left _ _))) (not_lt.1 htop)

/-! ## Overflow of the narrow formats -/

/-- A rounding that sets OF is an overflow. -/
theorem round_of_spills {t : Fmt} {r : Rnd} {sat ftz neg more : Bool} {m : ℕ} {e : ℤ}
    (h : (t.round r sat ftz (.fin neg m e more)).2 &&& FpFlags.of ≠ 0) :
    t.round r sat ftz (.fin neg m e more) = t.overflow r sat neg := by
  obtain ⟨f, hf⟩ : ∃ f, f = fun ftz => t.round r sat ftz (.fin neg m e more) := ⟨_, rfl⟩
  have hout := t.round_outcome r sat neg m e more
  have hround : t.round r sat ftz (.fin neg m e more) = f ftz := by rw [hf]
  rw [hround] at h ⊢
  rw [← hf] at hout
  cases hout with
  | overflow => rfl
  | negative hs hn inexact => exact absurd (roundFlags_of inexact false) h
  | kept n inexact hn htop => exact absurd (roundFlags_of inexact false) h
  | subnormal n inexact h0 hn =>
    refine absurd ?_ h
    dsimp only
    split
    · exact (by decide : (FpFlags.uf ||| FpFlags.nx) &&& FpFlags.of = 0)
    · exact roundFlags_of inexact true

theorem overflow_f8e4 (r : Rnd) (sat neg : Bool) :
    (Fmt.f8e4.overflow r sat neg).1 = if r.toInf neg && !sat then 0x7F else if neg then 0xFE else 0x7E := by
  cases r <;> cases sat <;> cases neg <;> rfl

theorem overflow_f8e5 (r : Rnd) (sat neg : Bool) :
    (Fmt.f8e5.overflow r sat neg).1 = (if r.toInf neg && !sat then 0x7C else 0x7B) + if neg then 0x80 else 0 := by
  cases r <;> cases sat <;> cases neg <;> rfl

theorem overflow_f4 (r : Rnd) (sat neg : Bool) : (Fmt.f4.overflow r sat neg).1 = if neg then 0xF else 7 := by
  cases neg <;> rfl

theorem overflow_e3m5 (r : Rnd) (sat neg : Bool) :
    (Fmt.e3m5.overflow r sat neg).1 = if r.toInf neg && !sat then 0xFF else 0xFE := rfl

theorem narrowFormatEnds : NarrowFormatEnds := by
  intro r sat ftz neg q more m e toInf x spills
  have htoInf : toInf = r.toInf neg := by cases r <;> rfl
  have hover {t : Fmt} (h : spills t) : (t.round r sat ftz x).1 = (t.overflow r sat neg).1 :=
    congrArg Prod.fst (round_of_spills h)
  rw [htoInf]
  refine ⟨fun h => (hover h).trans (overflow_f8e4 r sat neg), overflow_f8e4 r sat neg,
    fun h => (hover h).trans (overflow_f8e5 r sat neg), ?_, ?_, fun h => (hover h).trans (overflow_f4 r sat neg),
    overflow_f4 .rne sat neg, rfl, ?_, rfl, fun h => (hover h).trans (overflow_e3m5 r sat neg), ?_, rfl, rfl, rfl⟩
  · cases neg <;> rfl
  · cases neg <;> rfl
  · rfl
  · cases sat <;> rfl

/-! ## Flushing -/

theorem Fmt.OnGrid.lt_iff {t : Fmt} {m : ℕ} {e : ℤ} (h : t.OnGrid m e) :
    m < 2 ^ t.man ↔ (m : ℝ) * 2 ^ e < 2 ^ (1 - (t.bias : ℤ)) := by
  rw [← h.code_lt_iff, Fmt.code]
  rcases h.normal with hm | rfl
  · exact iff_of_false hm.not_gt (hm.trans (Nat.le_add_left _ _)).not_gt
  · simp

/-- The subnormal values of a format are those below its least normal number. -/
theorem subnormal_iff {t : Fmt} {x : ℕ} {neg : Bool} {m : ℕ} {e : ℤ} (h : t.value x = .fin neg m e false) :
    m < 2 ^ t.man ↔ |realOf (t.value x)| < (2 : ℝ) ^ (1 - (t.bias : ℤ)) := by
  obtain ⟨-, -, hgrid, -⟩ := Fmt.value_eq_fin h
  rw [h, realOf_fin, abs_signOf_mul (by positivity), hgrid.lt_iff]

theorem read_true_of_fin {t : Fmt} {x : ℕ} {neg : Bool} {m : ℕ} {e : ℤ} (ht : t ≠ .f4)
    (h : t.value x = .fin neg m e false) :
    t.read true x = if m < 2 ^ t.man then .zero neg else .fin neg m e false := by
  simp [Fmt.read, h, ht]

theorem round_f4_flush (r : Rnd) (sat : Bool) (v : Val) : Fmt.f4.round r sat true v = Fmt.f4.round r sat false v := by
  cases v with
  | nan q => rfl
  | inf b => rfl
  | fin neg m e more =>
    obtain ⟨f, hf⟩ : ∃ f, f = fun ftz => Fmt.f4.round r sat ftz (.fin neg m e more) := ⟨_, rfl⟩
    have hout := Fmt.f4.round_outcome r sat neg m e more
    suffices f true = f false by rwa [hf] at this
    rw [← hf] at hout
    cases hout <;> rfl

theorem sign_mod {t : Fmt} (hs : t.signed = true) (neg : Bool) {code : ℕ} (h : code < 2 ^ t.mag) :
    t.sign neg code % 2 ^ t.mag = code := by
  cases neg <;> simp [Fmt.sign, hs, Nat.mod_eq_of_lt h]

theorem le_overflow_mod {t : Fmt} (ht : t ∈ vectorFmts) (r : Rnd) (sat neg : Bool) :
    2 ^ t.man ≤ (t.overflow r sat neg).1 % 2 ^ t.mag := by
  have hs := signed_of_vector ht
  have htop := top_of_vector ht
  have hlt : t.top + 1 < 2 ^ t.mag := by
    rw [htop, Fmt.mag, pow_add]
    exact Nat.mul_lt_mul_of_pos_right (Nat.sub_lt (by positivity) one_pos) (by positivity)
  rw [overflow_of_vector ht]
  dsimp only
  split
  · rw [Fmt.infinity, ← htop, sign_mod hs _ hlt]
    exact t.two_pow_man_le_top.trans (Nat.le_succ _)
  · rw [sign_mod hs _ (by omega)]
    exact t.two_pow_man_le_top

/-- Flushing changes the encodings that are subnormal and no others (R173). -/
theorem round_flush {t : Fmt} (ht : t ∈ vectorFmts) (r : Rnd) (sat neg : Bool) (m : ℕ) (e : ℤ) (more : Bool) :
    t.round r sat true (.fin neg m e more) =
      if (t.round r sat false (.fin neg m e more)).1 % 2 ^ t.mag ≠ 0 ∧
        (t.round r sat false (.fin neg m e more)).1 % 2 ^ t.mag < 2 ^ t.man then
        (if neg then 2 ^ t.mag else 0, FpFlags.uf ||| FpFlags.nx)
      else t.round r sat false (.fin neg m e more) := by
  have hs := signed_of_vector ht
  have hlt := top_lt_of_vector ht
  obtain ⟨f, hf⟩ : ∃ f, f = fun ftz => t.round r sat ftz (.fin neg m e more) := ⟨_, rfl⟩
  have hout := t.round_outcome r sat neg m e more
  have hround (ftz : Bool) : t.round r sat ftz (.fin neg m e more) = f ftz := by rw [hf]
  rw [hround, hround]
  rw [← hf] at hout
  cases hout with
  | negative hs' => simp [hs] at hs'
  | overflow => rw [if_neg fun h => (le_overflow_mod ht r sat neg).not_gt h.2]
  | kept n inexact hn htop =>
    dsimp only
    rw [sign_mod hs _ (htop.trans_lt hlt), if_neg fun h => (hn.resolve_left h.1).not_gt h.2]
  | subnormal n inexact h0 hn =>
    have hmod := sign_mod hs neg (hn.trans (t.two_pow_man_le_top.trans_lt hlt))
    have hzero : t.sign neg 0 = if neg then 2 ^ t.mag else 0 := by simp [Fmt.sign, hs]
    simp [hmod, h0.ne', hn, ne_f4_of_vector ht, hzero]

theorem flushingOfSubnormals : FlushingOfSubnormals := by
  refine ⟨fun t x ht => ⟨fun neg m e h _ hlt => ?_, fun h => ?_, Fmt.read_false t x⟩, fun ftz x => ?_, round_f4_flush, ?_⟩
  · rw [read_true_of_fin ht h, if_pos ((subnormal_iff h).2 hlt)]
    rfl
  · cases hv : t.value x with
    | nan q => simp [Fmt.read, hv]
    | inf b => simp [Fmt.read, hv]
    | fin neg m e more =>
      obtain ⟨-, rfl, -, -⟩ := Fmt.value_eq_fin hv
      have hge := h.resolve_left (not_not.2 (hv ▸ exact_fin neg m e))
      rw [read_true_of_fin ht hv, if_neg fun hlt => hge.not_gt ((subnormal_iff hv).1 hlt)]
  · rw [Fmt.read]
    cases Fmt.f4.value x with
    | nan q => rfl
    | inf b => rfl
    | fin neg m e more => simp
  · intro t ht r sat neg more m e x kept
    have h := round_flush ht r sat neg m e more
    by_cases hsub : kept.1 % 2 ^ t.mag ≠ 0 ∧ kept.1 % 2 ^ t.mag < 2 ^ t.man
    · rw [if_pos hsub, h, if_pos hsub]
    · rw [if_neg hsub, h, if_neg hsub]

end Sys2Proof.Machine

/-! PROOFS. NaNs, infinities and zeros as operands of the arithmetic of the vector formats (R174, R313, R314, Table 14-2). -/

namespace Sys2Proof.Machine

open Sys2Proof Sys2Proof.Spec

/-! ## Values that are read -/

/-- A finite value that is read from an encoding is exact. -/
theorem read_cases (t : Fmt) (ftz : Bool) (x : ℕ) :
    (∃ q, t.read ftz x = .nan q) ∨ (∃ b, t.read ftz x = .inf b) ∨ Exact (t.read ftz x) := by
  rw [Fmt.read]
  cases h : t.value x with
  | nan q => exact .inl ⟨q, rfl⟩
  | inf b => exact .inr (.inl ⟨b, rfl⟩)
  | fin neg m e more =>
    obtain ⟨-, rfl, -, -⟩ := Fmt.value_eq_fin h
    refine .inr (.inr ?_)
    dsimp only
    split <;> exact exact_fin _ _ _

theorem eq_nan_of_isNan {v : Val} (h : v.isNan = true) : ∃ q, v = .nan q := by
  cases v with
  | nan q => exact ⟨q, rfl⟩
  | inf b => cases h
  | fin neg m e more => cases h

theorem eq_inf_of_isInf {v : Val} (h : v.isInf = true) : v = .inf v.isNeg := by
  cases v with
  | nan q => cases h
  | inf b => rfl
  | fin neg m e more => cases h

theorem eq_fin_of_isZero {v : Val} (h : v.isZero = true) : ∃ e, v = .fin v.isNeg 0 e false := by
  cases v with
  | nan q => cases h
  | inf b => cases h
  | fin neg m e more =>
    obtain ⟨rfl, rfl⟩ : m = 0 ∧ more = false := by simpa [Val.isZero] using h
    exact ⟨e, rfl⟩

theorem isSignalling_of_not_nan {v : Val} (h : v.isNan = false) : v.isSignalling = false := by
  cases v with
  | nan q => cases h
  | inf b => rfl
  | fin neg m e more => rfl

theorem signals_pair (a b : Val) : signals [a, b] = invalid (a.isSignalling || b.isSignalling) := by simp [signals]

theorem signals_single (a : Val) : signals [a] = invalid a.isSignalling := by simp [signals]

theorem signals_of_not_nan {a b : Val} (ha : a.isNan = false) (hb : b.isNan = false) : signals [a, b] = 0 := by
  rw [signals_pair, isSignalling_of_not_nan ha, isSignalling_of_not_nan hb]
  rfl

/-! ## Results that are not rounded -/

section

variable {t : Fmt} (ht : t ∈ vectorFmts) (c : Ctx)

include ht

theorem finish_nan (q : Bool) (f : FpFlags) : t.finish c (.nan q, f) = (t.nan, f) := by
  rw [Fmt.finish, round_nan t (ne_f4_of_vector ht), flags_zero_or]

theorem finish_inf (b : Bool) (f : FpFlags) : t.finish c (.inf b, f) = (t.infinity b, f) := by
  rw [Fmt.finish, round_inf ht, flags_zero_or]

theorem finish_zero (b : Bool) (f : FpFlags) : t.finish c (.zero b, f) = (if b then 2 ^ t.mag else 0, f) := by
  rw [Fmt.finish, Val.zero, round_zero ht, flags_zero_or]

end

/-! ## NaNs -/

theorem sumVals_of_nan {r : Rnd} {a b : Val} (h : a.isNan = true ∨ b.isNan = true) :
    sumVals r [a, b] = (.nan false, 0) := by
  rcases h with h | h <;> obtain ⟨q, rfl⟩ := eq_nan_of_isNan h
  · cases b <;> simp [sumVals, Val.isInf, Val.isNan]
  · cases a <;> simp [sumVals, Val.isInf, Val.isNan]

theorem mul_of_nan {a b : Val} (h : a.isNan = true ∨ b.isNan = true) : a.mul b = (.nan false, 0) := by
  rcases h with h | h <;> obtain ⟨q, rfl⟩ := eq_nan_of_isNan h
  · rfl
  · cases a <;> rfl

theorem div_of_nan {a b : Val} (h : a.isNan = true ∨ b.isNan = true) : a.div b = (.nan false, 0) := by
  rcases h with h | h <;> obtain ⟨q, rfl⟩ := eq_nan_of_isNan h
  · rfl
  · cases a <;> rfl

theorem isNan_negate (v : Val) : v.negate.isNan = v.isNan := by cases v <;> rfl

theorem isSignalling_negate (v : Val) : v.negate.isSignalling = v.isSignalling := by cases v <;> rfl

theorem isNan_of_isInf {v : Val} (h : v.isInf = true) : v.isNan = false := by rw [eq_inf_of_isInf h]; rfl

theorem isNan_of_isZero {v : Val} (h : v.isZero = true) : v.isNan = false := by
  obtain ⟨e, h⟩ := eq_fin_of_isZero h
  rw [h]
  rfl

theorem sumVals_opposite_inf {r : Rnd} {a b : Bool} (h : a ≠ b) : sumVals r [.inf a, .inf b] = (.nan false, FpFlags.nv) := by
  cases a <;> cases b <;> simp_all [sumVals, Val.isInf, Val.isNeg]

theorem sumVals_inf_fin (r : Rnd) (a neg : Bool) (m : ℕ) (e : ℤ) (more : Bool) :
    sumVals r [.inf a, .fin neg m e more] = (.inf a, 0) := by
  cases a <;> simp [sumVals, Val.isInf, Val.isNeg, Val.isNan]

section

variable {t : Fmt} {c : Ctx} {x y : ℕ} (ha : (t.read c.ftz x).isNan = false) (hb : (t.read c.ftz y).isNan = false)
  {v : Val} {f : FpFlags}

include ha hb

/-! Without a NaN the flags are those of the exact operation and of its rounding. -/

theorem add_of_sum (h : sumVals c.rnd [t.read c.ftz x, t.read c.ftz y] = (v, f)) : t.add c x y = t.finish c (v, f) := by
  simp only [Fmt.add, h, signals_of_not_nan ha hb, flags_or_zero]

theorem sub_of_sum (h : sumVals c.rnd [t.read c.ftz x, (t.read c.ftz y).negate] = (v, f)) :
    t.sub c x y = t.finish c (v, f) := by
  simp only [Fmt.sub, h, signals_of_not_nan ha ((isNan_negate _).trans hb), flags_or_zero]

theorem mul_of_product (h : (t.read c.ftz x).mul (t.read c.ftz y) = (v, f)) : t.mul c x y = t.finish c (v, f) := by
  simp only [Fmt.mul, h, signals_of_not_nan ha hb, flags_or_zero]

theorem div_of_quotient (h : (t.read c.ftz x).div (t.read c.ftz y) = (v, f)) : t.div c x y = t.finish c (v, f) := by
  simp only [Fmt.div, h, signals_of_not_nan ha hb, flags_or_zero]

end

section

variable {t : Fmt} (ht : t ∈ vectorFmts) {c : Ctx} {x y z : ℕ}

include ht

theorem binary_of_nan (h : (t.read c.ftz x).isNan = true ∨ (t.read c.ftz y).isNan = true) :
    let f := invalid ((t.read c.ftz x).isSignalling || (t.read c.ftz y).isSignalling)
    t.add c x y = (t.nan, f) ∧ t.sub c x y = (t.nan, f) ∧ t.mul c x y = (t.nan, f) ∧ t.div c x y = (t.nan, f) ∧
      t.pick c .less x y = (t.nan, f) ∧ t.pick c .more x y = (t.nan, f) := by
  intro f
  have hsub : sumVals c.rnd [t.read c.ftz x, (t.read c.ftz y).negate] = (.nan false, 0) :=
    sumVals_of_nan (by rwa [isNan_negate])
  have hpick (g : Val → Val → Val) : t.pick c g x y = (t.nan, f) := by
    simp only [Fmt.pick, Bool.or_eq_true, if_pos h, round_nan t (ne_f4_of_vector ht), signals_pair, f]
  refine ⟨?_, ?_, ?_, ?_, hpick _, hpick _⟩
  · simp only [Fmt.add, sumVals_of_nan h, flags_zero_or, finish_nan ht, signals_pair, f]
  · simp only [Fmt.sub, hsub, flags_zero_or, finish_nan ht, signals_pair, isSignalling_negate, f]
  · simp only [Fmt.mul, mul_of_nan h, flags_zero_or, finish_nan ht, signals_pair, f]
  · simp only [Fmt.div, div_of_nan h, flags_zero_or, finish_nan ht, signals_pair, f]

theorem sqrt_of_nan (h : (t.read c.ftz x).isNan = true) :
    t.sqrt c x = (t.nan, invalid (t.read c.ftz x).isSignalling) := by
  obtain ⟨q, hq⟩ := eq_nan_of_isNan h
  simp only [Fmt.sqrt, hq, Val.sqrt, flags_zero_or, finish_nan ht, signals_single]

theorem fma_of_nan (h : (t.read c.ftz x).isNan = true ∨ (t.read c.ftz y).isNan = true ∨ (t.read c.ftz z).isNan = true) :
    (t.fma c x y z).1 = t.nan := by
  have hsum : sumVals c.rnd [((t.read c.ftz x).mul (t.read c.ftz y)).1, t.read c.ftz z] = (.nan false, 0) := by
    rcases h with h | h | h
    · exact sumVals_of_nan (.inl (by rw [mul_of_nan (.inl h)]; rfl))
    · exact sumVals_of_nan (.inl (by rw [mul_of_nan (.inr h)]; rfl))
    · exact sumVals_of_nan (.inr h)
  simp only [Fmt.fma, hsum, finish_nan ht]

/-! ## Infinities and zeros -/

theorem mul_inf_zero (h : ((t.read c.ftz x).isInf = true ∧ (t.read c.ftz y).isZero = true) ∨
    ((t.read c.ftz x).isZero = true ∧ (t.read c.ftz y).isInf = true)) :
    t.mul c x y = (t.nan, FpFlags.nv) ∧ t.fma c x y z = (t.nan, FpFlags.nv) := by
  have hvals : (t.read c.ftz x).mul (t.read c.ftz y) = (.nan false, FpFlags.nv) ∧
      (t.read c.ftz x).isSignalling = false ∧ (t.read c.ftz y).isSignalling = false := by
    rcases h with ⟨ha, hb⟩ | ⟨ha, hb⟩
    · obtain ⟨e, hb⟩ := eq_fin_of_isZero hb
      rw [eq_inf_of_isInf ha, hb]
      exact ⟨rfl, rfl, rfl⟩
    · obtain ⟨e, ha⟩ := eq_fin_of_isZero ha
      rw [eq_inf_of_isInf hb, ha]
      exact ⟨rfl, rfl, rfl⟩
  obtain ⟨hmul, ha, hb⟩ := hvals
  have hd : FpFlags.nv ||| invalid (t.read c.ftz z).isSignalling = FpFlags.nv := by
    cases (t.read c.ftz z).isSignalling <;> rfl
  refine ⟨?_, ?_⟩
  · simp only [Fmt.mul, hmul, finish_nan ht, signals_pair, ha, hb]
    rfl
  · simp only [Fmt.fma, hmul, sumVals_of_nan (a := .nan false) (.inl rfl), finish_nan ht, signals, List.any_cons, ha, hb,
      List.any_nil, Bool.false_or, Bool.or_false, flags_zero_or, hd]

theorem add_of_opposite_inf (ha : (t.read c.ftz x).isInf = true) (hb : (t.read c.ftz y).isInf = true)
    (h : (t.read c.ftz x).isNeg ≠ (t.read c.ftz y).isNeg) : t.add c x y = (t.nan, FpFlags.nv) := by
  have hsum := sumVals_opposite_inf (r := c.rnd) h
  rw [← eq_inf_of_isInf ha, ← eq_inf_of_isInf hb] at hsum
  rw [add_of_sum (isNan_of_isInf ha) (isNan_of_isInf hb) hsum, finish_nan ht]

theorem sub_of_equal_inf (ha : (t.read c.ftz x).isInf = true) (hb : (t.read c.ftz y).isInf = true)
    (h : (t.read c.ftz x).isNeg = (t.read c.ftz y).isNeg) : t.sub c x y = (t.nan, FpFlags.nv) := by
  have hsum : sumVals c.rnd [t.read c.ftz x, (t.read c.ftz y).negate] = (.nan false, FpFlags.nv) := by
    rw [eq_inf_of_isInf ha, eq_inf_of_isInf hb]
    exact sumVals_opposite_inf (by simp [h])
  rw [sub_of_sum (isNan_of_isInf ha) (isNan_of_isInf hb) hsum, finish_nan ht]

theorem add_sub_inf_finite (ha : (t.read c.ftz x).isInf = true) (hb : Exact (t.read c.ftz y)) :
    t.add c x y = (t.infinity (t.read c.ftz x).isNeg, 0) ∧ t.sub c x y = (t.infinity (t.read c.ftz x).isNeg, 0) := by
  have hsum {v : Val} (hv : Exact v) : sumVals c.rnd [t.read c.ftz x, v] = (.inf (t.read c.ftz x).isNeg, 0) := by
    obtain ⟨neg, m, e, rfl⟩ := hv
    rw [eq_inf_of_isInf ha]
    exact sumVals_inf_fin _ _ _ _ _ _
  rw [add_of_sum (isNan_of_isInf ha) (isNan_of_exact hb) (hsum hb),
    sub_of_sum (isNan_of_isInf ha) (isNan_of_exact hb) (hsum (negate_of_exact hb).1), finish_inf ht]
  exact ⟨rfl, rfl⟩

theorem mul_inf_finite (ha : (t.read c.ftz x).isInf = true) (hb : Exact (t.read c.ftz y))
    (h0 : ¬(t.read c.ftz y).isZero = true) :
    t.mul c x y = (t.infinity ((t.read c.ftz x).isNeg != (t.read c.ftz y).isNeg), 0) := by
  have h : (t.read c.ftz x).mul (t.read c.ftz y) = (.inf ((t.read c.ftz x).isNeg != (t.read c.ftz y).isNeg), 0) := by
    obtain ⟨neg, m, e, hm⟩ := hb
    rw [hm] at h0
    rw [eq_inf_of_isInf ha, hm]
    simp [Val.mul, h0, Val.isNeg]
  rw [mul_of_product (isNan_of_isInf ha) (isNan_of_exact hb) h, finish_inf ht]

theorem div_inf_inf (ha : (t.read c.ftz x).isInf = true) (hb : (t.read c.ftz y).isInf = true) :
    t.div c x y = (t.nan, FpFlags.nv) := by
  have h : (t.read c.ftz x).div (t.read c.ftz y) = (.nan false, FpFlags.nv) := by
    rw [eq_inf_of_isInf ha, eq_inf_of_isInf hb, Val.div]
  rw [div_of_quotient (isNan_of_isInf ha) (isNan_of_isInf hb) h, finish_nan ht]

theorem div_zero_zero (ha : (t.read c.ftz x).isZero = true) (hb : (t.read c.ftz y).isZero = true) :
    t.div c x y = (t.nan, FpFlags.nv) := by
  have h : (t.read c.ftz x).div (t.read c.ftz y) = (.nan false, FpFlags.nv) := by
    obtain ⟨e, ha⟩ := eq_fin_of_isZero ha
    obtain ⟨f, hb⟩ := eq_fin_of_isZero hb
    rw [ha, hb]
    rfl
  rw [div_of_quotient (isNan_of_isZero ha) (isNan_of_isZero hb) h, finish_nan ht]

theorem div_finite_zero (ha : Exact (t.read c.ftz x)) (h0 : ¬(t.read c.ftz x).isZero = true)
    (hb : (t.read c.ftz y).isZero = true) :
    t.div c x y = (t.infinity ((t.read c.ftz x).isNeg != (t.read c.ftz y).isNeg), FpFlags.dz) := by
  have h : (t.read c.ftz x).div (t.read c.ftz y) =
      (.inf ((t.read c.ftz x).isNeg != (t.read c.ftz y).isNeg), FpFlags.dz) := by
    obtain ⟨f, hb⟩ := eq_fin_of_isZero hb
    obtain ⟨neg, m, e, hm⟩ := ha
    have hm0 : m ≠ 0 := by simpa [hm, Val.isZero] using h0
    rw [hb, hm]
    simp [Val.div, hm0, Val.isNeg]
  rw [div_of_quotient (isNan_of_exact ha) (isNan_of_isZero hb) h, finish_inf ht]

theorem div_finite_inf (ha : Exact (t.read c.ftz x)) (hb : (t.read c.ftz y).isInf = true) :
    (t.div c x y).1 = if (t.read c.ftz x).isNeg != (t.read c.ftz y).isNeg then 2 ^ t.mag else 0 := by
  have h : (t.read c.ftz x).div (t.read c.ftz y) = (.zero ((t.read c.ftz x).isNeg != (t.read c.ftz y).isNeg), 0) := by
    obtain ⟨neg, m, e, hm⟩ := ha
    rw [eq_inf_of_isInf hb, hm]
    rfl
  rw [div_of_quotient (isNan_of_exact ha) (isNan_of_isInf hb) h, finish_zero ht]

theorem sqrt_of_neg (hn : (t.read c.ftz x).isNeg = true) (h0 : ¬(t.read c.ftz x).isZero = true)
    (hnan : ¬(t.read c.ftz x).isNan = true) : t.sqrt c x = (t.nan, FpFlags.nv) := by
  have h : (t.read c.ftz x).sqrt = (.nan false, FpFlags.nv) := by
    rcases read_cases t c.ftz x with ⟨q, h⟩ | ⟨b, h⟩ | ⟨neg, m, e, h⟩
    · exact absurd (by rw [h]; rfl) hnan
    · rw [h] at hn ⊢
      rw [show b = true from hn]
      rfl
    · rw [h] at hn h0 ⊢
      have hm0 : m ≠ 0 := by simpa [Val.isZero] using h0
      rw [show neg = true from hn]
      simp [Val.sqrt, hm0]
  simp only [Fmt.sqrt, h, finish_nan ht, signals_single, isSignalling_of_not_nan (Bool.not_eq_true _ ▸ hnan)]
  rfl

end

end Sys2Proof.Machine

/-! PROOFS. The order of values, minimum and maximum, and comparisons (R313, R314, R316). -/

namespace Sys2Proof.Machine

open Sys2Proof Sys2Proof.Spec

/-! ## The order -/

theorem extOf_exact {v : Val} (h : Exact v) : extOf v = ((realOf v : ℝ) : EReal) := by
  obtain ⟨neg, m, e, rfl⟩ := h
  rfl

/-- A value that is no NaN: an infinity or an exact value. -/
def Val.IsNumber (v : Val) : Prop := (∃ b, v = .inf b) ∨ Exact v

theorem isNumber_read {t : Fmt} {ftz : Bool} {x : ℕ} (h : (t.read ftz x).isNan = false) : (t.read ftz x).IsNumber := by
  refine (read_cases t ftz x).resolve_left ?_
  rintro ⟨q, hq⟩
  rw [hq] at h
  cases h

theorem cmp_exact {a b : Val} (ha : Exact a) (hb : Exact b) : a.cmp b = compare (realOf a) (realOf b) := by
  obtain ⟨f, hf⟩ : ∃ f, f = (leastExp [a, b]).getD 0 := ⟨_, rfl⟩
  have hscaled {v : Val} (hv : Exact v) (hm : v ∈ [a, b]) : (v.scaled f : ℝ) * 2 ^ f = realOf v :=
    scaled_mul hv fun _ _ _ hv' => hf ▸ leastExp_le (hv' ▸ hm)
  have hmono : StrictMono fun n : ℤ => (n : ℝ) * 2 ^ f := fun m n hmn =>
    mul_lt_mul_of_pos_right (by exact_mod_cast hmn) (two_zpow_pos f)
  have hcmp : a.cmp b = compare (a.scaled f) (b.scaled f) := by
    obtain ⟨_, _, _, rfl⟩ := ha
    obtain ⟨_, _, _, rfl⟩ := hb
    rw [hf]
    rfl
  rw [hcmp, ← hscaled ha (by simp), ← hscaled hb (by simp), ← cmp_eq_compare, ← cmp_eq_compare]
  exact (hmono.cmp_map_eq _ _).symm

theorem cmp_eq_compare_extOf {a b : Val} (ha : a.IsNumber) (hb : b.IsNumber) :
    a.cmp b = compare (extOf a) (extOf b) := by
  have hcoe : StrictMono fun x : ℝ => (x : EReal) := EReal.coe_strictMono
  rw [← cmp_eq_compare]
  rcases ha with ⟨p, rfl⟩ | ha <;> rcases hb with ⟨q, rfl⟩ | hb
  · cases p <;> cases q <;> simp [Val.cmp, extOf, cmp, cmpUsing]
  · obtain ⟨neg, m, e, rfl⟩ := hb
    cases p <;> simp [Val.cmp, extOf, cmp, cmpUsing]
  · obtain ⟨neg, m, e, rfl⟩ := ha
    cases q <;> simp [Val.cmp, extOf, cmp, cmpUsing]
  · rw [cmp_exact ha hb, extOf_exact ha, extOf_exact hb, ← cmp_eq_compare]
    exact (hcoe.cmp_map_eq _ _).symm

/-! ## Minimum and maximum -/

theorem less_cases (a b : Val) : a.less b = a ∨ a.less b = b := by
  rw [Val.less]
  cases a.cmp b with
  | lt => exact .inl rfl
  | gt => exact .inr rfl
  | eq => exact ite_eq_or_eq _ _ _

theorem more_cases (a b : Val) : a.more b = a ∨ a.more b = b := by
  rw [Val.more]
  cases a.cmp b with
  | lt => exact .inr rfl
  | gt => exact .inl rfl
  | eq => exact (ite_eq_or_eq _ _ _).symm

section

variable {a b : Val} (ha : a.IsNumber) (hb : b.IsNumber)

include ha hb

theorem extOf_less : extOf (a.less b) = min (extOf a) (extOf b) := by
  rw [Val.less]
  cases hc : a.cmp b <;> rw [cmp_eq_compare_extOf ha hb] at hc
  · exact (min_eq_left (compare_lt_iff_lt.1 hc).le).symm
  · rw [compare_eq_iff_eq] at hc
    simp only
    split <;> simp [hc]
  · exact (min_eq_right (compare_gt_iff_gt.1 hc).le).symm

theorem extOf_more : extOf (a.more b) = max (extOf a) (extOf b) := by
  rw [Val.more]
  cases hc : a.cmp b <;> rw [cmp_eq_compare_extOf ha hb] at hc
  · exact (max_eq_right (compare_lt_iff_lt.1 hc).le).symm
  · rw [compare_eq_iff_eq] at hc
    simp only
    split <;> simp [hc]
  · exact (max_eq_left (compare_gt_iff_gt.1 hc).le).symm

/-- Of two zeros the lesser is the negative one. -/
theorem isNeg_of_zeros (hza : a.isZero = true) (hzb : b.isZero = true) :
    (a.less b).isNeg = (a.isNeg || b.isNeg) ∧ (a.more b).isNeg = (a.isNeg && b.isNeg) := by
  have hzero {v : Val} (h : v.isZero = true) : extOf v = 0 := by
    obtain ⟨e, h⟩ := eq_fin_of_isZero h
    rw [h, extOf_exact (exact_fin _ _ _), realOf_zero, EReal.coe_zero]
  have hc : a.cmp b = .eq := by
    rw [cmp_eq_compare_extOf ha hb, compare_eq_iff_eq, hzero hza, hzero hzb]
  simp only [Val.less, Val.more, hc]
  cases ha : a.isNeg <;> simp [ha]

end

theorem less_self (a : Val) : a.less a = a := (less_cases a a).elim id id

theorem more_self (a : Val) : a.more a = a := (more_cases a a).elim id id

/-! ## The rounding of a value that the format has -/

theorem lastPlace_of_onGrid {t : Fmt} {m : ℕ} {e : ℤ} (h : t.OnGrid m e) (hm : m ≠ 0) : t.lastPlace m e = e := by
  obtain ⟨hlow, hlt, hnormal⟩ := h
  have hlog : m.log2 ≤ t.man := Nat.lt_add_one_iff.1 ((Nat.log2_lt hm).2 hlt)
  rw [Fmt.lastPlace]
  rcases hnormal with hge | rfl
  · have : t.man ≤ m.log2 := (Nat.le_log2 hm).2 hge
    omega
  · omega

/-- Flushing changes no value that is not 0 afterwards. -/
theorem value_of_read_ne_zero {t : Fmt} {ftz : Bool} {x : ℕ} {neg : Bool} {m : ℕ} {e : ℤ}
    (h : t.read ftz x = .fin neg m e false) (h0 : realOf (t.read ftz x) ≠ 0) : t.value x = .fin neg m e false := by
  rw [Fmt.read] at h h0
  cases hv : t.value x with
  | nan q => simp [hv] at h
  | inf b => simp [hv] at h
  | fin b n f more =>
    simp only [hv] at h h0
    split at h
    next hflush => simp [hflush, Val.zero] at h0
    next hflush => exact h

section

variable {t : Fmt} (ht : t ∈ vectorFmts)

include ht

theorem code_le_top {x : ℕ} {neg : Bool} {m : ℕ} {e : ℤ} {more : Bool} (h : t.value x = .fin neg m e more) :
    t.code m e ≤ t.top := by
  obtain ⟨hspecial, -, -, hcode⟩ := Fmt.value_eq_fin h
  have hlt : bits x t.man t.exp < 2 ^ t.exp := Nat.mod_lt _ (by positivity)
  have hm : bits x 0 t.man < 2 ^ t.man := Nat.mod_lt _ (by positivity)
  have hne : bits x t.man t.exp ≠ 2 ^ t.exp - 1 := fun he => hspecial ⟨he, .inl (ieee_of_vector ht)⟩
  have htop := top_of_vector ht
  obtain ⟨k, hk⟩ : ∃ k, 2 ^ t.exp - 1 = bits x t.man t.exp + 1 + k := ⟨2 ^ t.exp - 1 - (bits x t.man t.exp + 1), by omega⟩
  rw [Fmt.code, hcode]
  rw [hk, add_mul, add_mul] at htop
  omega

/-- A finite value of the format that is not 0 is rounded to itself. -/
theorem value_round_fin {x : ℕ} {neg : Bool} {m : ℕ} {e : ℤ} {more : Bool} (h : t.value x = .fin neg m e more)
    (hm : m ≠ 0) (r : Rnd) (sat : Bool) : t.value (t.round r sat false (.fin neg m e false)).1 = .fin neg m e false := by
  obtain ⟨-, -, hgrid, -⟩ := Fmt.value_eq_fin h
  have htop := code_le_top ht h
  have hplace := lastPlace_of_onGrid hgrid hm
  have hkept : t.kept r neg m e false = (m, false) := by simp [Fmt.kept, hplace]
  have hrounded : t.Rounded m e := ⟨hgrid.low, hgrid.lt.le, hgrid.normal⟩
  rw [Fmt.round_fin (.inl (signed_of_vector ht)) hm (by rwa [hkept, hplace]), hkept, hplace,
    Fmt.place_of_le r sat neg false htop]
  exact value_code ht hgrid htop neg

theorem value_zero (neg : Bool) : t.value (if neg then 2 ^ t.mag else 0) = .fin neg 0 t.low false := by
  have hgrid : t.OnGrid 0 t.low := ⟨le_rfl, by positivity, .inr rfl⟩
  have hcode : t.code 0 t.low = 0 := hgrid.code_eq_zero_iff.2 rfl
  have h := value_code ht hgrid (by rw [hcode]; exact Nat.zero_le _) neg
  rw [hcode] at h
  simpa [Fmt.sign, signed_of_vector ht] using h

/-- What minimum and maximum deliver has the value and the sign of the operand. -/
theorem value_round_read {ftz : Bool} {x : ℕ} (h : (t.read ftz x).isNan = false) (r : Rnd) (sat : Bool) :
    extOf (t.value (t.round r sat false (t.read ftz x)).1) = extOf (t.read ftz x) ∧
      (t.value (t.round r sat false (t.read ftz x)).1).isNeg = (t.read ftz x).isNeg := by
  rcases isNumber_read h with ⟨b, hb⟩ | hexact
  · rw [hb, round_inf ht, value_infinity ht]
    exact ⟨rfl, rfl⟩
  · by_cases h0 : realOf (t.read ftz x) = 0
    · rw [round_exact_zero ht r sat false hexact h0, Fmt.zeroOut, value_zero ht, extOf_exact hexact, h0]
      exact ⟨by rw [extOf_exact (exact_fin _ _ _), realOf_zero], rfl⟩
    · obtain ⟨neg, m, e, hm⟩ := hexact
      have hvalue := value_of_read_ne_zero hm h0
      rw [hm, realOf_fin_eq_zero] at h0
      rw [hm, value_round_fin ht hvalue h0]
      exact ⟨rfl, rfl⟩

theorem pick_number {c : Ctx} {x y : ℕ} (ha : (t.read c.ftz x).isNan = false) (hb : (t.read c.ftz y).isNan = false)
    {f : Val → Val → Val} (hf : ∀ a b, f a b = a ∨ f a b = b) :
    extOf (t.value (t.pick c f x y).1) = extOf (f (t.read c.ftz x) (t.read c.ftz y)) ∧
      (t.value (t.pick c f x y).1).isNeg = (f (t.read c.ftz x) (t.read c.ftz y)).isNeg := by
  simp only [Fmt.pick, ha, hb, Bool.or_self, Bool.false_eq_true, if_false]
  rcases hf (t.read c.ftz x) (t.read c.ftz y) with h | h <;> rw [h]
  · exact value_round_read ht ha .rne false
  · exact value_round_read ht hb .rne false

theorem pickNum_of_nan_nan {c : Ctx} {x y : ℕ} (ha : (t.read c.ftz x).isNan = true) (hb : (t.read c.ftz y).isNan = true)
    (f : Val → Val → Val) : t.pickNum c f x y =
      (t.nan, invalid ((t.read c.ftz x).isSignalling || (t.read c.ftz y).isSignalling)) := by
  obtain ⟨q, hq⟩ := eq_nan_of_isNan hb
  simp only [Fmt.pickNum, ha, if_true, signals_pair]
  rw [hq, round_nan t (ne_f4_of_vector ht)]

end

section

variable {t : Fmt} {c : Ctx} {x y : ℕ} {f : Val → Val → Val}

theorem pickNum_of_numbers (ha : (t.read c.ftz x).isNan = false) (hb : (t.read c.ftz y).isNan = false) :
    t.pickNum c f x y = t.pick c f x y := by
  simp [Fmt.pickNum, Fmt.pick, ha, hb]

/-- A NaN operand counts as missing (R314). -/
theorem pickNum_of_nan_left (hf : ∀ a, f a a = a) (ha : (t.read c.ftz x).isNan = true)
    (hb : (t.read c.ftz y).isNan = false) :
    t.pickNum c f x y = ((t.pickNum c f y y).1, invalid (t.read c.ftz x).isSignalling) := by
  simp [Fmt.pickNum, ha, hb, hf, signals_pair, isSignalling_of_not_nan hb]

theorem pickNum_of_nan_right (hf : ∀ a, f a a = a) (ha : (t.read c.ftz x).isNan = false)
    (hb : (t.read c.ftz y).isNan = true) :
    t.pickNum c f x y = ((t.pickNum c f x x).1, invalid (t.read c.ftz y).isSignalling) := by
  simp [Fmt.pickNum, ha, hb, hf, signals_pair, isSignalling_of_not_nan ha]

end

/-- A statement about both functions. -/
theorem all_less_more {p : (Val → Val → Val) → Bool} (h : p Val.less = true) (h' : p Val.more = true) :
    [Val.less, Val.more].all p = true := by
  simp [h, h']

/-! ## Comparisons -/

section

variable {t : Fmt} {ftz : Bool} {x y : ℕ}

theorem compare_of_nan (h : ((t.read ftz x).isNan || (t.read ftz y).isNan) = true) :
    let f := invalid ((t.read ftz x).isSignalling || (t.read ftz y).isSignalling)
    ([FCond.lt, .le, .gt, .ge].all fun k => t.compare ftz k x y == (false, FpFlags.nv)) = true ∧
    ([FCond.eq, .ord].all fun k => t.compare ftz k x y == (false, f)) = true ∧
    ([FCond.ne, .un].all fun k => t.compare ftz k x y == (true, f)) = true := by
  simp only [Fmt.compare, h, if_true, signals_pair]
  simp [FCond.ordered]

theorem compare_of_numbers (h : ¬((t.read ftz x).isNan || (t.read ftz y).isNan) = true) :
    let a := t.read ftz x
    let b := t.read ftz y
    ((t.compare ftz .eq x y).1 ↔ extOf a = extOf b) ∧ ((t.compare ftz .ne x y).1 ↔ extOf a ≠ extOf b) ∧
    ((t.compare ftz .lt x y).1 ↔ extOf a < extOf b) ∧ ((t.compare ftz .le x y).1 ↔ extOf a ≤ extOf b) ∧
    ((t.compare ftz .gt x y).1 ↔ extOf a > extOf b) ∧ ((t.compare ftz .ge x y).1 ↔ extOf a ≥ extOf b) ∧
    (t.compare ftz .un x y).1 = false ∧ (t.compare ftz .ord x y).1 = true ∧
    ([FCond.eq, .ne, .lt, .le, .gt, .ge, .un, .ord].all fun k => (t.compare ftz k x y).2 == 0) = true := by
  intro a b
  have hnan : a.isNan = false ∧ b.isNan = false := by simpa using h
  have hcmp : a.cmp b = compare (extOf a) (extOf b) :=
    cmp_eq_compare_extOf (isNumber_read hnan.1) (isNumber_read hnan.2)
  have hlt : a.cmp b = .lt ↔ extOf a < extOf b := by rw [hcmp, compare_lt_iff_lt]
  have heq : a.cmp b = .eq ↔ extOf a = extOf b := by rw [hcmp, compare_eq_iff_eq]
  have hgt : a.cmp b = .gt ↔ extOf b < extOf a := by rw [hcmp, compare_gt_iff_gt]
  have hflag : ((t.read ftz x).isNan || (t.read ftz y).isNan) = false := Bool.not_eq_true _ ▸ h
  simp only [Fmt.compare, hflag, Bool.false_eq_true, if_false]
  refine ⟨?_, ?_, ?_, ?_, ?_, ?_, trivial, trivial, by simp⟩
  · rw [beq_iff_eq, heq]
  · rw [bne_iff_ne, Ne, heq]
  · rw [beq_iff_eq, hlt]
  · rw [bne_iff_ne, Ne, hgt, not_lt]
  · rw [beq_iff_eq, hgt]
  · rw [bne_iff_ne, Ne, hlt, not_lt]

end

end Sys2Proof.Machine

/-! PROOFS. The functions of R183 on NaNs, infinities, zeros and where they are exact (R174, R183, Table 8-4). -/

namespace Sys2Proof.Machine

open Sys2Proof Sys2Proof.Spec

theorem f32_mem : Fmt.f32 ∈ vectorFmts := by simp [vectorFmts]

theorem fpx_of_nan (ftz : Bool) {v : Val} (h : v.isNan = true) :
    ([Fpx.sqrt, .rcp, .rsq, .exp2, .log2, .sinpi, .cospi, .tanh].all fun f =>
      f.eval ftz v == (0x7FC00000, invalid v.isSignalling)) = true := by
  obtain ⟨q, rfl⟩ := eq_nan_of_isNan h
  cases ftz <;> cases q <;> decide

theorem fpx_of_zero (ftz : Bool) {v : Val} (h : v.isZero = true) :
    Fpx.rcp.eval ftz v = (if v.isNeg then 0xFF800000 else 0x7F800000, FpFlags.dz) ∧
    Fpx.rsq.eval ftz v = (if v.isNeg then 0xFF800000 else 0x7F800000, FpFlags.dz) ∧
    Fpx.log2.eval ftz v = (0xFF800000, FpFlags.dz) ∧
    Fpx.sqrt.eval ftz v = (if v.isNeg then 0x80000000 else 0, 0) ∧
    Fpx.tanh.eval ftz v = (if v.isNeg then 0x80000000 else 0, 0) ∧
    Fpx.exp2.eval ftz v = (0x3F800000, 0) := by
  obtain ⟨neg, e, rfl⟩ : ∃ neg e, v = .fin neg 0 e false := ⟨_, eq_fin_of_isZero h⟩
  have hs : signals [.fin neg 0 e false] = 0 := rfl
  have hdiv : f32One.div (.fin neg 0 e false) = (.inf neg, FpFlags.dz) := by simp [f32One, Val.div]
  simp only [Fpx.eval, Val.isNeg, Val.sqrt, Val.rsqrt, hdiv, beq_self_eq_true, if_true, hs, flags_or_zero,
    finish_zero f32_mem, finish_inf f32_mem]
  refine ⟨?_, ?_, rfl, rfl, ?_, ?_⟩
  · cases neg <;> rfl
  · cases neg <;> rfl
  · cases neg <;> rfl
  · cases ftz <;> rfl

theorem fpx_of_neg (ftz : Bool) {v : Val} (hv : v.IsNumber) (hn : v.isNeg = true) (h0 : ¬v.isZero = true) :
    Fpx.sqrt.eval ftz v = (0x7FC00000, FpFlags.nv) ∧ Fpx.rsq.eval ftz v = (0x7FC00000, FpFlags.nv) ∧
    Fpx.log2.eval ftz v = (0x7FC00000, FpFlags.nv) := by
  rcases hv with ⟨b, rfl⟩ | ⟨neg, m, e, rfl⟩
  · obtain rfl : b = true := hn
    cases ftz <;> exact ⟨rfl, rfl, rfl⟩
  · obtain rfl : neg = true := hn
    have hm : (m == 0) = false := by simpa [Val.isZero] using h0
    have hs : signals [.fin true m e false] = 0 := rfl
    simp only [Fpx.eval, Val.sqrt, Val.rsqrt, hm, Bool.false_eq_true, if_false, if_true, hs, flags_or_zero,
      finish_nan f32_mem]
    exact ⟨rfl, rfl, rfl⟩

theorem fpx_of_inf (ftz : Bool) {v : Val} (h : v.isInf = true) :
    Fpx.rcp.eval ftz v = (if v.isNeg then 0x80000000 else 0, 0) ∧
    Fpx.exp2.eval ftz v = (if v.isNeg then 0 else 0x7F800000, 0) ∧
    Fpx.sinpi.eval ftz v = (0x7FC00000, FpFlags.nv) ∧ Fpx.cospi.eval ftz v = (0x7FC00000, FpFlags.nv) ∧
    Fpx.tanh.eval ftz v = (if v.isNeg then 0xBF800000 else 0x3F800000, 0) ∧
    (¬v.isNeg = true → Fpx.rsq.eval ftz v = (0, 0)) := by
  obtain ⟨neg, rfl⟩ : ∃ neg, v = .inf neg := ⟨_, eq_inf_of_isInf h⟩
  cases ftz <;> cases neg <;> exact ⟨rfl, rfl, rfl, rfl, rfl, by decide⟩

/-! ## Integers and halves -/

theorem magnitude_of_integer {neg : Bool} {m : ℕ} {e n : ℤ} (h : realOf (.fin neg m e false) = n) :
    (m : ℝ) * 2 ^ e = n.natAbs := by
  rw [realOf_fin] at h
  rw [← abs_signOf_mul (by positivity : (0 : ℝ) ≤ m * 2 ^ e) neg, h, Nat.cast_natAbs]
  norm_cast

theorem numerator_of_integer {neg : Bool} {m k : ℕ} {n : ℤ} (h : realOf (.fin neg m (-k) false) = n) :
    m = n.natAbs * 2 ^ k := by
  have hm := magnitude_of_integer h
  rw [zpow_neg, zpow_natCast, ← div_eq_mul_inv, div_eq_iff (by positivity)] at hm
  exact_mod_cast hm

/-- `isMultiple` recognises the values that are integers. -/
theorem isMultiple_iff {neg : Bool} {m : ℕ} {e : ℤ} :
    isMultiple m e = true ↔ ∃ n : ℤ, realOf (.fin neg m e false) = n := by
  rcases le_or_gt 0 e with he | he
  · obtain ⟨k, rfl⟩ := Int.eq_ofNat_of_zero_le he
    refine iff_of_true (by simp [isMultiple]) ⟨signedInt neg (m * 2 ^ k), ?_⟩
    rw [realOf_fin, cast_signedInt, zpow_natCast]
    push_cast
    rfl
  · obtain ⟨k, hk⟩ := Int.eq_ofNat_of_zero_le (show 0 ≤ -e by omega)
    obtain rfl : e = -k := by omega
    simp only [isMultiple, he.not_ge, decide_false, Bool.false_or, beq_iff_eq, neg_neg, Int.toNat_natCast]
    refine ⟨fun h => ?_, fun ⟨n, hn⟩ => ?_⟩
    · obtain ⟨j, rfl⟩ := Nat.dvd_of_mod_eq_zero h
      refine ⟨signedInt neg j, ?_⟩
      rw [realOf_fin, cast_signedInt, zpow_neg, zpow_natCast]
      push_cast
      field_simp
    · rw [numerator_of_integer hn]
      exact Nat.mul_mod_left _ _

/-- `fixOf` gives the magnitude of a value that is an integer. -/
theorem fixOf_of_integer {neg : Bool} {m : ℕ} {e n : ℤ} (h : realOf (.fin neg m e false) = n) :
    fixOf 0 m e = n.natAbs := by
  rcases le_or_gt 0 e with he | he
  · obtain ⟨k, rfl⟩ := Int.eq_ofNat_of_zero_le he
    have hm := magnitude_of_integer h
    rw [zpow_natCast] at hm
    have hm : m * 2 ^ k = n.natAbs := by exact_mod_cast hm
    simp [fixOf, hm]
  · obtain ⟨k, hk⟩ := Int.eq_ofNat_of_zero_le (show 0 ≤ -e by omega)
    obtain rfl : e = -k := by omega
    have hm : m / 2 ^ k = n.natAbs := by
      rw [numerator_of_integer h, Nat.mul_div_cancel _ (Nat.two_pow_pos k)]
    simp only [fixOf, Nat.cast_zero, zero_add, if_neg he.not_ge, neg_neg, Int.toNat_natCast, hm]

theorem fpx_of_integer (ftz : Bool) {v : Val} (hv : Exact v) {n : ℤ} (h : realOf v = n) :
    Fpx.sinpi.eval ftz v = (if v.isNeg then 0x80000000 else 0, 0) ∧
    Fpx.cospi.eval ftz v = (if n % 2 = 0 then 0x3F800000 else 0xBF800000, 0) := by
  obtain ⟨neg, m, e, rfl⟩ := hv
  have hmul := isMultiple_iff.2 ⟨n, h⟩
  simp only [Fpx.eval, Val.isNeg, hmul, if_true, fixOf_of_integer h]
  refine ⟨by cases neg <;> rfl, ?_⟩
  by_cases hn : n % 2 = 0
  · have hodd : ((n.natAbs : ℤ) % 2 == 1) = false := beq_eq_false_iff_ne.2 (by omega)
    rw [if_pos hn, hodd]
    cases ftz <;> rfl
  · have hodd : ((n.natAbs : ℤ) % 2 == 1) = true := beq_iff_eq.2 (by omega)
    rw [if_neg hn, hodd]
    cases ftz <;> rfl

theorem cospi_of_half (ftz : Bool) {v : Val} (hv : Exact v) {n : ℤ} (h : realOf v = n + 1 / 2) :
    Fpx.cospi.eval ftz v = (0, 0) := by
  obtain ⟨neg, m, e, rfl⟩ := hv
  have hnot : ¬isMultiple m e = true := fun hmul => by
    obtain ⟨k, hk⟩ := (isMultiple_iff (neg := neg)).1 hmul
    have : (2 * k : ℝ) = 2 * n + 1 := by linarith
    have : 2 * k = 2 * n + 1 := by exact_mod_cast this
    omega
  have hdouble : isMultiple m (e + 1) = true := by
    refine (isMultiple_iff (neg := neg)).2 ⟨2 * n + 1, ?_⟩
    rw [realOf_fin] at h ⊢
    rw [zpow_add_one₀ two_ne_zero]
    push_cast
    linarith
  simp only [Fpx.eval, if_neg hnot, if_pos hdouble]

/-! ## Large arguments of EXP2 -/

theorem exp2_of_large (ftz : Bool) {v : Val} (hv : Exact v) (h : 256 ≤ realOf v) :
    Fpx.exp2.eval ftz v = (0x7F800000, FpFlags.of ||| FpFlags.nx) := by
  have hneg : v.isNeg = false := by
    have := (isNeg_iff_of_exact hv (by linarith)).not.2 (by linarith)
    simpa using this
  obtain ⟨neg, m, e, rfl⟩ := hv
  obtain rfl : neg = false := hneg
  rw [realOf_fin, signOf_false, one_mul] at h
  have hm : (m == 0) = false := by
    rw [beq_eq_false_iff_ne]
    rintro rfl
    norm_num at h
  have hlarge : 8 ≤ e + (m.log2 : ℤ) := by
    have hlt : (m : ℝ) < 2 ^ ((m.log2 + 1 : ℕ) : ℤ) := by
      rw [zpow_natCast]
      exact_mod_cast Nat.lt_log2_self
    have : (2 : ℝ) ^ (8 : ℤ) < 2 ^ (((m.log2 + 1 : ℕ) : ℤ) + e) := by
      rw [zpow_add₀ two_ne_zero]
      calc (2 : ℝ) ^ (8 : ℤ)
        _ = 256 := by norm_num
        _ ≤ m * 2 ^ e := h
        _ < 2 ^ ((m.log2 + 1 : ℕ) : ℤ) * 2 ^ e := mul_lt_mul_of_pos_right hlt (two_zpow_pos e)
    have := (zpow_lt_zpow_iff_right₀ one_lt_two).1 this
    push_cast at this
    omega
  simp only [Fpx.eval, hm, Bool.false_eq_true, if_false, if_pos hlarge]
  cases ftz <;> rfl

/-! ## The statement -/

theorem specialOperands : SpecialOperands := by
  refine ⟨?arithmetic, ?comparisons, ?functions⟩
  case functions =>
    intro ftz x a
    exact ⟨fpx_of_nan ftz, fpx_of_zero ftz,
      fun hn h0 hnan => fpx_of_neg ftz (isNumber_read (Bool.not_eq_true _ ▸ hnan)) hn h0, fpx_of_inf ftz,
      fun h _ hn => fpx_of_integer ftz h hn, fun h _ hn => cospi_of_half ftz h hn, exp2_of_large ftz⟩
  case comparisons =>
    intro t ftz x y a b nv
    by_cases h : (a.isNan || b.isNan) = true
    · rw [if_pos h]
      exact compare_of_nan h
    · rw [if_neg h]
      exact compare_of_numbers h
  case arithmetic =>
    intro t ht c x y z a b d nv
    have hnot {v : Val} (h : ¬v.isNan = true) : v.isNan = false := Bool.not_eq_true _ ▸ h
    refine ⟨binary_of_nan ht, sqrt_of_nan ht, fma_of_nan ht, mul_inf_zero ht, add_of_opposite_inf ht, sub_of_equal_inf ht,
      div_inf_inf ht, div_zero_zero ht, div_finite_zero ht, div_finite_inf ht, add_sub_inf_finite ht, mul_inf_finite ht,
      sqrt_of_neg ht, fun ha hb => ?nan_left, fun ha hb => ?nan_right, fun ha hb => ?nan_both, fun ha hb => ?numbers⟩
    case nan_left =>
      exact all_less_more (beq_iff_eq.2 (pickNum_of_nan_left less_self ha (hnot hb)))
        (beq_iff_eq.2 (pickNum_of_nan_left more_self ha (hnot hb)))
    case nan_right =>
      exact all_less_more (beq_iff_eq.2 (pickNum_of_nan_right less_self (hnot ha) hb))
        (beq_iff_eq.2 (pickNum_of_nan_right more_self (hnot ha) hb))
    case nan_both =>
      exact all_less_more (beq_iff_eq.2 (pickNum_of_nan_nan ht ha hb Val.less))
        (beq_iff_eq.2 (pickNum_of_nan_nan ht ha hb Val.more))
    case numbers =>
      have hna := isNumber_read (hnot ha)
      have hnb := isNumber_read (hnot hb)
      obtain ⟨hless, hlessNeg⟩ := pick_number ht (hnot ha) (hnot hb) less_cases
      obtain ⟨hmore, hmoreNeg⟩ := pick_number ht (hnot ha) (hnot hb) more_cases
      refine ⟨hless.trans (extOf_less hna hnb), hmore.trans (extOf_more hna hnb), pickNum_of_numbers (hnot ha) (hnot hb),
        pickNum_of_numbers (hnot ha) (hnot hb), fun hza hzb => ?_⟩
      obtain ⟨hl, hm⟩ := isNeg_of_zeros hna hnb hza hzb
      exact ⟨hlessNeg.trans hl, hmoreNeg.trans hm⟩

/-- Settles O12: it holds. The outcomes of a rounding give the ends and the flushing; the special operands go by the kinds of
the values that are read. -/
theorem narrowFormatsFlushingAndSpecialOperands : Obligations.NarrowFormatsFlushingAndSpecialOperands :=
  ⟨narrowFormatEnds, flushingOfSubnormals, specialOperands⟩

end Sys2Proof.Machine
